-- ==== Sys2Proof/Word.lean ====
section
/-! DEFINITION. The word types of the Yunatan 40 and their plainest arithmetic (R1, R3, R22). -/

namespace Sys2Proof

/-- A byte of memory. -/
abbrev Byte := BitVec 8
/-- An instruction or literal word (R92). -/
abbrev Word := BitVec 32
/-- A 64-bit register or address. -/
abbrev Word64 := BitVec 64
/-- An operand code of the 7-bit operand space (R22). -/
abbrev Code := BitVec 7
/-- A significance tag (R39). -/
abbrev Tag := BitVec 6
/-- A set of the 32 lanes of a wave; bit i is lane i (R30). -/
abbrev Lanes := BitVec 32

/-- The 32 lane numbers in ascending order. -/
def laneList : List Nat := List.range 32

/-- The lane set that holds every lane below `n`. -/
def lanesBelow (n : Nat) : Lanes := BitVec.ofNat 32 (2 ^ (min n 32) - 1)

/-- The lane set of one lane. -/
def laneBit (i : Nat) : Lanes := BitVec.ofNat 32 (2 ^ i)

/-- The lanes of a set, ascending. -/
def lanesOf (m : Lanes) : List Nat := laneList.filter fun i => m.getLsbD i

/-- The lowest lane of a set, or 32 when it is empty. -/
def lowestLane (m : Lanes) : Nat := (lanesOf m).headD 32

/-- The number of lanes of a set. -/
def laneCount (m : Lanes) : Nat := (lanesOf m).length

end Sys2Proof
end

