-- ==== Sys2Proof/Syntax.lean ====
section
/-! DEFINITION. The instruction set as syntax: one constructor for every row of the opcode table. The encoded forms
carry the fields of their words, the stall count `w` included (R92, R93); the device's events carry what the outside
or the device's own agents bring to them. -/

namespace Sys2Proof

/-- The B operand of a format A form (R22, R97): an operand code, or the literal word that follows the instruction. -/
inductive Src where
  | reg (c : Code)
  | lit (x : BitVec 32)
  deriving DecidableEq, Repr

/-- The ORD field (R189): plain 0, acquire 1, release 2, acquire-release 3. -/
inductive Ord where
  | plain | acq | rel | ar
  deriving DecidableEq, Repr

/-- The conditions of ICMP (R148). -/
inductive IntCond where
  | eq | ne | lt | le | gt | ge
  deriving DecidableEq, Repr

/-- The conditions of FCMP (R102): those of ICMP, then unordered and ordered. -/
inductive FloatCond where
  | eq | ne | lt | le | gt | ge | un | ord
  deriving DecidableEq, Repr

/-- The sub-operations of WRED and WSCAN (R102). -/
inductive RedOp where
  | add | min | max | and | or | xor
  deriving DecidableEq, Repr

/-- A post page (R320): a context's, or a partition's driver page. -/
inductive PostPage where
  | context (asid : Nat)
  | driver (partition : Nat)
  deriving DecidableEq, Repr

/-- An external agent (R323): a host hardware thread or device on a CXL port, or a UALink peer by its endpoint. -/
inductive Agent where
  | host (port : Nat)
  | peer (endpoint : Nat)
  deriving DecidableEq, Repr

/-- The read-modify-writes that a UALink peer may carry (R394). -/
inductive LinkAtomic where
  | add | minS | maxS | minU | maxU | and | or | xor | exch
  deriving DecidableEq, Repr

/-- An external agent's access to memory (R325, R394). -/
inductive ExtAccess where
  | read (size : Nat)
  | write (bytes : List Byte)
  | atomic (op : LinkAtomic) (size : Nat) (value : BitVec 64)
  | cas (size : Nat) (compare swap : BitVec 64)
  deriving DecidableEq, Repr

/-- What the driver gives Dibor to create a context (R399). -/
structure ContextSpec where
  asid : Nat
  pasid : Nat
  group : Nat
  groupLog2 : Nat
  ptroot : BitVec 64
  spillBase : BitVec 64
  spillSize : BitVec 32
  spillSlots : BitVec 32
  sigTab : BitVec 64
  svcCh : BitVec 64
  deriving DecidableEq, Repr

/-- What a pre-emption request names (R407). -/
inductive PreemptTarget where
  | context (asid : Nat)
  | group (first : Nat)
  deriving DecidableEq, Repr

/-- Where an uncorrectable error struck (R424). -/
inductive ErrorSite where
  /-- stored data: the bytes at a physical address are poisoned -/
  | memory (pa size : Nat)
  /-- scratchpad or FIFO bytes of a core -/
  | sram (core off size : Nat)
  /-- state that a block owns -/
  | block (core block : Nat)
  /-- a cached line holding the block's uncommitted stores -/
  | heldLine (core block : Nat)
  /-- the Darner's own state -/
  | darner (core : Nat)
  /-- a program core's logic -/
  | coreLogic (core : Nat)
  /-- a spare bank being copied to (R442) -/
  | spare (stack pseudo : Nat)
  /-- words of a core's L1 lines, by physical address (R422) -/
  | l1Line (core pa size : Nat)
  /-- a request on the on-die network that completes with poison after its retries (R422): that of some lanes of a fragment's
  oldest load in flight, with the address that FLT.INFO takes -/
  | loadRequest (core block wave frag : Nat) (lanes : Lanes) (addr : BitVec 64)
  /-- that of some lanes of a posted store, by its number in its wave -/
  | storeRequest (core block wave ident : Nat) (lanes : Lanes)
  /-- that of an engine operation, with the address that its INFO takes -/
  | engineRequest (core block slot : Nat) (addr : BitVec 64)
  /-- that of a fragment's instruction fetch -/
  | fetchRequest (core block wave frag : Nat)
  deriving DecidableEq, Repr

/-- A firmware image as the boot ROM meets it (R447): which of its checks pass, and its security version. -/
structure BootImage where
  hashOk : Bool
  signatureOk : Bool
  version : Nat
  deriving DecidableEq, Repr

/-- The instructions and events of the opcode table, one constructor per row. An event without arguments is the device's
own: which core, block, wave, fragment, queue or operation it concerns stands in the state's subject, which the turn
that raises the event sets. -/
inductive Instr where
  /-- NOP (R139). Does nothing; the fragment advances to PC + 4 and the word's stall count applies. -/
  | nop (w : BitVec 3)
  /-- MODE (R125). Writes one field group of MODE, selected by D, from IMM14. -/
  | mode (w g : BitVec 3) (v : BitVec 14)
  /-- MODEW (R126). Writes the whole of MODE from an s- or c-register. -/
  | modew (w : BitVec 3) (a : Code)
  /-- BRA (R127). Moves the whole fragment to PC + 4 + 4 × OFF21 unconditionally. -/
  | bra (w : BitVec 3) (o : BitVec 21)
  /-- BRZ (R127). Branches the whole fragment when the named s-register is zero. -/
  | brz (w : BitVec 3) (s : Code) (o : BitVec 14)
  /-- BNZ (R127). Branches the whole fragment when the named s-register is non-zero. -/
  | bnz (w : BitVec 3) (s : Code) (o : BitVec 14)
  /-- BRP (R130). Branches the lanes of ACTIVE, splitting the fragment when they are not all of its members. -/
  | brp (w : BitVec 3) (o : BitVec 21)
  /-- JMPI (R128). Jumps to a 64-bit address held in a register, faulting 0x04 if it is misaligned. -/
  | jmpi (w : BitVec 3) (a : Code)
  /-- CALL (R136). Slides each member's window by F, writes the link into s31 and jumps to a PC-relative target. -/
  | call (w : BitVec 3) (f : BitVec 7) (o : BitVec 14)
  /-- CALLI (R136). Slides the window by F, writes the link and jumps to a target held in a register. -/
  | calli (w : BitVec 3) (a : Code) (f : BitVec 7)
  /-- RET (R137). Restores the caller's window base from the link in s31 and returns to its address. -/
  | ret (w : BitVec 3)
  /-- RCV (R132). Puts the fragment in the state of waiting at reconvergence at this PC. -/
  | rcv (w : BitVec 3)
  /-- EXIT (R138). Ends the threads of ACTIVE, and the fragment and wave when no members remain. -/
  | exit (w : BitVec 3)
  /-- YIELD (R139). Advances PC and gives the active-set slot to a ready pending fragment if one waits. -/
  | yield (w : BitVec 3)
  /-- SIGBR (R131). Branches the lanes whose operand tag is below MODE.SIGMIN, splitting the fragment as needed. -/
  | sigbr (w : BitVec 3) (x : Code) (o : BitVec 14)
  /-- LOOP (R127). Decrements an s-register and branches the whole fragment while the decremented value is non-zero. -/
  | loop (w : BitVec 3) (s : Code) (o : BitVec 14)
  /-- PSET (R140). Sets a predicate in each ACTIVE lane to whether the operand's bits are non-zero. -/
  | pset (w p : BitVec 3) (a : Code)
  /-- PAND (R141). Writes the AND of two predicates to a predicate in each ACTIVE lane. -/
  | pand (w d a b : BitVec 3)
  /-- POR (R141). Writes the OR of two predicates to a predicate in each ACTIVE lane. -/
  | por (w d a b : BitVec 3)
  /-- PXOR (R141). Writes the XOR of two predicates to a predicate in each ACTIVE lane. -/
  | pxor (w d a b : BitVec 3)
  /-- PNOT (R141). Writes the negation of a predicate to a predicate in each ACTIVE lane. -/
  | pnot (w d a : BitVec 3)
  /-- PMOV (R141). Copies a predicate to a predicate in each ACTIVE lane. -/
  | pmov (w d a : BitVec 3)
  /-- MOV (R142). Copies a value with its tag at the width of TYPE. -/
  | mov (w : BitVec 3) (d a : Code)
  /-- SEL (R143). Writes A where the guard holds and B where it does not, in every EXEC lane. -/
  | sel (w : BitVec 3) (d a : Code) (b : Src)
  /-- LIT (R145). Writes one literal word, widened by TYPE, to the destination. -/
  | lit (w : BitVec 3) (d : Code) (v : BitVec 32)
  /-- LIT_WIDE (R145). Writes a 64-bit value from two literal words to an s-register or even v-register pair. -/
  | litWide (w : BitVec 3) (d : Code) (v : BitVec 64)
  /-- MOVI (R144). Writes a sign-extended 16-bit immediate, converted to TYPE. -/
  | movi (w : BitVec 3) (d : Code) (v : BitVec 16)
  /-- IADD_A (R146). Integer addition modulo 2^n with a register or literal operand. -/
  | iaddA (w : BitVec 3) (d a : Code) (b : Src)
  /-- IADD_B (R146). Integer addition of a signed 7-bit immediate. -/
  | iaddB (w : BitVec 3) (d a : Code) (i : BitVec 7)
  /-- ISUB (R146). Integer subtraction modulo 2^n. -/
  | isub (w : BitVec 3) (d a : Code) (b : Src)
  /-- IMUL (R146). Low n bits of the integer product. -/
  | imul (w : BitVec 3) (d a : Code) (b : Src)
  /-- IMULH (R146). High n bits of the exact 2n-bit integer product. -/
  | imulh (w : BitVec 3) (d a : Code) (b : Src)
  /-- IMAD (R146). Integer a × b + d with D read first. -/
  | imad (w : BitVec 3) (d a : Code) (b : Src)
  /-- IADDC (R146). Writes the carry out of the unsigned n-bit sum. -/
  | iaddc (w : BitVec 3) (d a : Code) (b : Src)
  /-- INEG (R146). Integer negation. -/
  | ineg (w : BitVec 3) (d a : Code)
  /-- IABS (R146). Integer absolute value when signed. -/
  | iabs (w : BitVec 3) (d a : Code)
  /-- IMIN (R146). Lesser of two integers, signed or unsigned by IT. -/
  | imin (w : BitVec 3) (d a : Code) (b : Src)
  /-- IMAX (R146). Greater of two integers, signed or unsigned by IT. -/
  | imax (w : BitVec 3) (d a : Code) (b : Src)
  /-- SHL_A (R146). Shift left by a register amount mod n. -/
  | shlA (w : BitVec 3) (d a : Code) (b : Src)
  /-- SHL_B (R146). Shift left by an immediate amount mod n. -/
  | shlB (w : BitVec 3) (d a : Code) (i : BitVec 7)
  /-- SHR_A (R146). Logical shift right by a register amount. -/
  | shrA (w : BitVec 3) (d a : Code) (b : Src)
  /-- SHR_B (R146). Logical shift right by an immediate amount. -/
  | shrB (w : BitVec 3) (d a : Code) (i : BitVec 7)
  /-- SAR_A (R146). Arithmetic shift right by a register amount. -/
  | sarA (w : BitVec 3) (d a : Code) (b : Src)
  /-- SAR_B (R146). Arithmetic shift right by an immediate amount. -/
  | sarB (w : BitVec 3) (d a : Code) (i : BitVec 7)
  /-- ROT (R146). Rotate left by an amount mod n. -/
  | rot (w : BitVec 3) (d a : Code) (b : Src)
  /-- AND_A (R146). Bitwise AND with a register or literal operand. -/
  | andA (w : BitVec 3) (d a : Code) (b : Src)
  /-- AND_B (R146). Bitwise AND with a signed 7-bit immediate. -/
  | andB (w : BitVec 3) (d a : Code) (i : BitVec 7)
  /-- OR (R146). Bitwise OR. -/
  | or (w : BitVec 3) (d a : Code) (b : Src)
  /-- XOR (R146). Bitwise exclusive OR. -/
  | xor (w : BitVec 3) (d a : Code) (b : Src)
  /-- ANDN (R146). Bitwise a AND NOT b. -/
  | andn (w : BitVec 3) (d a : Code) (b : Src)
  /-- CLZ (R146). Counts leading zeros of the n-bit pattern. -/
  | clz (w : BitVec 3) (d a : Code)
  /-- POPC (R146). Counts ones in the n-bit pattern. -/
  | popc (w : BitVec 3) (d a : Code)
  /-- BREV (R146). Reverses the n-bit pattern. -/
  | brev (w : BitVec 3) (d a : Code)
  /-- BFX (R147). Extracts a bit field given by position and length, sign- or zero-extended. -/
  | bfx (w : BitVec 3) (d a : Code) (b : Src)
  /-- BFI (R147). Inserts a bit field into the destination, keeping its other bits. -/
  | bfi (w : BitVec 3) (d a : Code) (b : Src)
  /-- ICMP_A (R148). Compares two integers by a condition and writes a predicate per ACTIVE lane. -/
  | icmpA (w : BitVec 3) (c : IntCond) (p : BitVec 3) (a : Code) (b : Src)
  /-- ICMP_B (R148). Compares an integer with a 7-bit immediate and writes a predicate. -/
  | icmpB (w : BitVec 3) (c : IntCond) (p : BitVec 3) (a : Code) (i : BitVec 7)
  /-- ADDR (R149). Forms a 64-bit address from a base and an index scaled by the TYPE size. -/
  | addr (w : BitVec 3) (d a : Code) (b : Src)
  /-- CVTI (R150). Converts between integer types, exactly or by saturation. -/
  | cvti (w : BitVec 3) (d a : Code) (t : BitVec 4)
  /-- FADD (R155). Correctly rounded floating-point addition. -/
  | fadd (w : BitVec 3) (d a : Code) (b : Src)
  /-- FSUB (R155). Correctly rounded floating-point subtraction. -/
  | fsub (w : BitVec 3) (d a : Code) (b : Src)
  /-- FMUL (R155). Correctly rounded floating-point multiplication. -/
  | fmul (w : BitVec 3) (d a : Code) (b : Src)
  /-- FFMA (R155). Fused a × b + d with one rounding. -/
  | ffma (w : BitVec 3) (d a : Code) (b : Src)
  /-- FFMS (R155). Fused a × b − d with one rounding. -/
  | ffms (w : BitVec 3) (d a : Code) (b : Src)
  /-- FDIV (R155). Correctly rounded floating-point division. -/
  | fdiv (w : BitVec 3) (d a : Code) (b : Src)
  /-- FSQRT (R155). Correctly rounded square root. -/
  | fsqrt (w : BitVec 3) (d a : Code)
  /-- FRCP (R156). Reciprocal rounded toward zero. -/
  | frcp (w : BitVec 3) (d a : Code)
  /-- FRSQ (R156). Reciprocal square root rounded toward zero. -/
  | frsq (w : BitVec 3) (d a : Code)
  /-- FMIN (R158). Delivers the lesser operand with its tag, NaN-avoiding. -/
  | fmin (w : BitVec 3) (d a : Code) (b : Src)
  /-- FMAX (R158). Delivers the greater operand with its tag, NaN-avoiding. -/
  | fmax (w : BitVec 3) (d a : Code) (b : Src)
  /-- FABS (R159). Clears the sign bit as a bit operation. -/
  | fabs (w : BitVec 3) (d a : Code)
  /-- FNEG (R159). Inverts the sign bit as a bit operation. -/
  | fneg (w : BitVec 3) (d a : Code)
  /-- FCPS (R159). Delivers a's bits with b's sign bit. -/
  | fcps (w : BitVec 3) (d a : Code) (b : Src)
  /-- FCMP (R160). Compares two floating-point values by a condition and writes a predicate. -/
  | fcmp (w : BitVec 3) (c : FloatCond) (p : BitVec 3) (a : Code) (b : Src)
  /-- FCLASS (R161). Writes a one-hot classification of the value. -/
  | fclass (w : BitVec 3) (d a : Code)
  /-- FCVT (R164). Converts between floating-point and BX types, quantising wave-collectively to BX. -/
  | fcvt (w : BitVec 3) (d a : Code) (t : BitVec 4)
  /-- ICVT (R165). Converts between integer and floating-point types. -/
  | icvt (w : BitVec 3) (d a : Code) (t : BitVec 4)
  /-- FRND (R162). Rounds to an integral value of TYPE by MODE.ROUND. -/
  | frnd (w : BitVec 3) (d a : Code)
  /-- FEXP2 (R156). 2^a rounded toward zero. -/
  | fexp2 (w : BitVec 3) (d a : Code)
  /-- FLOG2 (R156). log2 a rounded toward zero. -/
  | flog2 (w : BitVec 3) (d a : Code)
  /-- FSIN (R156). sin(π a) rounded toward zero. -/
  | fsin (w : BitVec 3) (d a : Code)
  /-- FCOS (R156). cos(π a) rounded toward zero. -/
  | fcos (w : BitVec 3) (d a : Code)
  /-- FSCALE (R163). Computes a × 2^b with one rounding. -/
  | fscale (w : BitVec 3) (d a : Code) (b : Src)
  /-- FTAG (R166). Writes the source's tag as an integer. -/
  | ftag (w : BitVec 3) (d a : Code)
  /-- FTAGW (R166). Writes bits [5:0] of the operand as the destination's tag, leaving its value. -/
  | ftagw (w : BitVec 3) (d : Code) (b : Src)
  /-- SHFL_IDX_A (R171). Each ACTIVE lane reads a from the lane named by b. -/
  | shflIdxA (w : BitVec 3) (d a : Code) (b : Src)
  /-- SHFL_UP_A (R171). Each ACTIVE lane reads a from lane i − b. -/
  | shflUpA (w : BitVec 3) (d a : Code) (b : Src)
  /-- SHFL_DOWN_A (R171). Each ACTIVE lane reads a from lane i + b. -/
  | shflDownA (w : BitVec 3) (d a : Code) (b : Src)
  /-- SHFL_XOR_A (R171). Each ACTIVE lane reads a from lane i XOR b. -/
  | shflXorA (w : BitVec 3) (d a : Code) (b : Src)
  /-- SHFL_IDX_B (R171). Indexed shuffle with an immediate lane. -/
  | shflIdxB (w : BitVec 3) (d a : Code) (i : BitVec 5)
  /-- SHFL_UP_B (R171). Upward shuffle by an immediate distance. -/
  | shflUpB (w : BitVec 3) (d a : Code) (i : BitVec 5)
  /-- SHFL_DOWN_B (R171). Downward shuffle by an immediate distance. -/
  | shflDownB (w : BitVec 3) (d a : Code) (i : BitVec 5)
  /-- SHFL_XOR_B (R171). Butterfly shuffle by an immediate mask. -/
  | shflXorB (w : BitVec 3) (d a : Code) (i : BitVec 5)
  /-- VOTE_ANY (R172). Writes whether the predicate holds in some ACTIVE lane. -/
  | voteAny (w d a : BitVec 3)
  /-- VOTE_ALL (R172). Writes whether the predicate holds in every ACTIVE lane. -/
  | voteAll (w d a : BitVec 3)
  /-- VOTE_BALLOT (R172). Writes the 32-bit mask of ACTIVE lanes where the predicate holds. -/
  | voteBallot (w : BitVec 3) (d : Code) (a : BitVec 3)
  /-- VOTE_EQ (R172). Writes whether the predicate is equal in every ACTIVE lane. -/
  | voteEq (w d a : BitVec 3)
  /-- WSYNC (R176). Makes the fragment wait until the fragments holding the mask's lanes all wait with that mask. -/
  | wsync (w : BitVec 3) (a : Code) (b : Src)
  /-- WRED (R173). Reduces a across the wave by the fixed pairwise tree. -/
  | wred (w : BitVec 3) (d a : Code) (o : RedOp)
  /-- WSCAN (R174). Computes the inclusive prefix across the wave by the tree order. -/
  | wscan (w : BitVec 3) (d a : Code) (o : RedOp)
  /-- RDLANE_A (R175). Reads a from a lane named by a uniform register. -/
  | rdlaneA (w : BitVec 3) (d a : Code) (b : Src)
  /-- RDLANE_B (R175). Reads a from a lane named by an immediate. -/
  | rdlaneB (w : BitVec 3) (d a : Code) (i : BitVec 5)
  /-- WRLANE_A (R175). Writes a uniform value into one lane named by a register. -/
  | wrlaneA (w : BitVec 3) (d a : Code) (b : Src)
  /-- WRLANE_B (R175). Writes a uniform value into one lane named by an immediate. -/
  | wrlaneB (w : BitVec 3) (d a : Code) (i : BitVec 5)
  /-- MASK (R177). Returns EXEC and replaces it with the operand masked by members. -/
  | mask (w : BitVec 3) (d a : Code)
  /-- EXECQ (R177). Returns members and EXEC in one 64-bit value. -/
  | execq (w : BitVec 3) (d : Code)
  /-- WPERM (R175). Each ACTIVE lane sends a to the lane named by b; lowest sender wins. -/
  | wperm (w : BitVec 3) (d a : Code) (b : Src)
  /-- LD_M (R185). Per-thread load of one record element at a register index. -/
  | ldM (w : BitVec 3) (d : Code) (r : BitVec 5) (q : Ord) (a : Code)
  /-- LD_MI (R185). Per-thread load of one record element at an immediate index. -/
  | ldMi (w : BitVec 3) (d : Code) (r : BitVec 5) (q : Ord) (i : BitVec 7)
  /-- ST_M (R185). Per-thread store of one record element at a register index, posted or precise by PSTORE. -/
  | stM (w : BitVec 3) (d : Code) (r : BitVec 5) (q : Ord) (a : Code)
  /-- ST_MI (R185). Per-thread store of one record element at an immediate index. -/
  | stMi (w : BitVec 3) (d : Code) (r : BitVec 5) (q : Ord) (i : BitVec 7)
  /-- LDS_M (R185). Uniform load into an s-register at a register index. -/
  | ldsM (w : BitVec 3) (d : Code) (r : BitVec 5) (q : Ord) (a : Code)
  /-- LDS_MI (R185). Uniform load into an s-register at an immediate index. -/
  | ldsMi (w : BitVec 3) (d : Code) (r : BitVec 5) (q : Ord) (i : BitVec 7)
  /-- STS_M (R185). Uniform store from an s-register at a register index. -/
  | stsM (w : BitVec 3) (d : Code) (r : BitVec 5) (q : Ord) (a : Code)
  /-- STS_MI (R185). Uniform store from an s-register at an immediate index. -/
  | stsMi (w : BitVec 3) (d : Code) (r : BitVec 5) (q : Ord) (i : BitVec 7)
  /-- LDU (R187). Untyped load at the width of MODE.TYPE, with tag 62. -/
  | ldu (w : BitVec 3) (d : Code) (r : BitVec 5) (q : Ord) (a : Code)
  /-- STU (R187). Untyped store at the width of MODE.TYPE, writing no tag. -/
  | stu (w : BitVec 3) (d : Code) (r : BitVec 5) (q : Ord) (a : Code)
  /-- LDX (R188). Load that reads the shadow tag array whatever TAGMODE holds. -/
  | ldx (w : BitVec 3) (d : Code) (r : BitVec 5) (q : Ord) (a : Code)
  /-- STX (R188). Store that writes the shadow tag array whatever TAGMODE holds. -/
  | stx (w : BitVec 3) (d : Code) (r : BitVec 5) (q : Ord) (a : Code)
  /-- PREF (R201). Requests the element's lines into L1 and the memory-side cache. -/
  | pref (w : BitVec 3) (r : BitVec 5) (a : Code)
  /-- CAS (R194). Indivisible compare-and-swap of one element, lanes in ascending order. -/
  | cas (w : BitVec 3) (d : Code) (r : BitVec 5) (q : Ord) (a : Code)
  /-- FATOM (R197). Adds the operand exactly into the exact-sum accumulator bound to the element. -/
  | fatom (w : BitVec 3) (d : Code) (r : BitVec 5) (q : Ord) (a : Code)
  /-- FATOMQ (R198). Reads the bound accumulator rounded once, or the element if none is bound. -/
  | fatomq (w : BitVec 3) (d : Code) (r : BitVec 5) (q : Ord) (a : Code)
  /-- ATOM_ADD (R194). Indivisible add, returning the old value. -/
  | atomAdd (w : BitVec 3) (d : Code) (r : BitVec 5) (q : Ord) (a : Code)
  /-- ATOM_SUB (R194). Indivisible subtract, returning the old value. -/
  | atomSub (w : BitVec 3) (d : Code) (r : BitVec 5) (q : Ord) (a : Code)
  /-- ATOM_MIN (R194). Indivisible minimum, returning the old value. -/
  | atomMin (w : BitVec 3) (d : Code) (r : BitVec 5) (q : Ord) (a : Code)
  /-- ATOM_MAX (R194). Indivisible maximum, returning the old value. -/
  | atomMax (w : BitVec 3) (d : Code) (r : BitVec 5) (q : Ord) (a : Code)
  /-- ATOM_AND (R194). Indivisible AND, returning the old value. -/
  | atomAnd (w : BitVec 3) (d : Code) (r : BitVec 5) (q : Ord) (a : Code)
  /-- ATOM_OR (R194). Indivisible OR, returning the old value. -/
  | atomOr (w : BitVec 3) (d : Code) (r : BitVec 5) (q : Ord) (a : Code)
  /-- ATOM_XOR (R194). Indivisible XOR, returning the old value. -/
  | atomXor (w : BitVec 3) (d : Code) (r : BitVec 5) (q : Ord) (a : Code)
  /-- ATOM_EXCH (R194). Indivisible exchange, returning the old value. -/
  | atomExch (w : BitVec 3) (d : Code) (r : BitVec 5) (q : Ord) (a : Code)
  /-- FENCE_ACQ (R190). Orders earlier loads and read-modify-writes before every later access. -/
  | fenceAcq (w : BitVec 3)
  /-- FENCE_REL (R190). Orders every earlier access before later stores and read-modify-writes. -/
  | fenceRel (w : BitVec 3)
  /-- FENCE_AR (R190). Acquire and release fence that also orders earlier stores before later loads. -/
  | fenceAr (w : BitVec 3)
  /-- DRAINS (R193). Waits until every earlier posted store and SENDP of the wave is accepted, delivered or resolved. -/
  | drains (w : BitVec 3)
  /-- RECSET (R202). Writes a whole record slot from four s-registers after checking it. -/
  | recset (w : BitVec 3) (d : Code) (r : BitVec 5)
  /-- RECMOD (R203). Writes one selected field of a record slot after checking the result. -/
  | recmod (w : BitVec 3) (d : Code) (r : BitVec 5) (a : Code)
  /-- RECGET (R204). Reads one field or 64-bit word of a record slot. -/
  | recget (w : BitVec 3) (d : Code) (r : BitVec 5) (a : Code)
  /-- CWB (R201). Writes dirty L1 data back and retires an exact-sum accumulator. -/
  | cwb (w : BitVec 3) (r : BitVec 5) (a : Code)
  /-- CINV (R201). Writes back then invalidates the element's L1 lines. -/
  | cinv (w : BitVec 3) (r : BitVec 5) (a : Code)
  /-- FIFOP_RESERVE (R207). Produce phase 0: waits for FREE ≥ k and advances RP. -/
  | fifopReserve (w : BitVec 3) (d : Code) (r : BitVec 5) (a : Code)
  /-- FIFOP_COMMIT (R207). Produce phase 1: advances CP with release, making slots FILLED. -/
  | fifopCommit (w : BitVec 3) (d : Code) (r : BitVec 5) (a : Code)
  /-- FIFOP_CLAIM (R207). Consume phase 0: waits for FILLED ≥ k and advances LP with acquire. -/
  | fifopClaim (w : BitVec 3) (d : Code) (r : BitVec 5) (a : Code)
  /-- FIFOP_FREE (R207). Consume phase 1: advances FP, freeing claimed slots. -/
  | fifopFree (w : BitVec 3) (d : Code) (r : BitVec 5) (a : Code)
  /-- WLOAD (R227). Queues a Press operation that latches a 64×64 weight tile. -/
  | wload (w : BitVec 3) (s : Code) (x : BitVec 5)
  /-- MMA (R228). Queues a Press operation accumulating activation rows against the latched weights. -/
  | mma (w : BitVec 3) (s : Code) (x : BitVec 5)
  /-- ACCZ (R230). Queues a Press operation that zeroes accumulator rows. -/
  | accz (w : BitVec 3) (s : Code) (f : BitVec 2)
  /-- ACCRD (R230). Queues a Press operation that converts accumulator rows into a record, optionally clearing them. -/
  | accrd (w : BitVec 3) (s : Code) (y : BitVec 5) (f : BitVec 3)
  /-- ACCLD (R230). Queues a Press operation that loads accumulator rows from a record. -/
  | accld (w : BitVec 3) (s : Code) (x : BitVec 5) (f : BitVec 2)
  /-- IRON (R231). Waits for the iron and takes it, posting a system message with POST. -/
  | iron (w : BitVec 3) (s : Code)
  /-- IRONP (R232). Passes the iron to another wave or drops it. -/
  | ironp (w : BitVec 3) (s : Code)
  /-- COPY (R233). Queues a Mangle copy of up to ten dimensions with conversion. -/
  | copy (w : BitVec 3) (s : Code) (x y : BitVec 5)
  /-- GATHER (R237). Queues a Mangle gather of rows selected by an index record. -/
  | gather (w : BitVec 3) (s : Code) (x y : BitVec 5)
  /-- SCAT (R237). Queues a Mangle scatter of rows to indexed positions. -/
  | scat (w : BitVec 3) (s : Code) (x y : BitVec 5)
  /-- QUANT (R236). Queues a Mangle quantisation to a BX format, optionally with fixed exponents. -/
  | quant (w : BitVec 3) (s : Code) (x y : BitVec 5) (f : BitVec 1)
  /-- COLL (R238). Queues a collective operation over a registered UALink group. -/
  | coll (w : BitVec 3) (s : Code) (x y : BitVec 5)
  /-- CANCEL (R239). Asks a live operation of the block to stop at its next restart point. -/
  | cancel (w : BitVec 3) (a : Code)
  /-- OPQ (R240). Reads an operation's state word and INFO. -/
  | opq (w : BitVec 3) (d a : Code)
  /-- OPWAIT (R240). Waits until an operation is final or unknown and acquires its written bytes. -/
  | opwait (w : BitVec 3) (d a : Code)
  /-- SEND (R209). Posts a user message to a port and waits for confirmation. -/
  | send (w : BitVec 3) (a : Code) (b : Src)
  /-- SENDP (R210). Posts a user message without waiting; a full port drops it. -/
  | sendp (w : BitVec 3) (a : Code) (b : Src)
  /-- RECV (R211). Takes the oldest message of a port, waiting or polling. -/
  | recv (w : BitVec 3) (d a : Code)
  /-- JWAIT (R212). Makes the fragment wait on a wake pattern. -/
  | jwait (w : BitVec 3) (k : BitVec 4)
  /-- PATEN_ON (R213). Enables a pattern from the next cycle and triggers an evaluation. -/
  | patenOn (w : BitVec 3) (k : BitVec 4)
  /-- PATEN_OFF (R213). Disables a pattern from the next cycle. -/
  | patenOff (w : BitVec 3) (k : BitVec 4)
  /-- PORTQ (R214). Reads a port's counts and flags, optionally clearing OVF and DROPS. -/
  | portq (w : BitVec 3) (d a : Code)
  /-- BAR (R215). Block barrier: the wave waits until every participant has arrived. -/
  | bar (w : BitVec 3)
  /-- SBAR (R216). Barrier over the block set selected by MODE.SETSLOT. -/
  | sbar (w : BitVec 3)
  /-- TRAP (R217). Raises the user trap 0x14 on ACTIVE. -/
  | trap (w : BitVec 3) (k : BitVec 14)
  /-- RDSYS (R243). Reads a system register of the target fragment, entry or context. -/
  | rdsys (w : BitVec 3) (d : Code) (n : BitVec 12)
  /-- WRSYS (R243). Writes a system register of the target fragment, entry or context. -/
  | wrsys (w : BitVec 3) (d : Code) (n : BitVec 12)
  /-- ERET (R244). Ends the Darner's current event, requeueing an unreleased Hamper entry. -/
  | eret (w : BitVec 3)
  /-- TLBI (R245). Invalidates matching translations everywhere and waits for acknowledgement. -/
  | tlbi (w : BitVec 3) (a : Code) (b : Src)
  /-- CTXSV (R246). Stops a resident block, writes its image and frees its resources. -/
  | ctxsv (w : BitVec 3) (d a : Code) (b : Src)
  /-- CTXLD (R246). Checks an image, waits for room and starts the block on this core. -/
  | ctxld (w : BitVec 3) (d a : Code)
  /-- HREL_REPLAY (R247). Releases a Hamper entry so its fragment reissues the faulting instruction. -/
  | hrelReplay (w : BitVec 3) (a : Code)
  /-- HREL_SKIP (R247). Releases a Hamper entry so its fragment resumes past the faulting instruction. -/
  | hrelSkip (w : BitVec 3) (a : Code)
  /-- HREL_SIGNAL (R247). Releases a Hamper entry into the named signal handler with a delivery frame. -/
  | hrelSignal (w : BitVec 3) (a : Code)
  /-- HREL_KILL (R247). Ends the entry's block, or every block of the context with PROC. -/
  | hrelKill (w : BitVec 3) (a : Code)
  /-- SIGPOST (R248). Delivers a signal asynchronously to a wave or every wave of a block. -/
  | sigpost (w : BitVec 3) (a : Code) (b : Src)
  /-- BANKM (R249). Sets a core SRAM bank's mode unless it holds a resident allocation. -/
  | bankm (w : BitVec 3) (d a : Code)
  /-- CHKPT (R250). Takes a checkpoint of a resilient block and waits for it. -/
  | chkpt (w : BitVec 3) (d a : Code) (b : Src)
  /-- SFQ_PEEK (R251). Copies the oldest store-fault record to memory. -/
  | sfqPeek (w : BitVec 3) (d a : Code) (b : Src)
  /-- SFQ_POP (R251). Copies the oldest store-fault record to memory and removes it. -/
  | sfqPop (w : BitVec 3) (d a : Code) (b : Src)
  /-- SFQ_REPLAY (R251). Performs the oldest record's store and removes it on success. -/
  | sfqReplay (w : BitVec 3) (d a : Code) (b : Src)
  /-- SFQ_DISCARD (R251). Removes the oldest record; its store never happens. -/
  | sfqDiscard (w : BitVec 3) (d a : Code) (b : Src)
  /-- PMCRD (R252). Reads a partition performance counter, optionally clearing it. -/
  | pmcrd (w : BitVec 3) (d a : Code)
  /-- SVC (R401). Host service: writes a request to the system-call channel and waits for the reply. -/
  | svc (w : BitVec 3) (k : BitVec 14)
  /-- SVC_WDOG (R402). Device service that sets the context's watchdog interval. -/
  | svcWdog (w : BitVec 3)
  /-- SVC_DEBUG (R402). Device service that loads the context's debug comparator settings. -/
  | svcDebug (w : BitVec 3)
  /-- SVC_COLLREG (R402). Device service that registers a collective group. -/
  | svcCollreg (w : BitVec 3)
  /-- SVC_SIGRET (R406). Signal return through RETCODE: restores state from the wave's top frame. -/
  | svcSigret (w : BitVec 3) (k : BitVec 14)
  /-- BKPT (R254). Raises the breakpoint fault 0x13 on ACTIVE. -/
  | bkpt (w : BitVec 3) (k : BitVec 14)
  /-- NOTIFY_WRITE (R366). An aligned 8-byte write to a queue's notify page sets WIDX or is rejected with ERR. -/
  | notifyWrite (queue off size : Nat) (value : BitVec 64)
  /-- QUEUE_DESCRIPTOR_WRITE (R365). The driver writes a queue descriptor, which governs from the next notify write. -/
  | queueDescriptorWrite (queue : Nat) (desc : BitVec 256)
  /-- POST_PORT_MESSAGE (R321). A TKIND 0 descriptor on a post page delivers a kind-4 message to a port or is dropped. -/
  | postPortMessage (page : PostPage) (off size : Nat) (desc : BitVec 256)
  /-- SERVICE_REPLY (R401). A TKIND 1 descriptor delivers an SVC reply to the waiting fragment. -/
  | serviceReply (page : PostPage) (off size : Nat) (desc : BitVec 256)
  /-- FAULT_RESOLUTION (R388). A TKIND 2 descriptor resolves a page request for Hamper entries and operations. -/
  | faultResolution (page : PostPage) (off size : Nat) (desc : BitVec 256)
  /-- TRANSLATION_WALK (R383). A page-table walk completes, delivering a translation or a fault code. -/
  | translationWalk (core asid : Nat) (va : BitVec 57) (access : Nat)
  /-- ATS_INVALIDATE_REQUEST (R391). The host invalidates a PASID's translations; completion follows the drain rule. -/
  | atsInvalidateRequest (pasid : Nat) (va : BitVec 57) (all : Bool)
  /-- HOST_SNOOP (R393). A host snoop of a cached host line is answered after any device write to it. -/
  | hostSnoop (pa : Nat)
  /-- BACK_INVALIDATE_SNOOP (R393). A back-invalidate snoop completes and the device access needing ownership proceeds. -/
  | backInvalidateSnoop (pa : Nat)
  /-- DIRECTORY_INVALIDATION (R395). A switch directory invalidation drops a peer line and is answered. -/
  | directoryInvalidation (pa size : Nat)
  /-- EXTERNAL_ACCESS (R325). A host or peer access to device memory at system scope, refused outside granted windows. -/
  | externalAccess (agent : Agent) (pa : Nat) (access : ExtAccess)
  /-- CXL_LINK_DOWN (R413). A CXL port's link fails; held requests complete with poison or 0x09. -/
  | cxlLinkDown (port : Nat)
  /-- CXL_COMPLETION_TIMEOUT (R413). A request passes its link completion timeout and completes as on link failure. -/
  | cxlCompletionTimeout (port : Nat)
  /-- UALINK_LINK_FAILURE (R238). A UALink failure completes the affected COLL members with LINK. -/
  | ualinkLinkFailure (station : Nat)
  /-- CONTEXT_CREATE (R399). Dibor creates a context at the driver's request with its ASID and registers. -/
  | contextCreate (spec : ContextSpec)
  /-- CONTEXT_END (R399). A context ends: blocks killed, packets aborted, images discarded, ASID retired. -/
  | contextEnd (asid : Nat)
  /-- PREEMPT_REQUEST (R407). The driver asks Dibor to pre-empt a context; drain begins. -/
  | preemptRequest (target : PreemptTarget) (deadline : Nat)
  /-- CONTEXT_RESUME (R407). Dibor restores a context's images in block order through the chosen cores' Darners. -/
  | contextResume (asid : Nat)
  /-- LOCK_INTERFACE_REQUEST (R396). TDISP lock freezes and measures the group's configuration. -/
  | lockInterfaceRequest (group : Nat)
  /-- START_INTERFACE_REQUEST (R396). TDISP start moves a locked group to RUN. -/
  | startInterfaceRequest (group : Nat)
  /-- STOP_INTERFACE_REQUEST (R396). TDISP stop ends contexts, zeroes the group's memory and unlocks it. -/
  | stopInterfaceRequest (group : Nat)
  /-- TDISP_ERROR (R396). A locked-config write, IDE failure or group UE moves the interface to ERROR. -/
  | tdispError (group : Nat)
  /-- NEGOTIATE_ALGORITHMS (R448). SPDM negotiation, succeeding only with ML-DSA-87 and SHA3-512. -/
  | negotiateAlgorithms (signs hashes : Bool)
  /-- GET_CERTIFICATE (R448). SPDM request for the identity certificate chain. -/
  | getCertificate (off size : Nat)
  /-- CHALLENGE (R448). SPDM challenge signed with the identity key. -/
  | challenge (nonce : BitVec 256)
  /-- GET_MEASUREMENTS (R448). SPDM request for the boot, firmware, configuration and group measurements. -/
  | getMeasurements (index : Nat)
  /-- CORRECTED_ERROR (R428). A corrected error is counted and logged or dropped. -/
  | correctedError (chan addr part asid : Nat)
  /-- UNCORRECTABLE_ERROR (R424). An uncorrectable error is poisoned or contained to a lane, block or partition. -/
  | uncorrectableError (chan addr part asid : Nat) (site : ErrorSite)
  /-- ELOGCTL_WRITE (R426). Writing ELOGCTL with ENABLE resets ELOGWR, ELOGRD and ELOGDROP. -/
  | elogctlWrite (value : BitVec 32)
  /-- ELOGRD_WRITE (R426). The driver advances ELOGRD; out-of-range writes are ignored. -/
  | elogrdWrite (value : BitVec 64)
  /-- EYE_SAMPLE (R436). Every SAMPLE µs each path is sampled and compared with the thresholds. -/
  | eyeSample (stack channel path : Nat) (width height : BitVec 8)
  /-- CA_PARITY_FAILURE (R436). 16 consecutive command parity failures set REPREQ. -/
  | caParityFailure (stack channel path : Nat)
  /-- EYE_PATH_WRITE (R434). Writing a path's eye register clears MINW. -/
  | eyePathWrite (stack channel path : Nat) (value : BitVec 32)
  /-- EYETHR_WRITE (R435). Writes the thresholds, ignored when repair thresholds are not below retrain thresholds. -/
  | eyethrWrite (stack : Nat) (value : BitVec 32)
  /-- REPAIR_WRITE (R439). Write-one-to-clear of REPREQ and RTREQ. -/
  | repairWrite (stack channel : Nat) (value : BitVec 32)
  /-- BANK_SPARE_START (R440). Error counts trigger copying a bank row by row into the spare. -/
  | bankSpareStart (stack pseudo bank : Nat)
  /-- TAKEOVER (R445). After three missed heartbeats or an error report the standby replays the journal and takes over. -/
  | takeover (errorReport : Bool)
  /-- DEVICE_RESET (R449). Power-up brings up rails, trains HBM and boots the checked firmware image. -/
  | deviceReset (image : BootImage)
  /-- POWER_CONTROL_STEP (R451). Each 1 ms Dibor steps the core clock to hold board power within PLIMIT. -/
  | powerControlStep (power temp clkMhz : Nat)
  /-- PLIMIT_WRITE (R451). Sets the board power limit; values outside 400–1,600 are ignored. -/
  | plimitWrite (value : BitVec 32)
  /-- MANAGEMENT_REGISTER_WRITE (R426). A write to a management-block register with no behaviour of its own. -/
  | managementRegisterWrite (off size : Nat) (value : BitVec 64)
  /-- UNASSIGNED_OPCODE (R101). An issued word whose OP is unassigned in the opcode map raises the illegal-instruction fault as a decode fault. -/
  | unassignedOpcode (word : BitVec 32)
  /-- CXL_PORT_REENABLE (R413). The driver re-enables a failed CXL port, after which walks that reach region 1 through it no longer give 0x09. -/
  | cxlPortReenable (port : Nat)
  /-- ETHERNET_LINK_FAILURE (R422). An Ethernet port's link fails beyond its CRC and replay and is logged as a link failure on its channel. -/
  | ethernetLinkFailure (port : Nat)
  /-- PACKET_FETCH (R366). Dibor fetches packet RIDX while RIDX < WIDX, checks it and advances RIDX. -/
  | packetFetch
  /-- PACKET_ORDERED (R370). A held packet becomes ordered once its BARRIER condition is met. -/
  | packetOrdered
  /-- PACKET_DISPATCH (R370). An ordered kernel or graph packet enters DISPATCHING with its acquire. -/
  | packetDispatch
  /-- BARRIER_DEPENDENCY_CHECK (R370). Dibor re-reads a barrier packet's DEPn words at each completion and every 2 µs. -/
  | barrierDependencyCheck
  /-- SCHEDULING_DECISION (R374). The group scheduler picks the ready queue of lowest pass to place one block. -/
  | schedulingDecision
  /-- QUEUE_RESERVATION (R375). After 100 µs unready for lack of room, the lowest-pass queue reserves the group. -/
  | queueReservation
  /-- GRAPH_NODE_COMPLETE (R372). A finished node decrements its successors' counters, readying or skipping them. -/
  | graphNodeComplete
  /-- PACKET_COMPLETE (R369). A completing packet performs its release, writes its completion word and raises its IRQ. -/
  | packetComplete
  /-- BLOCK_RETIREMENT (R259). A block whose waves, operations, stores and entries are all done retires and frees its resources. -/
  | blockRetirement
  /-- MESSAGE_DELIVERY (R311). A sent or posted message reaches its port, filling a slot or overflowing. -/
  | messageDelivery
  /-- SEND_CONFIRMATION (R209). The reply to a SEND returns, completing it or raising port overflow. -/
  | sendConfirmation
  /-- JOIN_FIRING (R314). The chosen eligible pattern consumes one message per port and starts or wakes a wave. -/
  | joinFiring
  /-- RCV_RELEASE (R132). When the release condition holds, the waiters at the lowest RCV merge and continue. -/
  | rcvRelease
  /-- COLLECTIVE_RELEASE (R168). When every live fragment waits at one collective PC they merge and issue it once. -/
  | collectiveRelease
  /-- WSYNC_RELEASE (R176). Fragments holding every lane of the mask are released together without merging. -/
  | wsyncRelease
  /-- WSYNC_MASK_MISMATCH (R176). A mismatched or ended-lane WSYNC is detected within 256 cycles and faults 0x0F. -/
  | wsyncMaskMismatch
  /-- BAR_RELEASE (R215). When every participant wave has arrived, the block barrier releases. -/
  | barRelease
  /-- SBAR_RELEASE (R216). When every member's waves have arrived, the set barrier releases. -/
  | sbarRelease
  /-- COLLECTIVE_DEADLOCK (R169). A wave with no holdable release is detected within 256 cycles and faults 0x10. -/
  | collectiveDeadlock
  /-- WAIT_EVENT_RESUME (R263). A fragment in WAIT_EVENT resumes when its condition holds and the instruction completes. -/
  | waitEventResume
  /-- HAMPER_ENTRY_FREED (R342). A fragment waiting for a free Hamper entry reissues its instruction for all lanes. -/
  | hamperEntryFreed
  /-- FRAGMENT_EXCHANGE (R268). A fragment found to wait long leaves the active set and a ready pending one takes the slot. -/
  | fragmentExchange
  /-- PENDING_DISPLACEMENT (R269). A ready pending fragment waiting 192 cycles displaces the oldest active ordinary fragment. -/
  | pendingDisplacement
  /-- LOAD_DATA_RETURN (R191). A load's data arrives and its destination is written. -/
  | loadDataReturn
  /-- POSTED_STORE_ACCEPT (R192). A posted store translates and its data enters the path that performs it. -/
  | postedStoreAccept
  /-- STORE_FAULT_RECORD (R348). A failed posted store becomes a store-fault record and notifies the Darner with 0x19. -/
  | storeFaultRecord
  /-- INVALIDATION_ACK (R389). An invalidation is acknowledged once requests using removed entries have completed. -/
  | invalidationAck
  /-- DARNER_EVENT (R345). The idle Darner takes its next event by class and age and starts at its event PC. -/
  | darnerEvent
  /-- DARNER_RESTART (R242). Dibor restarts a stopped Darner at its event PC. -/
  | darnerRestart
  /-- WATCHDOG (R351). A fragment waiting past the watchdog interval parks with 0x1A. -/
  | watchdog
  /-- PRESS_GRANT (R295). The Press grants its array round robin to the next eligible block for one tile. -/
  | pressGrant
  /-- MANGLE_CHANNEL_TAKE (R305). A free Mangle channel takes the oldest eligible operation of the next block. -/
  | mangleChannelTake
  /-- ENGINE_RESUME (R225). A STALLED operation whose condition holds becomes eligible again. -/
  | engineResume
  /-- ENGINE_COMPLETION (R223). An operation reaches its final state, posts its completion and ends its scoreboard entries. -/
  | engineCompletion
  /-- COLL_EXCHANGE_COMPLETE (R307). A collective's exchange and reduction finish and its writing phase begins. -/
  | collExchangeComplete
  /-- DRAIN_DEADLINE (R407). At deadline D the context's blocks are swapped out. -/
  | drainDeadline
  /-- FORCED_RESET (R407). At D + 1 ms with swap-out unfinished the context ends. -/
  | forcedReset
  /-- ASID_QUARANTINE_END (R398). A retired ASID leaves quarantine at zero outstanding requests or 2 s, and a report is written. -/
  | asidQuarantineEnd
  /-- GET_VERSION (R448). SPDM request answered by Dibor. -/
  | getVersion
  /-- GET_CAPABILITIES (R448). SPDM request answered by Dibor. -/
  | getCapabilities
  /-- GET_DIGESTS (R448). SPDM request for certificate digests. -/
  | getDigests
  /-- CHECKPOINT_INTERVAL (R429). CKINTERVAL after the last commit a resilient block's checkpoint starts. -/
  | checkpointInterval
  /-- CHECKPOINT_COMMIT (R429). A written checkpoint becomes current and the block's held stores are released. -/
  | checkpointCommit
  /-- CHANNEL_RETRAIN (R437). Dibor holds a channel, retrains its paths and releases it. -/
  | channelRetrain
  /-- LANE_REPAIR (R438). Dibor marks the weakest path failed, remaps the lanes and retrains. -/
  | laneRepair
  /-- BANK_SPARE_COMPLETE (R440). BPTR reaches the bank's end; the bank is retired and the spare recorded. -/
  | bankSpareComplete
  /-- JOURNAL_COMMIT (R443). The standby acknowledges a journal record and Dibor performs the decision. -/
  | journalCommit
  /-- HEARTBEAT (R445). The active Thimble core writes its heartbeat every 10 µs. -/
  | heartbeat
  /-- CORE_GROUP_ENABLE (R449). A group of 16 program cores is enabled 50 µs after the previous one. -/
  | coreGroupEnable
  /-- PRESS_IDLE (R450). A Press with no row entered for 1 µs becomes idle and ramps on next use. -/
  | pressIdle
  /-- POWER_OFF (R449). Loss of power ends all device state except the fuses and the repair store. -/
  | powerOff
  deriving DecidableEq, Repr

end Sys2Proof
end

