-- ==== Sys2Proof/WellFormed.lean ====
section
/-! DEFINITION. The checks on an instruction that need no state: the values its fields may hold, and which instructions
have words at all. Operand kinds, TYPE and the window are checked at issue (Machine/Operands.lean). -/

namespace Sys2Proof

/-- The value a MODE form may write to a field group: no bit above the group's width, no reserved TYPE or SCOPE (R102,
R125). -/
def modeValueOk (g : BitVec 3) (v : BitVec 14) : Bool :=
  match g.toNat with
  | 0 => v.toNat < 16
  | 1 => v.toNat < 14
  | 2 => v.toNat < 4
  | 3 => v.toNat < 6
  | 4 => v.toNat < 4
  | 5 => v.toNat < 64
  | 6 => v.toNat < 32
  | _ => v.toNat < 8

/-- Code 127 in a B operand stands for a literal, never for a register (R22). -/
def Src.ok : Src → Bool
  | .reg c => c != 127
  | .lit _ => true

/-- The opcodes of class 100 and above that the map leaves unassigned, and those below (R101): 80 in all. -/
def unassignedOpcodes : List Nat :=
  [0x19, 0x1A, 0x1B] ++ (List.range 6).map (0x5A + ·) ++ (List.range 13).map (0x73 + ·) ++
  (List.range 17).map (0xAF + ·) ++ (List.range 23).map (0xC9 + ·) ++ (List.range 18).map (0xEE + ·)

/-- The device services of R402 that have forms of their own. -/
def deviceServiceCode (k : BitVec 14) : Bool := 0x3F80 ≤ k.toNat && k.toNat ≤ 0x3F82

/-- An instruction whose fields hold values its word can hold (R22, R97, R102). -/
def Instr.wf : Instr → Bool
  | .mode _ g v => modeValueOk g v
  | .svc _ k => k.toNat < 0x3F84 && !deviceServiceCode k
  | .svcSigret _ k => 0x3F84 ≤ k.toNat
  | .unassignedOpcode x => unassignedOpcodes.contains (x.extractLsb' 21 8).toNat
  | .sel _ _ _ b | .iaddA _ _ _ b | .isub _ _ _ b | .imul _ _ _ b | .imulh _ _ _ b | .imad _ _ _ b | .iaddc _ _ _ b
  | .imin _ _ _ b | .imax _ _ _ b | .shlA _ _ _ b | .shrA _ _ _ b | .sarA _ _ _ b | .rot _ _ _ b | .andA _ _ _ b
  | .or _ _ _ b | .xor _ _ _ b | .andn _ _ _ b | .bfx _ _ _ b | .bfi _ _ _ b | .icmpA _ _ _ _ b | .addr _ _ _ b
  | .fadd _ _ _ b | .fsub _ _ _ b | .fmul _ _ _ b | .ffma _ _ _ b | .ffms _ _ _ b | .fdiv _ _ _ b | .fmin _ _ _ b
  | .fmax _ _ _ b | .fcps _ _ _ b | .fcmp _ _ _ _ b | .fscale _ _ _ b | .ftagw _ _ b | .shflIdxA _ _ _ b
  | .shflUpA _ _ _ b | .shflDownA _ _ _ b | .shflXorA _ _ _ b | .wsync _ _ b | .rdlaneA _ _ _ b | .wrlaneA _ _ _ b
  | .wperm _ _ _ b | .send _ _ b | .sendp _ _ b | .tlbi _ _ b | .ctxsv _ _ _ b | .sigpost _ _ b | .chkpt _ _ _ b
  | .sfqPeek _ _ _ b | .sfqPop _ _ _ b | .sfqReplay _ _ _ b | .sfqDiscard _ _ _ b => b.ok
  | _ => true

/-- The instructions whose words decode to them. An event has no word; a commit, a free and three of the record queue's
operations share their word with a sibling, from which an operand's value tells them apart at issue (R207, R251). -/
def Instr.hasOwnWord : Instr → Bool
  | .fifopCommit _ _ _ _ | .fifopFree _ _ _ _ | .sfqPop _ _ _ _ | .sfqReplay _ _ _ _ | .sfqDiscard _ _ _ _ => false
  | .notifyWrite _ _ _ _ | .queueDescriptorWrite _ _ | .postPortMessage _ _ _ _ | .serviceReply _ _ _ _
  | .faultResolution _ _ _ _ | .packetFetch | .packetOrdered | .packetDispatch | .barrierDependencyCheck
  | .schedulingDecision | .queueReservation | .graphNodeComplete | .packetComplete | .blockRetirement
  | .messageDelivery | .sendConfirmation | .joinFiring | .rcvRelease | .collectiveRelease | .wsyncRelease
  | .wsyncMaskMismatch | .barRelease | .sbarRelease | .collectiveDeadlock | .waitEventResume | .hamperEntryFreed
  | .fragmentExchange | .pendingDisplacement | .loadDataReturn | .postedStoreAccept | .storeFaultRecord
  | .translationWalk _ _ _ _ | .invalidationAck | .atsInvalidateRequest _ _ _ | .hostSnoop _
  | .backInvalidateSnoop _ | .directoryInvalidation _ _ | .externalAccess _ _ _ | .cxlLinkDown _
  | .cxlCompletionTimeout _ | .ualinkLinkFailure _ | .darnerEvent | .darnerRestart | .watchdog | .pressGrant
  | .mangleChannelTake | .engineResume | .engineCompletion | .collExchangeComplete | .contextCreate _
  | .contextEnd _ | .preemptRequest _ _ | .drainDeadline | .forcedReset | .contextResume _ | .asidQuarantineEnd
  | .lockInterfaceRequest _ | .startInterfaceRequest _ | .stopInterfaceRequest _ | .tdispError _ | .getVersion
  | .getCapabilities | .negotiateAlgorithms _ _ | .getDigests | .getCertificate _ _ | .challenge _
  | .getMeasurements _ | .checkpointInterval | .checkpointCommit | .correctedError _ _ _ _
  | .uncorrectableError _ _ _ _ _ | .elogctlWrite _ | .elogrdWrite _ | .eyeSample _ _ _ _ _
  | .caParityFailure _ _ _ | .eyePathWrite _ _ _ _ | .eyethrWrite _ _ | .repairWrite _ _ _ | .channelRetrain
  | .laneRepair | .bankSpareStart _ _ _ | .bankSpareComplete | .journalCommit | .heartbeat | .takeover _
  | .deviceReset _ | .coreGroupEnable | .pressIdle | .powerControlStep _ _ _ | .plimitWrite _
  | .managementRegisterWrite _ _ _ | .cxlPortReenable _ | .ethernetLinkFailure _ | .powerOff => false
  | _ => true

end Sys2Proof
end

