-- ==== Sys2Proof/Decode.lean ====
section
/-! DEFINITION. The instruction words: which bits of a word are an instruction (decode, R92 to R102) and which words an
instruction is (encode). Decoding is of bits alone: reserved fields and reserved sub-operation values are refused by
name here, while operand kinds, TYPE, privilege and the window, which need the fragment's state, are checked when the
instruction issues (R100). -/

namespace Sys2Proof

/-- Why a word is no instruction: R100, step 4, the first two points. -/
inductive DecodeError where
  /-- a reserved field, or a reserved bit within a field, is non-zero -/
  | reservedField
  /-- a sub-operation field holds a reserved value -/
  | reservedSubOperation
  deriving DecidableEq, Repr

/-- The ORD field's values (R109). -/
def Ord.bits : Ord → BitVec 2
  | .plain => 0 | .acq => 1 | .rel => 2 | .ar => 3

/-- The ORD that a 2-bit field names. -/
def Ord.ofBits (x : BitVec 2) : Ord :=
  match x.toNat with
  | 0 => .plain | 1 => .acq | 2 => .rel | _ => .ar

/-- The condition codes of ICMP (R148). -/
def IntCond.bits : IntCond → BitVec 4
  | .eq => 0 | .ne => 1 | .lt => 2 | .le => 3 | .gt => 4 | .ge => 5

/-- The ICMP condition of a code; codes 6 to 15 are reserved. -/
def IntCond.ofBits (x : BitVec 4) : Option IntCond :=
  match x.toNat with
  | 0 => some .eq | 1 => some .ne | 2 => some .lt | 3 => some .le | 4 => some .gt | 5 => some .ge | _ => none

/-- The condition codes of FCMP (R102). -/
def FloatCond.bits : FloatCond → BitVec 4
  | .eq => 0 | .ne => 1 | .lt => 2 | .le => 3 | .gt => 4 | .ge => 5 | .un => 6 | .ord => 7

/-- The FCMP condition of a code; codes 8 to 15 are reserved. -/
def FloatCond.ofBits (x : BitVec 4) : Option FloatCond :=
  match x.toNat with
  | 0 => some .eq | 1 => some .ne | 2 => some .lt | 3 => some .le | 4 => some .gt | 5 => some .ge
  | 6 => some .un | 7 => some .ord | _ => none

/-- The sub-operation codes of WRED and WSCAN (R102). -/
def RedOp.bits : RedOp → BitVec 3
  | .add => 0 | .min => 1 | .max => 2 | .and => 3 | .or => 4 | .xor => 5

/-- The sub-operation of a code; codes 6 and 7 are reserved. -/
def RedOp.ofBits (x : BitVec 3) : Option RedOp :=
  match x.toNat with
  | 0 => some .add | 1 => some .min | 2 => some .max | 3 => some .and | 4 => some .or | 5 => some .xor | _ => none

/-- The B operand that a 7-bit code and the word after it give (R22, R97). -/
def srcOf (b : Code) (l : Word) : Src := if b = 127 then .lit l else .reg b

/-- The B field of an operand. -/
def Src.code : Src → Code
  | .reg c => c
  | .lit _ => 127

/-- The literal word that follows, if any. -/
def Src.words : Src → List Word
  | .reg _ => []
  | .lit x => [x]

/-- The opcode of a word (R92). -/
def opcodeOf (x : Word) : Nat := (x.extractLsb' 21 8).toNat

/-- The privileged forms are opcodes 0xE0 to 0xEB (R101). -/
def privilegedOpcode (op : Nat) : Bool := 0xE0 ≤ op && op ≤ 0xEB

/-- The opcodes of format A whose B field is an operand, so that B = 127 carries a literal word (R97). -/
def literalOpcodes : List Nat :=
  [0x17, 0x20, 0x22, 0x23, 0x24, 0x25, 0x26, 0x29, 0x2A, 0x2B, 0x2D, 0x2F, 0x31, 0x32, 0x34, 0x35, 0x36, 0x3A, 0x3B, 0x3C, 0x3E, 0x40, 0x41, 0x42, 0x43, 0x44, 0x45, 0x49, 0x4A, 0x4D, 0x4E, 0x57, 0x59, 0x60, 0x61, 0x62, 0x63, 0x69, 0x6C, 0x6E, 0x72, 0xC0, 0xC1, 0xE3, 0xE4, 0xE7, 0xE9, 0xEA]

/-- How many literal words follow a word (R97). -/
def literalCount (x : Word) : Nat :=
  if opcodeOf x = 0x18 then (if x.getLsbD 0 then 2 else 1)
  else if literalOpcodes.contains (opcodeOf x) && x.extractLsb' 0 7 == 127#7 then 1
  else 0

/-- SVC's codes: the device services of R402 have their own forms, and 0x3F84 to 0x3FFF may be signal return. -/
def decodeSvc (w : BitVec 3) (k : BitVec 14) : Instr :=
  if k = 0x3F80 then .svcWdog w
  else if k = 0x3F81 then .svcDebug w
  else if k = 0x3F82 then .svcCollreg w
  else if 0x3F84 ≤ k.toNat then .svcSigret w k
  else .svc w k

/-- Class 000, control, mode, predicate and move forms (R101). `x` is the first word; `l` and `h` are the literal words after it. -/
def decodeClass0 (x l h : Word) : Except DecodeError Instr :=
  match (x.extractLsb' 21 8).toNat with
  | 0x00 => if x &&& 0x1FFFFF#32 = 0x000000 then .ok (.nop (x.extractLsb' 29 3)) else .error .reservedField
  | 0x01 => if x &&& 0x1E0000#32 = 0 ∧ modeValueOk (x.extractLsb' 14 3) (x.extractLsb' 0 14) then .ok (.mode (x.extractLsb' 29 3) (x.extractLsb' 14 3) (x.extractLsb' 0 14)) else .error .reservedField
  | 0x02 => if x &&& 0x1FC07F#32 = 0x000000 then .ok (.modew (x.extractLsb' 29 3) (x.extractLsb' 7 7)) else .error .reservedField
  | 0x03 => .ok (.bra (x.extractLsb' 29 3) (x.extractLsb' 0 21))
  | 0x04 => .ok (.brz (x.extractLsb' 29 3) (x.extractLsb' 14 7) (x.extractLsb' 0 14))
  | 0x05 => .ok (.bnz (x.extractLsb' 29 3) (x.extractLsb' 14 7) (x.extractLsb' 0 14))
  | 0x06 => .ok (.brp (x.extractLsb' 29 3) (x.extractLsb' 0 21))
  | 0x07 => if x &&& 0x1FC07F#32 = 0x000000 then .ok (.jmpi (x.extractLsb' 29 3) (x.extractLsb' 7 7)) else .error .reservedField
  | 0x08 => .ok (.call (x.extractLsb' 29 3) (x.extractLsb' 14 7) (x.extractLsb' 0 14))
  | 0x09 => if x &&& 0x1FC000#32 = 0x000000 then .ok (.calli (x.extractLsb' 29 3) (x.extractLsb' 7 7) (x.extractLsb' 0 7)) else .error .reservedField
  | 0x0A => if x &&& 0x1FFFFF#32 = 0x000000 then .ok (.ret (x.extractLsb' 29 3)) else .error .reservedField
  | 0x0B => if x &&& 0x1FFFFF#32 = 0x000000 then .ok (.rcv (x.extractLsb' 29 3)) else .error .reservedField
  | 0x0C => if x &&& 0x1FFFFF#32 = 0x000000 then .ok (.exit (x.extractLsb' 29 3)) else .error .reservedField
  | 0x0D => if x &&& 0x1FFFFF#32 = 0x000000 then .ok (.yield (x.extractLsb' 29 3)) else .error .reservedField
  | 0x0E => .ok (.sigbr (x.extractLsb' 29 3) (x.extractLsb' 14 7) (x.extractLsb' 0 14))
  | 0x0F => .ok (.loop (x.extractLsb' 29 3) (x.extractLsb' 14 7) (x.extractLsb' 0 14))
  | 0x10 => if x &&& 0x1E007F#32 = 0x000000 then .ok (.pset (x.extractLsb' 29 3) (x.extractLsb' 14 3) (x.extractLsb' 7 7)) else .error .reservedField
  | 0x11 => if x &&& 0x1E3C78#32 = 0x000000 then .ok (.pand (x.extractLsb' 29 3) (x.extractLsb' 14 3) (x.extractLsb' 7 3) (x.extractLsb' 0 3)) else .error .reservedField
  | 0x12 => if x &&& 0x1E3C78#32 = 0x000000 then .ok (.por (x.extractLsb' 29 3) (x.extractLsb' 14 3) (x.extractLsb' 7 3) (x.extractLsb' 0 3)) else .error .reservedField
  | 0x13 => if x &&& 0x1E3C78#32 = 0x000000 then .ok (.pxor (x.extractLsb' 29 3) (x.extractLsb' 14 3) (x.extractLsb' 7 3) (x.extractLsb' 0 3)) else .error .reservedField
  | 0x14 => if x &&& 0x1E3C7F#32 = 0x000000 then .ok (.pnot (x.extractLsb' 29 3) (x.extractLsb' 14 3) (x.extractLsb' 7 3)) else .error .reservedField
  | 0x15 => if x &&& 0x1E3C7F#32 = 0x000000 then .ok (.pmov (x.extractLsb' 29 3) (x.extractLsb' 14 3) (x.extractLsb' 7 3)) else .error .reservedField
  | 0x16 => if x &&& 0x00007F#32 = 0x000000 then .ok (.mov (x.extractLsb' 29 3) (x.extractLsb' 14 7) (x.extractLsb' 7 7)) else .error .reservedField
  | 0x17 => .ok (.sel (x.extractLsb' 29 3) (x.extractLsb' 14 7) (x.extractLsb' 7 7) (srcOf (x.extractLsb' 0 7) l))
  | 0x18 => if x &&& 0x003FFE#32 = 0 then
      (if x.getLsbD 0 then .ok (.litWide (x.extractLsb' 29 3) (x.extractLsb' 14 7) (h ++ l))
       else .ok (.lit (x.extractLsb' 29 3) (x.extractLsb' 14 7) l)) else .error .reservedField
  | 0x1C => .ok (.movi (x.extractLsb' 29 3) (x.extractLsb' 14 7) (x.extractLsb' 21 2 ++ x.extractLsb' 0 14))
  | 0x1D => .ok (.movi (x.extractLsb' 29 3) (x.extractLsb' 14 7) (x.extractLsb' 21 2 ++ x.extractLsb' 0 14))
  | 0x1E => .ok (.movi (x.extractLsb' 29 3) (x.extractLsb' 14 7) (x.extractLsb' 21 2 ++ x.extractLsb' 0 14))
  | 0x1F => .ok (.movi (x.extractLsb' 29 3) (x.extractLsb' 14 7) (x.extractLsb' 21 2 ++ x.extractLsb' 0 14))
  | _ => .ok (.unassignedOpcode x)

/-- Class 001, integer and address forms (R101). `x` is the first word; `l` and `h` are the literal words after it. -/
def decodeClass1 (x l : Word) : Except DecodeError Instr :=
  match (x.extractLsb' 21 8).toNat with
  | 0x20 => .ok (.iaddA (x.extractLsb' 29 3) (x.extractLsb' 14 7) (x.extractLsb' 7 7) (srcOf (x.extractLsb' 0 7) l))
  | 0x21 => .ok (.iaddB (x.extractLsb' 29 3) (x.extractLsb' 14 7) (x.extractLsb' 7 7) (x.extractLsb' 0 7))
  | 0x22 => .ok (.isub (x.extractLsb' 29 3) (x.extractLsb' 14 7) (x.extractLsb' 7 7) (srcOf (x.extractLsb' 0 7) l))
  | 0x23 => .ok (.imul (x.extractLsb' 29 3) (x.extractLsb' 14 7) (x.extractLsb' 7 7) (srcOf (x.extractLsb' 0 7) l))
  | 0x24 => .ok (.imulh (x.extractLsb' 29 3) (x.extractLsb' 14 7) (x.extractLsb' 7 7) (srcOf (x.extractLsb' 0 7) l))
  | 0x25 => .ok (.imad (x.extractLsb' 29 3) (x.extractLsb' 14 7) (x.extractLsb' 7 7) (srcOf (x.extractLsb' 0 7) l))
  | 0x26 => .ok (.iaddc (x.extractLsb' 29 3) (x.extractLsb' 14 7) (x.extractLsb' 7 7) (srcOf (x.extractLsb' 0 7) l))
  | 0x27 => if x &&& 0x00007F#32 = 0x000000 then .ok (.ineg (x.extractLsb' 29 3) (x.extractLsb' 14 7) (x.extractLsb' 7 7)) else .error .reservedField
  | 0x28 => if x &&& 0x00007F#32 = 0x000000 then .ok (.iabs (x.extractLsb' 29 3) (x.extractLsb' 14 7) (x.extractLsb' 7 7)) else .error .reservedField
  | 0x29 => .ok (.imin (x.extractLsb' 29 3) (x.extractLsb' 14 7) (x.extractLsb' 7 7) (srcOf (x.extractLsb' 0 7) l))
  | 0x2A => .ok (.imax (x.extractLsb' 29 3) (x.extractLsb' 14 7) (x.extractLsb' 7 7) (srcOf (x.extractLsb' 0 7) l))
  | 0x2B => .ok (.shlA (x.extractLsb' 29 3) (x.extractLsb' 14 7) (x.extractLsb' 7 7) (srcOf (x.extractLsb' 0 7) l))
  | 0x2C => .ok (.shlB (x.extractLsb' 29 3) (x.extractLsb' 14 7) (x.extractLsb' 7 7) (x.extractLsb' 0 7))
  | 0x2D => .ok (.shrA (x.extractLsb' 29 3) (x.extractLsb' 14 7) (x.extractLsb' 7 7) (srcOf (x.extractLsb' 0 7) l))
  | 0x2E => .ok (.shrB (x.extractLsb' 29 3) (x.extractLsb' 14 7) (x.extractLsb' 7 7) (x.extractLsb' 0 7))
  | 0x2F => .ok (.sarA (x.extractLsb' 29 3) (x.extractLsb' 14 7) (x.extractLsb' 7 7) (srcOf (x.extractLsb' 0 7) l))
  | 0x30 => .ok (.sarB (x.extractLsb' 29 3) (x.extractLsb' 14 7) (x.extractLsb' 7 7) (x.extractLsb' 0 7))
  | 0x31 => .ok (.rot (x.extractLsb' 29 3) (x.extractLsb' 14 7) (x.extractLsb' 7 7) (srcOf (x.extractLsb' 0 7) l))
  | 0x32 => .ok (.andA (x.extractLsb' 29 3) (x.extractLsb' 14 7) (x.extractLsb' 7 7) (srcOf (x.extractLsb' 0 7) l))
  | 0x33 => .ok (.andB (x.extractLsb' 29 3) (x.extractLsb' 14 7) (x.extractLsb' 7 7) (x.extractLsb' 0 7))
  | 0x34 => .ok (.or (x.extractLsb' 29 3) (x.extractLsb' 14 7) (x.extractLsb' 7 7) (srcOf (x.extractLsb' 0 7) l))
  | 0x35 => .ok (.xor (x.extractLsb' 29 3) (x.extractLsb' 14 7) (x.extractLsb' 7 7) (srcOf (x.extractLsb' 0 7) l))
  | 0x36 => .ok (.andn (x.extractLsb' 29 3) (x.extractLsb' 14 7) (x.extractLsb' 7 7) (srcOf (x.extractLsb' 0 7) l))
  | 0x37 => if x &&& 0x00007F#32 = 0x000000 then .ok (.clz (x.extractLsb' 29 3) (x.extractLsb' 14 7) (x.extractLsb' 7 7)) else .error .reservedField
  | 0x38 => if x &&& 0x00007F#32 = 0x000000 then .ok (.popc (x.extractLsb' 29 3) (x.extractLsb' 14 7) (x.extractLsb' 7 7)) else .error .reservedField
  | 0x39 => if x &&& 0x00007F#32 = 0x000000 then .ok (.brev (x.extractLsb' 29 3) (x.extractLsb' 14 7) (x.extractLsb' 7 7)) else .error .reservedField
  | 0x3A => .ok (.bfx (x.extractLsb' 29 3) (x.extractLsb' 14 7) (x.extractLsb' 7 7) (srcOf (x.extractLsb' 0 7) l))
  | 0x3B => .ok (.bfi (x.extractLsb' 29 3) (x.extractLsb' 14 7) (x.extractLsb' 7 7) (srcOf (x.extractLsb' 0 7) l))
  | 0x3C => match IntCond.ofBits (x.extractLsb' 17 4) with | some c => .ok (.icmpA (x.extractLsb' 29 3) c (x.extractLsb' 14 3) (x.extractLsb' 7 7) (srcOf (x.extractLsb' 0 7) l)) | none => .error .reservedSubOperation
  | 0x3D => match IntCond.ofBits (x.extractLsb' 17 4) with | some c => .ok (.icmpB (x.extractLsb' 29 3) c (x.extractLsb' 14 3) (x.extractLsb' 7 7) (x.extractLsb' 0 7)) | none => .error .reservedSubOperation
  | 0x3E => .ok (.addr (x.extractLsb' 29 3) (x.extractLsb' 14 7) (x.extractLsb' 7 7) (srcOf (x.extractLsb' 0 7) l))
  | 0x3F => if x &&& 0x000070#32 = 0x000000 then .ok (.cvti (x.extractLsb' 29 3) (x.extractLsb' 14 7) (x.extractLsb' 7 7) (x.extractLsb' 0 4)) else .error .reservedField
  | _ => .ok (.unassignedOpcode x)

/-- Class 010, floating point forms (R101). `x` is the first word; `l` and `h` are the literal words after it. -/
def decodeClass2 (x l : Word) : Except DecodeError Instr :=
  match (x.extractLsb' 21 8).toNat with
  | 0x40 => .ok (.fadd (x.extractLsb' 29 3) (x.extractLsb' 14 7) (x.extractLsb' 7 7) (srcOf (x.extractLsb' 0 7) l))
  | 0x41 => .ok (.fsub (x.extractLsb' 29 3) (x.extractLsb' 14 7) (x.extractLsb' 7 7) (srcOf (x.extractLsb' 0 7) l))
  | 0x42 => .ok (.fmul (x.extractLsb' 29 3) (x.extractLsb' 14 7) (x.extractLsb' 7 7) (srcOf (x.extractLsb' 0 7) l))
  | 0x43 => .ok (.ffma (x.extractLsb' 29 3) (x.extractLsb' 14 7) (x.extractLsb' 7 7) (srcOf (x.extractLsb' 0 7) l))
  | 0x44 => .ok (.ffms (x.extractLsb' 29 3) (x.extractLsb' 14 7) (x.extractLsb' 7 7) (srcOf (x.extractLsb' 0 7) l))
  | 0x45 => .ok (.fdiv (x.extractLsb' 29 3) (x.extractLsb' 14 7) (x.extractLsb' 7 7) (srcOf (x.extractLsb' 0 7) l))
  | 0x46 => if x &&& 0x00007F#32 = 0x000000 then .ok (.fsqrt (x.extractLsb' 29 3) (x.extractLsb' 14 7) (x.extractLsb' 7 7)) else .error .reservedField
  | 0x47 => if x &&& 0x00007F#32 = 0x000000 then .ok (.frcp (x.extractLsb' 29 3) (x.extractLsb' 14 7) (x.extractLsb' 7 7)) else .error .reservedField
  | 0x48 => if x &&& 0x00007F#32 = 0x000000 then .ok (.frsq (x.extractLsb' 29 3) (x.extractLsb' 14 7) (x.extractLsb' 7 7)) else .error .reservedField
  | 0x49 => .ok (.fmin (x.extractLsb' 29 3) (x.extractLsb' 14 7) (x.extractLsb' 7 7) (srcOf (x.extractLsb' 0 7) l))
  | 0x4A => .ok (.fmax (x.extractLsb' 29 3) (x.extractLsb' 14 7) (x.extractLsb' 7 7) (srcOf (x.extractLsb' 0 7) l))
  | 0x4B => if x &&& 0x00007F#32 = 0x000000 then .ok (.fabs (x.extractLsb' 29 3) (x.extractLsb' 14 7) (x.extractLsb' 7 7)) else .error .reservedField
  | 0x4C => if x &&& 0x00007F#32 = 0x000000 then .ok (.fneg (x.extractLsb' 29 3) (x.extractLsb' 14 7) (x.extractLsb' 7 7)) else .error .reservedField
  | 0x4D => .ok (.fcps (x.extractLsb' 29 3) (x.extractLsb' 14 7) (x.extractLsb' 7 7) (srcOf (x.extractLsb' 0 7) l))
  | 0x4E => match FloatCond.ofBits (x.extractLsb' 17 4) with | some c => .ok (.fcmp (x.extractLsb' 29 3) c (x.extractLsb' 14 3) (x.extractLsb' 7 7) (srcOf (x.extractLsb' 0 7) l)) | none => .error .reservedSubOperation
  | 0x4F => if x &&& 0x00007F#32 = 0x000000 then .ok (.fclass (x.extractLsb' 29 3) (x.extractLsb' 14 7) (x.extractLsb' 7 7)) else .error .reservedField
  | 0x50 => if x &&& 0x000070#32 = 0x000000 then .ok (.fcvt (x.extractLsb' 29 3) (x.extractLsb' 14 7) (x.extractLsb' 7 7) (x.extractLsb' 0 4)) else .error .reservedField
  | 0x51 => if x &&& 0x000070#32 = 0x000000 then .ok (.icvt (x.extractLsb' 29 3) (x.extractLsb' 14 7) (x.extractLsb' 7 7) (x.extractLsb' 0 4)) else .error .reservedField
  | 0x52 => if x &&& 0x00007F#32 = 0x000000 then .ok (.frnd (x.extractLsb' 29 3) (x.extractLsb' 14 7) (x.extractLsb' 7 7)) else .error .reservedField
  | 0x53 => if x &&& 0x00007F#32 = 0x000000 then .ok (.fexp2 (x.extractLsb' 29 3) (x.extractLsb' 14 7) (x.extractLsb' 7 7)) else .error .reservedField
  | 0x54 => if x &&& 0x00007F#32 = 0x000000 then .ok (.flog2 (x.extractLsb' 29 3) (x.extractLsb' 14 7) (x.extractLsb' 7 7)) else .error .reservedField
  | 0x55 => if x &&& 0x00007F#32 = 0x000000 then .ok (.fsin (x.extractLsb' 29 3) (x.extractLsb' 14 7) (x.extractLsb' 7 7)) else .error .reservedField
  | 0x56 => if x &&& 0x00007F#32 = 0x000000 then .ok (.fcos (x.extractLsb' 29 3) (x.extractLsb' 14 7) (x.extractLsb' 7 7)) else .error .reservedField
  | 0x57 => .ok (.fscale (x.extractLsb' 29 3) (x.extractLsb' 14 7) (x.extractLsb' 7 7) (srcOf (x.extractLsb' 0 7) l))
  | 0x58 => if x &&& 0x00007F#32 = 0x000000 then .ok (.ftag (x.extractLsb' 29 3) (x.extractLsb' 14 7) (x.extractLsb' 7 7)) else .error .reservedField
  | 0x59 => if x &&& 0x003F80#32 = 0x000000 then .ok (.ftagw (x.extractLsb' 29 3) (x.extractLsb' 14 7) (srcOf (x.extractLsb' 0 7) l)) else .error .reservedField
  | _ => .ok (.unassignedOpcode x)

/-- Class 011, lane forms (R101). `x` is the first word; `l` and `h` are the literal words after it. -/
def decodeClass3 (x l : Word) : Except DecodeError Instr :=
  match (x.extractLsb' 21 8).toNat with
  | 0x60 => .ok (.shflIdxA (x.extractLsb' 29 3) (x.extractLsb' 14 7) (x.extractLsb' 7 7) (srcOf (x.extractLsb' 0 7) l))
  | 0x61 => .ok (.shflUpA (x.extractLsb' 29 3) (x.extractLsb' 14 7) (x.extractLsb' 7 7) (srcOf (x.extractLsb' 0 7) l))
  | 0x62 => .ok (.shflDownA (x.extractLsb' 29 3) (x.extractLsb' 14 7) (x.extractLsb' 7 7) (srcOf (x.extractLsb' 0 7) l))
  | 0x63 => .ok (.shflXorA (x.extractLsb' 29 3) (x.extractLsb' 14 7) (x.extractLsb' 7 7) (srcOf (x.extractLsb' 0 7) l))
  | 0x64 => if x &&& 0x000060#32 = 0x000000 then .ok (.shflIdxB (x.extractLsb' 29 3) (x.extractLsb' 14 7) (x.extractLsb' 7 7) (x.extractLsb' 0 5)) else .error .reservedField
  | 0x65 => if x &&& 0x000060#32 = 0x000000 then .ok (.shflUpB (x.extractLsb' 29 3) (x.extractLsb' 14 7) (x.extractLsb' 7 7) (x.extractLsb' 0 5)) else .error .reservedField
  | 0x66 => if x &&& 0x000060#32 = 0x000000 then .ok (.shflDownB (x.extractLsb' 29 3) (x.extractLsb' 14 7) (x.extractLsb' 7 7) (x.extractLsb' 0 5)) else .error .reservedField
  | 0x67 => if x &&& 0x000060#32 = 0x000000 then .ok (.shflXorB (x.extractLsb' 29 3) (x.extractLsb' 14 7) (x.extractLsb' 7 7) (x.extractLsb' 0 5)) else .error .reservedField
  | 0x68 => if x &&& 0x1E3C7F#32 = 0x000000 then .ok (.voteAny (x.extractLsb' 29 3) (x.extractLsb' 14 3) (x.extractLsb' 7 3)) else if x &&& 0x1E3C7F#32 = 0x000001 then .ok (.voteAll (x.extractLsb' 29 3) (x.extractLsb' 14 3) (x.extractLsb' 7 3)) else if x &&& 0x003C7F#32 = 0x000002 then .ok (.voteBallot (x.extractLsb' 29 3) (x.extractLsb' 14 7) (x.extractLsb' 7 3)) else if x &&& 0x1E3C7F#32 = 0x000003 then .ok (.voteEq (x.extractLsb' 29 3) (x.extractLsb' 14 3) (x.extractLsb' 7 3)) else .error .reservedSubOperation
  | 0x69 => if x &&& 0x1FC000#32 = 0x000000 then .ok (.wsync (x.extractLsb' 29 3) (x.extractLsb' 7 7) (srcOf (x.extractLsb' 0 7) l)) else .error .reservedField
  | 0x6A => if x &&& 0x000078#32 = 0x000000 then (match RedOp.ofBits (x.extractLsb' 0 3) with | some o => .ok (.wred (x.extractLsb' 29 3) (x.extractLsb' 14 7) (x.extractLsb' 7 7) o) | none => .error .reservedSubOperation) else .error .reservedField
  | 0x6B => if x &&& 0x000078#32 = 0x000000 then (match RedOp.ofBits (x.extractLsb' 0 3) with | some o => .ok (.wscan (x.extractLsb' 29 3) (x.extractLsb' 14 7) (x.extractLsb' 7 7) o) | none => .error .reservedSubOperation) else .error .reservedField
  | 0x6C => .ok (.rdlaneA (x.extractLsb' 29 3) (x.extractLsb' 14 7) (x.extractLsb' 7 7) (srcOf (x.extractLsb' 0 7) l))
  | 0x6D => if x &&& 0x000060#32 = 0x000000 then .ok (.rdlaneB (x.extractLsb' 29 3) (x.extractLsb' 14 7) (x.extractLsb' 7 7) (x.extractLsb' 0 5)) else .error .reservedField
  | 0x6E => .ok (.wrlaneA (x.extractLsb' 29 3) (x.extractLsb' 14 7) (x.extractLsb' 7 7) (srcOf (x.extractLsb' 0 7) l))
  | 0x6F => if x &&& 0x000060#32 = 0x000000 then .ok (.wrlaneB (x.extractLsb' 29 3) (x.extractLsb' 14 7) (x.extractLsb' 7 7) (x.extractLsb' 0 5)) else .error .reservedField
  | 0x70 => if x &&& 0x00007F#32 = 0x000000 then .ok (.mask (x.extractLsb' 29 3) (x.extractLsb' 14 7) (x.extractLsb' 7 7)) else .error .reservedField
  | 0x71 => if x &&& 0x003FFF#32 = 0x000000 then .ok (.execq (x.extractLsb' 29 3) (x.extractLsb' 14 7)) else .error .reservedField
  | 0x72 => .ok (.wperm (x.extractLsb' 29 3) (x.extractLsb' 14 7) (x.extractLsb' 7 7) (srcOf (x.extractLsb' 0 7) l))
  | _ => .ok (.unassignedOpcode x)

/-- Class 100, memory forms (R101). `x` is the first word; `l` and `h` are the literal words after it. -/
def decodeClass4 (x : Word) : Except DecodeError Instr :=
  match (x.extractLsb' 21 8).toNat with
  | 0x80 => .ok (.ldM (x.extractLsb' 29 3) (x.extractLsb' 14 7) (x.extractLsb' 9 5) (Ord.ofBits (x.extractLsb' 7 2)) (x.extractLsb' 0 7))
  | 0x81 => .ok (.ldMi (x.extractLsb' 29 3) (x.extractLsb' 14 7) (x.extractLsb' 9 5) (Ord.ofBits (x.extractLsb' 7 2)) (x.extractLsb' 0 7))
  | 0x82 => .ok (.stM (x.extractLsb' 29 3) (x.extractLsb' 14 7) (x.extractLsb' 9 5) (Ord.ofBits (x.extractLsb' 7 2)) (x.extractLsb' 0 7))
  | 0x83 => .ok (.stMi (x.extractLsb' 29 3) (x.extractLsb' 14 7) (x.extractLsb' 9 5) (Ord.ofBits (x.extractLsb' 7 2)) (x.extractLsb' 0 7))
  | 0x84 => .ok (.ldsM (x.extractLsb' 29 3) (x.extractLsb' 14 7) (x.extractLsb' 9 5) (Ord.ofBits (x.extractLsb' 7 2)) (x.extractLsb' 0 7))
  | 0x85 => .ok (.ldsMi (x.extractLsb' 29 3) (x.extractLsb' 14 7) (x.extractLsb' 9 5) (Ord.ofBits (x.extractLsb' 7 2)) (x.extractLsb' 0 7))
  | 0x86 => .ok (.stsM (x.extractLsb' 29 3) (x.extractLsb' 14 7) (x.extractLsb' 9 5) (Ord.ofBits (x.extractLsb' 7 2)) (x.extractLsb' 0 7))
  | 0x87 => .ok (.stsMi (x.extractLsb' 29 3) (x.extractLsb' 14 7) (x.extractLsb' 9 5) (Ord.ofBits (x.extractLsb' 7 2)) (x.extractLsb' 0 7))
  | 0x88 => .ok (.ldu (x.extractLsb' 29 3) (x.extractLsb' 14 7) (x.extractLsb' 9 5) (Ord.ofBits (x.extractLsb' 7 2)) (x.extractLsb' 0 7))
  | 0x89 => .ok (.stu (x.extractLsb' 29 3) (x.extractLsb' 14 7) (x.extractLsb' 9 5) (Ord.ofBits (x.extractLsb' 7 2)) (x.extractLsb' 0 7))
  | 0x8A => .ok (.ldx (x.extractLsb' 29 3) (x.extractLsb' 14 7) (x.extractLsb' 9 5) (Ord.ofBits (x.extractLsb' 7 2)) (x.extractLsb' 0 7))
  | 0x8B => .ok (.stx (x.extractLsb' 29 3) (x.extractLsb' 14 7) (x.extractLsb' 9 5) (Ord.ofBits (x.extractLsb' 7 2)) (x.extractLsb' 0 7))
  | 0x8C => if x &&& 0x1FC180#32 = 0x180000 then .ok (.pref (x.extractLsb' 29 3) (x.extractLsb' 9 5) (x.extractLsb' 0 7)) else .error .reservedField
  | 0x8D => .ok (.cas (x.extractLsb' 29 3) (x.extractLsb' 14 7) (x.extractLsb' 9 5) (Ord.ofBits (x.extractLsb' 7 2)) (x.extractLsb' 0 7))
  | 0x8E => .ok (.fatom (x.extractLsb' 29 3) (x.extractLsb' 14 7) (x.extractLsb' 9 5) (Ord.ofBits (x.extractLsb' 7 2)) (x.extractLsb' 0 7))
  | 0x8F => .ok (.fatomq (x.extractLsb' 29 3) (x.extractLsb' 14 7) (x.extractLsb' 9 5) (Ord.ofBits (x.extractLsb' 7 2)) (x.extractLsb' 0 7))
  | 0x90 => .ok (.atomAdd (x.extractLsb' 29 3) (x.extractLsb' 14 7) (x.extractLsb' 9 5) (Ord.ofBits (x.extractLsb' 7 2)) (x.extractLsb' 0 7))
  | 0x91 => .ok (.atomSub (x.extractLsb' 29 3) (x.extractLsb' 14 7) (x.extractLsb' 9 5) (Ord.ofBits (x.extractLsb' 7 2)) (x.extractLsb' 0 7))
  | 0x92 => .ok (.atomMin (x.extractLsb' 29 3) (x.extractLsb' 14 7) (x.extractLsb' 9 5) (Ord.ofBits (x.extractLsb' 7 2)) (x.extractLsb' 0 7))
  | 0x93 => .ok (.atomMax (x.extractLsb' 29 3) (x.extractLsb' 14 7) (x.extractLsb' 9 5) (Ord.ofBits (x.extractLsb' 7 2)) (x.extractLsb' 0 7))
  | 0x94 => .ok (.atomAnd (x.extractLsb' 29 3) (x.extractLsb' 14 7) (x.extractLsb' 9 5) (Ord.ofBits (x.extractLsb' 7 2)) (x.extractLsb' 0 7))
  | 0x95 => .ok (.atomOr (x.extractLsb' 29 3) (x.extractLsb' 14 7) (x.extractLsb' 9 5) (Ord.ofBits (x.extractLsb' 7 2)) (x.extractLsb' 0 7))
  | 0x96 => .ok (.atomXor (x.extractLsb' 29 3) (x.extractLsb' 14 7) (x.extractLsb' 9 5) (Ord.ofBits (x.extractLsb' 7 2)) (x.extractLsb' 0 7))
  | 0x97 => .ok (.atomExch (x.extractLsb' 29 3) (x.extractLsb' 14 7) (x.extractLsb' 9 5) (Ord.ofBits (x.extractLsb' 7 2)) (x.extractLsb' 0 7))
  | 0x98 => if x &&& 0x1FFFFF#32 = 0x000080 then .ok (.fenceAcq (x.extractLsb' 29 3)) else if x &&& 0x1FFFFF#32 = 0x000100 then .ok (.fenceRel (x.extractLsb' 29 3)) else if x &&& 0x1FFFFF#32 = 0x000180 then .ok (.fenceAr (x.extractLsb' 29 3)) else .error .reservedSubOperation
  | 0x99 => if x &&& 0x1FFFFF#32 = 0x000000 then .ok (.drains (x.extractLsb' 29 3)) else .error .reservedField
  | 0x9A => if x &&& 0x0001FF#32 = 0x000060 then .ok (.recset (x.extractLsb' 29 3) (x.extractLsb' 14 7) (x.extractLsb' 9 5)) else .error .reservedField
  | 0x9B => if x &&& 0x000180#32 = 0x000000 then .ok (.recmod (x.extractLsb' 29 3) (x.extractLsb' 14 7) (x.extractLsb' 9 5) (x.extractLsb' 0 7)) else .error .reservedField
  | 0x9C => if x &&& 0x000180#32 = 0x000000 then .ok (.recget (x.extractLsb' 29 3) (x.extractLsb' 14 7) (x.extractLsb' 9 5) (x.extractLsb' 0 7)) else .error .reservedField
  | 0x9D => if x &&& 0x1FC180#32 = 0x180000 then .ok (.cwb (x.extractLsb' 29 3) (x.extractLsb' 9 5) (x.extractLsb' 0 7)) else .error .reservedField
  | 0x9E => if x &&& 0x1FC180#32 = 0x180000 then .ok (.cinv (x.extractLsb' 29 3) (x.extractLsb' 9 5) (x.extractLsb' 0 7)) else .error .reservedField
  | 0x9F => if x &&& 0x000180#32 = 0x000000 then .ok (.fifopReserve (x.extractLsb' 29 3) (x.extractLsb' 14 7) (x.extractLsb' 9 5) (x.extractLsb' 0 7)) else if x &&& 0x000180#32 = 0x000080 then .ok (.fifopClaim (x.extractLsb' 29 3) (x.extractLsb' 14 7) (x.extractLsb' 9 5) (x.extractLsb' 0 7)) else .error .reservedSubOperation
  | _ => .ok (.unassignedOpcode x)

/-- Class 101, engine forms (R101). `x` is the first word; `l` and `h` are the literal words after it. -/
def decodeClass5 (x : Word) : Except DecodeError Instr :=
  match (x.extractLsb' 21 8).toNat with
  | 0xA0 => if x &&& 0x0001FF#32 = 0x000000 then .ok (.wload (x.extractLsb' 29 3) (x.extractLsb' 14 7) (x.extractLsb' 9 5)) else .error .reservedField
  | 0xA1 => if x &&& 0x0001FF#32 = 0x000000 then .ok (.mma (x.extractLsb' 29 3) (x.extractLsb' 14 7) (x.extractLsb' 9 5)) else .error .reservedField
  | 0xA2 => if x &&& 0x003FFC#32 = 0x000000 then .ok (.accz (x.extractLsb' 29 3) (x.extractLsb' 14 7) (x.extractLsb' 0 2)) else .error .reservedField
  | 0xA3 => if x &&& 0x003E08#32 = 0x000000 then .ok (.accrd (x.extractLsb' 29 3) (x.extractLsb' 14 7) (x.extractLsb' 4 5) (x.extractLsb' 0 3)) else .error .reservedField
  | 0xA4 => if x &&& 0x0001FC#32 = 0x000000 then .ok (.accld (x.extractLsb' 29 3) (x.extractLsb' 14 7) (x.extractLsb' 9 5) (x.extractLsb' 0 2)) else .error .reservedField
  | 0xA5 => if x &&& 0x003FFF#32 = 0x000000 then .ok (.iron (x.extractLsb' 29 3) (x.extractLsb' 14 7)) else .error .reservedField
  | 0xA6 => if x &&& 0x003FFF#32 = 0x000000 then .ok (.ironp (x.extractLsb' 29 3) (x.extractLsb' 14 7)) else .error .reservedField
  | 0xA7 => if x &&& 0x00000F#32 = 0x000000 then .ok (.copy (x.extractLsb' 29 3) (x.extractLsb' 14 7) (x.extractLsb' 9 5) (x.extractLsb' 4 5)) else .error .reservedField
  | 0xA8 => if x &&& 0x00000F#32 = 0x000000 then .ok (.gather (x.extractLsb' 29 3) (x.extractLsb' 14 7) (x.extractLsb' 9 5) (x.extractLsb' 4 5)) else .error .reservedField
  | 0xA9 => if x &&& 0x00000F#32 = 0x000000 then .ok (.scat (x.extractLsb' 29 3) (x.extractLsb' 14 7) (x.extractLsb' 9 5) (x.extractLsb' 4 5)) else .error .reservedField
  | 0xAA => if x &&& 0x00000E#32 = 0x000000 then .ok (.quant (x.extractLsb' 29 3) (x.extractLsb' 14 7) (x.extractLsb' 9 5) (x.extractLsb' 4 5) (x.extractLsb' 0 1)) else .error .reservedField
  | 0xAB => if x &&& 0x00000F#32 = 0x000000 then .ok (.coll (x.extractLsb' 29 3) (x.extractLsb' 14 7) (x.extractLsb' 9 5) (x.extractLsb' 4 5)) else .error .reservedField
  | 0xAC => if x &&& 0x1FC07F#32 = 0x000000 then .ok (.cancel (x.extractLsb' 29 3) (x.extractLsb' 7 7)) else .error .reservedField
  | 0xAD => if x &&& 0x00007F#32 = 0x000000 then .ok (.opq (x.extractLsb' 29 3) (x.extractLsb' 14 7) (x.extractLsb' 7 7)) else .error .reservedField
  | 0xAE => if x &&& 0x00007F#32 = 0x000000 then .ok (.opwait (x.extractLsb' 29 3) (x.extractLsb' 14 7) (x.extractLsb' 7 7)) else .error .reservedField
  | _ => .ok (.unassignedOpcode x)

/-- Class 110, message and synchronisation forms (R101). `x` is the first word; `l` and `h` are the literal words after it. -/
def decodeClass6 (x l : Word) : Except DecodeError Instr :=
  match (x.extractLsb' 21 8).toNat with
  | 0xC0 => if x &&& 0x1FC000#32 = 0x000000 then .ok (.send (x.extractLsb' 29 3) (x.extractLsb' 7 7) (srcOf (x.extractLsb' 0 7) l)) else .error .reservedField
  | 0xC1 => if x &&& 0x1FC000#32 = 0x000000 then .ok (.sendp (x.extractLsb' 29 3) (x.extractLsb' 7 7) (srcOf (x.extractLsb' 0 7) l)) else .error .reservedField
  | 0xC2 => if x &&& 0x00007F#32 = 0x000000 then .ok (.recv (x.extractLsb' 29 3) (x.extractLsb' 14 7) (x.extractLsb' 7 7)) else .error .reservedField
  | 0xC3 => if x &&& 0x1FFFF0#32 = 0x000000 then .ok (.jwait (x.extractLsb' 29 3) (x.extractLsb' 0 4)) else .error .reservedField
  | 0xC4 => if x &&& 0x1FFFF0#32 = 0x000010 then .ok (.patenOn (x.extractLsb' 29 3) (x.extractLsb' 0 4)) else if x &&& 0x1FFFF0#32 = 0x000000 then .ok (.patenOff (x.extractLsb' 29 3) (x.extractLsb' 0 4)) else .error .reservedSubOperation
  | 0xC5 => if x &&& 0x00007F#32 = 0x000000 then .ok (.portq (x.extractLsb' 29 3) (x.extractLsb' 14 7) (x.extractLsb' 7 7)) else .error .reservedField
  | 0xC6 => if x &&& 0x1FFFFF#32 = 0x000000 then .ok (.bar (x.extractLsb' 29 3)) else .error .reservedField
  | 0xC7 => if x &&& 0x1FFFFF#32 = 0x000000 then .ok (.sbar (x.extractLsb' 29 3)) else .error .reservedField
  | 0xC8 => if x &&& 0x1FC000#32 = 0x000000 then .ok (.trap (x.extractLsb' 29 3) (x.extractLsb' 0 14)) else .error .reservedField
  | _ => .ok (.unassignedOpcode x)

/-- Class 111, system forms (R101). `x` is the first word; `l` and `h` are the literal words after it. -/
def decodeClass7 (x l : Word) : Except DecodeError Instr :=
  match (x.extractLsb' 21 8).toNat with
  | 0xE0 => if x &&& 0x003000#32 = 0x000000 then .ok (.rdsys (x.extractLsb' 29 3) (x.extractLsb' 14 7) (x.extractLsb' 0 12)) else .error .reservedField
  | 0xE1 => if x &&& 0x003000#32 = 0x000000 then .ok (.wrsys (x.extractLsb' 29 3) (x.extractLsb' 14 7) (x.extractLsb' 0 12)) else .error .reservedField
  | 0xE2 => if x &&& 0x1FFFFF#32 = 0x000000 then .ok (.eret (x.extractLsb' 29 3)) else .error .reservedField
  | 0xE3 => if x &&& 0x1FC000#32 = 0x000000 then .ok (.tlbi (x.extractLsb' 29 3) (x.extractLsb' 7 7) (srcOf (x.extractLsb' 0 7) l)) else .error .reservedField
  | 0xE4 => .ok (.ctxsv (x.extractLsb' 29 3) (x.extractLsb' 14 7) (x.extractLsb' 7 7) (srcOf (x.extractLsb' 0 7) l))
  | 0xE5 => if x &&& 0x00007F#32 = 0x000000 then .ok (.ctxld (x.extractLsb' 29 3) (x.extractLsb' 14 7) (x.extractLsb' 7 7)) else .error .reservedField
  | 0xE6 => if x &&& 0x1FC07F#32 = 0x000000 then .ok (.hrelReplay (x.extractLsb' 29 3) (x.extractLsb' 7 7)) else if x &&& 0x1FC07F#32 = 0x000001 then .ok (.hrelSkip (x.extractLsb' 29 3) (x.extractLsb' 7 7)) else if x &&& 0x1FC07F#32 = 0x000002 then .ok (.hrelSignal (x.extractLsb' 29 3) (x.extractLsb' 7 7)) else if x &&& 0x1FC07F#32 = 0x000003 then .ok (.hrelKill (x.extractLsb' 29 3) (x.extractLsb' 7 7)) else .error .reservedSubOperation
  | 0xE7 => if x &&& 0x1FC000#32 = 0x000000 then .ok (.sigpost (x.extractLsb' 29 3) (x.extractLsb' 7 7) (srcOf (x.extractLsb' 0 7) l)) else .error .reservedField
  | 0xE8 => if x &&& 0x00007F#32 = 0x000000 then .ok (.bankm (x.extractLsb' 29 3) (x.extractLsb' 14 7) (x.extractLsb' 7 7)) else .error .reservedField
  | 0xE9 => .ok (.chkpt (x.extractLsb' 29 3) (x.extractLsb' 14 7) (x.extractLsb' 7 7) (srcOf (x.extractLsb' 0 7) l))
  | 0xEA => .ok (.sfqPeek (x.extractLsb' 29 3) (x.extractLsb' 14 7) (x.extractLsb' 7 7) (srcOf (x.extractLsb' 0 7) l))
  | 0xEB => if x &&& 0x00007F#32 = 0x000000 then .ok (.pmcrd (x.extractLsb' 29 3) (x.extractLsb' 14 7) (x.extractLsb' 7 7)) else .error .reservedField
  | 0xEC => if x &&& 0x1FC000#32 = 0 then .ok (decodeSvc (x.extractLsb' 29 3) (x.extractLsb' 0 14)) else .error .reservedField
  | 0xED => if x &&& 0x1FC000#32 = 0x000000 then .ok (.bkpt (x.extractLsb' 29 3) (x.extractLsb' 0 14)) else .error .reservedField
  | _ => .ok (.unassignedOpcode x)

/-- The instruction of a word and the two words after it, of which it takes its literals (R97). An unassigned opcode is
the event UNASSIGNED_OPCODE (R101). -/
def decodeWords (x l h : Word) : Except DecodeError Instr :=
  match (x.extractLsb' 26 3).toNat with
  | 0 => decodeClass0 x l h
  | 1 => decodeClass1 x l
  | 2 => decodeClass2 x l
  | 3 => decodeClass3 x l
  | 4 => decodeClass4 x
  | 5 => decodeClass5 x
  | 6 => decodeClass6 x l
  | _ => decodeClass7 x l

/-- The words of an instruction, first word first; an event has none. -/
def encode : Instr → List Word
  | .nop w => [w ++ 0x00#8 ++ 0#21]
  | .mode w g v => [w ++ 0x01#8 ++ 0#4 ++ g ++ v]
  | .modew w a => [w ++ 0x02#8 ++ 0#7 ++ a ++ 0#7]
  | .bra w o => [w ++ 0x03#8 ++ o]
  | .brz w s o => [w ++ 0x04#8 ++ s ++ o]
  | .bnz w s o => [w ++ 0x05#8 ++ s ++ o]
  | .brp w o => [w ++ 0x06#8 ++ o]
  | .jmpi w a => [w ++ 0x07#8 ++ 0#7 ++ a ++ 0#7]
  | .call w f o => [w ++ 0x08#8 ++ f ++ o]
  | .calli w a f => [w ++ 0x09#8 ++ 0#7 ++ a ++ f]
  | .ret w => [w ++ 0x0A#8 ++ 0#21]
  | .rcv w => [w ++ 0x0B#8 ++ 0#21]
  | .exit w => [w ++ 0x0C#8 ++ 0#21]
  | .yield w => [w ++ 0x0D#8 ++ 0#21]
  | .sigbr w x o => [w ++ 0x0E#8 ++ x ++ o]
  | .loop w s o => [w ++ 0x0F#8 ++ s ++ o]
  | .pset w p a => [w ++ 0x10#8 ++ 0#4 ++ p ++ a ++ 0#7]
  | .pand w d a b => [w ++ 0x11#8 ++ 0#4 ++ d ++ 0#4 ++ a ++ 0#4 ++ b]
  | .por w d a b => [w ++ 0x12#8 ++ 0#4 ++ d ++ 0#4 ++ a ++ 0#4 ++ b]
  | .pxor w d a b => [w ++ 0x13#8 ++ 0#4 ++ d ++ 0#4 ++ a ++ 0#4 ++ b]
  | .pnot w d a => [w ++ 0x14#8 ++ 0#4 ++ d ++ 0#4 ++ a ++ 0#7]
  | .pmov w d a => [w ++ 0x15#8 ++ 0#4 ++ d ++ 0#4 ++ a ++ 0#7]
  | .mov w d a => [w ++ 0x16#8 ++ d ++ a ++ 0#7]
  | .sel w d a b => [w ++ 0x17#8 ++ d ++ a ++ b.code] ++ b.words
  | .lit w d v => [w ++ 0x18#8 ++ d ++ 0#14, v]
  | .litWide w d v => [w ++ 0x18#8 ++ d ++ 1#14, v.extractLsb' 0 32, v.extractLsb' 32 32]
  | .movi w d v => [w ++ 0x07#6 ++ (v.extractLsb' 14 2) ++ d ++ (v.extractLsb' 0 14)]
  | .iaddA w d a b => [w ++ 0x20#8 ++ d ++ a ++ b.code] ++ b.words
  | .iaddB w d a i => [w ++ 0x21#8 ++ d ++ a ++ i]
  | .isub w d a b => [w ++ 0x22#8 ++ d ++ a ++ b.code] ++ b.words
  | .imul w d a b => [w ++ 0x23#8 ++ d ++ a ++ b.code] ++ b.words
  | .imulh w d a b => [w ++ 0x24#8 ++ d ++ a ++ b.code] ++ b.words
  | .imad w d a b => [w ++ 0x25#8 ++ d ++ a ++ b.code] ++ b.words
  | .iaddc w d a b => [w ++ 0x26#8 ++ d ++ a ++ b.code] ++ b.words
  | .ineg w d a => [w ++ 0x27#8 ++ d ++ a ++ 0#7]
  | .iabs w d a => [w ++ 0x28#8 ++ d ++ a ++ 0#7]
  | .imin w d a b => [w ++ 0x29#8 ++ d ++ a ++ b.code] ++ b.words
  | .imax w d a b => [w ++ 0x2A#8 ++ d ++ a ++ b.code] ++ b.words
  | .shlA w d a b => [w ++ 0x2B#8 ++ d ++ a ++ b.code] ++ b.words
  | .shlB w d a i => [w ++ 0x2C#8 ++ d ++ a ++ i]
  | .shrA w d a b => [w ++ 0x2D#8 ++ d ++ a ++ b.code] ++ b.words
  | .shrB w d a i => [w ++ 0x2E#8 ++ d ++ a ++ i]
  | .sarA w d a b => [w ++ 0x2F#8 ++ d ++ a ++ b.code] ++ b.words
  | .sarB w d a i => [w ++ 0x30#8 ++ d ++ a ++ i]
  | .rot w d a b => [w ++ 0x31#8 ++ d ++ a ++ b.code] ++ b.words
  | .andA w d a b => [w ++ 0x32#8 ++ d ++ a ++ b.code] ++ b.words
  | .andB w d a i => [w ++ 0x33#8 ++ d ++ a ++ i]
  | .or w d a b => [w ++ 0x34#8 ++ d ++ a ++ b.code] ++ b.words
  | .xor w d a b => [w ++ 0x35#8 ++ d ++ a ++ b.code] ++ b.words
  | .andn w d a b => [w ++ 0x36#8 ++ d ++ a ++ b.code] ++ b.words
  | .clz w d a => [w ++ 0x37#8 ++ d ++ a ++ 0#7]
  | .popc w d a => [w ++ 0x38#8 ++ d ++ a ++ 0#7]
  | .brev w d a => [w ++ 0x39#8 ++ d ++ a ++ 0#7]
  | .bfx w d a b => [w ++ 0x3A#8 ++ d ++ a ++ b.code] ++ b.words
  | .bfi w d a b => [w ++ 0x3B#8 ++ d ++ a ++ b.code] ++ b.words
  | .icmpA w c p a b => [w ++ 0x3C#8 ++ c.bits ++ p ++ a ++ b.code] ++ b.words
  | .icmpB w c p a i => [w ++ 0x3D#8 ++ c.bits ++ p ++ a ++ i]
  | .addr w d a b => [w ++ 0x3E#8 ++ d ++ a ++ b.code] ++ b.words
  | .cvti w d a t => [w ++ 0x3F#8 ++ d ++ a ++ 0#3 ++ t]
  | .fadd w d a b => [w ++ 0x40#8 ++ d ++ a ++ b.code] ++ b.words
  | .fsub w d a b => [w ++ 0x41#8 ++ d ++ a ++ b.code] ++ b.words
  | .fmul w d a b => [w ++ 0x42#8 ++ d ++ a ++ b.code] ++ b.words
  | .ffma w d a b => [w ++ 0x43#8 ++ d ++ a ++ b.code] ++ b.words
  | .ffms w d a b => [w ++ 0x44#8 ++ d ++ a ++ b.code] ++ b.words
  | .fdiv w d a b => [w ++ 0x45#8 ++ d ++ a ++ b.code] ++ b.words
  | .fsqrt w d a => [w ++ 0x46#8 ++ d ++ a ++ 0#7]
  | .frcp w d a => [w ++ 0x47#8 ++ d ++ a ++ 0#7]
  | .frsq w d a => [w ++ 0x48#8 ++ d ++ a ++ 0#7]
  | .fmin w d a b => [w ++ 0x49#8 ++ d ++ a ++ b.code] ++ b.words
  | .fmax w d a b => [w ++ 0x4A#8 ++ d ++ a ++ b.code] ++ b.words
  | .fabs w d a => [w ++ 0x4B#8 ++ d ++ a ++ 0#7]
  | .fneg w d a => [w ++ 0x4C#8 ++ d ++ a ++ 0#7]
  | .fcps w d a b => [w ++ 0x4D#8 ++ d ++ a ++ b.code] ++ b.words
  | .fcmp w c p a b => [w ++ 0x4E#8 ++ c.bits ++ p ++ a ++ b.code] ++ b.words
  | .fclass w d a => [w ++ 0x4F#8 ++ d ++ a ++ 0#7]
  | .fcvt w d a t => [w ++ 0x50#8 ++ d ++ a ++ 0#3 ++ t]
  | .icvt w d a t => [w ++ 0x51#8 ++ d ++ a ++ 0#3 ++ t]
  | .frnd w d a => [w ++ 0x52#8 ++ d ++ a ++ 0#7]
  | .fexp2 w d a => [w ++ 0x53#8 ++ d ++ a ++ 0#7]
  | .flog2 w d a => [w ++ 0x54#8 ++ d ++ a ++ 0#7]
  | .fsin w d a => [w ++ 0x55#8 ++ d ++ a ++ 0#7]
  | .fcos w d a => [w ++ 0x56#8 ++ d ++ a ++ 0#7]
  | .fscale w d a b => [w ++ 0x57#8 ++ d ++ a ++ b.code] ++ b.words
  | .ftag w d a => [w ++ 0x58#8 ++ d ++ a ++ 0#7]
  | .ftagw w d b => [w ++ 0x59#8 ++ d ++ 0#7 ++ b.code] ++ b.words
  | .shflIdxA w d a b => [w ++ 0x60#8 ++ d ++ a ++ b.code] ++ b.words
  | .shflUpA w d a b => [w ++ 0x61#8 ++ d ++ a ++ b.code] ++ b.words
  | .shflDownA w d a b => [w ++ 0x62#8 ++ d ++ a ++ b.code] ++ b.words
  | .shflXorA w d a b => [w ++ 0x63#8 ++ d ++ a ++ b.code] ++ b.words
  | .shflIdxB w d a i => [w ++ 0x64#8 ++ d ++ a ++ 0#2 ++ i]
  | .shflUpB w d a i => [w ++ 0x65#8 ++ d ++ a ++ 0#2 ++ i]
  | .shflDownB w d a i => [w ++ 0x66#8 ++ d ++ a ++ 0#2 ++ i]
  | .shflXorB w d a i => [w ++ 0x67#8 ++ d ++ a ++ 0#2 ++ i]
  | .voteAny w d a => [w ++ 0x68#8 ++ 0#4 ++ d ++ 0#4 ++ a ++ 0#7]
  | .voteAll w d a => [w ++ 0x68#8 ++ 0#4 ++ d ++ 0#4 ++ a ++ 1#7]
  | .voteBallot w d a => [w ++ 0x68#8 ++ d ++ 0#4 ++ a ++ 2#7]
  | .voteEq w d a => [w ++ 0x68#8 ++ 0#4 ++ d ++ 0#4 ++ a ++ 3#7]
  | .wsync w a b => [w ++ 0x69#8 ++ 0#7 ++ a ++ b.code] ++ b.words
  | .wred w d a o => [w ++ 0x6A#8 ++ d ++ a ++ 0#4 ++ o.bits]
  | .wscan w d a o => [w ++ 0x6B#8 ++ d ++ a ++ 0#4 ++ o.bits]
  | .rdlaneA w d a b => [w ++ 0x6C#8 ++ d ++ a ++ b.code] ++ b.words
  | .rdlaneB w d a i => [w ++ 0x6D#8 ++ d ++ a ++ 0#2 ++ i]
  | .wrlaneA w d a b => [w ++ 0x6E#8 ++ d ++ a ++ b.code] ++ b.words
  | .wrlaneB w d a i => [w ++ 0x6F#8 ++ d ++ a ++ 0#2 ++ i]
  | .mask w d a => [w ++ 0x70#8 ++ d ++ a ++ 0#7]
  | .execq w d => [w ++ 0x71#8 ++ d ++ 0#14]
  | .wperm w d a b => [w ++ 0x72#8 ++ d ++ a ++ b.code] ++ b.words
  | .ldM w d r q a => [w ++ 0x80#8 ++ d ++ r ++ q.bits ++ a]
  | .ldMi w d r q i => [w ++ 0x81#8 ++ d ++ r ++ q.bits ++ i]
  | .stM w d r q a => [w ++ 0x82#8 ++ d ++ r ++ q.bits ++ a]
  | .stMi w d r q i => [w ++ 0x83#8 ++ d ++ r ++ q.bits ++ i]
  | .ldsM w d r q a => [w ++ 0x84#8 ++ d ++ r ++ q.bits ++ a]
  | .ldsMi w d r q i => [w ++ 0x85#8 ++ d ++ r ++ q.bits ++ i]
  | .stsM w d r q a => [w ++ 0x86#8 ++ d ++ r ++ q.bits ++ a]
  | .stsMi w d r q i => [w ++ 0x87#8 ++ d ++ r ++ q.bits ++ i]
  | .ldu w d r q a => [w ++ 0x88#8 ++ d ++ r ++ q.bits ++ a]
  | .stu w d r q a => [w ++ 0x89#8 ++ d ++ r ++ q.bits ++ a]
  | .ldx w d r q a => [w ++ 0x8A#8 ++ d ++ r ++ q.bits ++ a]
  | .stx w d r q a => [w ++ 0x8B#8 ++ d ++ r ++ q.bits ++ a]
  | .pref w r a => [w ++ 0x8C#8 ++ 96#7 ++ r ++ 0#2 ++ a]
  | .cas w d r q a => [w ++ 0x8D#8 ++ d ++ r ++ q.bits ++ a]
  | .fatom w d r q a => [w ++ 0x8E#8 ++ d ++ r ++ q.bits ++ a]
  | .fatomq w d r q a => [w ++ 0x8F#8 ++ d ++ r ++ q.bits ++ a]
  | .atomAdd w d r q a => [w ++ 0x90#8 ++ d ++ r ++ q.bits ++ a]
  | .atomSub w d r q a => [w ++ 0x91#8 ++ d ++ r ++ q.bits ++ a]
  | .atomMin w d r q a => [w ++ 0x92#8 ++ d ++ r ++ q.bits ++ a]
  | .atomMax w d r q a => [w ++ 0x93#8 ++ d ++ r ++ q.bits ++ a]
  | .atomAnd w d r q a => [w ++ 0x94#8 ++ d ++ r ++ q.bits ++ a]
  | .atomOr w d r q a => [w ++ 0x95#8 ++ d ++ r ++ q.bits ++ a]
  | .atomXor w d r q a => [w ++ 0x96#8 ++ d ++ r ++ q.bits ++ a]
  | .atomExch w d r q a => [w ++ 0x97#8 ++ d ++ r ++ q.bits ++ a]
  | .fenceAcq w => [w ++ 0x98#8 ++ 128#21]
  | .fenceRel w => [w ++ 0x98#8 ++ 256#21]
  | .fenceAr w => [w ++ 0x98#8 ++ 384#21]
  | .drains w => [w ++ 0x99#8 ++ 0#21]
  | .recset w d r => [w ++ 0x9A#8 ++ d ++ r ++ 96#9]
  | .recmod w d r a => [w ++ 0x9B#8 ++ d ++ r ++ 0#2 ++ a]
  | .recget w d r a => [w ++ 0x9C#8 ++ d ++ r ++ 0#2 ++ a]
  | .cwb w r a => [w ++ 0x9D#8 ++ 96#7 ++ r ++ 0#2 ++ a]
  | .cinv w r a => [w ++ 0x9E#8 ++ 96#7 ++ r ++ 0#2 ++ a]
  | .fifopReserve w d r a => [w ++ 0x9F#8 ++ d ++ r ++ 0#2 ++ a]
  | .fifopCommit w d r a => [w ++ 0x9F#8 ++ d ++ r ++ 0#2 ++ a]
  | .fifopClaim w d r a => [w ++ 0x9F#8 ++ d ++ r ++ 1#2 ++ a]
  | .fifopFree w d r a => [w ++ 0x9F#8 ++ d ++ r ++ 1#2 ++ a]
  | .wload w s x => [w ++ 0xA0#8 ++ s ++ x ++ 0#9]
  | .mma w s x => [w ++ 0xA1#8 ++ s ++ x ++ 0#9]
  | .accz w s f => [w ++ 0xA2#8 ++ s ++ 0#12 ++ f]
  | .accrd w s y f => [w ++ 0xA3#8 ++ s ++ 0#5 ++ y ++ 0#1 ++ f]
  | .accld w s x f => [w ++ 0xA4#8 ++ s ++ x ++ 0#7 ++ f]
  | .iron w s => [w ++ 0xA5#8 ++ s ++ 0#14]
  | .ironp w s => [w ++ 0xA6#8 ++ s ++ 0#14]
  | .copy w s x y => [w ++ 0xA7#8 ++ s ++ x ++ y ++ 0#4]
  | .gather w s x y => [w ++ 0xA8#8 ++ s ++ x ++ y ++ 0#4]
  | .scat w s x y => [w ++ 0xA9#8 ++ s ++ x ++ y ++ 0#4]
  | .quant w s x y f => [w ++ 0xAA#8 ++ s ++ x ++ y ++ 0#3 ++ f]
  | .coll w s x y => [w ++ 0xAB#8 ++ s ++ x ++ y ++ 0#4]
  | .cancel w a => [w ++ 0xAC#8 ++ 0#7 ++ a ++ 0#7]
  | .opq w d a => [w ++ 0xAD#8 ++ d ++ a ++ 0#7]
  | .opwait w d a => [w ++ 0xAE#8 ++ d ++ a ++ 0#7]
  | .send w a b => [w ++ 0xC0#8 ++ 0#7 ++ a ++ b.code] ++ b.words
  | .sendp w a b => [w ++ 0xC1#8 ++ 0#7 ++ a ++ b.code] ++ b.words
  | .recv w d a => [w ++ 0xC2#8 ++ d ++ a ++ 0#7]
  | .jwait w k => [w ++ 0xC3#8 ++ 0#17 ++ k]
  | .patenOn w k => [w ++ 0xC4#8 ++ 1#17 ++ k]
  | .patenOff w k => [w ++ 0xC4#8 ++ 0#17 ++ k]
  | .portq w d a => [w ++ 0xC5#8 ++ d ++ a ++ 0#7]
  | .bar w => [w ++ 0xC6#8 ++ 0#21]
  | .sbar w => [w ++ 0xC7#8 ++ 0#21]
  | .trap w k => [w ++ 0xC8#8 ++ 0#7 ++ k]
  | .rdsys w d n => [w ++ 0xE0#8 ++ d ++ 0#2 ++ n]
  | .wrsys w d n => [w ++ 0xE1#8 ++ d ++ 0#2 ++ n]
  | .eret w => [w ++ 0xE2#8 ++ 0#21]
  | .tlbi w a b => [w ++ 0xE3#8 ++ 0#7 ++ a ++ b.code] ++ b.words
  | .ctxsv w d a b => [w ++ 0xE4#8 ++ d ++ a ++ b.code] ++ b.words
  | .ctxld w d a => [w ++ 0xE5#8 ++ d ++ a ++ 0#7]
  | .hrelReplay w a => [w ++ 0xE6#8 ++ 0#7 ++ a ++ 0#7]
  | .hrelSkip w a => [w ++ 0xE6#8 ++ 0#7 ++ a ++ 1#7]
  | .hrelSignal w a => [w ++ 0xE6#8 ++ 0#7 ++ a ++ 2#7]
  | .hrelKill w a => [w ++ 0xE6#8 ++ 0#7 ++ a ++ 3#7]
  | .sigpost w a b => [w ++ 0xE7#8 ++ 0#7 ++ a ++ b.code] ++ b.words
  | .bankm w d a => [w ++ 0xE8#8 ++ d ++ a ++ 0#7]
  | .chkpt w d a b => [w ++ 0xE9#8 ++ d ++ a ++ b.code] ++ b.words
  | .sfqPeek w d a b => [w ++ 0xEA#8 ++ d ++ a ++ b.code] ++ b.words
  | .sfqPop w d a b => [w ++ 0xEA#8 ++ d ++ a ++ b.code] ++ b.words
  | .sfqReplay w d a b => [w ++ 0xEA#8 ++ d ++ a ++ b.code] ++ b.words
  | .sfqDiscard w d a b => [w ++ 0xEA#8 ++ d ++ a ++ b.code] ++ b.words
  | .pmcrd w d a => [w ++ 0xEB#8 ++ d ++ a ++ 0#7]
  | .svc w k => [w ++ 0xEC#8 ++ 0#7 ++ k]
  | .svcWdog w => [w ++ 0xEC#8 ++ 16256#21]
  | .svcDebug w => [w ++ 0xEC#8 ++ 16257#21]
  | .svcCollreg w => [w ++ 0xEC#8 ++ 16258#21]
  | .svcSigret w k => [w ++ 0xEC#8 ++ 0#7 ++ k]
  | .bkpt w k => [w ++ 0xED#8 ++ 0#7 ++ k]
  | .notifyWrite _ _ _ _ => []
  | .queueDescriptorWrite _ _ => []
  | .postPortMessage _ _ _ _ => []
  | .serviceReply _ _ _ _ => []
  | .faultResolution _ _ _ _ => []
  | .packetFetch => []
  | .packetOrdered => []
  | .packetDispatch => []
  | .barrierDependencyCheck => []
  | .schedulingDecision => []
  | .queueReservation => []
  | .graphNodeComplete => []
  | .packetComplete => []
  | .blockRetirement => []
  | .messageDelivery => []
  | .sendConfirmation => []
  | .joinFiring => []
  | .rcvRelease => []
  | .collectiveRelease => []
  | .wsyncRelease => []
  | .wsyncMaskMismatch => []
  | .barRelease => []
  | .sbarRelease => []
  | .collectiveDeadlock => []
  | .waitEventResume => []
  | .hamperEntryFreed => []
  | .fragmentExchange => []
  | .pendingDisplacement => []
  | .loadDataReturn => []
  | .postedStoreAccept => []
  | .storeFaultRecord => []
  | .translationWalk _ _ _ _ => []
  | .invalidationAck => []
  | .atsInvalidateRequest _ _ _ => []
  | .hostSnoop _ => []
  | .backInvalidateSnoop _ => []
  | .directoryInvalidation _ _ => []
  | .externalAccess _ _ _ => []
  | .cxlLinkDown _ => []
  | .cxlCompletionTimeout _ => []
  | .ualinkLinkFailure _ => []
  | .darnerEvent => []
  | .darnerRestart => []
  | .watchdog => []
  | .pressGrant => []
  | .mangleChannelTake => []
  | .engineResume => []
  | .engineCompletion => []
  | .collExchangeComplete => []
  | .contextCreate _ => []
  | .contextEnd _ => []
  | .preemptRequest _ _ => []
  | .drainDeadline => []
  | .forcedReset => []
  | .contextResume _ => []
  | .asidQuarantineEnd => []
  | .lockInterfaceRequest _ => []
  | .startInterfaceRequest _ => []
  | .stopInterfaceRequest _ => []
  | .tdispError _ => []
  | .getVersion => []
  | .getCapabilities => []
  | .negotiateAlgorithms _ _ => []
  | .getDigests => []
  | .getCertificate _ _ => []
  | .challenge _ => []
  | .getMeasurements _ => []
  | .checkpointInterval => []
  | .checkpointCommit => []
  | .correctedError _ _ _ _ => []
  | .uncorrectableError _ _ _ _ _ => []
  | .elogctlWrite _ => []
  | .elogrdWrite _ => []
  | .eyeSample _ _ _ _ _ => []
  | .caParityFailure _ _ _ => []
  | .eyePathWrite _ _ _ _ => []
  | .eyethrWrite _ _ => []
  | .repairWrite _ _ _ => []
  | .channelRetrain => []
  | .laneRepair => []
  | .bankSpareStart _ _ _ => []
  | .bankSpareComplete => []
  | .journalCommit => []
  | .heartbeat => []
  | .takeover _ => []
  | .deviceReset _ => []
  | .coreGroupEnable => []
  | .pressIdle => []
  | .powerControlStep _ _ _ => []
  | .plimitWrite _ => []
  | .managementRegisterWrite _ _ _ => []
  | .unassignedOpcode word => [word]
  | .cxlPortReenable _ => []
  | .ethernetLinkFailure _ => []
  | .powerOff => []

/-- The instruction word that FLT.INFO reports (R100). -/
def firstWord (i : Instr) : Word := (encode i).headD 0

/-- The bytes an instruction occupies (R97). -/
def instrBytes (i : Instr) : Nat := 4 * (encode i).length

/-- The instruction of a list of words and the words after it, as a program's text is read. -/
def decode : List Word → Except DecodeError (Instr × List Word)
  | [] => .error .reservedField
  | x :: rest =>
    match decodeWords x (rest.headD 0) ((rest.drop 1).headD 0) with
    | .error e => .error e
    | .ok i => .ok (i, rest.drop (literalCount x))

/-- The bytes of a word, lowest address first (R3). -/
def wordBytes (x : Word) : List Byte :=
  [x.extractLsb' 0 8, x.extractLsb' 8 8, x.extractLsb' 16 8, x.extractLsb' 24 8]

/-- The word that four bytes hold (R3). -/
def wordOfBytes : List Byte → Word
  | a :: b :: c :: d :: _ => d ++ c ++ b ++ a
  | _ => 0

/-- The three words of an instruction whose bits are `w`, numbered as the opcode table numbers them; the bits above
`nbits` are zero. -/
def tableWords (nbits w : Nat) : List Word :=
  let v := w % 2 ^ nbits
  [BitVec.ofNat 32 v, BitVec.ofNat 32 (v / 2 ^ 32), BitVec.ofNat 32 (v / 2 ^ 64)]

/-- The instruction that the decoder reads from bits numbered as the opcode table numbers them: the words are laid out as
bytes, as the hardware stores them, and read back. -/
def decodeTableWord (nbits w : Nat) : Option Instr :=
  let ws := (tableWords nbits w).map fun x => wordOfBytes (wordBytes x)
  match decodeWords (ws.getD 0 0) (ws.getD 1 0) (ws.getD 2 0) with
  | .ok i => some i
  | .error _ => none

end Sys2Proof
end

