-- ==== Sys2Proof/Config.lean ====
section
/-! DEFINITION. What an implementation fixes and the spec leaves open: free values and device constants. An opaque
constant here has no body: no proof can see what it is. -/

namespace Sys2Proof

/-- A free choice: applied to the counter `State.freeCtr`, it picks one of the alternatives the spec allows (which
cached translation, how long a load takes, which undefined value of R106). Log entry 3. -/
opaque Config.freeChoice : Nat → Nat

/-- A free 64-bit value, applied to the counter `State.freeCtr`. Log entry 3. -/
opaque Config.freeWord : Nat → BitVec 64

/-- Whether the device is of the large memory configuration (R18), fixed at assembly. -/
opaque Config.largeMemory : Bool

/-- The ML-DSA-87 signature that the identity key makes of a message (R448). -/
opaque Config.signature : List Byte → List Byte

/-- The identity certificate chain (R448). -/
opaque Config.certificateChain : List Byte

/-- The bytes of the boot ROM and the Dibor image that measurements 1 and 2 cover (R448). -/
opaque Config.measuredImage : Nat → List Byte

/-- The event PC at which Dibor starts the Darner for an event class (R242, R345). -/
opaque Config.eventPc : Nat → BitVec 64

/-- The device physical address of the 576-byte buffer that Dibor gives a core's Darner (the kernel skid's routines). -/
opaque Config.darnerBuffer : Nat → BitVec 64

/-- What a page of the device-page region is (R320, R366, R384). -/
inductive DevicePage where
  | absent
  /-- the notify page of a queue -/
  | notify (queue : Nat)
  /-- the post page of a context -/
  | contextPost (asid : Nat)
  /-- the driver post page of a partition -/
  | driverPost (partition : Nat)
  deriving DecidableEq, Repr, Inhabited

/-- Which page stands at a page number of the device-page region: the spec gives the region and not its layout. Log
entry 17. -/
opaque Config.devicePage : Nat → DevicePage

/-- Which of the two CXL ports carries a 4 KiB page of host memory: the spec does not say. Log entry 17. -/
opaque Config.cxlPort : Nat → Nat

/-- Which of the 24 UALink stations carries the traffic with an endpoint: the spec does not say. Log entry 17. -/
opaque Config.ualinkStation : Nat → Nat

/-- The bytes by which a measured configuration, given as numbers, enters its hash (R448): the spec gives no layout. Log
entry 13. -/
opaque Config.measuredBytes : List Nat → List Byte

/-- The bank of its pseudo-channel, 0 to 31, that holds a physical address: the spec does not say. Log entry 17. -/
opaque Config.bankOf : Nat → Nat

/-- The eye of a data path at a time, its width in bits 7 to 0 and its height in bits 15 to 8 (R434): a measurement. Log entry
117. -/
opaque Config.eye (path time : Nat) : BitVec 16

/-- The device's own endpoint on the UALink fabric, by which a collective group's entries name it: the spec does not give
it. Log entry 17. -/
opaque Config.endpoint : Nat

/-- Which page of a partition's HBM window Dibor gives an image or a checkpoint slot, by a key of the block's: the spec
says that Dibor chooses it and keeps it unmapped (R409, R429). Log entry 19. -/
opaque Config.imagePage : Nat → Nat

/-- Z of R384: the bytes of one partition's HBM window, 6 GiB or 8 GiB. -/
def Config.windowBytes : Nat := if Config.largeMemory then 8 * 2 ^ 30 else 6 * 2 ^ 30

/-- Program cores of the device (R12). -/
def Config.programCores : Nat := 128
/-- Partitions of the device (R19). -/
def Config.partitions : Nat := 64
/-- Ports of a block at most (R309). -/
def Config.portSlots : Nat := 8
/-- Range-scoreboard entries of a core (R284). -/
def Config.scoreboardEntries : Nat := 128
/-- Hamper entries of a core (R341). -/
def Config.hamperEntries : Nat := 64
/-- Store-fault records of a core (R348). -/
def Config.storeRecords : Nat := 32

end Sys2Proof
end

