-- ==== Sys2Proof/Machine/State.lean ====
section
/-! DEFINITION. The state of the device as plain data: every piece the spec names, and the model's own fields (the
agenda, the inputs, the focus, the free-value counter, the outbox), each said to be the model's. -/

namespace Sys2Proof.Machine

/-- A sparse table by key, keys strictly rising and no entry equal to what an unlisted key reads as. Memory is one. -/
abbrev Cells (α : Type) := List (Nat × α)

/-- A window register: 32 bits and a tag (R39). -/
structure VReg where
  val : BitVec 32 := 0
  tag : Tag := 62
  deriving DecidableEq, Repr

/-- An s-register: 64 bits and a tag (R29). -/
structure SReg where
  val : BitVec 64 := 0
  tag : Tag := 62
  deriving DecidableEq, Repr

/-- Names one fragment of a core. `frag` is the model's own identity; programs never see it (R262). -/
structure FragRef where
  block : Nat
  wave : Nat
  frag : Nat
  deriving DecidableEq, Repr

/-- What a fragment in WAIT_EVENT waits for (R263, R268). -/
inductive Wait where
  /-- the port, the destination and whether the message is acquired -/
  | recv (port : Nat) (d : Code) (acq : Bool)
  | jwait (pattern : Nat)
  /-- a SEND whose target, a block of its launch, is not resident, or is swapped out (R209, R322) -/
  | sendTarget (lin : Nat)
  /-- a SEND whose message is posted: the message's number, DST and the instruction's bytes -/
  | sendReply (message : Nat) (dst : BitVec 64) (bytes : Nat)
  /-- an SVC while the channel is full (R401) -/
  | svcSpace
  /-- an SVC whose request is written; its TAG -/
  | svcReply (tag : Nat)
  /-- an SVC of a resilient block whose request is held until the commit (R430) -/
  | svcHeld
  /-- a device service that the Darner, or Dibor in supervisor mode, serves (R402, R253) -/
  | service (k : Nat)
  | iron
  | ironPort (port : Nat)
  /-- R318: the wave's earlier messages to a port of its block -/
  | sent (port : Nat)
  | engineQueue (engine : Nat)
  | enginePort (port : Nat)
  | scoreboardRoom (entries : Nat)
  /-- R289: the access's hull, whether it writes, its role in a FIFO bank, and the entries it waits for: those before a number -/
  | scoreboard (lo hi : Nat) (write : Bool) (fifo : Option Bool) (bound : Nat)
  | opwait (opid : BitVec 64)
  | fifo (logical need : Nat) (claim : Bool)
  /-- R193: what the wave's fragments have issued below this number -/
  | drains (bound : Nat)
  /-- a TLBI's invalidation and the bytes of the instruction (R245) -/
  | invalidation (number bytes : Nat)
  /-- R27, R136: the granules of the windows that a slide by `delta` forms -/
  | granules (delta : Int)
  | postedFull
  /-- R192, R349: the virtual bytes, as address and length, that a posted store or a record still holds -/
  | overlap (bytes : List (Nat × Nat))
  /-- R190, R337: the wave's earlier stores -/
  | settled
  /-- R342: no Hamper entry is free -/
  | hamper
  /-- R200: an exact-sum accumulator must be spilled first -/
  | accumulator
  /-- R246, R249, R250: the Darner's own waits -/
  | room
  | quiet (block : Nat)
  /-- a CHKPT: the block, the generation that it exceeds, the destination and the instruction's bytes -/
  | checkpoint (block generation : Nat) (d : Code) (bytes : Nat)
  /-- the Darner between two events (R244) -/
  | darnerIdle
  /-- R430: the limits of held lines, and the lines that the access adds -/
  | heldLimit (lines : Nat)
  /-- R335: physical bytes that a resilient block holds; for an indivisible read and write, also those it holds a store to -/
  | locked (rmw : Bool) (bytes : List Nat)
  /-- R215, R216: accesses that others have made before a barrier -/
  | barrier
  deriving DecidableEq, Repr

/-- The states of R263; an ended fragment is not in its wave's list. -/
inductive FragState where
  | run
  | waitRcv
  | waitColl
  /-- WSYNC's mask and the bytes of its instruction -/
  | waitSync (mask : Lanes) (bytes : Nat)
  | waitBar
  | waitSbar
  | waitEvent (w : Wait)
  | parked (entry : Nat)
  deriving DecidableEq, Repr

/-- A fixed-latency result in flight (R104): the register code, or 128 + k for predicate k, the cycle from which it is
readable, and how far the fragment's windows have slid since (R26). -/
structure Producer where
  code : Nat
  ready : Nat
  slide : Int := 0
  deriving DecidableEq, Repr

/-- The values that one issued instruction overwrote (R106): window cells, s-registers, predicates; and those that results
arriving between it and the next issue have overwritten. -/
structure HistStep where
  vs : List (Nat × VReg) := []
  ss : List (Nat × SReg) := []
  ps : List (Nat × Lanes) := []
  lateV : List (Nat × VReg) := []
  lateS : List (Nat × SReg) := []
  deriving DecidableEq, Repr

/-- A variable-latency result that has not arrived (R104, R191): the values to write, whose registers interlock, and the
cycle from which it may arrive. `miss` is the cycle in which its L1 miss is known (R268), if it misses. -/
structure PendingLoad where
  vs : List (Nat × VReg)
  ss : List (Nat × SReg)
  ready : Nat
  miss : Option Nat := none
  /-- the load's PC, and what of its data crosses a CXL port (R413): lanes, port and address -/
  pc : BitVec 64 := 0
  link : List (Lanes × Nat × BitVec 64) := []
  /-- the ACTIVE with which the load issued (R341), and a number later than those of the invalidations before it (R389) -/
  active : Lanes := 0
  ident : Nat := 0
  /-- R413, R422: lanes that came back with poison and have still to fault: the code, the lanes and the address -/
  fail : List (Nat × Lanes × BitVec 64) := []
  deriving DecidableEq, Repr

/-- A request kept across a signal (R248): a SEND's or an SVC's, the instruction's PC, the frames below it, whether its signal handler has
returned to it, its number or TAG, and the answer once it is held: for a SEND full and retired, for an SVC the two words. -/
structure Kept where
  isSend : Bool
  pc : BitVec 64
  /-- the wave's DEPTH when the signal struck -/
  depth : Nat := 0
  back : Bool := false
  ident : Nat
  held : Bool := false
  full : Bool := false
  retired : Bool := false
  payload : BitVec 64 := 0
  status : BitVec 64 := 0
  deriving DecidableEq, Repr

/-- A fragment's place in its quadrant (R265 to R269). -/
structure SlotState where
  active : Bool := false
  entered : Nat := 0
  passed : Nat := 0
  readySince : Option Nat := none
  deriving DecidableEq, Repr

/-- An extension dimension of COPY (R234). -/
structure XDim where
  extent : Nat
  sStride : Int
  dStride : Int
  deriving DecidableEq, Repr

/-- What an engine form has copied when it passed its checks (R220): the records, and COPY's list of further dimensions. -/
structure EngineCopy where
  da : BitVec 256
  dw : BitVec 256
  irec : BitVec 256
  /-- COPY's list, once it is read -/
  xdims : Option (List XDim) := none
  deriving DecidableEq, Repr

/-- A fragment (R256). -/
structure Fragment where
  id : Nat
  members : Lanes
  exec : Lanes
  mode : BitVec 32
  pc : BitVec 64
  s : Cells SReg := []
  st : FragState := .run
  super : Bool := false
  /-- first cycle in which the stall count allows an issue (R103) -/
  stallUntil : Nat := 0
  prods : List Producer := []
  hist : List HistStep := []
  loads : List PendingLoad := []
  kept : Option Kept := none
  /-- R353: the next issue is made without comparator checks -/
  noCompare : Bool := false
  /-- R288: the sequence number below which an entry holds the access back, once its check has been made -/
  sbBound : Option Nat := none
  /-- R220: what the engine form at PC has copied, once it waits -/
  copied : Option EngineCopy := none
  /-- R193: the number below which a DRAINS that waits awaits the wave's stores and sends -/
  drainBound : Option Nat := none
  /-- R104: the call at PC has waited for its granules, which makes its link a variable-latency result -/
  moved : Bool := false
  /-- R168: the collective form at PC has been released and issues once -/
  released : Bool := false
  /-- timebase at which the present wait began (R351), or the cycle at which a collective or WSYNC wait began -/
  waitSince : Nat := 0
  slot : SlotState := {}
  deriving DecidableEq, Repr

/-- One lane of a posted store: its virtual address, value, tag and tag-byte address (R251); for a BX element also its bit
place in the first byte and the address of its scale pair. -/
structure StoreLane where
  lane : Nat
  va : BitVec 64
  data : BitVec 64
  tag : Tag
  tagVa : Option (BitVec 64)
  bit : Nat := 0
  scaleVa : Option (BitVec 64) := none
  deriving DecidableEq, Repr

/-- A store instruction's effect that is not yet performed: KIND, SIZE, ORD and SCOPE as R251 has them. `fenced` marks one
that a FENCE orders after the wave's earlier accesses (R190). -/
structure StoreOp where
  ident : Nat
  pc : BitVec 64
  kind : Nat
  size : Nat
  fmt : Nat
  ord : Nat
  scope : Nat
  lanes : List StoreLane
  fenced : Bool := false
  /-- the cycle of its issue -/
  since : Nat := 0
  /-- R430: the lines that it adds at most to those that a resilient block holds -/
  newLines : Nat := 0
  /-- R191, R422: the lanes whose request came back with poison -/
  hit : Lanes := 0
  /-- the code with which its remaining lanes failed, until its record is made (R348) -/
  failed : Option Nat := none
  deriving DecidableEq, Repr

/-- A store-fault record (R251, R348). -/
structure StoreRecord where
  block : Nat
  wave : Nat
  code : Nat
  op : StoreOp
  deriving DecidableEq, Repr

/-- The states of a wave (R256, R264, R411). -/
inductive WaveState where
  | running
  | dormant
  | ended
  deriving DecidableEq, Repr

/-- A wave and its threads' state. Window cells are keyed by stack index × 32 + lane. -/
structure Wave where
  idx : Nat
  quadrant : Nat
  handler : Bool
  st : WaveState
  regs : Cells VReg := []
  preds : Cells Lanes := []
  wb : Cells Nat := []
  /-- per granule, the lanes whose residency differs from that at wave start (R27) -/
  residency : Cells Lanes := []
  /-- per granule, the lanes whose copy lies in the spill area -/
  spilled : Cells Lanes := []
  /-- granule, lanes and issue stamp of the last instruction that named a register in it -/
  named : List (Nat × Lanes × Nat) := []
  frags : List Fragment := []
  nextFrag : Nat := 0
  /-- the wave's unaccepted posted stores, oldest first (R192) -/
  posted : List StoreOp := []
  /-- a FENCE has ordered the unaccepted posted stores before later stores, and before later loads (R190) -/
  fenceStores : Bool := false
  fenceLoads : Bool := false
  /-- signal pending and its value (R248, R411) -/
  sigpend : Option (Nat × BitVec 64) := none
  /-- frames not yet returned (R405) -/
  depth : Nat := 0
  deriving DecidableEq, Repr

/-- A message of a port (R310); `rel` is the scope of the release it carries. -/
structure Msg where
  payload : BitVec 64
  sender : BitVec 16
  kind : BitVec 4
  status : BitVec 8
  rel : Option Nat := none
  /-- the first cycle whose consumers see it (R311) -/
  seen : Nat := 0
  deriving DecidableEq, Repr

/-- A port (R309, R311). -/
structure Port where
  msgs : List Msg := []
  rsv : Nat := 0
  ovf : Bool := false
  drops : Nat := 0
  deriving DecidableEq, Repr

/-- A join pattern (R313). -/
structure Pattern where
  portMask : BitVec 32
  wake : Bool
  priority : Nat
  handler : BitVec 64
  enabled : Bool
  deriving DecidableEq, Repr

/-- A FIFO descriptor of the kernel header (R115). -/
structure FifoDesc where
  bank : Nat
  slotBytes : Nat
  counted : Option (Nat × Nat)
  deriving DecidableEq, Repr

/-- A bound FIFO bank (R281, R206): logical number, physical bank, slot size, counting port and threshold, counters. -/
structure Fifo where
  desc : FifoDesc
  bank : Nat
  rp : Nat := 0
  cp : Nat := 0
  lp : Nat := 0
  fp : Nat := 0
  deriving DecidableEq, Repr

/-- A record initial entry (R117). -/
structure RecordInit where
  slot : Nat
  argBase : Bool
  argOff : Nat
  record : BitVec 256
  deriving DecidableEq, Repr

/-- A block-set entry (R118). -/
structure SetEntry where
  num : Nat
  first : Nat
  count : Nat
  stride : Nat
  deriving DecidableEq, Repr

/-- A kernel header and its tables as read at acceptance (R113 to R118); `entry` is an address, `raw` the 128 bytes. -/
structure Header where
  entry : BitVec 64
  depth : Nat
  waves : Nat
  scratch : Nat
  handlers : Nat
  ports : Nat
  accRows : Nat
  coresident : Bool
  resilient : Bool
  rotate : Bool
  defMode : BitVec 32
  argBytes : Nat
  ckInterval : Nat
  fifos : List FifoDesc
  patterns : List Pattern
  records : List RecordInit
  sets : List SetEntry
  raw : List Byte
  deriving DecidableEq, Repr

/-- The queued forms (R219). -/
inductive OpForm where
  | wload | mma | accz | accrd | accld | copy | gather | scat | quant | coll
  deriving DecidableEq, Repr

/-- STATE of R240; UNKNOWN is the answer for an identifier that names nothing. -/
inductive OpState where
  | queued | running | stalled | done
  deriving DecidableEq, Repr

/-- Why an operation is STALLED (R225). -/
inductive StallCause where
  | none
  /-- a page that the memory-management unit resolves: the address and the kind of access -/
  | page (va : BitVec 64) (access : Nat)
  /-- a FIFO bank full for the writer or empty for the reader -/
  | fifo (logical : Nat) (writer : Bool)
  /-- R430: the limits of held lines, and the lines that the access adds -/
  | held (lines : Nat)
  /-- R335: physical bytes that a resilient block holds, as for a fragment's wait -/
  | locked (rmw : Bool) (bytes : List Nat)
  deriving DecidableEq, Repr

/-- An operation's stream through a FIFO bank (R301, R302): the accesses made, the first slot, and the slots reserved or
claimed and those committed or freed so far. An access to a bank is not made again after a swap-out. -/
structure Stream where
  pos : Nat := 0
  start : Nat := 0
  taken : Nat := 0
  given : Nat := 0
  deriving DecidableEq, Repr

/-- An element in flight: its register form (R59, R185) and tag. -/
structure Elem where
  bits : BitVec 64 := 0
  tag : Tag := 62
  deriving DecidableEq, Repr

/-- The phases of COLL (R307). -/
inductive CollPhase where
  | staging | exchange | writing
  deriving DecidableEq, Repr

/-- A cached translation (R385): page number, size in 4 KiB pages, and what the leaf allows. -/
structure TlbEntry where
  asid : Nat
  page : Nat
  pages : Nat
  pa : Nat
  w : Bool
  x : Bool
  /-- the leaf's D when it was read: a write needs it (R383) -/
  d : Bool
  deriving DecidableEq, Repr

/-- An operation of a block's operation table (R222 to R225). -/
structure Op where
  slot : Nat
  seq : Nat
  form : OpForm
  st : OpState := .queued
  /-- its work is over, with the status and INFO that its final state will have -/
  ended : Bool := false
  status : Nat := 0
  info : BitVec 64 := 0
  progress : Nat := 0
  param : BitVec 64
  mode : BitVec 32
  flags : Nat
  da : BitVec 256 := 0
  dw : BitVec 256 := 0
  irec : BitVec 256 := 0
  xdims : List XDim := []
  wave : Nat
  stall : StallCause := .none
  exc : BitVec 5 := 0
  cancel : Bool := false
  inS : Stream := {}
  outS : Stream := {}
  phase : CollPhase := .staging
  /-- the k-th COLL of the block on its group (R238) -/
  pairing : Nat := 0
  /-- elements fetched for the row, the tile or the collective that is not complete yet -/
  staged : List Elem := []
  result : List Elem := []
  /-- the translations that the engine holds for it, at most 8 (R385) -/
  xlat : List TlbEntry := []
  /-- stores of its wave below this number come first (R220) -/
  after : Nat := 0
  /-- R423: the bytes that it has written in poisoned sectors and words -/
  covered : List Nat := []
  deriving DecidableEq, Repr

/-- The latched weights of a block (R226): the record copy and parameter word of the WLOAD, the tile in the order
n × 64 + k, and the stream that holds its FIFO slots. `present` is false once a swap-out has dropped the tile, which is
then read again (R297). -/
structure Latched where
  record : BitVec 256
  param : BitVec 64
  tile : List Elem
  slots : Stream
  present : Bool
  deriving DecidableEq, Repr

/-- A block's membership of a block set (R118): the set's number, the block's rank and the member count. -/
structure SetMember where
  num : Nat
  rank : Nat
  count : Nat
  sbars : Nat := 0
  /-- R216: per SBAR passed, while some stores below it are not performed: the number below which they lie; and the number at
  the last release -/
  bounds : List Nat := []
  last : Nat := 0
  /-- R216, R430: the members of a resilient launch that held stores at a release, and their generations then: their commits
  come before the accesses behind the SBAR -/
  commits : List (Nat × Nat) := []
  deriving DecidableEq, Repr

/-- A member's contribution to a pairing of a collective group, as the memory-side cache holds it (R307, R308): its launch
and linear block index, its operation's parameter word, FORMAT, MODE and elements; then the member's result, or the status
that ends its operation. -/
structure Contribution where
  asid : Nat
  gid : Nat
  pairing : Nat
  launch : Nat
  lin : Nat
  param : BitVec 64
  fmt : Nat
  mode : BitVec 32
  elems : List Elem
  result : Option (List Elem) := none
  exc : BitVec 5 := 0
  failed : Option Nat := none
  deriving DecidableEq, Repr

/-- An effect beyond the block that a resilient block holds until commit (R430). -/
inductive HeldEffect where
  | message (ident : Nat)
  /-- a store to host or peer memory; a number later than those of the invalidations before it (R389) -/
  | store (after pa : Nat) (bytes : List Byte)
  /-- a FATOM's contribution: a number as above, the element, the operand's TYPE and its value -/
  | sum (after pa size t : Nat) (bits : BitVec 64)
  /-- an SVC's request, of a fragment -/
  | svc (f : FragRef) (k : Nat)
  /-- what a COLL brings to its pairing; one that leaves it brings the status for its peers (R308) -/
  | contribution (x : Contribution)
  /-- the end of what a COLL has brought to its pairing -/
  | endContribution (gid pairing : Nat)
  deriving DecidableEq, Repr

/-- The checkpoints of a resilient block (R429 to R431). -/
structure Checkpoint where
  /-- physical addresses of the two slots and which one is current -/
  slots : Nat × Nat := (0, 0)
  current : Bool := false
  written : Bool := false
  generation : Nat := 0
  lastCommit : Nat := 0
  due : Bool := false
  rollbacks : Nat := 0
  /-- held bytes by physical address: what the block's own agents see before commit -/
  held : Cells (Option Byte) := []
  /-- held bytes whose write belongs to a read of them (R324, R335): no other agent writes them before the commit -/
  locked : List Nat := []
  /-- poisoned sectors that a held write covers entirely (R423) -/
  cleared : List Nat := []
  effects : List HeldEffect := []
  /-- what reached the block from outside it after the current checkpoint, oldest first: messages by port, and replies by
  TAG with their two words -/
  arrivals : List (Nat × Msg) := []
  replies : List (Nat × BitVec 64 × BitVec 64) := []
  deriving DecidableEq, Repr

/-- A resident block (R256). Blocks stand under their handle; handle 64 is the Darner's own block, or a Thimble core's
firmware. -/
structure Block where
  launch : Nat
  lin : Nat
  asid : Nat
  hdr : Header
  grid : Nat × Nat × Nat
  bdim : Nat × Nat × Nat
  args : BitVec 64
  recs : Cells (BitVec 256) := []
  pbase : Nat := 0
  fifos : List Fifo := []
  accBase : Nat := 0
  iron : Option Nat := none
  latched : Option Latched := none
  ops : List Op := []
  opSeq : Nat := 0
  /-- freed operation slots, least recently freed first (R222) -/
  opFree : List Nat := List.range 28
  ports : Cells Port := []
  /-- messages that reach the block anew after a rollback, by port, and await a free slot (R431) -/
  late : List (Nat × Msg) := []
  patterns : List Pattern := []
  rotate : Nat := 0
  sets : List SetMember := []
  /-- per collective group, the COLLs issued on it (R238) -/
  pairings : List (Nat × Nat) := []
  /-- R215: per BAR passed, while some stores of the block's ordinary waves below it are not performed: the number below which
  they lie -/
  barBounds : List Nat := []
  spillSlot : Option Nat := none
  /-- R365: the partition group that it was placed in, as its first partition and the log2 of their number -/
  home : Nat × Nat := (0, 0)
  waves : List Wave := []
  ckpt : Checkpoint := {}
  /-- R116, R313: FLAGS.ROTATE and the like stay in `hdr`; this marks a block that a save has stopped (R408) -/
  stopped : Bool := false
  deriving DecidableEq, Repr

/-- STATE of a Hamper entry (R343); a FREE entry is not in the list. -/
inductive HamperState where
  | hw | queued | service
  deriving DecidableEq, Repr

/-- A Hamper entry (R341). -/
structure HamperEntry where
  idx : Nat
  st : HamperState
  block : Nat
  wave : Nat
  frag : Nat
  code : Nat
  mask : Lanes
  active : Lanes
  info : BitVec 64
  access : Nat
  pc : BitVec 64
  age : Nat
  /-- the wave's reserved entry, or one of the shared ones (R342) -/
  reserved : Bool
  deriving DecidableEq, Repr

/-- Who made a range-scoreboard entry, and how it counts (R284). -/
structure SbEntry where
  block : Nat
  slot : Nat
  /-- 0 DA, 1 DW, 2 the index record -/
  role : Nat
  /-- first granule and the granule after the last, of physical SRAM -/
  lo : Nat
  hi : Nat
  write : Bool
  /-- a FIFO-bank hull: true for a producer -/
  fifo : Option Bool
  /-- one of the two entries reserved to its block, or a shared one -/
  reserved : Bool
  seq : Nat
  /-- the cycle in which it was made -/
  made : Nat
  deriving DecidableEq, Repr

/-- An event of the Darner (R242, R345). -/
inductive DarnerEvent where
  | swapOut (block : Nat) (pa : Nat)
  | restore (asid : Nat) (pa : Nat)
  | checkpoint (block : Nat)
  | granules (f : FragRef)
  | exactSum (f : FragRef) (partition : Nat)
  /-- Dibor's request for a spill whose backing area it has extended (R200, R345) -/
  | sumRequest (f : FragRef) (partition : Nat)
  | storeFault (block wave : Nat)
  | hamper (entry : Nat)
  | service (f : FragRef) (k : Nat)
  | overflow (block wave : Nat) (port drops : Nat) (retired : Bool)
  deriving DecidableEq, Repr

/-- The Darner of a core (R242). -/
structure Darner where
  events : List DarnerEvent := []
  current : Option DarnerEvent := none
  entry : Option Nat := none
  /-- the context of the current event's target, known also when the event's own CTXSV has taken the target's block out -/
  targetAsid : Option Nat := none
  /-- the model's own: Dibor's routines of R402 and R404 act as one step; false when supervisor code stands at the event
  PCs and does their work -/
  routines : Bool := true
  stopped : Option (Nat × BitVec 64 × BitVec 64) := none
  deriving DecidableEq, Repr

/-- A table entry that the translation cache holds (R385): its address-space identifier, level and address, and the value
as it was read. -/
structure WalkEntry where
  asid : Nat
  level : Nat
  addr : Nat
  value : BitVec 64
  deriving DecidableEq, Repr

/-- The fusion key and weight-store key of a tile (R299). -/
structure TileKey where
  asid : Nat
  owner : Option Nat
  base : Nat
  fmt : Nat
  koff : Nat
  wrow : Nat
  scales : Int
  gen : Nat
  units : Nat
  deriving DecidableEq, Repr

/-- The Press of a core (R293, R295, R450): pointer, array tile, shadow buffer, weight store with the least recently used
first, the rows entered since it was idle and the timebase of the last row. -/
structure Press where
  pointer : Nat := 0
  array : Option TileKey := none
  shadow : Option TileKey := none
  store : List TileKey := []
  /-- the tiles that held irons pin, by block handle, first pinned first (R298) -/
  pins : List (Nat × TileKey) := []
  ramp : Nat := 0
  lastRow : Nat := 0
  idle : Bool := true
  deriving DecidableEq, Repr

/-- The Mangle of a core (R305): the operation bound to each channel, as block and slot, and each channel's last choice. -/
structure Mangle where
  chans : List (Option (Nat × Nat)) := [none, none, none, none]
  last : List Nat := [0, 0, 0, 0]
  deriving DecidableEq, Repr

/-- A core (R14). Bank bytes are keyed by physical SRAM byte, accumulator elements by physical row × 64 + column. -/
structure Core where
  enabled : Bool := false
  blocks : List (Nat × Block) := []
  bankcfg : BitVec 32 := 0
  sram : Cells Byte := []
  /-- poisoned words of core SRAM, by byte / 4 (R422) -/
  sramPoison : List Nat := []
  acc : Cells VReg := []
  sb : List SbEntry := []
  sbSeq : Nat := 0
  hamper : List HamperEntry := []
  nextAge : Nat := 0
  records : List StoreRecord := []
  /-- records that a pop has taken out of the queue without resolving them (R251, R349) -/
  popped : List StoreRecord := []
  press : Press := {}
  mangle : Mangle := {}
  darner : Darner := {}
  tlb : List TlbEntry := []
  /-- poisoned words of the core's L1 lines, by physical address / 4 (R422) -/
  l1Poison : List Nat := []
  /-- per quadrant, the cycle from which it issues again after an instruction that takes two of its issue cycles (R17) -/
  busy : Cells Nat := []
  /-- the recency list of each quadrant's active fragments, least recently issued first (R267) -/
  lists : Cells (List FragRef) := []
  /-- timebases of the rollbacks and kills that count towards R424's limit -/
  failures : List Nat := []
  deriving DecidableEq, Repr

/-- A collective group that a context has registered (R402, R238): endpoint, launch and linear block index by rank. -/
structure CollGroup where
  gid : Nat
  ranks : List (Nat × Nat × Nat)
  deriving DecidableEq, Repr

/-- A context (R399, R41). -/
structure Context where
  asid : Nat
  pasid : Nat
  group : Nat
  groupLog2 : Nat
  ptroot : BitVec 64
  spillBase : BitVec 64
  spillSize : BitVec 32
  spillSlots : BitVec 32
  sigTab : BitVec 64
  svcCh : BitVec 64
  wdogUs : Nat := 0
  comparators : List (BitVec 128) := []
  collGroups : List CollGroup := []
  /-- images of 512 bytes that the exact-sum backing area holds, per partition (R200) -/
  backing : Nat := 128
  accepted : BitVec 32 := 0
  drops : BitVec 32 := 0
  /-- R399: it has ended but for the completion words of its packets, whose pages are awaited (R369) -/
  ending : Bool := false
  deriving DecidableEq, Repr

/-- An exact-sum accumulator (R196); the sum counts units of 2^−1074. -/
structure ExactSum where
  pa : Nat
  size : Nat
  partition : Nat
  asid : Nat
  launch : Nat
  sum : Int
  nan : Bool
  pinf : Bool
  ninf : Bool
  spilled : Bool
  used : Nat
  deriving DecidableEq, Repr

/-- The states of a packet (R370). -/
inductive PacketState where
  | fetched | held | ordered | dispatching | dispatched | completing | done
  deriving DecidableEq, Repr

/-- A launch under way: a kernel packet's, or one graph node's (R370, R372). -/
structure Launch where
  ident : Nat
  queue : Nat
  index : Nat
  node : Nat
  asid : Nat
  group : Nat
  groupLog2 : Nat
  hdr : Header
  grid : Nat × Nat × Nat
  bdim : Nat × Nat × Nat
  args : BitVec 64
  nextBlock : Nat := 0
  ended : List Nat := []
  killed : Nat := 0
  /-- a status found at placement (R119), which places no further block -/
  failed : Option Nat := none
  acquire : Nat := 0
  release : Nat := 0
  deriving DecidableEq, Repr

/-- The states of a graph node (R372). -/
inductive NodeState where
  | waiting | ready | running | done | skipped
  deriving DecidableEq, Repr

/-- A graph node (R371). -/
structure Node where
  packet : BitVec 512
  succs : List Nat
  counter : Nat
  st : NodeState := .waiting
  status : Nat := 0
  killed : Nat := 0
  /-- marked by a failed predecessor: skipped when it would have become ready -/
  skip : Bool := false
  deriving DecidableEq, Repr

/-- A packet that Dibor holds (R370). -/
structure Packet where
  index : Nat
  st : PacketState
  raw : BitVec 512
  status : Nat := 0
  killed : Nat := 0
  nodes : List Node := []
  /-- the header as read at acceptance, for a kernel packet with blocks -/
  hdr : Option Header := none
  /-- the context whose address space holds the words of an aborted packet -/
  asid : Nat := 0
  deriving DecidableEq, Repr

/-- A user queue (R365, R366, R373, R444). -/
structure Queue where
  desc : BitVec 256 := 0
  next : Option (BitVec 256) := none
  widx : BitVec 64 := 0
  ridx : BitVec 64 := 0
  err : Bool := false
  kick : Bool := false
  pass : BitVec 64 := 0
  wasReady : Bool := false
  unreadySince : Option Nat := none
  packets : List Packet := []
  deriving DecidableEq, Repr

/-- The TDISP states (R396). -/
inductive Tdisp where
  | unlocked | locked | run | error
  deriving DecidableEq, Repr

/-- A partition group's scheduler and interface (R373, R375, R396), by its first partition. -/
structure Group where
  log2 : Nat := 0
  v : BitVec 64 := 0
  reserved : Option Nat := none
  tdisp : Tdisp := .unlocked
  /-- STOP_INTERFACE has ended its contexts, whose packets' words await their pages (R369, R396) -/
  stopping : Bool := false
  measurement : List Byte := []
  peers : List Nat := []
  deriving DecidableEq, Repr

/-- A partition (R19, R452, R41): counter selection, counters, driver post page counts and service state. -/
structure Partition where
  pmcsel : BitVec 32 := 0
  pmc : Cells (BitVec 64) := []
  /-- the bits that its Mangle channels have written towards the next unit of 32 bytes -/
  mangleBits : Nat := 0
  accepted : BitVec 32 := 0
  drops : BitVec 32 := 0
  out : Bool := false
  deriving DecidableEq, Repr

/-- A message or confirmation on its way (R209, R210, R377). -/
structure NetMsg where
  ident : Nat
  launch : Nat
  lin : Nat
  port : Nat
  msg : Msg
  core : Nat
  sender : FragRef
  senderLaunch : Nat
  senderLin : Nat
  /-- a SEND awaits its answer; a SENDP does not -/
  confirm : Bool
  /-- the answer, once there is one: FULL, and whether the target had retired -/
  answer : Option (Bool × Bool) := none
  /-- R430: held until the sending block's commit -/
  held : Bool := false
  /-- the cycle from which it may arrive -/
  ready : Nat := 0
  deriving DecidableEq, Repr

/-- A page request outstanding with the host (R387). -/
structure PageRequest where
  asid : Nat
  page : Nat
  access : Nat
  entries : List (Nat × Nat)
  ops : List (Nat × Nat × Nat)
  /-- LAUNCH and TARGET as the request gives them (R388) -/
  launch : Nat := 0
  target : Nat := 0
  deriving DecidableEq, Repr

/-- An invalidation that awaits its acknowledgement (R389), and who asked: a fragment of a core, or the host. -/
structure Invalidation where
  ident : Nat
  host : Bool
  pasid : Nat
  deriving DecidableEq, Repr

/-- A swapped-out block's image (R407 to R412). -/
structure Image where
  pa : Nat
  asid : Nat
  launch : Nat
  lin : Nat
  bytes : Nat
  /-- the spill slot that the block keeps (R27) -/
  spillSlot : Option Nat := none
  /-- the group that the block was placed in -/
  home : Nat × Nat := (0, 0)
  /-- what reaches a block whose checkpoint slot waits to be restored (R431): messages, the ports at which an offer was dropped,
  and replies (TAG, payload and info word) -/
  posts : List (Nat × Msg) := []
  dropped : List Nat := []
  replies : List (Nat × BitVec 64 × BitVec 64) := []
  /-- what R410 gives no place of its own in the image: each fragment's wait and kept request in their order, each wave's
  residency of granules, the operations with their streams, the stores behind the records, the notifications not yet
  taken, the COLLs issued per group, and the checkpoint's state -/
  frags : List (FragState × Option Kept) := []
  late : List (Nat × Msg) := []
  /-- per fragment, its loads of which some lanes have still to fault (R413) -/
  fragLoads : List (List PendingLoad) := []
  /-- per wave, the values of window registers for which the image's stacks have no place -/
  rest : List (Nat × Cells VReg) := []
  residency : List (Nat × Cells Lanes × Cells Lanes) := []
  ops : List Op := []
  opFree : List Nat := []
  latchSlots : Stream := {}
  stores : List StoreOp := []
  events : List DarnerEvent := []
  pairings : List (Nat × Nat) := []
  /-- per wave, what a FENCE has ordered behind its stores; the bounds of BAR; and the block's sets -/
  fences : List (Nat × Bool × Bool) := []
  barBounds : List Nat := []
  sets : List SetMember := []
  popped : List StoreRecord := []
  ckpt : Checkpoint := {}
  deriving DecidableEq, Repr

/-- A pre-emption under way (R407): its target, its start, the deadline D and whether swap-out has begun. -/
structure Preempt where
  target : PreemptTarget
  start : Nat
  deadline : Nat
  swapping : Bool
  deriving DecidableEq, Repr

/-- A retired identifier in quarantine (R398). -/
structure Quarantine where
  asid : Nat
  since : Nat
  outstanding : Nat
  completions : Nat
  bytes : Nat
  /-- the launches that ended with the context -/
  launches : List Nat := []
  deriving DecidableEq, Repr

/-- An event of the error log (R427, R428). -/
structure LogEvent where
  chan : Nat
  kind : Nat
  part : Nat
  asid : Nat
  addr : Nat
  deriving DecidableEq, Repr

/-- The error log (R425, R426), and the events of this cycle. -/
structure ErrorLog where
  base : BitVec 64 := 0
  ctl : BitVec 32 := 0
  wr : BitVec 64 := 0
  rd : BitVec 64 := 0
  drop : BitVec 64 := 0
  seq : BitVec 64 := 0
  ce : Cells (BitVec 32) := []
  ue : Cells (BitVec 32) := []
  pending : List LogEvent := []
  deriving DecidableEq, Repr

/-- An eye sample register (R434) without FAILED, which is read from the path map. -/
structure Eye where
  valid : Bool := false
  minw : BitVec 8 := 0xFF
  height : BitVec 8 := 0
  width : BitVec 8 := 0
  /-- timebase of the last sample -/
  sampled : Nat := 0
  deriving DecidableEq, Repr

/-- A channel's repair state (R433, R439). -/
structure Channel where
  repReq : Bool := false
  rtReq : Bool := false
  failed : List Nat := []
  caFailed : List Nat := []
  outOfSpares : Bool := false
  /-- command and address paths that have failed their parity, until a repair -/
  caWeak : List Nat := []
  deriving DecidableEq, Repr

/-- A pseudo-channel's spare bank (R441); STATE 0 unused, 1 copying, 2 spared. -/
structure Spare where
  bptr : Nat := 0
  bank : Nat := 0
  st : Nat := 0
  /-- timebase at which the copy began -/
  since : Nat := 0
  deriving DecidableEq, Repr

/-- EYECTL and EYETHR at reset (R435). -/
def eyeCtlReset : BitVec 32 := 0x00640000
def eyeThrReset : BitVec 32 := 0x12181E28

/-- HBM training and repair (R433 to R442). Control registers unlisted hold their reset values. Eyes are keyed by stack × 16384 + channel × 512 + path, channels by
stack × 32 + channel, spares by stack × 64 + pseudo-channel, control registers by stack. -/
structure Hbm where
  eyes : Cells Eye := []
  eyeCtl : Cells (BitVec 32) := []
  eyeThr : Cells (BitVec 32) := []
  channels : Cells Channel := []
  spares : Cells Spare := []
  /-- timebase at which a stack's last round of samples began (R434) -/
  rounds : Cells Nat := []
  /-- corrected events of the last second: pseudo-channel, bank and time (R440) -/
  recent : List (Nat × Nat × Nat) := []
  /-- banks that have reported an uncorrectable event: pseudo-channel and bank (R440) -/
  failing : List (Nat × Nat) := []
  deriving DecidableEq, Repr

/-- What a device event concerns; a field the event does not use is 0. The model's own. -/
structure Subject where
  core : Nat := 0
  block : Nat := 0
  wave : Nat := 0
  frag : Nat := 0
  queue : Nat := 0
  index : Nat := 0
  node : Nat := 0
  group : Nat := 0
  asid : Nat := 0
  slot : Nat := 0
  ident : Nat := 0
  stack : Nat := 0
  channel : Nat := 0
  deriving DecidableEq, Repr

/-- A decision of Dibor's as its journal records it (R443): the step that it takes, and what the step concerns. -/
structure Decision where
  subject : Subject
  step : Instr
  deriving DecidableEq, Repr

/-- What a mailbox holds for Dibor while its core has failed (R443, R445). -/
inductive Mail where
  /-- a request or an answer from outside -/
  | request (i : Instr)
  /-- a block has retired, or was killed -/
  | ended (launch lin : Nat) (killed : Bool)
  /-- a Darner reports that a context is to end -/
  | endContext (asid : Nat)
  deriving DecidableEq, Repr

/-- The firmware cores (R443 to R447): FWSTAT's fields, heartbeats, the journal's records that are not
yet committed, oldest first, with the count of those committed, and the mailbox events that await Dibor. -/
structure Firmware where
  takeovers : BitVec 16 := 0
  vector : BitVec 5 := 0
  irqEn : Bool := false
  standby : Bool := true
  active : Bool := false
  booted : Bool := true
  /-- timebase of the active core's last heartbeat -/
  lastBeat : Nat := 0
  /-- the active core has failed: it beats and decides no more until a takeover -/
  suspended : Bool := false
  journal : List Decision := []
  committed : Nat := 0
  /-- by core, oldest first: what Dibor has still to take up -/
  mailboxes : List (Nat × Mail) := []
  /-- accesses of Dibor's own whose page request was refused: identifier, page and kind -/
  refused : List (Nat × Nat × Nat) := []
  /-- the fused security version counter (R447) -/
  fused : Nat := 0
  deriving DecidableEq, Repr

/-- Power-up and power (R449, R451). -/
structure Power where
  on : Bool := true
  stacksTrained : Nat := 8
  groups : Nat := 0
  lastGroup : Nat := 0
  temp : BitVec 16 := 0
  clkMhz : Nat := 3600
  power : BitVec 16 := 0
  limit : BitVec 16 := 1600
  deriving DecidableEq, Repr

/-- A load's request that is still on a CXL link after its block has left its core (R389, R398): the identifier, the number of
R389, the port, the cycle of its completion, and the bytes that it brings. -/
structure Flight where
  asid : Nat
  ident : Nat
  port : Nat
  ready : Nat
  bytes : Nat
  deriving DecidableEq, Repr

/-- The links (R392, R394): which CXL ports, UALink stations and Ethernet ports have failed. -/
structure Links where
  cxlDown : List Nat := []
  ualinkDown : List Nat := []
  ethDown : List Nat := []
  flights : List Flight := []
  deriving DecidableEq, Repr

/-- An SPDM or TDISP answer, an interrupt, a page request or a report: what the device sends out. The outbox is the
model's own field, newest first. -/
inductive Output where
  /-- Dibor's report to the host driver at enumeration: which memory configuration the device is (R18) -/
  | configuration (large : Bool)
  | interrupt (partition vector : Nat)
  | driverInterrupt (vector : Nat)
  | pageRequest (pasid page access launch target : Nat)
  | invalidationDone (pasid : Nat)
  | snoopDone (pa : Nat)
  | backSnoop (pa : Nat)
  | directoryDone (pa size : Nat)
  | accessData (agent : Agent) (bytes : List Byte)
  | accessDone (agent : Agent)
  | accessError (agent : Agent)
  | spdm (request : Nat) (ok : Bool) (bytes : List Byte)
  | teardown (asid completions bytes : Nat) (atZero : Bool)
  | darnerReport (core code : Nat) (pc info : BitVec 64)
  | diborRequest (core : Nat) (k : Nat)
  | growBacking (asid : Nat)
  /-- what a register of the management block reads (R426) -/
  | registerRead (off size : Nat) (value : BitVec 64)
  /-- what a post page reads (R320) -/
  | postRead (page : DevicePage) (off size : Nat) (value : BitVec 64)
  deriving DecidableEq, Repr

/-- Which fragment issues, on which core: set by the turn of a quadrant before its instruction runs. The model's own. -/
structure Focus where
  core : Nat
  ref : FragRef
  deriving DecidableEq, Repr

/-- A turn of the agenda: a quadrant's issue slot, or an event with its subject. The model's own. -/
inductive Turn where
  | issue (core quadrant : Nat)
  | event (subject : Subject) (i : Instr)
  /-- a portion of the work of a core's Mangle channels and collective engine -/
  | work (core : Nat)
  /-- the order of a core's waits and issues is found, its loads having returned (R317) -/
  | arrange (core : Nat)
  /-- from outside: a group grants a peer access to its windows, or takes the grant back (R394, R397) -/
  | grant (group peer : Nat) (granted : Bool)
  /-- from outside: the driver reads a register of the management block (R426) -/
  | manageRead (off size : Nat)
  /-- from outside: a host process or the host driver reads a post page (R320) -/
  | postRead (page : DevicePage) (off size : Nat)
  deriving DecidableEq, Repr

/-- The state of the device. -/
structure State where
  /-- core cycles since reset (R2) -/
  cycle : Nat
  /-- the timebase in ns (R432), and what is carried towards the next, in units of ns / CLKMHZ -/
  timebase : Nat
  timeFrac : Nat
  cores : List (Nat × Core)
  mem : List Host.Cell
  /-- poisoned 32-byte sectors of physical memory, by address / 32 (R422) -/
  poison : List Nat
  /-- per word of physical memory, by address / 4, the bits that a live launch's stores have replaced, each with the launch
  (R99) -/
  overwritten : Cells (List (Nat × BitVec 32))
  contexts : List Context
  launches : List Launch
  queues : List (Nat × Queue)
  groups : List (Nat × Group)
  partitions : List (Nat × Partition)
  exactSums : List ExactSum
  contributions : List Contribution
  net : List NetMsg
  pageRequests : List PageRequest
  invalidations : List Invalidation
  images : List Image
  /-- what Dibor keeps of each resilient block's current checkpoint slot (R429) -/
  checkpoints : List Image
  /-- the device-wide translation cache (R385), most recently filled first -/
  walkCache : List WalkEntry
  preempts : List Preempt
  quarantine : List Quarantine
  log : ErrorLog
  hbm : Hbm
  firmware : Firmware
  power : Power
  links : Links
  /-- a source of fresh numbers for messages, stores and invalidations: the model's own -/
  nextIdent : Nat
  /-- the counter that free values are applied to: the model's own -/
  freeCtr : Nat
  /-- the model's own: what the outside brings, one list for each cycle to come -/
  inputs : List (List Turn)
  /-- the model's own: the turns left in this cycle -/
  agenda : List Turn
  focus : Option Focus
  subject : Subject
  outbox : List Output
  deriving DecidableEq, Repr

/-- Why the machine stops. -/
inductive Fault where
  /-- raised by the meaning of an encoded form when no fragment is in focus: `step` never runs one so, and on the device
  no instruction issues without a fragment. Safe. -/
  | noFragment
  /-- raised by `step` after POWER_OFF: the device has no state and takes no step until it is powered up (R449). Safe. -/
  | powerOff
  deriving DecidableEq, Repr

/-- What the model gives no meaning. -/
inductive Refusal where
  /-- an instruction whose meaning is not written yet; raised by exec's arm. Safe. -/
  | notModelled (mnemonic : String)
  deriving DecidableEq, Repr

/-- The device right after reset: HBM trained and no core group enabled yet (R449), Dibor booted on Thimble core 0 with
the standby present (R446), every bank in L1 mode (R275), nothing resident, memory with nothing listed. -/
def State.reset : State where
  cycle := 0
  timebase := 0
  timeFrac := 0
  cores := []
  mem := []
  poison := []
  overwritten := []
  contexts := []
  launches := []
  queues := []
  groups := []
  partitions := []
  exactSums := []
  contributions := []
  net := []
  pageRequests := []
  invalidations := []
  images := []
  checkpoints := []
  walkCache := []
  preempts := []
  quarantine := []
  log := {}
  hbm := {}
  firmware := {}
  power := {}
  links := {}
  nextIdent := 0
  freeCtr := 0
  inputs := []
  agenda := []
  focus := none
  subject := {}
  outbox := []

end Sys2Proof.Machine
end

