-- ==== Sys2Proof/Machine/Ops.lean ====
section
/-! DEFINITION. The named operations over the state: sparse tables and memory, access to cores, blocks, waves and
fragments, the free choices, the scoreboarding of an issue, and the one shared operation that takes a fault (R9, R261,
R341, R342) with the return from it beside it. -/

namespace Sys2Proof.Machine

/-! ### Sparse tables and memory -/

/-- The entry of a key; `d` is what an unlisted key reads as. -/
def cellGet {α : Type} (d : α) (k : Nat) : Cells α → α
  | [] => d
  | (a, x) :: r => if a = k then x else cellGet d k r

/-- Puts an entry, keeping the canonical form. -/
def cellSet {α : Type} [DecidableEq α] (d : α) (k : Nat) (v : α) : Cells α → Cells α
  | [] => if v = d then [] else [(k, v)]
  | (a, x) :: r =>
    if k < a then (if v = d then (a, x) :: r else (k, v) :: (a, x) :: r)
    else if k = a then (if v = d then r else (k, v) :: r)
    else (a, x) :: cellSet d k v r

/-- Every key is at least `lo`, keys rise strictly, and no entry equals the default. -/
def cellsWfFrom {α : Type} [DecidableEq α] (d : α) (lo : Nat) : Cells α → Bool
  | [] => true
  | (a, x) :: r => lo ≤ a && x != d && cellsWfFrom d (a + 1) r

/-- The canonical form. -/
def cellsWf {α : Type} [DecidableEq α] (d : α) (l : Cells α) : Bool := cellsWfFrom d 0 l

/-- Puts several entries, first to last. -/
def cellSetAll {α : Type} [DecidableEq α] (d : α) (ws : List (Nat × α)) (l : Cells α) : Cells α :=
  ws.foldl (fun m w => cellSet d w.1 w.2 m) l

/-- A byte that nothing has written reads as 0 (log entry 4). -/
def unwrittenByte : Byte := 0

/-- The canonical form of memory. -/
abbrev memWf (m : List Host.Cell) : Bool := cellsWf unwrittenByte m

/-- Reads `n` bytes from `a` upward. -/
def readBytes (m : Cells Byte) (a : Nat) : Nat → List Byte
  | 0 => []
  | n + 1 => cellGet unwrittenByte a m :: readBytes m (a + 1) n

/-- Writes bytes from `a` upward. -/
def writeBytes (m : Cells Byte) (a : Nat) : List Byte → Cells Byte
  | [] => m
  | b :: r => writeBytes (cellSet unwrittenByte a b m) (a + 1) r

/-- The number that bytes hold, lowest address first (R3). -/
def leNat : List Byte → Nat
  | [] => 0
  | b :: r => b.toNat + 256 * leNat r

/-- The `n` bytes of a number, lowest address first (R3). -/
def leBytes (v : Nat) : Nat → List Byte
  | 0 => []
  | n + 1 => BitVec.ofNat 8 v :: leBytes (v / 256) n

/-! ### Tables of objects -/

/-- The object of a key. -/
def tabGet {α : Type} (k : Nat) : List (Nat × α) → Option α
  | [] => none
  | (a, x) :: r => if a = k then some x else tabGet k r

/-- Puts an object, keys rising. -/
def tabSet {α : Type} (k : Nat) (v : α) : List (Nat × α) → List (Nat × α)
  | [] => [(k, v)]
  | (a, x) :: r =>
    if k < a then (k, v) :: (a, x) :: r
    else if k = a then (k, v) :: r
    else (a, x) :: tabSet k v r

/-- Removes an object. -/
def tabErase {α : Type} (k : Nat) (l : List (Nat × α)) : List (Nat × α) := l.filter fun e => e.1 != k

/-- The least of 0, 1, …, n − 1 that a list does not hold. -/
def firstFree (used : List Nat) (n : Nat) : Option Nat := (List.range n).find? fun k => !used.contains k

/-- Puts an element before the first that it may precede. -/
def insertBy {α : Type} (le : α → α → Bool) (x : α) : List α → List α
  | [] => [x]
  | y :: r => if le x y then x :: y :: r else y :: insertBy le x r

/-- A list in an order; equals keep their places. -/
def sortBy {α : Type} (le : α → α → Bool) : List α → List α
  | [] => []
  | x :: r => insertBy le x (sortBy le r)

/-! ### Cores, blocks, waves and fragments -/

/-- A core; one that holds nothing is not listed. -/
def coreOf (s : State) (c : Nat) : Core := (tabGet c s.cores).getD {}

/-- Changes a core. -/
def modCore (s : State) (c : Nat) (f : Core → Core) : State :=
  { s with cores := tabSet c (f (coreOf s c)) s.cores }

/-- A resident block. -/
def blockOf (s : State) (c b : Nat) : Option Block := tabGet b (coreOf s c).blocks

/-- Changes a block of a core. -/
def Core.modBlock (k : Core) (b : Nat) (f : Block → Block) : Core :=
  { k with blocks := k.blocks.map fun e => if e.1 = b then (e.1, f e.2) else e }

/-- Changes a resident block. -/
def modBlock (s : State) (c b : Nat) (f : Block → Block) : State := modCore s c fun k => k.modBlock b f

/-- A wave of a block. -/
def Block.wave? (b : Block) (w : Nat) : Option Wave := b.waves.find? fun x => x.idx == w

/-- Changes a wave of a block. -/
def Block.modWave (b : Block) (w : Nat) (f : Wave → Wave) : Block :=
  { b with waves := b.waves.map fun x => if x.idx = w then f x else x }

/-- Changes a wave. -/
def modWave (s : State) (c b w : Nat) (f : Wave → Wave) : State := modBlock s c b fun k => k.modWave w f

/-- A wave of a resident block. -/
def waveOf (s : State) (c b w : Nat) : Option Wave := (blockOf s c b).bind fun k => k.wave? w

/-- A fragment of a wave. -/
def Wave.frag? (w : Wave) (f : Nat) : Option Fragment := w.frags.find? fun x => x.id == f

/-- Changes a fragment of a wave. -/
def Wave.modFrag (w : Wave) (i : Nat) (f : Fragment → Fragment) : Wave :=
  { w with frags := w.frags.map fun x => if x.id = i then f x else x }

/-- Changes a fragment. -/
def modFrag (s : State) (c : Nat) (r : FragRef) (f : Fragment → Fragment) : State :=
  modWave s c r.block r.wave fun w => w.modFrag r.frag f

/-- A fragment of a core. -/
def fragOf (s : State) (c : Nat) (r : FragRef) : Option Fragment :=
  (waveOf s c r.block r.wave).bind fun w => w.frag? r.frag

/-- The handle of the Darner's block, or of a Thimble core's firmware. -/
def supervisorHandle : Nat := 64

/-- A core's partition (R19). -/
def partitionOf (core : Nat) : Nat := core / 2

/-- A partition's state. -/
def partState (s : State) (p : Nat) : Partition := (tabGet p s.partitions).getD {}

/-- Changes a partition's state. -/
def modPart (s : State) (p : Nat) (f : Partition → Partition) : State :=
  { s with partitions := tabSet p (f (partState s p)) s.partitions }

/-- A queue's state. -/
def queueOf (s : State) (q : Nat) : Queue := (tabGet q s.queues).getD {}

/-- Changes a queue's state. -/
def modQueue (s : State) (q : Nat) (f : Queue → Queue) : State :=
  { s with queues := tabSet q (f (queueOf s q)) s.queues }

/-- A partition group's state. -/
def groupOf (s : State) (g : Nat) : Group := (tabGet g s.groups).getD {}

/-- Changes a partition group's state. -/
def modGroup (s : State) (g : Nat) (f : Group → Group) : State :=
  { s with groups := tabSet g (f (groupOf s g)) s.groups }

/-- A live context. -/
def contextOf (s : State) (asid : Nat) : Option Context := s.contexts.find? fun c => c.asid == asid

/-- Changes a context. -/
def modContext (s : State) (asid : Nat) (f : Context → Context) : State :=
  { s with contexts := s.contexts.map fun c => if c.asid = asid then f c else c }

/-- A live launch. -/
def launchOf (s : State) (ident : Nat) : Option Launch := s.launches.find? fun l => l.ident == ident

/-- Changes a launch. -/
def modLaunch (s : State) (ident : Nat) (f : Launch → Launch) : State :=
  { s with launches := s.launches.map fun l => if l.ident = ident then f l else l }

/-- Sends something out of the device. -/
def emit (s : State) (o : Output) : State := { s with outbox := o :: s.outbox }

/-- A choice that the spec leaves open among `n` alternatives; `salt` tells apart the choices of one step. With one
alternative nothing is chosen. -/
def choose (s : State) (salt n : Nat) : Nat :=
  if n ≤ 1 then 0 else Config.freeChoice (s.freeCtr * 65536 + salt) % n

/-- Counts an event of a partition's core (R452): every counter whose selection is `code` advances by `n`. -/
def countEvent (s : State) (core code n : Nat) : State :=
  if 128 ≤ core then s
  else
    let p := partState s (partitionOf core)
    if (List.range 8).any fun k => (p.pmcsel.extractLsb' (4 * k) 4).toNat == code then
      modPart s (partitionOf core) fun p =>
        { p with pmc := (List.range 8).foldl (fun m k =>
            if (p.pmcsel.extractLsb' (4 * k) 4).toNat = code then
              cellSet 0 k (cellGet 0 k m + BitVec.ofNat 64 n) m else m) p.pmc }
    else s

/-! ### The issuing fragment -/

/-- What an instruction sees of its place: the issuing fragment with its wave, block and core. -/
structure Ctx where
  core : Nat
  ref : FragRef
  blk : Block
  wave : Wave
  frag : Fragment

/-- The issuing fragment's place, if the focus names one. -/
def ctxOf (s : State) : Option Ctx :=
  match s.focus with
  | none => none
  | some f =>
    match blockOf s f.core f.ref.block with
    | none => none
    | some b =>
      match b.wave? f.ref.wave with
      | none => none
      | some w =>
        match w.frag? f.ref.frag with
        | none => none
        | some fr => some ⟨f.core, f.ref, b, w, fr⟩

/-- Predicate k of a wave (R30): p7 reads true in every lane. -/
def predOf (w : Wave) (k : Nat) : Lanes := if k = 7 then BitVec.allOnes 32 else cellGet 0 k w.preds

/-- MODE's fields (R32). -/
def modeGuard (m : BitVec 32) : BitVec 4 := m.extractLsb' 0 4
def modeType (m : BitVec 32) : Nat := (m.extractLsb' 4 4).toNat
def modeRound (m : BitVec 32) : Nat := (m.extractLsb' 8 2).toNat
def modeScope (m : BitVec 32) : Nat := (m.extractLsb' 10 3).toNat
def modeSetSlot (m : BitVec 32) : Nat := (m.extractLsb' 13 2).toNat
def modeSigMin (m : BitVec 32) : Nat := (m.extractLsb' 15 6).toNat
def modeTrapEn (m : BitVec 32) : BitVec 5 := m.extractLsb' 21 5
def modePstore (m : BitVec 32) : Bool := m.getLsbD 26
def modeCheck (m : BitVec 32) : Bool := m.getLsbD 27
def modeFtz (m : BitVec 32) : Bool := m.getLsbD 28

/-- A MODE value without a reserved value (R34). -/
def modeLegal (m : BitVec 32) : Bool := modeScope m < 6 && modeType m < 14 && m.extractLsb' 29 3 == 0#3

/-- The lanes in which a MODE's guard holds (R30). -/
def guardLanes (w : Wave) (m : BitVec 32) : Lanes :=
  let p := predOf w (m.extractLsb' 0 3).toNat
  if m.getLsbD 3 then ~~~ p else p

/-- ACTIVE (R30). -/
def activeOf (w : Wave) (f : Fragment) : Lanes := f.exec &&& guardLanes w f.mode

/-- The issuing fragment's ACTIVE. -/
def Ctx.active (c : Ctx) : Lanes := activeOf c.wave c.frag

/-! ### Early reads (R104 to R106) -/

/-- The values that R106 lets an early read of a register deliver: those it held at the start of the fragment's last
eight issues, newest first, then the final one. -/
def earlyChoices {α : Type} (hist : List HistStep) (get : HistStep → List (Nat × α)) (key : Nat) (final : α) : List α :=
  final :: (hist.take 8).filterMap fun h => ((get h).find? fun e => e.1 == key).map (·.2)

/-- Whether a producer's result is the register or predicate that a code names now: a window register keeps its stack index
when the window slides (R26). -/
def Producer.names (p : Producer) (code : Nat) : Bool :=
  if p.code < 64 then code < 64 && (code : Int) + p.slide == p.code else p.code == code

/-- A producer after the fragment's windows have slid. -/
def Producer.slid (p : Producer) (delta : Int) : Producer := { p with slide := p.slide + delta }

/-- Whether a register's fixed-latency result is not readable yet (R104). -/
def tooEarly (s : State) (f : Fragment) (code : Nat) : Bool :=
  f.prods.any fun p => p.names code && s.cycle < p.ready

/-- Picks among the values of an early read (R106). -/
def pickEarly {α : Type} (s : State) (salt : Nat) (l : List α) (final : α) : α :=
  (l[choose s salt l.length]?).getD final

/-- Predicate k of the wave as the fragment reads it now (R104, R106). -/
def readP (s : State) (c : Ctx) (k : Nat) : Lanes :=
  if k = 7 then BitVec.allOnes 32
  else
    let final := predOf c.wave k
    if tooEarly s c.frag (128 + k) then
      match (earlyChoices c.frag.hist (·.ps) k final)[1]? with
      | none => final
      | some old =>
        -- in each lane the old value or the new one
        let new := BitVec.ofNat 32 (choose s (8192 + k) (2 ^ 32))
        (final &&& new) ||| (old &&& ~~~ new)
    else final

/-- ACTIVE as the issuing instruction sees it (R30, R106). -/
def issueActive (s : State) (c : Ctx) : Lanes :=
  let p := readP s c (c.frag.mode.extractLsb' 0 3).toNat
  c.frag.exec &&& (if c.frag.mode.getLsbD 3 then ~~~ p else p)

/-- A lane's window base (R26). -/
def Wave.wbOf (w : Wave) (lane : Nat) : Nat := cellGet 0 lane w.wb

/-- The cell of a lane's window register n. -/
def Wave.cell (w : Wave) (lane n : Nat) : Nat := (w.wbOf lane + n) * 32 + lane

/-- W of R26. -/
def windowSize (h : Header) : Nat := min 64 h.depth

/-! ### Faults (R9, R261, R341 to R343) -/

/-- A wave's live lanes: the members of its fragments. -/
def Wave.live (w : Wave) : Lanes := w.frags.foldl (fun m f => m ||| f.members) 0

/-- The waves of a core's resident blocks, each with one reserved Hamper entry (R342). -/
def residentWaves (k : Core) : Nat :=
  (k.blocks.filter fun e => e.1 < supervisorHandle).foldl
    (fun n e => n + (e.2.waves.filter fun w => w.handler || w.st != .ended).length) 0

/-- The Hamper entry that a fault of a wave takes: its wave's reserved entry if free, else a shared one if any is free
(R342). -/
def hamperSlot (k : Core) (block wave : Nat) : Option (Nat × Bool) :=
  match firstFree (k.hamper.map (·.idx)) Config.hamperEntries with
  | none => none
  | some i =>
    if k.hamper.any fun e => e.block == block && e.wave == wave && e.reserved then
      if (k.hamper.filter fun e => !e.reserved).length < Config.hamperEntries - residentWaves k then some (i, false)
      else none
    else some (i, true)

/-- The PASID with which a context's page requests are tagged (R387). -/
def pasidOf (s : State) (asid : Nat) : Nat := (contextOf s asid).elim 0 (·.pasid)

/-- Whether something still waits for a page request. -/
def PageRequest.live (r : PageRequest) : Bool := !(r.entries.isEmpty && r.ops.isEmpty)

/-- The request of a page that has been sent and is waited for: the first; others of the page wait for its answer (R387). -/
def sentRequest (s : State) (asid page : Nat) : Option PageRequest :=
  s.pageRequests.find? fun r => r.live && r.asid == asid && r.page == page

/-- The page requests after a fault on a page (R387): it joins a request of its page that asks for its kind, and else
sends one, unless a request of another kind is outstanding, whose answer it awaits. -/
def joinPageRequest (s : State) (asid page access : Nat) (entries : List (Nat × Nat)) (ops : List (Nat × Nat × Nat))
    (launch target : Nat) : State :=
  if s.pageRequests.any fun r => r.live && r.asid == asid && r.page == page && r.access == access then
    { s with pageRequests := s.pageRequests.map fun r =>
        if r.live ∧ r.asid = asid ∧ r.page = page ∧ r.access = access then
          { r with entries := r.entries ++ entries, ops := r.ops ++ ops } else r }
  else
    let r : PageRequest := ⟨asid, page, access, entries, ops, launch, target⟩
    let first := (sentRequest s asid page).isNone
    let s := { s with pageRequests := s.pageRequests ++ [r] }
    if first then emit s (.pageRequest (pasidOf s asid) page access launch target) else s

/-- The first Thimble core, where the active Dibor's accesses are made. -/
def diborCore : Nat := 128

/-- The TARGET of Dibor's own requests, which no entry of a program core has (log entry 20). -/
def diborTarget : Nat := diborCore * 128

/-- LAUNCH and TARGET of what waits for a request (R388): its entries, then its operations. -/
def waiterNames (s : State) (r : PageRequest) : List (Nat × Nat) :=
  r.entries.map (fun e =>
    if e.1 = diborCore then (0, diborTarget)
    else
      let b := ((coreOf s e.1).hamper.find? fun x => x.idx == e.2).bind fun x => blockOf s e.1 x.block
      (b.elim 0 (·.launch), e.1 * 128 + e.2)) ++
  r.ops.map fun o => ((blockOf s o.1 o.2.1).elim 0 (·.launch), o.2.1 * 2 ^ 14 + o.1 * 128 + 64 + o.2.2)

/-- Some waiters of page requests are gone: a request that named one of them to the host is sent again for another, and one that
a request without waiters has held back is sent now (R387, R388; log entry 130). `before` are the requests as they stood. -/
def resendRequests (s : State) (before : List PageRequest) : State :=
  s.pageRequests.foldl (fun s r =>
    let names := waiterNames s r
    let sent := (before.find? fun x => x.live && x.asid == r.asid && x.page == r.page).any fun x => x.access == r.access
    if !r.live || sentRequest s r.asid r.page != some r || (sent && names.contains (r.launch, r.target)) then s
    else
      let n := names.headD (0, 0)
      let x := { r with launch := n.1, target := n.2 }
      emit { s with pageRequests := s.pageRequests.map fun y => if y = r then x else y }
        (.pageRequest (pasidOf s r.asid) r.page r.access n.1 n.2)) s

/-- Waiters of page requests that have gone are struck out, and the requests follow. -/
def strikeWaiters (s : State) (entry : Nat × Nat → Bool) (op : Nat × Nat × Nat → Bool) : State :=
  resendRequests { s with pageRequests := s.pageRequests.map fun r =>
      { r with entries := r.entries.filter fun e => !entry e, ops := r.ops.filter fun e => !op e } } s.pageRequests

/-- A fault of a page goes to the memory-management unit; every other goes to the Darner (R343). -/
def faultToMmu (code : Nat) (fromWalk : Bool) : Bool := code == 0x07 || (code == 0x08 && fromWalk)

/-- What a fault says of itself (R9, R341): code, lanes, FLT.INFO, the access kind, and whether a table walk found it. -/
structure FaultInfo where
  code : Nat
  lanes : Lanes
  info : BitVec 64
  access : Nat := 0
  walk : Bool := false
  /-- the fault's mask is EXEC or the fragment: the whole fragment parks -/
  whole : Bool := false
  /-- where the fault fragment parks, when not at the faulting instruction (R224, R240) -/
  pc : Option (BitVec 64) := none
  /-- the ACTIVE with which the instruction issued (R341), when that was earlier: a load's -/
  active : Option Lanes := none

/-- A queued event of the Darner (R345). -/
def notifyDarner (s : State) (core : Nat) (e : DarnerEvent) : State :=
  modCore s core fun k => { k with darner := { k.darner with events := k.darner.events ++ [e] } }

/-- Records a Hamper entry; one that the memory-management unit serves goes to the fault broker (R387). -/
def makeEntry (s : State) (core : Nat) (asid launch : Nat) (e : HamperEntry) : State :=
  let s := modCore s core fun k => { k with hamper := k.hamper ++ [e], nextAge := k.nextAge + 1 }
  let s := countEvent s core 9 1
  if e.st = .hw then
    joinPageRequest s asid (e.info.toNat / 4096) e.access [(core, e.idx)] [] launch (core * 128 + e.idx)
  else s

/-- A fault in the supervisor's own instruction does not enter the Hamper: the core stops the Darner and reports (R242). -/
def darnerFault (s : State) (core code : Nat) (pc info : BitVec 64) : State :=
  emit (modCore s core fun k => { k with darner := { k.darner with stopped := some (code, pc, info) } })
    (.darnerReport core code pc info)

/-- The fragment waits at its instruction for a free Hamper entry (R342). -/
def waitAt (s : State) (c : Ctx) (w : Wait) : State :=
  modFrag s c.core c.ref fun f => { f with st := .waitEvent w, waitSince := s.timebase, released := false }

/-- The pending results of some lanes, and the uniform ones, which every copy of the s-registers awaits (R29, R104). -/
def restrictLoads (m : Lanes) (l : List PendingLoad) : List PendingLoad :=
  l.map fun p => { p with vs := p.vs.filter fun e => m.getLsbD (e.1 % 32)
                          fail := (p.fail.map fun x => (x.1, x.2.1 &&& m, x.2.2)).filter fun x => x.2.1 != 0 }

/-- TAKING A FAULT. `before` is the state in which the instruction issued; `after` is the state in which the lanes that
do not fault have completed it, the fragment gone past it. A fault on every member parks the whole fragment as it was;
a lane fault detaches the faulting lanes as a fragment of their own, with copies of the issuing fragment's registers,
MODE and stall state, at the faulting instruction; the continuing fragment keeps the rest (R261). The entry's PC is where
the fragment parks: the faulting instruction, or past a consumed completion (R224, R240, R316). When no Hamper entry
is free nothing takes effect and the fragment waits (R342). -/
def takeFault (c : Ctx) (fi : FaultInfo) (before after : State) : State :=
  if c.ref.block = supervisorHandle then darnerFault before c.core fi.code c.frag.pc fi.info
  else
    match hamperSlot (coreOf before c.core) c.ref.block c.ref.wave with
    | none => waitAt before c .hamper
    | some (idx, reserved) =>
      let st := if faultToMmu fi.code fi.walk then HamperState.hw else .queued
      let lanes := fi.lanes &&& c.frag.members
      let active := fi.active.getD (issueActive before c)
      let parked : Fragment :=
        { c.frag with st := .parked idx, pc := fi.pc.getD c.frag.pc, released := false, noCompare := false,
                      sbBound := none, copied := none, drainBound := none, moved := false }
      if fi.whole ∨ lanes = c.frag.members then
        let e : HamperEntry := ⟨idx, st, c.ref.block, c.ref.wave, c.ref.frag, fi.code, c.frag.members, active, fi.info,
          fi.access, parked.pc, (coreOf before c.core).nextAge, reserved⟩
        let s := if fi.pc.isSome then after else before
        let s := modFrag s c.core c.ref fun f =>
          if fi.pc.isSome then { f with st := .parked idx, pc := parked.pc, released := false } else parked
        makeEntry s c.core c.blk.asid c.blk.launch e
      else if lanes = 0 then after
      else
        let id := c.wave.nextFrag
        let e : HamperEntry := ⟨idx, st, c.ref.block, c.ref.wave, id, fi.code, lanes, active, fi.info, fi.access,
          parked.pc, (coreOf before c.core).nextAge, reserved⟩
        let base := if fi.pc.isSome then (fragOf after c.core c.ref).getD c.frag else c.frag
        let fresh : Fragment := { base with
          st := parked.st, pc := parked.pc, released := false, noCompare := false, sbBound := none, copied := none,
          drainBound := none, moved := false,
          id := id, members := lanes, exec := lanes, kept := none, slot := {}, loads := restrictLoads lanes base.loads }
        let s := modWave after c.core c.ref.block c.ref.wave fun w =>
          { w with nextFrag := id + 1,
                   frags := (w.frags.map fun f =>
                     if f.id = c.ref.frag then
                       { f with members := f.members &&& ~~~ lanes, exec := f.exec &&& ~~~ lanes,
                                loads := restrictLoads (~~~ lanes) f.loads } else f) ++ [fresh] }
        makeEntry s c.core c.blk.asid c.blk.launch e

/-- A decode fault: the whole fragment parks with the word in FLT.INFO (R100). -/
def decodeFault (c : Ctx) (code : Nat) (word : Word) (s : State) : State :=
  takeFault c { code := code, lanes := c.frag.members, info := word.setWidth 64, whole := true } s s

/-- A fault with mask EXEC: the whole fragment parks (R341). -/
def fragmentFault (c : Ctx) (code : Nat) (info : BitVec 64) (s : State) : State :=
  takeFault c { code := code, lanes := c.frag.members, info := info, whole := true } s s

/-! ### Returning from a fault -/

/-- A parked fragment runs again (R344, R247): its entry is freed and it joins the pending set at `pc`. -/
def unpark (s : State) (core : Nat) (e : HamperEntry) (pc : BitVec 64) (noCompare : Bool) : State :=
  let s := modCore s core fun k => { k with hamper := k.hamper.filter fun x => x.idx != e.idx }
  modFrag s core ⟨e.block, e.wave, e.frag⟩ fun f =>
    { f with st := .run, pc := pc, noCompare := noCompare, slot := {} }

/-- Hardware and HREL replay (R344, R247, R353): the fragment issues the faulting instruction again, without comparator
checks after a breakpoint. -/
def replayEntry (s : State) (core : Nat) (e : HamperEntry) : State :=
  match fragOf s core ⟨e.block, e.wave, e.frag⟩ with
  | none => s
  | some f => unpark s core e f.pc (e.code == 0x13)

end Sys2Proof.Machine
end

