-- ==== Sys2Proof/Machine/Operands.lean ====
section
/-! DEFINITION. Every operand form: which registers each field of a form accepts and at which width (R22 to R28, R120,
R121, R152, R153, R180, R181, R219, R241), the decode checks on them (R100), reading an operand and writing a result,
and the fixed latencies (R104 to R106). -/

namespace Sys2Proof.Machine

/-! ### TYPE codes (R33) -/

def tyI32 : Nat := 0
def tyU32 : Nat := 1
def tyI64 : Nat := 2
def tyU64 : Nat := 3
def tyI16 : Nat := 4
def tyI8 : Nat := 5
def tyF32 : Nat := 6
def tyF64 : Nat := 7
def tyF16 : Nat := 8
def tyBF16 : Nat := 9
def tyTF32 : Nat := 10
def tyBX8 : Nat := 11
def tyBX6 : Nat := 12
def tyBX4 : Nat := 13

/-- The integer types. -/
def isInt (t : Nat) : Bool := t ≤ 5
/-- The signed integer types. -/
def isSigned (t : Nat) : Bool := t == 0 || t == 2 || t == 4 || t == 5
/-- The block formats. -/
def isBx (t : Nat) : Bool := 11 ≤ t && t ≤ 13
/-- The 64-bit types. -/
def is64 (t : Nat) : Bool := t == 2 || t == 3 || t == 7
/-- F16, BF16, F32 and F64. -/
def isFloat (t : Nat) : Bool := 6 ≤ t && t ≤ 9

/-- The width of a type's value in a register. -/
def tyBits (t : Nat) : Nat :=
  if is64 t then 64 else if t = 4 ∨ t = 8 ∨ t = 9 then 16 else if t = 5 then 8 else 32

/-- The size of a non-BX type in memory (R33). -/
def tySize (t : Nat) : Nat := tyBits t / 8

/-- IT: the effective integer type of the integer class (R120). -/
def intType (t : Nat) : Nat := if isInt t then t else if t = 7 then 3 else 1

/-- p(T) of R9; 0 for an integer type. -/
def precision (t : Nat) : Nat :=
  match t with
  | 6 => 24 | 7 => 53 | 8 => 11 | 9 => 8 | 10 => 11 | 11 => 7 | 12 => 5 | 13 => 3 | _ => 0

/-- The tag that a value entering a register carries: p(TYPE) under a floating TYPE, else 62 (R25, R73). -/
def freshTag (t : Nat) : Tag := if isInt t then 62 else BitVec.ofNat 6 (precision t)

/-! ### Operand specifications -/

/-- How wide an operand is: by TYPE, by IT, by TYPE but never below 32 (lane moves), a fixed width, a named type, or
decided by the record at issue. -/
inductive WidthSpec where
  | ty | it | move | w32 | w64 | src (t : BitVec 4) | elem
  deriving DecidableEq, Repr

/-- One operand field of a form: its code, the register kinds accepted, whether it is read and written. -/
structure OperandSpec where
  code : Code
  v : Bool
  s : Bool
  c0 : Bool
  c : Bool
  width : WidthSpec
  reads : Bool
  writes : Bool
  even : Bool := false
  deriving DecidableEq, Repr

/-- A destination: any register but a constant other than c0. -/
def dAny (d : Code) (w : WidthSpec) : OperandSpec := ⟨d, true, true, true, false, w, false, true, false⟩
/-- A destination that must be a window register. -/
def dV (d : Code) (w : WidthSpec) : OperandSpec := ⟨d, true, false, false, false, w, false, true, false⟩
/-- A uniform destination: an s-register or c0. -/
def dS (d : Code) : OperandSpec := ⟨d, false, true, true, false, .w64, false, true, false⟩
/-- A destination pair of s-registers. -/
def dSEven (d : Code) : OperandSpec := ⟨d, false, true, false, false, .w64, false, true, true⟩
/-- A source of any kind. -/
def rAny (a : Code) (w : WidthSpec) : OperandSpec := ⟨a, true, true, true, true, w, true, false, false⟩
/-- A uniform source: an s- or c-register. -/
def rU (a : Code) (w : WidthSpec) : OperandSpec := ⟨a, false, true, true, true, w, true, false, false⟩
/-- A window-register source. -/
def rV (a : Code) (w : WidthSpec) : OperandSpec := ⟨a, true, false, false, false, w, true, false, false⟩
/-- A source that must be an s-register. -/
def rS (a : Code) : OperandSpec := ⟨a, false, true, false, false, .w64, true, false, false⟩

/-- The source specification of a B operand; a literal names no register. -/
def rB (b : Src) (f : Code → OperandSpec) : List OperandSpec :=
  match b with
  | .reg c => [f c]
  | .lit _ => []

/-- The operand fields of a form. -/
def operandsOf : Instr → List OperandSpec
  | .modew _ a => [rU a .w32]
  | .brz _ s _ | .bnz _ s _ => [rS s]
  | .loop _ s _ => [rS s, ⟨s, false, true, false, false, .w64, false, true, false⟩]
  | .jmpi _ a | .calli _ a _ => [rU a .w64]
  | .ret _ => [rS 95]
  | .sigbr _ x _ => [rAny x .w32]
  | .pset _ _ a => [rAny a .ty]
  | .mov _ d a => [dAny d .ty, rAny a .ty]
  | .sel _ d a b => [dAny d .ty, rAny a .ty] ++ rB b (rAny · .ty)
  | .lit _ d _ | .movi _ d _ => [dAny d .ty]
  | .litWide _ d _ => [dAny d .w64]
  | .iaddA _ d a b | .isub _ d a b | .imul _ d a b | .imulh _ d a b | .iaddc _ d a b | .imin _ d a b
  | .imax _ d a b | .shlA _ d a b | .shrA _ d a b | .sarA _ d a b | .rot _ d a b | .andA _ d a b
  | .or _ d a b | .xor _ d a b | .andn _ d a b => [dAny d .it, rAny a .it] ++ rB b (rAny · .it)
  | .iaddB _ d a _ | .shlB _ d a _ | .shrB _ d a _ | .sarB _ d a _ | .andB _ d a _
  | .ineg _ d a | .iabs _ d a | .clz _ d a | .popc _ d a | .brev _ d a => [dAny d .it, rAny a .it]
  | .imad _ d a b => [{ dAny d .it with reads := true }, rAny a .it] ++ rB b (rAny · .it)
  | .bfx _ d a b => [dAny d .it, rAny a .it] ++ rB b (rAny · .w32)
  | .bfi _ d a b => [{ dAny d .it with reads := true }, rAny a .it] ++ rB b (rAny · .w32)
  | .icmpA _ _ _ a b => [rAny a .it] ++ rB b (rAny · .it)
  | .icmpB _ _ _ a _ => [rAny a .it]
  | .addr _ d a b => [dAny d .w64, rAny a .w64] ++ rB b (rAny · .w32)
  | .cvti _ d a t | .fcvt _ d a t | .icvt _ d a t => [dAny d .ty, rAny a (.src t)]
  | .fadd _ d a b | .fsub _ d a b | .fmul _ d a b | .fdiv _ d a b | .fmin _ d a b | .fmax _ d a b
  | .fcps _ d a b => [dAny d .ty, rAny a .ty] ++ rB b (rAny · .ty)
  | .ffma _ d a b | .ffms _ d a b => [{ dAny d .ty with reads := true }, rAny a .ty] ++ rB b (rAny · .ty)
  | .fsqrt _ d a | .frcp _ d a | .frsq _ d a | .fabs _ d a | .fneg _ d a | .frnd _ d a | .fexp2 _ d a
  | .flog2 _ d a | .fsin _ d a | .fcos _ d a | .ftag _ d a => [dAny d .ty, rAny a .ty]
  | .fcmp _ _ _ a b => [rAny a .ty] ++ rB b (rAny · .ty)
  | .fclass _ d a => [dAny d .w32, rAny a .ty]
  | .fscale _ d a b => [dAny d .ty, rAny a .ty] ++ rB b (rAny · .w32)
  | .ftagw _ d b => [dAny d .ty] ++ rB b (rAny · .ty)
  | .shflIdxA _ d a b | .shflUpA _ d a b | .shflDownA _ d a b | .shflXorA _ d a b =>
    [dV d .move, rAny a .move] ++ rB b (rAny · .w32)
  | .wperm _ d a b => [dV d .move, rAny a .move] ++ rB b (rAny · .move)
  | .shflIdxB _ d a _ | .shflUpB _ d a _ | .shflDownB _ d a _ | .shflXorB _ d a _ => [dV d .move, rAny a .move]
  | .voteBallot _ d _ => [dAny d .w32]
  | .wsync _ a b => if b = .reg 0 then [rU a .w32] else []
  | .wred _ d a _ => [dAny d .ty, rAny a .ty]
  | .wscan _ d a _ => [dV d .ty, rAny a .ty]
  | .rdlaneA _ d a b => [dAny d .move, rV a .move] ++ rB b (rU · .w32)
  | .rdlaneB _ d a _ => [dAny d .move, rV a .move]
  | .wrlaneA _ d a b => [dV d .move, rU a .move] ++ rB b (rU · .w32)
  | .wrlaneB _ d a _ => [dV d .move, rU a .move]
  | .mask _ d a => [dS d, rU a .w32]
  | .execq _ d => [dS d]
  | .ldM _ d _ _ a | .ldx _ d _ _ a => [dV d .elem, rAny a .w32]
  | .ldMi _ d _ _ _ => [dV d .elem]
  | .ldu _ d _ _ a => [dV d .ty, rAny a .w32]
  | .stM _ d _ _ a | .stx _ d _ _ a => [rV d .elem, rAny a .w32]
  | .stMi _ d _ _ _ => [rV d .elem]
  | .stu _ d _ _ a => [rV d .ty, rAny a .w32]
  | .ldsM _ d _ _ a => [dS d, rU a .w32]
  | .ldsMi _ d _ _ _ => [dS d]
  | .stsM _ d _ _ a => [rU d .w64, rU a .w32]
  | .stsMi _ d _ _ _ => [rU d .w64]
  | .pref _ _ a | .cwb _ _ a | .cinv _ _ a => [rAny a .w32]
  | .cas _ d _ _ a => [⟨d, true, true, false, false, .elem, true, true, true⟩, rAny a .w32]
  | .fatom _ d _ _ a => [rAny d .ty, rAny a .w32]
  | .fatomq _ d _ _ a => [dAny d .ty, rAny a .w32]
  | .atomAdd _ d _ _ a | .atomSub _ d _ _ a | .atomMin _ d _ _ a | .atomMax _ d _ _ a | .atomAnd _ d _ _ a
  | .atomOr _ d _ _ a | .atomXor _ d _ _ a | .atomExch _ d _ _ a =>
    [{ dAny d .elem with reads := true }, rAny a .w32]
  | .recset _ d _ => [rS d, rS (d + 1), rS (d + 2), rS (d + 3)]
  | .recmod _ d _ a => [rU d .w64, rU a .w32]
  | .recget _ d _ a => [dS d, rU a .w32]
  | .fifopReserve _ d _ a | .fifopCommit _ d _ a | .fifopClaim _ d _ a | .fifopFree _ d _ a => [dS d, rU a .w32]
  | .wload _ s _ | .mma _ s _ | .accz _ s _ | .accrd _ s _ _ | .accld _ s _ _ | .copy _ s _ _
  | .gather _ s _ _ | .scat _ s _ _ | .quant _ s _ _ _ | .coll _ s _ _ =>
    [⟨s, false, true, false, false, .w64, true, true, false⟩]
  | .iron _ s | .ironp _ s => [rS s]
  | .cancel _ a => [rU a .w64]
  | .opq _ d a => [dSEven d, rU a .w64]
  | .opwait _ d a => [dS d, rU a .w64]
  | .send _ a b | .sendp _ a b => [rU a .w64] ++ rB b (rU · .w64)
  | .recv _ d a => [dSEven d, rU a .w64]
  | .portq _ d a => [dS d, rU a .w64]
  | .rdsys _ d n => [{ dS d with reads := n == 3 }]
  | .wrsys _ d _ => [⟨d, false, true, true, false, .w64, true, false, false⟩]
  | .tlbi _ a b | .sigpost _ a b => [rU a .w64] ++ rB b (rU · .w64)
  | .ctxsv _ d a b | .chkpt _ d a b | .sfqPeek _ d a b | .sfqPop _ d a b | .sfqReplay _ d a b
  | .sfqDiscard _ d a b => [dS d, rU a .w64] ++ rB b (rU · .w64)
  | .ctxld _ d a | .bankm _ d a | .pmcrd _ d a => [dS d, rU a .w64]
  | .hrelReplay _ a | .hrelSkip _ a | .hrelSignal _ a | .hrelKill _ a => [rU a .w64]
  | _ => []

/-- The predicates a form reads besides its guard. -/
def predsRead : Instr → List Nat
  | .pand _ _ a b | .por _ _ a b | .pxor _ _ a b => [a.toNat, b.toNat]
  | .pnot _ _ a | .pmov _ _ a | .voteAny _ _ a | .voteAll _ _ a | .voteBallot _ _ a | .voteEq _ _ a => [a.toNat]
  | _ => []

/-- The predicate a form writes. -/
def predWritten : Instr → Option Nat
  | .pset _ p _ | .icmpA _ _ p _ _ | .icmpB _ _ p _ _ | .fcmp _ _ p _ _ => some p.toNat
  | .pand _ d _ _ | .por _ d _ _ | .pxor _ d _ _ | .pnot _ d _ | .pmov _ d _ | .voteAny _ d _ | .voteAll _ d _
  | .voteEq _ d _ => some d.toNat
  | _ => none

/-- Registers written besides the operand fields: a call's link s31 (R136), the register after an OPQ's or RECV's. -/
def extraWritten : Instr → List Nat
  | .call _ _ _ | .calli _ _ _ => [95]
  | .opq _ d _ | .recv _ d _ => [d.toNat + 1]
  | _ => []

/-- The forms that ignore the guard and EXEC (R123, R180, R184, R241). -/
def fragmentForm : Instr → Bool
  | .nop _ | .mode _ _ _ | .modew _ _ | .bra _ _ | .brz _ _ _ | .bnz _ _ _ | .jmpi _ _ | .call _ _ _
  | .calli _ _ _ | .ret _ | .rcv _ | .yield _ | .loop _ _ _ | .mask _ _ _ | .execq _ _
  | .fenceAcq _ | .fenceRel _ | .fenceAr _ | .drains _ | .jwait _ _ | .patenOn _ _ | .patenOff _ _ | .bar _ | .sbar _
  | .rdsys _ _ _ | .wrsys _ _ _ | .eret _ | .tlbi _ _ _ | .ctxsv _ _ _ _ | .ctxld _ _ _ | .hrelReplay _ _
  | .hrelSkip _ _ | .hrelSignal _ _ | .hrelKill _ _ | .sigpost _ _ _ | .bankm _ _ _ | .chkpt _ _ _ _
  | .sfqPeek _ _ _ _ | .sfqPop _ _ _ _ | .sfqReplay _ _ _ _ | .sfqDiscard _ _ _ _ | .pmcrd _ _ _ | .svc _ _
  | .svcWdog _ | .svcDebug _ | .svcCollreg _ | .svcSigret _ _ => true
  | _ => false

/-- The stall count of a form (R92). -/
def stallCount (i : Instr) : Nat := ((firstWord i).extractLsb' 29 3).toNat

/-! ### TYPE (R120, R152, R181) -/

/-- Whether a form may issue under a TYPE. -/
def typeOk (i : Instr) (t : Nat) : Bool :=
  match i with
  | .mov _ _ _ | .sel _ _ _ _ | .pset _ _ _ => t != 10
  | .movi _ _ _ | .lit _ _ _ | .litWide _ _ _ | .ftag _ _ _ | .ftagw _ _ _ => t < 10
  | .iaddA _ _ _ _ | .iaddB _ _ _ _ | .isub _ _ _ _ | .imul _ _ _ _ | .imulh _ _ _ _ | .imad _ _ _ _
  | .iaddc _ _ _ _ | .ineg _ _ _ | .iabs _ _ _ | .imin _ _ _ _ | .imax _ _ _ _ | .shlA _ _ _ _
  | .shlB _ _ _ _ | .shrA _ _ _ _ | .shrB _ _ _ _ | .sarA _ _ _ _ | .sarB _ _ _ _ | .rot _ _ _ _
  | .andA _ _ _ _ | .andB _ _ _ _ | .or _ _ _ _ | .xor _ _ _ _ | .andn _ _ _ _ | .clz _ _ _ | .popc _ _ _
  | .brev _ _ _ | .bfx _ _ _ _ | .bfi _ _ _ _ | .icmpA _ _ _ _ _ | .icmpB _ _ _ _ _ | .addr _ _ _ _ => t < 10
  | .cvti _ _ _ src => isInt t && isInt src.toNat
  | .fadd _ _ _ _ | .fsub _ _ _ _ | .fmul _ _ _ _ | .ffma _ _ _ _ | .ffms _ _ _ _ | .fdiv _ _ _ _ | .fsqrt _ _ _
  | .frcp _ _ _ | .frsq _ _ _ | .fmin _ _ _ _ | .fmax _ _ _ _ | .fabs _ _ _ | .fneg _ _ _ | .fcps _ _ _ _
  | .fcmp _ _ _ _ _ | .fclass _ _ _ | .frnd _ _ _ | .fexp2 _ _ _ | .flog2 _ _ _ | .fsin _ _ _ | .fcos _ _ _
  | .fscale _ _ _ _ | .fatom _ _ _ _ _ | .fatomq _ _ _ _ _ => isFloat t
  | .fcvt _ _ _ src =>
    let a := src.toNat
    (isFloat t || t == 10 || isBx t) && (isFloat a || a == 10 || isBx a) && a != t &&
      !(isBx a && (isBx t || t == 10)) && !(a == 10 && isBx t)
  | .icvt _ _ _ src => (isFloat t && isInt src.toNat) || (isInt t && isFloat src.toNat)
  | .shflIdxA _ _ _ _ | .shflUpA _ _ _ _ | .shflDownA _ _ _ _ | .shflXorA _ _ _ _ | .shflIdxB _ _ _ _
  | .shflUpB _ _ _ _ | .shflDownB _ _ _ _ | .shflXorB _ _ _ _ | .rdlaneA _ _ _ _ | .rdlaneB _ _ _ _
  | .wrlaneA _ _ _ _ | .wrlaneB _ _ _ _ | .wperm _ _ _ _ => t != 10
  | .wred _ _ _ o | .wscan _ _ _ o =>
    t < 10 && (isInt t || o == .add || o == .min || o == .max)
  | .ldu _ _ _ _ _ | .stu _ _ _ _ _ => t < 10
  | _ => true

/-- Whether a form may carry an ORD (R180). -/
def ordOk : Instr → Bool
  | .ldM _ _ _ q _ | .ldMi _ _ _ q _ | .ldsM _ _ _ q _ | .ldsMi _ _ _ q _ | .ldu _ _ _ q _ | .ldx _ _ _ q _
  | .fatomq _ _ _ q _ => q == .plain || q == .acq
  | .stM _ _ _ q _ | .stMi _ _ _ q _ | .stsM _ _ _ q _ | .stsMi _ _ _ q _ | .stu _ _ _ q _ | .stx _ _ _ q _ =>
    q == .plain || q == .rel
  | _ => true

/-- The wave-collective forms (R167): FCVT is one when it quantises to a BX type. -/
def collective (i : Instr) (t : Nat) : Bool :=
  match i with
  | .shflIdxA _ _ _ _ | .shflUpA _ _ _ _ | .shflDownA _ _ _ _ | .shflXorA _ _ _ _ | .shflIdxB _ _ _ _
  | .shflUpB _ _ _ _ | .shflDownB _ _ _ _ | .shflXorB _ _ _ _ | .voteAny _ _ _ | .voteAll _ _ _
  | .voteBallot _ _ _ | .voteEq _ _ _ | .wred _ _ _ _ | .wscan _ _ _ _ | .rdlaneA _ _ _ _ | .rdlaneB _ _ _ _
  | .wrlaneA _ _ _ _ | .wrlaneB _ _ _ _ | .wperm _ _ _ _
  | .wload _ _ _ | .mma _ _ _ | .accz _ _ _ | .accrd _ _ _ _ | .accld _ _ _ _ | .iron _ _ | .ironp _ _
  | .copy _ _ _ _ | .gather _ _ _ _ | .scat _ _ _ _ | .quant _ _ _ _ _ | .coll _ _ _ _ => true
  | .fcvt _ _ _ _ => isBx t
  | _ => false

/-! ### Decode checks that need the fragment (R100, step 4) -/

/-- The width of an operand under a TYPE. -/
def widthOf (w : WidthSpec) (t : Nat) : Nat :=
  match w with
  | .ty => tyBits t
  | .it => tyBits (intType t)
  | .move => if is64 t then 64 else 32
  | .w32 => 32
  | .w64 => 64
  | .src k => tyBits k.toNat
  | .elem => 32

/-- The constants that differ from lane to lane (R23). -/
def perLaneConst (c : Code) : Bool := 98 ≤ c.toNat && c.toNat ≤ 101

/-- Whether an operand code may stand in a field: its kind, the window, the pair rule, and code 127 (R22 to R28). -/
def operandOk (h : Header) (t : Nat) (o : OperandSpec) : Bool :=
  let n := o.code.toNat
  if n < 64 then
    o.v && n < windowSize h && !(widthOf o.width t == 64 && n % 2 == 1) &&
      !(widthOf o.width t == 64 && windowSize h ≤ n + 1) && !(o.even && n % 2 == 1)
  else if n < 96 then o.s && !(o.even && n % 2 == 1)
  else if n = 127 then false
  else if n = 96 then o.c0
  else o.c && !o.writes

/-- The atomic forms with the kind `either`, which an s-register or c0 in D makes uniform (R180). -/
def eitherUniform : Instr → Bool
  | .cas _ d _ _ _ | .fatom _ d _ _ _ | .fatomq _ d _ _ _ | .atomAdd _ d _ _ _ | .atomSub _ d _ _ _ | .atomMin _ d _ _ _
  | .atomMax _ d _ _ _ | .atomAnd _ d _ _ _ | .atomOr _ d _ _ _ | .atomXor _ d _ _ _ | .atomExch _ d _ _ _ =>
    64 ≤ d.toNat && d.toNat ≤ 96
  | _ => false

/-- Whether a form's destination makes it uniform-only, so that no source may differ from lane to lane (R23, R180), but for
RDLANE, VOTE and WRED, which R23 lets read window registers. -/
def uniformRule (i : Instr) (ops : List OperandSpec) : Bool :=
  let perLane := ops.any fun o => o.reads && (o.code.toNat < 64 || perLaneConst o.code)
  match i with
  | .rdlaneA _ _ _ _ | .rdlaneB _ _ _ _ | .voteBallot _ _ _ | .wred _ _ _ _ => true
  | _ =>
    if (ops.any fun o => o.writes && 64 ≤ o.code.toNat && o.code.toNat < 96) ∨ fragmentForm i ∨ eitherUniform i then !perLane
    else true

/-- The uniform memory and message forms accept no per-lane constant (R180). -/
def uniformOnly : Instr → Bool
  | .ldsM _ _ _ _ _ | .stsM _ _ _ _ _ | .stsMi _ _ _ _ _ | .recset _ _ _ | .recmod _ _ _ _ | .recget _ _ _ _ | .fifopReserve _ _ _ _
  | .fifopCommit _ _ _ _ | .fifopClaim _ _ _ _ | .fifopFree _ _ _ _ | .send _ _ _ | .sendp _ _ _ | .recv _ _ _
  | .portq _ _ _ | .cancel _ _ | .opq _ _ _ | .opwait _ _ _ | .wsync _ _ _ => true
  | _ => false

/-- The checks on particular fields (R102, R175, R176, R180). -/
def fieldOk (h : Header) (t : Nat) : Instr → Bool
  | .call _ f _ | .calli _ _ f => 1 ≤ f.toNat && f.toNat ≤ windowSize h
  | .litWide _ d _ => d.toNat % 2 == 0 || 64 ≤ d.toNat
  | .wsync _ a b => b == .reg 0 || (match b with | .lit _ => a == 0 | _ => false)
  | .recset _ d _ => 64 ≤ d.toNat && d.toNat < 96 && d.toNat % 4 == 0
  | .fcvt _ d _ _ => !isBx t || d.toNat < 64
  | .accz _ _ f | .accld _ _ _ f => f != 3
  | .accrd _ _ _ f => f.extractLsb' 0 2 != 3
  | .rdsys _ _ n => [0, 1, 2, 3, 0x10, 0x11, 0x12, 0x13, 0x14, 0x15, 0x16, 0x20, 0x21, 0x22, 0x30, 0x40, 0x41, 0x50].contains n.toNat
  | .wrsys _ _ n => [0, 1, 2, 3, 0x10, 0x11, 0x12, 0x13, 0x14, 0x15, 0x16, 0x50].contains n.toNat
  | .sigbr _ x _ => x.toNat != 127
  | .rdlaneA _ _ _ (.reg b) | .wrlaneA _ _ _ (.reg b) => !perLaneConst b
  | .unassignedOpcode _ => false
  | .cas _ _ _ _ a | .fatom _ _ _ _ a | .fatomq _ _ _ _ a => a.toNat != 127
  | _ => true

/-- Step 4 of R100 on what the word alone does not decide: operand kinds, the window, TYPE and ORD. -/
def decodeOk (h : Header) (mode : BitVec 32) (i : Instr) : Bool :=
  let t := modeType mode
  let ops := operandsOf i
  typeOk i t && ordOk i && fieldOk h t i && ops.all (operandOk h t) && uniformRule i ops &&
    !(uniformOnly i && ops.any fun o => o.reads && perLaneConst o.code)

/-- Whether a form runs once rather than lane by lane (R23, R122, R180): its destination is an s-register, or c0 without a
per-lane source; a predicate or window destination makes it per-thread. -/
def uniformIssue (i : Instr) : Bool :=
  let ops := operandsOf i
  match ops.find? (·.writes) with
  | none =>
    match i with
    | .stsM _ _ _ _ _ | .stsMi _ _ _ _ _ => true
    | .fatom _ d _ _ a => eitherUniform i || (64 ≤ d.toNat && !perLaneConst d && 64 ≤ a.toNat && !perLaneConst a)
    | _ => false
  | some o =>
    if o.code.toNat < 64 then false
    else if o.code.toNat < 96 then true
    else !(ops.any fun x => x.reads && (x.code.toNat < 64 || perLaneConst x.code))

/-! ### Reading operands (R121, R153) -/

/-- The F64 bits of an F32 literal, exact, NaN bits kept (R22). -/
def widenF32 (x : BitVec 32) : BitVec 64 :=
  let sign := x.extractLsb' 31 1
  let e := (x.extractLsb' 23 8).toNat
  let f := (x.extractLsb' 0 23).toNat
  if e = 255 then sign ++ BitVec.allOnes 11 ++ (x.extractLsb' 0 23 ++ 0#29)
  else if e = 0 then
    if f = 0 then sign ++ 0#63
    else
      let k := Nat.log2 f
      sign ++ BitVec.ofNat 11 (1023 - 149 + k) ++ BitVec.ofNat 52 ((f - 2 ^ k) * 2 ^ (52 - k))
  else sign ++ BitVec.ofNat 11 (e + 896) ++ (x.extractLsb' 0 23 ++ 0#29)

/-- The literal word as an operand of a type (R22). -/
def literalValue (t : Nat) (x : BitVec 32) : BitVec 64 :=
  match t with
  | 2 => x.signExtend 64
  | 3 => x.setWidth 64
  | 7 => widenF32 x
  | 8 | 9 => (x.extractLsb' 0 16).setWidth 64
  | _ => x.setWidth 64

/-- The bits of 1.0, 0.5 and 2.0 in a type; 1, 0 and 2 under an integer type; a BX type has the F32 values (R24). -/
def unitConst (t k : Nat) : BitVec 64 :=
  if isInt t then (match k with | 15 => 1 | 16 => 0 | _ => 2)
  else
    match t, k with
    | 7, 15 => 0x3FF0000000000000 | 7, 16 => 0x3FE0000000000000 | 7, _ => 0x4000000000000000
    | 8, 15 => 0x3C00 | 8, 16 => 0x3800 | 8, _ => 0x4000
    | 9, 15 => 0x3F80 | 9, 16 => 0x3F00 | 9, _ => 0x4000
    | _, 15 => 0x3F800000 | _, 16 => 0x3F000000 | _, _ => 0x40000000

/-- A block's thread t in a lane of a wave (R257). -/
def threadIndex (c : Ctx) (lane : Nat) : Nat × Nat × Nat :=
  if c.wave.handler then (lane, 0, 0)
  else
    let t := c.wave.idx * 32 + lane
    let (x, y, _) := c.blk.bdim
    (t % max x 1, (t / max x 1) % max y 1, t / max (x * y) 1)

/-- The block's x, y and z index from its linear index (R118). -/
def blockIndex (b : Block) : Nat × Nat × Nat :=
  let (x, y, _) := b.grid
  (b.lin % max x 1, (b.lin / max x 1) % max y 1, b.lin / max (x * y) 1)

/-- A constant register read at 32 or 64 bits (R24, R25). `k` is its number. -/
def constValue (s : State) (c : Ctx) (t : Nat) (wide : Bool) (k lane : Nat) : BitVec 64 :=
  let slot := modeSetSlot c.frag.mode
  match k with
  | 0 => 0
  | 1 => 1
  | 2 => BitVec.ofNat 64 lane
  | 3 => BitVec.ofNat 64 (threadIndex c lane).1
  | 4 => BitVec.ofNat 64 (threadIndex c lane).2.1
  | 5 => BitVec.ofNat 64 (threadIndex c lane).2.2
  | 6 => BitVec.ofNat 64 (blockIndex c.blk).1
  | 7 => BitVec.ofNat 64 (blockIndex c.blk).2.1
  | 8 => BitVec.ofNat 64 (blockIndex c.blk).2.2
  | 9 => BitVec.ofNat 64 c.blk.grid.1
  | 10 => BitVec.ofNat 64 c.blk.grid.2.1
  | 11 => BitVec.ofNat 64 c.blk.grid.2.2
  | 12 => BitVec.ofNat 64 c.wave.idx
  | 13 => BitVec.ofNat 64 (c.core % 2)
  | 14 => if wide then BitVec.ofNat 64 c.blk.launch else BitVec.ofNat 64 (c.blk.launch % 2 ^ 32)
  | 15 | 16 | 17 => unitConst t k
  | 18 => BitVec.ofNat 64 ((List.range 4).foldl (fun n j =>
      n + (match c.blk.sets[j]? with | some m => m.num % 256 * 2 ^ (8 * j) | none => 0)) 0)
  | 19 => BitVec.ofNat 64 ((List.range 4).foldl (fun n j =>
      n + (match c.blk.sets[j]? with | some _ => 2 ^ j | none => 0)) 0)
  | 20 => match c.blk.sets[slot]? with | some m => BitVec.ofNat 64 m.rank | none => 0xFFFFFFFF
  | 21 => match c.blk.sets[slot]? with | some m => BitVec.ofNat 64 m.count | none => 0
  | 22 => if wide then BitVec.ofNat 64 s.timebase else BitVec.ofNat 64 (s.timebase % 2 ^ 32)
  | 23 => BitVec.ofNat 64 (s.timebase / 2 ^ 32 % 2 ^ 32)
  | 24 => BitVec.ofNat 64 (c.blk.launch / 2 ^ 32 % 2 ^ 32)
  | 25 => BitVec.ofNat 64 (partitionOf c.core)
  | 26 => BitVec.ofNat 64 c.blk.bdim.1
  | 27 => BitVec.ofNat 64 c.blk.bdim.2.1
  | 28 => BitVec.ofNat 64 c.blk.bdim.2.2
  | 29 => BitVec.ofNat 64 c.blk.hdr.waves
  | _ => if wide then BitVec.allOnes 64 else 0xFFFFFFFF

/-- Window register n of a lane, as the fragment reads it now (R26, R106). -/
def readV (s : State) (c : Ctx) (lane n : Nat) : VReg :=
  let key := c.wave.cell lane n
  let final := cellGet {} key c.wave.regs
  if tooEarly s c.frag n then
    pickEarly s (n * 32 + lane) (earlyChoices c.frag.hist (fun h => h.vs ++ h.lateV) key final) final
  else final

/-- s-register k of the fragment, as it reads it now. -/
def readS (s : State) (c : Ctx) (k : Nat) : SReg :=
  let final := cellGet {} k c.frag.s
  if tooEarly s c.frag (64 + k) then
    pickEarly s (4096 + k) (earlyChoices c.frag.hist (fun h => h.ss ++ h.lateS) k final) final
  else final

/-- Cuts a register's bits to a width. -/
def cutTo (n : Nat) (x : BitVec 64) : BitVec 64 :=
  match n with
  | 8 => (x.extractLsb' 0 8).setWidth 64
  | 16 => (x.extractLsb' 0 16).setWidth 64
  | 32 => (x.extractLsb' 0 32).setWidth 64
  | _ => x

/-- Operand code `code` in a lane: its bits at width `n`, zero-extended, and its tag; `t` is TYPE (R9 opnd, R121). -/
def readCode (s : State) (c : Ctx) (t n : Nat) (code : Code) (lane : Nat) : BitVec 64 × Tag :=
  let k := code.toNat
  if k < 64 then
    let lo := readV s c lane k
    if n = 64 then ((readV s c lane (k + 1)).val ++ lo.val, lo.tag)
    else (cutTo n (lo.val.setWidth 64), lo.tag)
  else if k < 96 then
    let r := readS s c (k - 64)
    (cutTo n r.val, r.tag)
  else (cutTo n (constValue s c t (n == 64) (k - 96) lane), freshTag t)

/-- A B operand in a lane (R22): `t` is the type that widens a literal. -/
def readSrc (s : State) (c : Ctx) (t n : Nat) (b : Src) (lane : Nat) : BitVec 64 × Tag :=
  match b with
  | .reg code => readCode s c t n code lane
  | .lit x => (cutTo n (literalValue t x), freshTag t)

/-- A B operand of the integer class in a lane (R120 to R122): a register is read at the width of IT, a constant as MODE.TYPE
gives it (R24), and a literal is widened as an operand of IT. -/
def readIntSrc (s : State) (c : Ctx) (b : Src) (lane : Nat) : BitVec 64 :=
  let t := intType (modeType c.frag.mode)
  match b with
  | .reg code => (readCode s c (modeType c.frag.mode) (tyBits t) code lane).1
  | .lit x => cutTo (tyBits t) (literalValue t x)

/-- A 64-bit operand of a system form (R241): c15 to c17 have their values under MODE.TYPE (R24, R25). -/
def readWord (s : State) (c : Ctx) (code : Code) : BitVec 64 := (readCode s c (modeType c.frag.mode) 64 code 0).1

/-- A 64-bit B operand of a system form (R241): a literal stands for an address, a count or a set of fields, and zeros extend
it whatever TYPE is (log entry 48). -/
def readSrcWord (s : State) (c : Ctx) (b : Src) : BitVec 64 :=
  match b with
  | .reg code => readWord s c code
  | .lit x => x.setWidth 64

/-- The low bits of a B operand of FTAGW, WPERM, RDLANE or WRLANE in a lane, read as its form's TYPE has it (R153): a literal
under F64 is widened by R22 (log entry 84). -/
def readLow (s : State) (c : Ctx) (b : Src) (lane : Nat) : BitVec 64 :=
  match b with
  | .reg code => (readCode s c (modeType c.frag.mode) 32 code lane).1
  | .lit x => cutTo 32 (literalValue (modeType c.frag.mode) x)

/-! ### Writing results (R28, R122) -/

/-- A result of a type as a 32-bit register holds it: I8 and I16 sign-extended, F16 and BF16 in the low half (R28). -/
def heldIn32 (t : Nat) (x : BitVec 64) : BitVec 32 :=
  match t with
  | 4 => (x.extractLsb' 0 16).signExtend 32
  | 5 => (x.extractLsb' 0 8).signExtend 32
  | 8 | 9 => (x.extractLsb' 0 16).setWidth 32
  | _ => x.extractLsb' 0 32

/-- A result of a type as an s-register holds it (R28). The rule names I32, U32 and
F32; F16, BF16 and TF32 are zero-extended like F32 (DESIGN CHOICE, log entry 121). -/
def heldInS (t : Nat) (x : BitVec 64) : BitVec 64 :=
  if is64 t then x
  else if t = 0 ∨ t = 4 ∨ t = 5 then (heldIn32 t x).signExtend 64
  else (heldIn32 t x).setWidth 64

/-- The register writes of one lane's result; `wide` for a pair. -/
def writeV (c : Ctx) (lane : Nat) (d : Nat) (wide : Bool) (t : Nat) (x : BitVec 64) (tag : Tag) : List (Nat × VReg) :=
  if wide then
    [(c.wave.cell lane d, ⟨x.extractLsb' 0 32, tag⟩), (c.wave.cell lane (d + 1), ⟨x.extractLsb' 32 32, tag⟩)]
  else [(c.wave.cell lane d, ⟨heldIn32 t x, tag⟩)]

/-- The write of one result to a destination code: a window register of the lane, an s-register, or nothing for c0. -/
def writeCode (c : Ctx) (lane : Nat) (d : Code) (wide : Bool) (t : Nat) (x : BitVec 64) (tag : Tag) : HistStep :=
  let k := d.toNat
  if k < 64 then { vs := writeV c lane k wide t x tag }
  else if k < 96 then { ss := [(k - 64, ⟨if wide then x else heldInS t x, tag⟩)] }
  else {}

/-- Joins writes. -/
def HistStep.append (a b : HistStep) : HistStep := { vs := a.vs ++ b.vs, ss := a.ss ++ b.ss, ps := a.ps ++ b.ps }

/-- The writes of every lane of a set. -/
def laneWrites (m : Lanes) (f : Nat → HistStep) : HistStep :=
  (lanesOf m).foldl (fun w i => w.append (f i)) {}

/-- The write of a predicate in some lanes (R30): p7 discards. -/
def writePred (c : Ctx) (k : Nat) (lanes value : Lanes) : HistStep :=
  if k = 7 then {} else { ps := [(k, (predOf c.wave k &&& ~~~ lanes) ||| (value &&& lanes))] }

/-- The values that writes replace, for R106. -/
def oldValues (w : Wave) (f : Fragment) (x : HistStep) : HistStep :=
  { vs := x.vs.map fun e => (e.1, cellGet {} e.1 w.regs), ss := x.ss.map fun e => (e.1, cellGet {} e.1 f.s)
    ps := x.ps.map fun e => (e.1, cellGet 0 e.1 w.preds) }

/-! ### Latency (R104) -/

/-- The fixed latency of a form's result, by TYPE and whether it is uniform; none is variable-latency. A uniform FTAGW has the
uniform row's latency (DESIGN CHOICE, log entry 125: R104 lists only the per-thread one). -/
def latencyOf (i : Instr) (t : Nat) (uniform : Bool) : Option Nat :=
  match i with
  | .imul _ _ _ _ | .imulh _ _ _ _ | .imad _ _ _ _ | .iaddc _ _ _ _ | .addr _ _ _ _ =>
    if uniform then some 2 else if is64 t then some 8 else some 6
  | .mov _ _ _ | .sel _ _ _ _ | .movi _ _ _ | .lit _ _ _ | .litWide _ _ _ | .iaddA _ _ _ _ | .iaddB _ _ _ _
  | .isub _ _ _ _ | .ineg _ _ _ | .iabs _ _ _ | .imin _ _ _ _ | .imax _ _ _ _ | .shlA _ _ _ _ | .shlB _ _ _ _
  | .shrA _ _ _ _ | .shrB _ _ _ _ | .sarA _ _ _ _ | .sarB _ _ _ _ | .rot _ _ _ _ | .andA _ _ _ _ | .andB _ _ _ _
  | .or _ _ _ _ | .xor _ _ _ _ | .andn _ _ _ _ | .clz _ _ _ | .popc _ _ _ | .brev _ _ _ | .bfx _ _ _ _
  | .bfi _ _ _ _ | .cvti _ _ _ _ | .ftag _ _ _ | .ftagw _ _ _ => some (if uniform then 2 else 4)
  | .icmpA _ _ _ _ _ | .icmpB _ _ _ _ _ | .pset _ _ _ | .pand _ _ _ _ | .por _ _ _ _ | .pxor _ _ _ _
  | .pnot _ _ _ | .pmov _ _ _ => some 4
  | .loop _ _ _ | .call _ _ _ | .calli _ _ _ => some 2
  | .fadd _ _ _ _ | .fsub _ _ _ _ | .fmul _ _ _ _ | .ffma _ _ _ _ | .ffms _ _ _ _ | .fmin _ _ _ _ | .fmax _ _ _ _
  | .fabs _ _ _ | .fneg _ _ _ | .fcps _ _ _ _ | .fcmp _ _ _ _ _ | .fclass _ _ _ | .frnd _ _ _ | .fscale _ _ _ _ =>
    some (if is64 t then 7 else 5)
  | .icvt _ _ _ _ => some (if is64 t then 7 else 5)
  | .fcvt _ _ _ _ => if isBx t then none else some (if is64 t then 7 else 5)
  | .shflIdxA _ _ _ _ | .shflUpA _ _ _ _ | .shflDownA _ _ _ _ | .shflXorA _ _ _ _ | .shflIdxB _ _ _ _
  | .shflUpB _ _ _ _ | .shflDownB _ _ _ _ | .shflXorB _ _ _ _ | .voteAny _ _ _ | .voteAll _ _ _
  | .voteBallot _ _ _ | .voteEq _ _ _ | .rdlaneA _ _ _ _ | .rdlaneB _ _ _ _ | .wrlaneA _ _ _ _ | .wrlaneB _ _ _ _
  | .mask _ _ _ | .execq _ _ | .wperm _ _ _ _ => some 6
  | _ => none

/-- The window and s-registers that an operand field covers under a TYPE. -/
def coveredCodes (t : Nat) (o : OperandSpec) : List Nat :=
  let k := o.code.toNat
  if k < 64 ∧ widthOf o.width t = 64 then [k, k + 1] else if k < 96 then [k] else []

/-- The codes a form writes: registers by code, predicate k as 128 + k. -/
def writtenCodes (i : Instr) (t : Nat) : List Nat :=
  ((operandsOf i).filter (·.writes)).flatMap (coveredCodes t) ++ extraWritten i ++
    (match predWritten i with | some p => if p = 7 then [] else [128 + p] | none => [])

/-- Whether a uniform form reads the guard: SEL selects by it (R143), VOTE and WRED combine the lanes of ACTIVE, a computing
floating-point form faults with it (R154), and a uniform access is made only when ACTIVE is not empty (R184). -/
def uniformReadsGuard : Instr → Bool
  | .sel _ _ _ _ | .voteBallot _ _ _ | .wred _ _ _ _
  | .fadd _ _ _ _ | .fsub _ _ _ _ | .fmul _ _ _ _ | .ffma _ _ _ _ | .ffms _ _ _ _ | .fdiv _ _ _ _ | .fsqrt _ _ _
  | .frcp _ _ _ | .frsq _ _ _ | .fmin _ _ _ _ | .fmax _ _ _ _ | .frnd _ _ _ | .fexp2 _ _ _ | .flog2 _ _ _ | .fsin _ _ _
  | .fcos _ _ _ | .fscale _ _ _ _ | .fcvt _ _ _ _ | .icvt _ _ _ _
  | .ldsM _ _ _ _ _ | .ldsMi _ _ _ _ _ | .stsM _ _ _ _ _ | .stsMi _ _ _ _ _
  | .fifopReserve _ _ _ _ | .fifopCommit _ _ _ _ | .fifopClaim _ _ _ _ | .fifopFree _ _ _ _
  | .cas _ _ _ _ _ | .fatom _ _ _ _ _ | .fatomq _ _ _ _ _ | .atomAdd _ _ _ _ _ | .atomSub _ _ _ _ _ | .atomMin _ _ _ _ _
  | .atomMax _ _ _ _ _ | .atomAnd _ _ _ _ _ | .atomOr _ _ _ _ _ | .atomXor _ _ _ _ _ | .atomExch _ _ _ _ _ => true
  | _ => false

/-- Whether a form reads its guard predicate (R30, R123): a fragment form does not, nor the forms whose effect is full when
ACTIVE is empty (R122, R184, R220). -/
def readsGuard (i : Instr) : Bool :=
  match i with
  | .recset _ _ _ | .recmod _ _ _ _ | .recget _ _ _ _ | .send _ _ _ | .sendp _ _ _ | .recv _ _ _ | .portq _ _ _
  | .wload _ _ _ | .mma _ _ _ | .accz _ _ _ | .accrd _ _ _ _ | .accld _ _ _ _ | .iron _ _ | .ironp _ _
  | .copy _ _ _ _ | .gather _ _ _ _ | .scat _ _ _ _ | .quant _ _ _ _ _ | .coll _ _ _ _
  | .cancel _ _ | .opq _ _ _ | .opwait _ _ _ => false
  | _ => !fragmentForm i && (!uniformIssue i || uniformReadsGuard i)

/-- The s-registers that an SVC reads for its request (R253). -/
def serviceReads : Instr → List Nat
  | .svc _ _ | .svcWdog _ | .svcDebug _ | .svcCollreg _ | .svcSigret _ _ => (List.range 8).map (64 + ·)
  | _ => []

/-- The codes a form reads before its effects, its guard predicate among them unless it is uniform or a fragment form
(R105). `extra` are the registers that D covers by the record (R185, R194). -/
def readCodes (i : Instr) (mode : BitVec 32) (extra : List Nat) : List Nat :=
  let t := modeType mode
  let g := (mode.extractLsb' 0 3).toNat
  ((operandsOf i).filter (·.reads)).flatMap (coveredCodes t) ++ extra ++ serviceReads i ++
    ((predsRead i).filter (· != 7)).map (128 + ·) ++
    (if g = 7 ∨ !readsGuard i then [] else [128 + g])

/-- The window registers that an instruction names, for the recency of R27. -/
def namedWindow (i : Instr) (t : Nat) : List Nat :=
  ((operandsOf i).flatMap (coveredCodes t)).filter (· < 64)

end Sys2Proof.Machine
end

