-- ==== Sys2Proof/Machine/Issue.lean ====
section
/-! DEFINITION. The issue of one instruction: the decode checks in their order (R100), the collective wait (R167), the
stall-count comparison (R105), and the completion that writes results and moves the fragment on (R31, R103, R122). -/

namespace Sys2Proof.Machine

/-- The record slot a fragment's block holds (R35). -/
def Ctx.record (c : Ctx) (r : BitVec 5) : BitVec 256 := cellGet 0 r.toNat c.blk.recs

/-- The size of a record's non-BX element (R33); a BX element counts as one byte of register data. -/
def recordFormat (r : BitVec 256) : Nat := (r.extractLsb' 208 4).toNat

/-- The registers that a record-based form's D covers beyond the one it names, at the record's element size (R105, R185,
R194). -/
def coveredByRecord (c : Ctx) (i : Instr) : List Nat :=
  let wide (r : BitVec 5) := is64 (recordFormat (c.record r))
  let pair (d : Code) (r : BitVec 5) := if d.toNat < 64 ∧ wide r then [d.toNat + 1] else []
  match i with
  | .stM _ d r _ _ | .stMi _ d r _ _ | .stx _ d r _ _ => pair d r
  | .atomAdd _ d r _ _ | .atomSub _ d r _ _ | .atomMin _ d r _ _ | .atomMax _ d r _ _ | .atomAnd _ d r _ _
  | .atomOr _ d r _ _ | .atomXor _ d r _ _ | .atomExch _ d r _ _ => pair d r
  | .cas _ d r _ _ =>
    if d.toNat < 64 ∧ wide r then [d.toNat + 1, d.toNat + 2, d.toNat + 3] else [d.toNat + 1]
  | _ => []

/-- The first operand read before its fixed-latency result is readable (R105). -/
def earlyRead (s : State) (c : Ctx) (i : Instr) : Option Nat :=
  (readCodes i c.frag.mode (coveredByRecord c i)).find? fun k => tooEarly s c.frag k

/-- The stamp of the window granules that an instruction names (R27). -/
def nameGranules (w : Wave) (members : Lanes) (regs : List Nat) (stamp : Nat) : Wave :=
  let step (w : Wave) (lane : Nat) : Wave :=
    regs.foldl (fun w n =>
      let g := (w.wbOf lane + n) / 8
      { w with named :=
          ((w.named.map fun e => if e.1 = g then (e.1, e.2.1 &&& ~~~ laneBit lane, e.2.2) else e).filter
            fun e => e.2.1 != 0) ++ [(g, laneBit lane, stamp)] }) w
  if w.wb = [] then
    regs.foldl (fun w n =>
      let g := n / 8
      { w with named :=
          ((w.named.map fun e => if e.1 = g then (e.1, e.2.1 &&& ~~~ members, e.2.2) else e).filter
            fun e => e.2.1 != 0) ++ [(g, members, stamp)] }) w
  else (lanesOf members).foldl step w

/-- The producers in flight after an issue: every one not yet readable, and the results just produced (R104, R105). -/
def nextProducers (s : State) (f : Fragment) (codes : List Nat) (lat : Option Nat) : List Producer :=
  let old := f.prods.filter fun p => s.cycle < p.ready
  match lat with
  | none => old
  | some l => old ++ codes.map fun k => { code := k, ready := s.cycle + l }

/-- Puts writes into a wave: window cells, predicates, and the s-registers of one fragment. -/
def applyWrites (w : Wave) (frag : Nat) (x : HistStep) : Wave :=
  { w with
    regs := cellSetAll {} x.vs w.regs
    preds := cellSetAll 0 x.ps w.preds
    frags := w.frags.map fun f => if f.id = frag then { f with s := cellSetAll {} x.ss f.s } else f }

/-- What a fragment remembers of values that a result overwrites which arrives between two issues: its registers held them
at the start of its last issue (R106). -/
def Fragment.noteLate (f : Fragment) (old : HistStep) : Fragment :=
  match f.hist with
  | [] => f
  | h :: r => { f with hist := { h with lateV := h.lateV ++ old.vs, lateS := h.lateS ++ old.ss } :: r }

/-- Puts results into a fragment's s-registers that arrive between two of its issues. -/
def Fragment.putS (f : Fragment) (l : List (Nat × SReg)) : Fragment :=
  { f.noteLate { ss := l.map fun e => (e.1, cellGet {} e.1 f.s) } with s := cellSetAll {} l f.s }

/-- Puts a result into a wave that arrives between two issues of a fragment. -/
def lateWrites (w : Wave) (frag : Nat) (x : HistStep) : Wave :=
  (applyWrites w frag x).modFrag frag fun f =>
    match w.frag? frag with
    | none => f
    | some g => f.noteLate (oldValues w g x)

/-- The writes that a variable-latency result will make. -/
def awaited (load : Option PendingLoad) : HistStep :=
  match load with
  | some l => { vs := l.vs, ss := l.ss }
  | none => {}

/-- COMPLETION of an instruction: its writes, the producers they make, the history of R106, the stall count (R103) and the
new PC. `load` is the variable-latency result whose data is still to come. -/
def completeWith (c : Ctx) (i : Instr) (s : State) (x : HistStep) (pc : BitVec 64) (load : Option PendingLoad) : State :=
  let t := modeType c.frag.mode
  let codes := writtenCodes i t
  let s := modWave s c.core c.ref.block c.ref.wave fun w =>
    let w := nameGranules w c.frag.members (namedWindow i t) s.cycle
    let w := applyWrites w c.ref.frag x
    w.modFrag c.ref.frag fun f =>
      { f with
        pc := pc
        st := .run
        stallUntil := s.cycle + 1 + stallCount i
        prods := nextProducers s f codes (latencyOf i t (uniformIssue i))
        hist := oldValues c.wave c.frag (x.append (awaited load)) :: f.hist.take 7
        loads := (match load with | some l => f.loads ++ [{ l with active := issueActive s c, ident := s.nextIdent }] | none => f.loads)
        noCompare := false
        sbBound := none
        copied := none
        drainBound := none
        moved := false
        released := false }
  { s with freeCtr := s.freeCtr + 1 }

/-- Completion at a new PC. -/
def completeAt (c : Ctx) (i : Instr) (s : State) (x : HistStep) (pc : BitVec 64) : State :=
  completeWith c i s x pc none

/-- The next sequential PC (R97). -/
def nextPc (c : Ctx) (i : Instr) : BitVec 64 := c.frag.pc + BitVec.ofNat 64 (instrBytes i)

/-- Completion at the next sequential instruction. -/
def complete (c : Ctx) (i : Instr) (s : State) (x : HistStep) : State := completeAt c i s x (nextPc c i)

/-- A wait with the instruction as its restart point (R9, R263); `core` timers start where the wait starts. -/
def waitEvent (s : State) (c : Ctx) (w : Wait) : State :=
  modFrag s c.core c.ref fun f =>
    { f with st := .waitEvent w, waitSince := s.timebase
             sbBound := match w with | .scoreboard _ _ _ _ n => some n | _ => f.sbBound
             drainBound := match w with | .drains n => some n | _ => f.drainBound
             moved := match w with | .granules _ => true | _ => f.moved }

/-- The fragment enters the state of waiting at a collective (R167). -/
def waitCollective (s : State) (c : Ctx) : State :=
  modFrag s c.core c.ref fun f => { f with st := .waitColl, waitSince := s.cycle }

/-- The checks of R100 after the fetch, in their order: the fault an instruction meets before any effect. -/
def decodeCheck (c : Ctx) (i : Instr) : Option Nat :=
  if privilegedOpcode (opcodeOf (firstWord i)) && !c.frag.super then some 0x02
  else if !decodeOk c.blk.hdr c.frag.mode i then some 0x01
  else none

/-- The stall-count fault of an early read under CHECK (R105). -/
def stallCheck (s : State) (c : Ctx) (i : Instr) : Option Nat :=
  if modeCheck c.frag.mode && issueActive s c != 0 then earlyRead s c i else none

/-- ISSUE of an encoded instruction: decode checks, the collective wait, the stall-count comparison, then its meaning. -/
def issueForm (i : Instr) (s : State) (body : Ctx → State) : Host.Outcome State Fault Refusal :=
  match ctxOf s with
  | none => .fault .noFragment
  | some c =>
    match decodeCheck c i with
    | some code => .next (decodeFault c code (firstWord i) s)
    | none =>
      if collective i (modeType c.frag.mode) && !c.frag.released then .next (waitCollective s c)
      else
        match stallCheck s c i with
        | some k =>
          .next (takeFault c { code := 0x03, lanes := issueActive s c,
                               info := BitVec.ofNat 64 (if k < 128 then k else 0x7F) } s s)
        | none => .next (body c)

/-- The writes of a form of one result: lane by lane in ACTIVE, or once when it is uniform (R23, R122). The result in a lane
is its bits and tag; `t` is the type that lays it out and `wide` a 64-bit destination. -/
def resultWrites (s : State) (c : Ctx) (i : Instr) (d : Code) (wide : Bool) (t : Nat)
    (f : Nat → BitVec 64 × Tag) : HistStep :=
  if uniformIssue i then writeCode c 0 d wide t (f 0).1 (f 0).2
  else laneWrites (issueActive s c) fun lane => writeCode c lane d wide t (f lane).1 (f lane).2

end Sys2Proof.Machine
end

