-- ==== Sys2Proof/Machine/Flags.lean ====
section
/-! DEFINITION. The conditions a form computes into predicates: integer comparisons (R148), a value's bits against zero
(R140), and the predicate logic (R141). The floating-point conditions stand with the formats (Machine/Float.lean). -/

namespace Sys2Proof.Machine

/-- The signed value of an `n`-bit pattern. -/
def signedVal (n : Nat) (x : BitVec 64) : Int :=
  let v := x.toNat % 2 ^ n
  if v < 2 ^ (n - 1) then (v : Int) else (v : Int) - 2 ^ n

/-- The value of a pattern of an integer type (R42). -/
def intVal (t : Nat) (x : BitVec 64) : Int :=
  if isSigned t then signedVal (tyBits t) x else ((x.toNat % 2 ^ tyBits t : Nat) : Int)

/-- The `n`-bit pattern of an integer, wrapped (R43). -/
def wrapInt (n : Nat) (z : Int) : BitVec 64 := BitVec.ofNat 64 (z % (2 ^ n : Nat)).toNat

/-- The least and greatest values of an integer type (R42). -/
def intMin (t : Nat) : Int := if isSigned t then -(2 ^ (tyBits t - 1) : Nat) else 0
def intMax (t : Nat) : Int := if isSigned t then (2 ^ (tyBits t - 1) : Nat) - 1 else (2 ^ tyBits t : Nat) - 1

/-- sat of R9. -/
def satInt (t : Nat) (z : Int) : Int := if z < intMin t then intMin t else if intMax t < z then intMax t else z

/-- A condition of ICMP on two values of an integer type (R148). -/
def intCond (k : IntCond) (t : Nat) (a b : BitVec 64) : Bool :=
  let x := intVal t a
  let y := intVal t b
  match k with
  | .eq => x == y
  | .ne => x != y
  | .lt => x < y
  | .le => x ≤ y
  | .gt => y < x
  | .ge => y ≤ x

/-- The lanes of a set in which a condition holds. -/
def lanesWhere (m : Lanes) (f : Nat → Bool) : Lanes :=
  (lanesOf m).foldl (fun r i => if f i then r ||| laneBit i else r) 0

/-- A form that writes a predicate in ACTIVE (R122): its condition in each lane. -/
def predForm (i : Instr) (p : BitVec 3) (s : State) (f : Ctx → Nat → Bool) : Host.Outcome State Fault Refusal :=
  issueForm i s fun c =>
    let m := issueActive s c
    complete c i s (writePred c p.toNat m (lanesWhere m (f c)))

/-- PSET (R140): the operand's bits at the width of TYPE are not zero. -/
def execPset (w p : BitVec 3) (a : Code) (s : State) : Host.Outcome State Fault Refusal :=
  predForm (.pset w p a) p s fun c lane =>
    (readCode s c (modeType c.frag.mode) (tyBits (modeType c.frag.mode)) a lane).1 != 0

/-- ICMP, format A (R148). -/
def execIcmpA (w : BitVec 3) (k : IntCond) (p : BitVec 3) (a : Code) (b : Src) (s : State) :
    Host.Outcome State Fault Refusal :=
  predForm (.icmpA w k p a b) p s fun c lane =>
    let ty := modeType c.frag.mode
    let t := intType ty
    intCond k t (readCode s c ty (tyBits t) a lane).1 (readIntSrc s c b lane)

/-- ICMP, format B (R148): IMM7 is sign-extended (R121). -/
def execIcmpB (w : BitVec 3) (k : IntCond) (p : BitVec 3) (a : Code) (i : BitVec 7) (s : State) :
    Host.Outcome State Fault Refusal :=
  predForm (.icmpB w k p a i) p s fun c lane =>
    let ty := modeType c.frag.mode
    let t := intType ty
    intCond k t (readCode s c ty (tyBits t) a lane).1 (cutTo (tyBits t) (i.signExtend 64))

/-- A predicate logic form on whole predicates (R141); every source is read before the destination is written (R31). -/
def predLogic (i : Instr) (d : BitVec 3) (s : State) (f : Ctx → Lanes) : Host.Outcome State Fault Refusal :=
  issueForm i s fun c => complete c i s (writePred c d.toNat (issueActive s c) (f c))

/-- PAND (R141). -/
def execPand (w d a b : BitVec 3) (s : State) : Host.Outcome State Fault Refusal :=
  predLogic (.pand w d a b) d s fun c => readP s c a.toNat &&& readP s c b.toNat

/-- POR (R141). -/
def execPor (w d a b : BitVec 3) (s : State) : Host.Outcome State Fault Refusal :=
  predLogic (.por w d a b) d s fun c => readP s c a.toNat ||| readP s c b.toNat

/-- PXOR (R141). -/
def execPxor (w d a b : BitVec 3) (s : State) : Host.Outcome State Fault Refusal :=
  predLogic (.pxor w d a b) d s fun c => readP s c a.toNat ^^^ readP s c b.toNat

/-- PNOT (R141). -/
def execPnot (w d a : BitVec 3) (s : State) : Host.Outcome State Fault Refusal :=
  predLogic (.pnot w d a) d s fun c => ~~~ readP s c a.toNat

/-- PMOV (R141). -/
def execPmov (w d a : BitVec 3) (s : State) : Host.Outcome State Fault Refusal :=
  predLogic (.pmov w d a) d s fun c => readP s c a.toNat

end Sys2Proof.Machine
end

