-- ==== Sys2Proof/Machine/Integer.lean ====
section
/-! DEFINITION. The integer, bit-field, address and integer-conversion forms (R146, R147, R149, R150). -/

namespace Sys2Proof.Machine

/-- The number of bits of a pattern from its leading 1; 0 for 0. -/
def bitLen (v : Nat) : Nat := if v = 0 then 0 else Nat.log2 v + 1

/-- The number of ones of a pattern's `n` bits. -/
def popCount (n v : Nat) : Nat := (List.range n).foldl (fun k i => k + (v / 2 ^ i) % 2) 0

/-- A pattern's `n` bits in reverse order. -/
def reverseBits (n v : Nat) : Nat := (List.range n).foldl (fun r i => r + (v / 2 ^ i) % 2 * 2 ^ (n - 1 - i)) 0

def opIadd (t : Nat) (a b : BitVec 64) : BitVec 64 := wrapInt (tyBits t) (intVal t a + intVal t b)
def opIsub (t : Nat) (a b : BitVec 64) : BitVec 64 := wrapInt (tyBits t) (intVal t a - intVal t b)
def opImul (t : Nat) (a b : BitVec 64) : BitVec 64 := wrapInt (tyBits t) (intVal t a * intVal t b)
/-- IMULH: bits [2n−1:n] of the exact product. -/
def opImulh (t : Nat) (a b : BitVec 64) : BitVec 64 :=
  wrapInt (tyBits t) (intVal t a * intVal t b / (2 ^ tyBits t : Nat))
/-- IADDC: the carry of the unsigned sum of the patterns. -/
def opIaddc (t : Nat) (a b : BitVec 64) : BitVec 64 := if 2 ^ tyBits t ≤ a.toNat + b.toNat then 1 else 0
def opImin (t : Nat) (a b : BitVec 64) : BitVec 64 := if intVal t b < intVal t a then b else a
def opImax (t : Nat) (a b : BitVec 64) : BitVec 64 := if intVal t a < intVal t b then b else a
/-- The shift count: b's pattern mod n. -/
def shiftCount (t : Nat) (b : BitVec 64) : Nat := b.toNat % tyBits t
def opShl (t : Nat) (a b : BitVec 64) : BitVec 64 := cutTo (tyBits t) (a <<< shiftCount t b)
def opShr (t : Nat) (a b : BitVec 64) : BitVec 64 := a >>> shiftCount t b
/-- SAR: copies of bit n−1 enter under signed and unsigned IT alike. -/
def opSar (t : Nat) (a b : BitVec 64) : BitVec 64 :=
  wrapInt (tyBits t) (signedVal (tyBits t) a / (2 ^ shiftCount t b : Nat))
/-- ROT: a rotated left. -/
def opRot (t : Nat) (a b : BitVec 64) : BitVec 64 :=
  let n := tyBits t
  let k := shiftCount t b
  BitVec.ofNat 64 (a.toNat * 2 ^ k % 2 ^ n + a.toNat / 2 ^ (n - k))
def opAnd (_t : Nat) (a b : BitVec 64) : BitVec 64 := a &&& b
def opOr (_t : Nat) (a b : BitVec 64) : BitVec 64 := a ||| b
def opXor (_t : Nat) (a b : BitVec 64) : BitVec 64 := a ^^^ b
def opAndn (_t : Nat) (a b : BitVec 64) : BitVec 64 := a &&& ~~~ b
def opIneg (t : Nat) (a : BitVec 64) : BitVec 64 := wrapInt (tyBits t) (-(intVal t a))
def opIabs (t : Nat) (a : BitVec 64) : BitVec 64 := wrapInt (tyBits t) (if intVal t a < 0 then -(intVal t a) else intVal t a)
def opClz (t : Nat) (a : BitVec 64) : BitVec 64 := BitVec.ofNat 64 (tyBits t - bitLen a.toNat)
def opPopc (t : Nat) (a : BitVec 64) : BitVec 64 := BitVec.ofNat 64 (popCount (tyBits t) a.toNat)
def opBrev (t : Nat) (a : BitVec 64) : BitVec 64 := BitVec.ofNat 64 (reverseBits (tyBits t) a.toNat)

/-- BFX (R147): `b` holds the position in [7:0] and the length in [15:8]. -/
def opBfx (t : Nat) (a b : BitVec 64) : BitVec 64 :=
  let n := tyBits t
  let pos := (b.extractLsb' 0 8).toNat
  let len := min (b.extractLsb' 8 8).toNat n
  if len = 0 then 0
  else
    let f := (intVal t a / (2 ^ pos : Nat)) % (2 ^ len : Nat)
    if isSigned t ∧ (2 ^ (len - 1) : Nat) ≤ f then wrapInt n (f - (2 ^ len : Nat)) else wrapInt n f

/-- BFI (R147): the field of `a` replaces `len` bits of `d` from `pos`, as far as they lie below n. -/
def opBfi (t : Nat) (d a b : BitVec 64) : BitVec 64 :=
  let n := tyBits t
  let pos := (b.extractLsb' 0 8).toNat
  let len := min (b.extractLsb' 8 8).toNat n
  BitVec.ofNat 64 ((List.range n).foldl (fun r k =>
    r + (if pos ≤ k ∧ k < pos + len then (a.toNat / 2 ^ (k - pos)) % 2 else (d.toNat / 2 ^ k) % 2) * 2 ^ k) 0)

/-- A form of two sources in IT, tag 62 (R146). -/
def intBinary (i : Instr) (d a : Code) (b : Src) (s : State) (f : Nat → BitVec 64 → BitVec 64 → BitVec 64) :
    Host.Outcome State Fault Refusal :=
  issueForm i s fun c =>
    let ty := modeType c.frag.mode
    let t := intType ty
    complete c i s (resultWrites s c i d (is64 t) t fun lane =>
      (f t (readCode s c ty (tyBits t) a lane).1 (readIntSrc s c b lane), 62))

/-- A form of one source and IMM7, sign-extended to n bits (R121). -/
def intImm (i : Instr) (d a : Code) (m : BitVec 7) (s : State) (f : Nat → BitVec 64 → BitVec 64 → BitVec 64) :
    Host.Outcome State Fault Refusal :=
  issueForm i s fun c =>
    let ty := modeType c.frag.mode
    let t := intType ty
    complete c i s (resultWrites s c i d (is64 t) t fun lane =>
      (f t (readCode s c ty (tyBits t) a lane).1 (cutTo (tyBits t) (m.signExtend 64)), 62))

/-- A form of one source in IT. -/
def intUnary (i : Instr) (d a : Code) (s : State) (f : Nat → BitVec 64 → BitVec 64) :
    Host.Outcome State Fault Refusal :=
  issueForm i s fun c =>
    let ty := modeType c.frag.mode
    let t := intType ty
    complete c i s (resultWrites s c i d (is64 t) t fun lane => (f t (readCode s c ty (tyBits t) a lane).1, 62))

/-- IADD, format A (R146). -/
def execIaddA (w : BitVec 3) (d a : Code) (b : Src) (s : State) := intBinary (.iaddA w d a b) d a b s opIadd
/-- IADD, format B (R146). -/
def execIaddB (w : BitVec 3) (d a : Code) (m : BitVec 7) (s : State) := intImm (.iaddB w d a m) d a m s opIadd
/-- ISUB (R146). -/
def execIsub (w : BitVec 3) (d a : Code) (b : Src) (s : State) := intBinary (.isub w d a b) d a b s opIsub
/-- IMUL (R146). -/
def execImul (w : BitVec 3) (d a : Code) (b : Src) (s : State) := intBinary (.imul w d a b) d a b s opImul
/-- IMULH (R146). -/
def execImulh (w : BitVec 3) (d a : Code) (b : Src) (s : State) := intBinary (.imulh w d a b) d a b s opImulh

/-- IMAD (R146): a × b + d, d read first (R102). -/
def execImad (w : BitVec 3) (d a : Code) (b : Src) (s : State) : Host.Outcome State Fault Refusal :=
  issueForm (.imad w d a b) s fun c =>
    let ty := modeType c.frag.mode
    let t := intType ty
    let n := tyBits t
    complete c (.imad w d a b) s (resultWrites s c (.imad w d a b) d (is64 t) t fun lane =>
      (opIadd t (opImul t (readCode s c ty n a lane).1 (readIntSrc s c b lane)) (readCode s c ty n d lane).1, 62))

/-- IADDC (R146). -/
def execIaddc (w : BitVec 3) (d a : Code) (b : Src) (s : State) := intBinary (.iaddc w d a b) d a b s opIaddc
/-- INEG (R146). -/
def execIneg (w : BitVec 3) (d a : Code) (s : State) := intUnary (.ineg w d a) d a s opIneg
/-- IABS (R146). -/
def execIabs (w : BitVec 3) (d a : Code) (s : State) := intUnary (.iabs w d a) d a s opIabs
/-- IMIN (R146). -/
def execImin (w : BitVec 3) (d a : Code) (b : Src) (s : State) := intBinary (.imin w d a b) d a b s opImin
/-- IMAX (R146). -/
def execImax (w : BitVec 3) (d a : Code) (b : Src) (s : State) := intBinary (.imax w d a b) d a b s opImax
/-- SHL, format A (R146). -/
def execShlA (w : BitVec 3) (d a : Code) (b : Src) (s : State) := intBinary (.shlA w d a b) d a b s opShl
/-- SHL, format B (R146). -/
def execShlB (w : BitVec 3) (d a : Code) (m : BitVec 7) (s : State) := intImm (.shlB w d a m) d a m s opShl
/-- SHR, format A (R146). -/
def execShrA (w : BitVec 3) (d a : Code) (b : Src) (s : State) := intBinary (.shrA w d a b) d a b s opShr
/-- SHR, format B (R146). -/
def execShrB (w : BitVec 3) (d a : Code) (m : BitVec 7) (s : State) := intImm (.shrB w d a m) d a m s opShr
/-- SAR, format A (R146). -/
def execSarA (w : BitVec 3) (d a : Code) (b : Src) (s : State) := intBinary (.sarA w d a b) d a b s opSar
/-- SAR, format B (R146). -/
def execSarB (w : BitVec 3) (d a : Code) (m : BitVec 7) (s : State) := intImm (.sarB w d a m) d a m s opSar
/-- ROT (R146). -/
def execRot (w : BitVec 3) (d a : Code) (b : Src) (s : State) := intBinary (.rot w d a b) d a b s opRot
/-- AND, format A (R146). -/
def execAndA (w : BitVec 3) (d a : Code) (b : Src) (s : State) := intBinary (.andA w d a b) d a b s opAnd
/-- AND, format B (R146). -/
def execAndB (w : BitVec 3) (d a : Code) (m : BitVec 7) (s : State) := intImm (.andB w d a m) d a m s opAnd
/-- OR (R146). -/
def execOr (w : BitVec 3) (d a : Code) (b : Src) (s : State) := intBinary (.or w d a b) d a b s opOr
/-- XOR (R146). -/
def execXor (w : BitVec 3) (d a : Code) (b : Src) (s : State) := intBinary (.xor w d a b) d a b s opXor
/-- ANDN (R146). -/
def execAndn (w : BitVec 3) (d a : Code) (b : Src) (s : State) := intBinary (.andn w d a b) d a b s opAndn
/-- CLZ (R146). -/
def execClz (w : BitVec 3) (d a : Code) (s : State) := intUnary (.clz w d a) d a s opClz
/-- POPC (R146). -/
def execPopc (w : BitVec 3) (d a : Code) (s : State) := intUnary (.popc w d a) d a s opPopc
/-- BREV (R146). -/
def execBrev (w : BitVec 3) (d a : Code) (s : State) := intUnary (.brev w d a) d a s opBrev

/-- A 32-bit operand read whole whatever IT is (R147, R149): a literal is the literal word. -/
def readWhole32 (s : State) (c : Ctx) (b : Src) (lane : Nat) : BitVec 64 :=
  match b with
  | .reg code => (readCode s c (modeType c.frag.mode) 32 code lane).1
  | .lit x => x.setWidth 64

/-- BFX (R147). -/
def execBfx (w : BitVec 3) (d a : Code) (b : Src) (s : State) : Host.Outcome State Fault Refusal :=
  issueForm (.bfx w d a b) s fun c =>
    let ty := modeType c.frag.mode
    let t := intType ty
    complete c (.bfx w d a b) s (resultWrites s c (.bfx w d a b) d (is64 t) t fun lane =>
      (opBfx t (readCode s c ty (tyBits t) a lane).1 (readWhole32 s c b lane), 62))

/-- BFI (R147). -/
def execBfi (w : BitVec 3) (d a : Code) (b : Src) (s : State) : Host.Outcome State Fault Refusal :=
  issueForm (.bfi w d a b) s fun c =>
    let ty := modeType c.frag.mode
    let t := intType ty
    complete c (.bfi w d a b) s (resultWrites s c (.bfi w d a b) d (is64 t) t fun lane =>
      (opBfi t (readCode s c ty (tyBits t) d lane).1 (readCode s c ty (tyBits t) a lane).1 (readWhole32 s c b lane), 62))

/-- ADDR (R149): a + x × the size in memory of TYPE, x the index sign-extended but under U32 and U64. -/
def execAddr (w : BitVec 3) (d a : Code) (b : Src) (s : State) : Host.Outcome State Fault Refusal :=
  issueForm (.addr w d a b) s fun c =>
    let ty := modeType c.frag.mode
    complete c (.addr w d a b) s (resultWrites s c (.addr w d a b) d true 3 fun lane =>
      let x := (readWhole32 s c b lane).extractLsb' 0 32
      let x := if ty = 1 ∨ ty = 3 then x.setWidth 64 else x.signExtend 64
      ((readCode s c ty 64 a lane).1 + x * BitVec.ofNat 64 (tySize ty), 62))

/-- CVTI (R150): exact or saturating (R62). -/
def execCvti (w : BitVec 3) (d a : Code) (src : BitVec 4) (s : State) : Host.Outcome State Fault Refusal :=
  issueForm (.cvti w d a src) s fun c =>
    let t := modeType c.frag.mode
    let u := src.toNat
    complete c (.cvti w d a src) s (resultWrites s c (.cvti w d a src) d (is64 t) t fun lane =>
      (wrapInt (tyBits t) (satInt t (intVal u (readCode s c t (tyBits u) a lane).1)), 62))

end Sys2Proof.Machine
end

