-- ==== Sys2Proof/Machine/Float.lean ====
section
/-! DEFINITION. The floating-point formats and rounding (R44 to R53): a value is decoded to an exact number, computed
exactly, and rounded once. An exact number is a sign, a natural significand and an exponent; `sticky` says that a nonzero
tail lies below the significand's last bit. -/

namespace Sys2Proof.Machine

/-- A floating-point value: a NaN, signalling or quiet; an infinity; or ± m × 2^e, zero when m = 0. -/
inductive FVal where
  | nan (signalling : Bool)
  | inf (neg : Bool)
  | fin (neg : Bool) (m : Nat) (e : Int)
  deriving DecidableEq, Repr

/-- p, emin and the field widths of a format (R44). -/
structure FFormat where
  p : Nat
  emin : Int
  emax : Int
  ebits : Nat
  fbits : Nat
  /-- low container bits below the fraction (TF32) -/
  pad : Nat
  deriving DecidableEq, Repr

/-- The format of a TYPE code; F32 stands for every code that is no floating-point type. -/
def formatOf (t : Nat) : FFormat :=
  match t with
  | 7 => ⟨53, -1022, 1023, 11, 52, 0⟩
  | 8 => ⟨11, -14, 15, 5, 10, 0⟩
  | 9 => ⟨8, -126, 127, 8, 7, 0⟩
  | 10 => ⟨11, -126, 127, 8, 10, 13⟩
  | _ => ⟨24, -126, 127, 8, 23, 0⟩

/-- The value that bits of a format encode (R44). -/
def decodeF (t : Nat) (x : BitVec 64) : FVal :=
  let f := formatOf t
  let v := x.toNat / 2 ^ f.pad
  let frac := v % 2 ^ f.fbits
  let e := v / 2 ^ f.fbits % 2 ^ f.ebits
  let neg := v / 2 ^ (f.fbits + f.ebits) % 2 == 1
  if e = 2 ^ f.ebits - 1 then
    if frac = 0 then .inf neg else .nan (frac < 2 ^ (f.fbits - 1))
  else if e = 0 then .fin neg frac (f.emin - f.fbits)
  else .fin neg (2 ^ f.fbits + frac) ((e : Int) - 1 + f.emin - f.fbits)

/-- The canonical NaN (R45). -/
def canonicalNan (t : Nat) : BitVec 64 :=
  let f := formatOf t
  BitVec.ofNat 64 (((2 ^ f.ebits - 1) * 2 ^ f.fbits + 2 ^ (f.fbits - 1)) * 2 ^ f.pad)

/-- The bits of a value that the format holds. -/
def encodeF (t : Nat) (v : FVal) : BitVec 64 :=
  let f := formatOf t
  let sign (neg : Bool) : Nat := if neg then 2 ^ (f.fbits + f.ebits) else 0
  match v with
  | .nan _ => canonicalNan t
  | .inf neg => BitVec.ofNat 64 ((sign neg + (2 ^ f.ebits - 1) * 2 ^ f.fbits) * 2 ^ f.pad)
  | .fin neg m e =>
    if m = 0 then BitVec.ofNat 64 (sign neg * 2 ^ f.pad)
    else
      let lead : Int := (Nat.log2 m : Int) + e
      if lead < f.emin then
        BitVec.ofNat 64 ((sign neg + (if 0 ≤ e - (f.emin - f.fbits) then m * 2 ^ (e - (f.emin - f.fbits)).toNat
          else m / 2 ^ ((f.emin - f.fbits) - e).toNat)) * 2 ^ f.pad)
      else
        let q := lead - f.fbits
        let k := if q ≤ e then m * 2 ^ (e - q).toNat else m / 2 ^ (q - e).toNat
        BitVec.ofNat 64 ((sign neg + (lead - f.emin + 1).toNat * 2 ^ f.fbits + (k - 2 ^ f.fbits)) * 2 ^ f.pad)

/-- The set of IEEE exceptions, in TRAPEN order: bit 0 invalid, 1 divide by zero, 2 overflow, 3 underflow, 4 significance. -/
abbrev Exc := BitVec 5
def excNone : Exc := 0
def excInvalid : Exc := 1
def excDivZero : Exc := 2
def excOverflow : Exc := 4
def excUnderflow : Exc := 8
def excSignificance : Exc := 16

/-- Rounding modes (R32): 0 RNE, 1 RTZ, 2 RUP, 3 RDN. Whether a magnitude `k` with remainder `rem` of `2 ^ r` (and a
sticky tail) is raised to `k + 1` (R48). -/
def roundsUp (rm : Nat) (neg : Bool) (k rem r : Nat) (sticky : Bool) : Bool :=
  let inexact := rem != 0 || sticky
  match rm with
  | 0 => 2 ^ r < 2 * rem || (2 * rem == 2 ^ r && (sticky || k % 2 == 1)) && r != 0
  | 1 => false
  | 2 => inexact && !neg
  | _ => inexact && neg

/-- Rounds ± m × 2^e to a multiple of 2^q: the multiple, and whether the result is inexact. -/
def roundAt (rm : Nat) (neg : Bool) (m : Nat) (e : Int) (sticky : Bool) (q : Int) : Nat × Bool :=
  if q ≤ e then
    let k := m * 2 ^ (e - q).toNat
    (if roundsUp rm neg k 0 1 sticky then k + 1 else k, sticky)
  else
    let r := (q - e).toNat
    let k := m / 2 ^ r
    let rem := m % 2 ^ r
    (if roundsUp rm neg k rem r sticky then k + 1 else k, rem != 0 || sticky)

/-- round of R9: the delivered value and the exceptions raised (R48 to R50, R52). `m` is not 0, and a number with a sticky
tail has more significant bits than the format. -/
def roundF (t rm : Nat) (ftz neg : Bool) (m : Nat) (e : Int) (sticky : Bool) : FVal × Exc :=
  let f := formatOf t
  let lead : Int := (Nat.log2 m : Int) + e
  let q0 := lead - f.p + 1
  let (k0, _) := roundAt rm neg m e sticky q0
  let lead0 : Int := (Nat.log2 k0 : Int) + q0
  if f.emax < lead0 then
    let toInf := rm == 0 || (rm == 2 && !neg) || (rm == 3 && neg)
    (if toInf then .inf neg else .fin neg (2 ^ f.p - 1) (f.emax - f.p + 1), excOverflow)
  else
    let q := max q0 (f.emin - f.p + 1)
    let (k, inexact) := roundAt rm neg m e sticky q
    let tiny := lead0 < f.emin
    if ftz ∧ k ≠ 0 ∧ (Nat.log2 k : Int) + q < f.emin then (.fin neg 0 0, excUnderflow)
    else (.fin neg k q, if tiny && inexact then excUnderflow else excNone)

/-- An input of an arithmetic operation under FTZ (R52): a subnormal counts as zero of its own sign. -/
def flushIn (t : Nat) (ftz : Bool) (v : FVal) : FVal :=
  match v with
  | .fin neg m e => if ftz ∧ m ≠ 0 ∧ (Nat.log2 m : Int) + e < (formatOf t).emin then .fin neg 0 e else v
  | _ => v

/-- An operand of an arithmetic form. -/
def inF (t : Nat) (mode : BitVec 32) (x : BitVec 64) : FVal := flushIn t (modeFtz mode) (decodeF t x)

def FVal.isNan : FVal → Bool
  | .nan _ => true
  | _ => false
def FVal.isSignalling : FVal → Bool
  | .nan b => b
  | _ => false
def FVal.isInf : FVal → Bool
  | .inf _ => true
  | _ => false
def FVal.isZero : FVal → Bool
  | .fin _ m _ => m == 0
  | _ => false
def FVal.negative : FVal → Bool
  | .nan _ => false
  | .inf b => b
  | .fin b _ _ => b
/-- The value with its sign inverted. -/
def FVal.neg : FVal → FVal
  | .nan b => .nan b
  | .inf b => .inf !b
  | .fin b m e => .fin (!b) m e

/-- Exact ± m × 2^e as an integer multiple of 2^q, q at or below e. -/
def scaledInt (neg : Bool) (m : Nat) (e q : Int) : Int :=
  let z : Int := ((m * 2 ^ (e - q).toNat : Nat) : Int)
  if neg then -z else z

/-- The exact sum of two finite numbers: an integer and its exponent. -/
def exactAdd (n1 : Bool) (m1 : Nat) (e1 : Int) (n2 : Bool) (m2 : Nat) (e2 : Int) : Int × Int :=
  let q := min e1 e2
  (scaledInt n1 m1 e1 q + scaledInt n2 m2 e2 q, q)

/-- An operation's result: the delivered value, the exceptions, and whether the exact result was zero (R76). -/
structure FRes where
  val : FVal
  exc : Exc := 0
  exactZero : Bool := false
  deriving DecidableEq, Repr

/-- The exceptions of NaN inputs (R46): invalid for a signalling one. -/
def nanExc (l : List FVal) : Exc := if l.any (·.isSignalling) then excInvalid else excNone

/-- The result of a NaN input. -/
def nanRes (l : List FVal) : FRes := ⟨.nan false, nanExc l, false⟩

/-- The default result of an invalid operation. -/
def invalidRes : FRes := ⟨.nan false, excInvalid, false⟩

/-- The rounding parameters of a computation: TYPE, ROUND, FTZ. -/
structure RoundTo where
  t : Nat
  rm : Nat
  ftz : Bool
  deriving DecidableEq, Repr

/-- Those of a MODE. -/
def roundTo (mode : BitVec 32) : RoundTo := ⟨modeType mode, modeRound mode, modeFtz mode⟩

/-- Rounds an exact integer multiple of 2^q; `zeroNeg` is the sign of an exact zero. -/
def roundInt (r : RoundTo) (z q : Int) (zeroNeg : Bool) : FRes :=
  if z = 0 then ⟨.fin zeroNeg 0 0, excNone, true⟩
  else
    let (v, x) := roundF r.t r.rm r.ftz (z < 0) z.natAbs q false
    ⟨v, x, false⟩

/-- The sign of a zero sum (R51). -/
def zeroSumSign (rm : Nat) (a b : FVal) : Bool :=
  if a.isZero && b.isZero && a.negative == b.negative then a.negative else rm == 3

/-- a + b, rounded once (R64, R53). -/
def addF (r : RoundTo) (a b : FVal) : FRes :=
  if a.isNan || b.isNan then nanRes [a, b]
  else
    match a, b with
    | .inf x, .inf y => if x = y then ⟨.inf x, 0, false⟩ else invalidRes
    | .inf x, _ => ⟨.inf x, 0, false⟩
    | _, .inf y => ⟨.inf y, 0, false⟩
    | .fin n1 m1 e1, .fin n2 m2 e2 =>
      let (z, q) := exactAdd n1 m1 e1 n2 m2 e2
      roundInt r z q (zeroSumSign r.rm a b)
    | _, _ => nanRes [a, b]

/-- The exact product of two values; 0 × ∞ has none. -/
def exactMul (a b : FVal) : Option FVal :=
  match a, b with
  | .fin n1 m1 e1, .fin n2 m2 e2 => some (.fin (n1 != n2) (m1 * m2) (e1 + e2))
  | .inf x, .fin n m _ => if m = 0 then none else some (.inf (x != n))
  | .fin n m _, .inf x => if m = 0 then none else some (.inf (x != n))
  | .inf x, .inf y => some (.inf (x != y))
  | _, _ => none

/-- a × b, rounded once. -/
def mulF (r : RoundTo) (a b : FVal) : FRes :=
  if a.isNan || b.isNan then nanRes [a, b]
  else
    match exactMul a b with
    | some (.fin n m e) =>
      if m = 0 then ⟨.fin n 0 0, 0, true⟩
      else
        let (v, x) := roundF r.t r.rm r.ftz n m e false
        ⟨v, x, false⟩
    | some v => ⟨v, 0, false⟩
    | none => invalidRes

/-- a × b + c, rounded once (R64). -/
def fmaF (r : RoundTo) (a b c : FVal) : FRes :=
  if a.isNan || b.isNan then
    nanRes [a, b, c]
  else
    match exactMul a b with
    | none => invalidRes
    | some p => if c.isNan then nanRes [c] else addF r p c

/-- Quotient bits: enough for one rounding of any format. -/
def quotientBits : Nat := 160

/-- a ÷ b, rounded once. -/
def divF (r : RoundTo) (a b : FVal) : FRes :=
  if a.isNan || b.isNan then nanRes [a, b]
  else
    match a, b with
    | .inf _, .inf _ => invalidRes
    | .inf x, .fin n _ _ => ⟨.inf (x != n), 0, false⟩
    | .fin n _ _, .inf y => ⟨.fin (n != y) 0 0, 0, true⟩
    | .fin n1 m1 e1, .fin n2 m2 e2 =>
      if m2 = 0 then (if m1 = 0 then invalidRes else ⟨.inf (n1 != n2), excDivZero, false⟩)
      else if m1 = 0 then ⟨.fin (n1 != n2) 0 0, 0, true⟩
      else
        let num := m1 * 2 ^ quotientBits
        let (v, x) := roundF r.t r.rm r.ftz (n1 != n2) (num / m2) (e1 - e2 - quotientBits) (num % m2 != 0)
        ⟨v, x, false⟩
    | _, _ => nanRes [a, b]

/-- The integer square root, by one bit at a time from bit `k` down. -/
def isqrtFrom (n : Nat) : Nat → Nat → Nat
  | 0, r => if (r + 1) * (r + 1) ≤ n then r + 1 else r
  | k + 1, r => isqrtFrom n k (if (r + 2 ^ (k + 1)) * (r + 2 ^ (k + 1)) ≤ n then r + 2 ^ (k + 1) else r)

/-- The integer square root. -/
def isqrt (n : Nat) : Nat := isqrtFrom n (Nat.log2 n / 2 + 1) 0

/-- √a, rounded once. -/
def sqrtF (r : RoundTo) (a : FVal) : FRes :=
  match a with
  | .nan _ => nanRes [a]
  | .inf neg => if neg then invalidRes else ⟨.inf false, 0, false⟩
  | .fin neg m e =>
    if m = 0 then ⟨.fin neg 0 0, 0, true⟩
    else if neg then invalidRes
    else
      let (m, e) := if e % 2 = 0 then (m, e) else (2 * m, e - 1)
      let big := m * 2 ^ (2 * quotientBits)
      let k := isqrt big
      let (v, x) := roundF r.t r.rm r.ftz false k (e / 2 - quotientBits) (k * k != big)
      ⟨v, x, false⟩

/-- The order of two values that are not NaNs, with −0 below +0 (R158). -/
def ltTotal (a b : FVal) : Bool :=
  match a, b with
  | .inf x, .inf y => x && !y
  | .inf x, _ => x
  | _, .inf y => !y
  | .fin n1 m1 e1, .fin n2 m2 e2 =>
    let (z, _) := exactAdd n1 m1 e1 (!n2) m2 e2
    z < 0 || (z == 0 && n1 && !n2 && m1 == 0)
  | _, _ => false

/-- Equality of values that are not NaNs, zeros equal whatever their signs (R160). -/
def eqF (a b : FVal) : Bool :=
  match a, b with
  | .inf x, .inf y => x == y
  | .fin n1 m1 e1, .fin n2 m2 e2 => (exactAdd n1 m1 e1 (!n2) m2 e2).1 == 0
  | _, _ => false

/-- The order of values that are not NaNs, zeros equal. -/
def ltF (a b : FVal) : Bool := !eqF a b && ltTotal a b

/-- A condition of FCMP (R160). -/
def floatCond (k : FloatCond) (a b : FVal) : Bool :=
  let un := a.isNan || b.isNan
  match k with
  | .eq => !un && eqF a b
  | .ne => un || !eqF a b
  | .lt => !un && ltF a b
  | .le => !un && (ltF a b || eqF a b)
  | .gt => !un && ltF b a
  | .ge => !un && (ltF b a || eqF a b)
  | .un => un
  | .ord => !un

/-- A value rounded to an integer by ROUND (R48); `none` for a NaN or an infinity. -/
def roundToInt (rm : Nat) (v : FVal) : Option Int :=
  match v with
  | .fin neg m e =>
    let (k, _) := roundAt rm neg m e false 0
    some (if neg then -(k : Int) else (k : Int))
  | _ => none

/-- Conversion of a floating-point value to an integer type (R63): the integer, and invalid. -/
def floatToInt (t rm : Nat) (v : FVal) : Int × Exc :=
  match v with
  | .nan _ => (0, excInvalid)
  | .inf neg => (if neg then intMin t else intMax t, excInvalid)
  | .fin _ _ _ =>
    match roundToInt rm v with
    | some z => (satInt t z, if satInt t z = z then excNone else excInvalid)
    | none => (0, excInvalid)

/-- round of an integer to a floating-point type (R62). -/
def intToFloat (r : RoundTo) (z : Int) : FRes := roundInt r z 0 false

/-- Conversion of a value to a floating-point type (R62): exact for an exact pair, else rounded. -/
def convertF (r : RoundTo) (v : FVal) : FRes :=
  match v with
  | .nan _ => nanRes [v]
  | .inf neg => ⟨.inf neg, 0, false⟩
  | .fin neg m e =>
    if m = 0 then ⟨.fin neg 0 0, 0, true⟩
    else
      let (x, exc) := roundF r.t r.rm r.ftz neg m e false
      ⟨x, exc, false⟩

end Sys2Proof.Machine
end

