-- ==== Sys2Proof/Machine/Tags.lean ====
section
/-! DEFINITION. Significance tags (R71 to R80): sig_norm, sig_add and sig_mul of R9, the tag of each class of result, the
overrides of R76, and the comparison with MODE.SIGMIN. -/

namespace Sys2Proof.Machine

/-- The tag as held after a write from outside (R72): 54 to 61 are held as 53. -/
def heldTag (t : Tag) : Tag := if 54 ≤ t.toNat ∧ t.toNat ≤ 61 then 53 else t

/-- sig_norm (R9). -/
def sigNorm (t : Tag) (p : Nat) : Nat := if t.toNat = 62 then p else if t.toNat = 63 then 0 else t.toNat

/-- sig_mul (R9) for a precision. -/
def sigMul (ta tb p : Nat) : Nat :=
  let m := min ta tb
  if ta = tb ∧ ta < p then m - 1 else m

/-- clamp(z, 0, p). -/
def clampTag (z : Int) (p : Nat) : Nat := min z.toNat p

/-- e(x) (R9, R74): the exponent of the leading significand bit; e(0) is that of the smallest subnormal. -/
def expOf (t : Nat) (v : FVal) : Int :=
  match v with
  | .fin _ m e => if m = 0 then (formatOf t).emin - (formatOf t).p + 1 else (Nat.log2 m : Int) + e
  | _ => 0

/-- A floating-point operand: its value and its tag after sig_norm. -/
structure FIn where
  v : FVal
  tag : Nat
  deriving DecidableEq, Repr

/-- An operand's bits and tag as an arithmetic form takes them (R52, R72). -/
def finOf (t : Nat) (mode : BitVec 32) (x : BitVec 64 × Tag) : FIn := ⟨inF t mode x.1, sigNorm x.2 (precision t)⟩

/-- sig_add (R9) before the cap of subnormals, which R76 makes. `r` is the result of a ± b. -/
def sigAdd (t p : Nat) (a b : FIn) (r : FRes) : Nat :=
  if r.exactZero then (if a.tag = p ∧ b.tag = p then p else 0)
  else clampTag (expOf t r.val - max (expOf t a.v - a.tag) (expOf t b.v - b.tag)) p

/-- The overrides of R76 on a class tag, in order. -/
def capTag (t : Nat) (r : FRes) (tag : Nat) : Nat :=
  match r.val with
  | .nan _ => 0
  | .inf _ => 0
  | .fin _ m e =>
    if m = 0 then (if r.exactZero then tag else 0)
    else
      let lead : Int := (Nat.log2 m : Int) + e
      let f := formatOf t
      if lead < f.emin then min tag (lead - f.emin + f.p).toNat else tag

/-- A lane's result: bits, tag and the exceptions raised, the significance exception included (R80). -/
structure LaneRes where
  bits : BitVec 64
  tag : Tag
  exc : Exc := 0
  deriving DecidableEq, Repr

/-- The significance comparison (R80). -/
def sigExc (mode : BitVec 32) (tag : Nat) : Exc :=
  if 1 ≤ modeSigMin mode ∧ tag < modeSigMin mode then excSignificance else excNone

/-- A compared result: encoded, with R76 and R80 applied to a class tag. -/
def compared (t : Nat) (mode : BitVec 32) (r : FRes) (tag : Nat) : LaneRes :=
  let k := capTag t r tag
  ⟨encodeF t r.val, BitVec.ofNat 6 k, r.exc ||| sigExc mode k⟩

/-- A floating-point result without comparison. -/
def uncompared (t : Nat) (r : FRes) (tag : Nat) : LaneRes :=
  ⟨encodeF t r.val, BitVec.ofNat 6 (capTag t r tag), r.exc⟩

/-- The Add class (R75): `b` with its sign already applied. -/
def addTagged (r : RoundTo) (a b : FIn) : FRes × Nat :=
  let x := addF r a.v b.v
  (x, sigAdd r.t (precision r.t) a b x)

/-- The Multiply class (R75): the tag of a product or quotient. -/
def mulTag (p : Nat) (a b : FIn) (zero : Bool) : Nat :=
  if zero && ((a.v.isZero && a.tag == p) || (b.v.isZero && b.tag == p)) then p else sigMul a.tag b.tag p

/-- a × b. -/
def mulTagged (r : RoundTo) (a b : FIn) : FRes × Nat :=
  let x := mulF r a.v b.v
  (x, mulTag (precision r.t) a b x.val.isZero)

/-- a / b. -/
def divTagged (r : RoundTo) (a b : FIn) : FRes × Nat :=
  let x := divF r a.v b.v
  (x, mulTag (precision r.t) a b x.val.isZero)

/-- The Fused class (R77): a × b + c. -/
def fmaTagged (r : RoundTo) (a b c : FIn) : FRes × Nat :=
  let p := precision r.t
  let x := fmaF r a.v b.v c.v
  match exactMul a.v b.v with
  | some prod => (x, sigAdd r.t p ⟨prod, mulTag p a b prod.isZero⟩ c x)
  | none => (x, 0)

/-- Round to integral (R75). -/
def integralTag (t : Nat) (a : FIn) (x : FRes) : Nat :=
  let p := precision t
  if x.val.isZero then (if a.tag = p then p else 0)
  else clampTag (expOf t x.val - (expOf t a.v - a.tag)) p

/-- FMIN and FMAX (R158): the delivered value with its tag, and the exceptions. `less a b` says that a is to be delivered
before b; equal bits deliver a. -/
def selectTagged (max : Bool) (a b : FIn) : FVal × Nat × Exc :=
  let exc := nanExc [a.v, b.v]
  match a.v, b.v with
  | .nan _, .nan _ => (.nan false, 0, exc)
  | .nan _, _ => (b.v, b.tag, exc)
  | _, .nan _ => (a.v, a.tag, exc)
  | x, y =>
    if (if max then ltTotal x y else ltTotal y x) then (y, b.tag, exc) else (x, a.tag, exc)

/-- Code of the first exception of a set in the order of R54. -/
def excCode (x : Exc) : Nat :=
  if x.getLsbD 0 then 0x0A else if x.getLsbD 1 then 0x0B else if x.getLsbD 2 then 0x0C
  else if x.getLsbD 3 then 0x0D else 0x0E

end Sys2Proof.Machine
end

