-- ==== Sys2Proof/Machine/Blocks.lean ====
section
/-! DEFINITION. The block formats BX8, BX6 and BX4: an element's value (R56, R57) and the quantisation of a block of 32
(R60, R61, R78). -/

namespace Sys2Proof.Machine

/-- m: the magnitude bits of a BX type (R56). -/
def bxBits (t : Nat) : Nat := if t = 11 then 6 else if t = 12 then 4 else 2

/-- The value of an element with its scale pair (R57). -/
def bxValue (t : Nat) (el : Nat) (e0 e1 : Nat) : FVal :=
  let m := bxBits t
  let mag := el % 2 ^ m
  let sel := el / 2 ^ m % 2
  let neg := el / 2 ^ (m + 1) % 2 == 1
  let e := if sel = 1 then e1 else e0
  if e = 0xFF then .nan false
  else .fin neg mag ((e : Int) - 127 - m)

/-- The value of a lane that holds a BX element (R59). -/
def bxLane (t : Nat) (x : BitVec 64) : FVal :=
  bxValue t (x.toNat % 256) (x.toNat / 256 % 256) (x.toNat / 65536 % 256)

/-- One quantised element: its bits, tag and exceptions. -/
structure BxElem where
  el : Nat
  tag : Nat
  exc : Exc
  deriving DecidableEq, Repr

/-- A quantised block. -/
structure BxBlock where
  e0 : Nat
  e1 : Nat
  elems : List BxElem
  overflow : Bool
  deriving DecidableEq, Repr

/-- floor(log2 |x|) of a nonzero finite value; none for every other. -/
def leadOf (v : FVal) : Option Int :=
  match v with
  | .fin _ m e => if m = 0 then none else some ((Nat.log2 m : Int) + e)
  | _ => none

/-- The greatest of a list, if any. -/
def maxInt (l : List Int) : Option Int :=
  match l with
  | [] => none
  | x :: r => some (r.foldl max x)

/-- Step 1 of R60 over the finite elements of a list. -/
def bxScale (l : List FVal) : Int :=
  match maxInt (l.filterMap leadOf) with
  | some e => e + 128
  | none => 0

/-- Step 3 of R60. -/
def clampScale (e : Int) : Nat := min e.toNat 254

/-- Whether a finite value is at or above 2^e in magnitude. -/
def atLeastPow (v : FVal) (e : Int) : Bool :=
  match leadOf v with
  | some k => e ≤ k
  | none => false

/-- Steps 4 and 5 of R60 for one element, with the tag of R78. `hit` marks the scale that overflow clamped. -/
def bxElement (t rm : Nat) (e0 e1 : Nat) (special ovf : Bool) (x : FIn) : BxElem :=
  let m := bxBits t
  match x.v with
  | .fin neg n e =>
    let c := !special && atLeastPow x.v ((e0 : Int) - 127)
    let k := if c then e1 else e0
    let q := match roundToInt rm (.fin neg n (e + 127 + m - k)) with | some z => z.natAbs | none => 0
    let mag := min q (2 ^ m - 1)
    let hit := ovf && (c != special) && 2 ^ m - 1 < q
    let el := (if neg then 2 ^ (m + 1) else 0) + (if c then 2 ^ m else 0) + mag
    if n = 0 then ⟨el, min x.tag (precision t), excNone⟩
    else if mag = 0 then ⟨el, 0, excUnderflow⟩
    else ⟨el, if hit then 0 else min x.tag (bitLen mag), excNone⟩
  | _ => ⟨2 ^ m, 0, excInvalid⟩

/-- QUANTISATION of a block (R60, R61), with `overflow` for the overflow exception. -/
def quantise (t rm : Nat) (l : List FIn) : BxBlock :=
  let m : Int := bxBits t
  let special := l.any fun x => x.v.isNan || x.v.isInf
  let s1 := bxScale (l.map (·.v))
  if special then
    let e0 := clampScale s1
    let ovf := 254 < s1
    ⟨e0, 0xFF, l.map (bxElement t rm e0 0xFF true ovf), ovf⟩
  else
    let low := l.filterMap fun x => (leadOf x.v).bind fun k => if k ≤ s1 - 128 - m then some k else none
    let s0 := match maxInt low with | some e => e + 128 | none => s1 - m
    let e0 := clampScale s0
    let e1 := clampScale s1
    let ovf := 254 < s1
    ⟨e0, e1, l.map (bxElement t rm e0 e1 false ovf), ovf⟩

end Sys2Proof.Machine
end

