-- ==== Sys2Proof/Machine/Transcendental.lean ====
section
/-! DEFINITION. FRCP, FRSQ, FEXP2, FLOG2, FSIN and FCOS as functions (R156, R157): the exact value, truncated. A value
that the format cannot hold is computed to far more bits than any format has, and its nonzero tail is kept as a sticky
bit, so that the one rounding of R156 sees which side it lies on (log entry 15). -/

namespace Sys2Proof.Machine

/-- Fraction bits of the fixed-point computations. -/
def fracBits : Nat := 512

/-- π and ln 2 in units of 2^−512, truncated. -/
def piFixed : Nat := 0x3243f6a8885a308d313198a2e03707344a4093822299f31d0082efa98ec4e6c89452821e638d01377be5466cf34e90c6cc0ac29b7c97c50dd3f84d5b5b5470917
def ln2Fixed : Nat := 0xb17217f7d1cf79abc9e3b39803f2f6af40f343267298b62d8a0d175b8baafa2be7b876206debac98559552fb4afa1b10ed2eae35c138214427573b291169b825

/-- Delivered toward zero (R156). -/
def towardZero (r : RoundTo) (neg : Bool) (m : Nat) (e : Int) (sticky : Bool) : FRes :=
  let (v, x) := roundF r.t 1 r.ftz neg m e sticky
  ⟨v, x, false⟩

/-- FRCP: 1 / a. -/
def frcpF (r : RoundTo) (a : FVal) : FRes := divF { r with rm := 1 } (.fin false 1 0) a

/-- FRSQ: 1 / √a. -/
def frsqF (r : RoundTo) (a : FVal) : FRes :=
  match a with
  | .nan _ => nanRes [a]
  | .inf neg => if neg then invalidRes else ⟨.fin false 0 0, 0, true⟩
  | .fin neg m e =>
    if m = 0 then ⟨.inf neg, excDivZero, false⟩
    else if neg then invalidRes
    else
      let (m, e) := if e % 2 = 0 then (m, e) else (2 * m, e - 1)
      let one := 2 ^ (2 * quotientBits)
      let k := isqrt (one / m)
      towardZero r false k (-(e / 2) - quotientBits) (k * k * m != one)

/-- exp(y) for y below 1 in fixed point: the sum of y^k / k!, k up to `n`. -/
def expSeries (y : Nat) (n : Nat) : Nat :=
  ((List.range n).foldl (fun (st : Nat × Nat) k => (st.1 + st.2, st.2 * y / 2 ^ fracBits / (k + 1)))
    (0, 2 ^ fracBits)).1

/-- FEXP2: 2^a. -/
def fexp2F (r : RoundTo) (a : FVal) : FRes :=
  match a with
  | .nan _ => nanRes [a]
  | .inf neg => if neg then ⟨.fin false 0 0, 0, true⟩ else ⟨.inf false, 0, false⟩
  | .fin neg m e =>
    if 12 ≤ (Nat.log2 m : Int) + e ∧ m ≠ 0 then towardZero r false 1 (if neg then -4096 else 4096) false
    else
      let x : Int := if neg then -(m : Int) else m
      if 0 ≤ e then towardZero r false 1 (x * (2 ^ e.toNat : Nat)) false
      else
        let k := (-e).toNat
        let n := x / (2 ^ k : Nat)
        let f := (x % (2 ^ k : Nat)).toNat
        if f = 0 then towardZero r false 1 n false
        else towardZero r false (expSeries (f * ln2Fixed / 2 ^ k) 128) (n - fracBits) true

/-- 2 × artanh(z) for a fixed-point z: the sum of 2 z^(2k+1) / (2k + 1), k below `n`. -/
def artanhSeries (z : Int) (n : Nat) : Int :=
  ((List.range n).foldl (fun (st : Int × Int) k =>
    (st.1 + 2 * st.2 / (2 * k + 1 : Nat), st.2 * z / (2 ^ fracBits : Nat) * z / (2 ^ fracBits : Nat))) (0, z)).1

/-- FLOG2: log2 a. -/
def flog2F (r : RoundTo) (a : FVal) : FRes :=
  match a with
  | .nan _ => nanRes [a]
  | .inf neg => if neg then invalidRes else ⟨.inf false, 0, false⟩
  | .fin neg m e =>
    if m = 0 then ⟨.inf true, excDivZero, false⟩
    else if neg then invalidRes
    else
      let k := Nat.log2 m
      let lead : Int := (k : Int) + e
      if m = 2 ^ k then
        if lead = 0 then ⟨.fin false 0 0, 0, true⟩ else towardZero r (lead < 0) lead.natAbs 0 false
      else
        -- x = m / 2^k, or half of it when it is above 3/2
        let (den, base) := if 3 * 2 ^ k < 2 * m then (2 ^ (k + 1), lead + 1) else (2 ^ k, lead)
        let z := ((m : Int) - den) * (2 ^ fracBits : Nat) / ((m : Int) + den)
        let v := base * (2 ^ fracBits : Nat) + artanhSeries z 160 * (2 ^ fracBits : Nat) / (ln2Fixed : Int)
        towardZero r (v < 0) v.natAbs (-(fracBits : Int)) true

/-- The alternating series of sine (from y) and cosine (from 1): each term is the last × y² / ((j+1)(j+2)). -/
def trigSeries (y first : Int) (j0 n : Nat) : Int :=
  ((List.range n).foldl (fun (st : Int × Int) i =>
    let j := j0 + 2 * i
    (st.1 + st.2, -(st.2 * y / (2 ^ fracBits : Nat) * y / (2 ^ fracBits : Nat)) / (((j + 1) * (j + 2) : Nat) : Int)))
    (0, first)).1

/-- sin(π f) for 0 < f ≤ 1/4, f = n / 2^k: significand and exponent. -/
def sinPiSmall (n k : Nat) : Nat × Int :=
  if Nat.log2 n + 200 < k then (n * piFixed, -(k : Int) - fracBits)
  else
    let y : Int := ((n * piFixed / 2 ^ k : Nat) : Int)
    ((trigSeries y y 1 80).natAbs, -(fracBits : Int))

/-- cos(π f) for 0 < f ≤ 1/4, f = n / 2^k: below 1. -/
def cosPiSmall (n k : Nat) : Nat × Int :=
  let y : Int := ((n * piFixed / 2 ^ k : Nat) : Int)
  (min (trigSeries y (2 ^ fracBits : Nat) 0 80).natAbs (2 ^ fracBits - 1), -(fracBits : Int))

/-- sin(π x + π q / 2) for x = m / 2^k at or above 0: none is zero, else the sign and whether it is exactly one, or the
magnitude. -/
def sinPi (m k q : Nat) : Option (Bool × Option (Nat × Int)) :=
  let n := (2 * m / 2 ^ k + q) % 4
  let f := 2 * m % 2 ^ k
  let neg := 2 ≤ n
  if f = 0 then (if n % 2 = 0 then none else some (neg, none))
  else
    -- the angle within its quadrant is f / 2^(k+1); above 1/4 it is taken from the quadrant's end
    let g := 2 ^ k - f
    if n % 2 = 0 then some (neg, some (if 2 * f ≤ 2 ^ k then sinPiSmall f (k + 1) else cosPiSmall g (k + 1)))
    else some (neg, some (if 2 * f ≤ 2 ^ k then cosPiSmall f (k + 1) else sinPiSmall g (k + 1)))

/-- FSIN (`q` = 0) and FCOS (`q` = 1). -/
def trigF (r : RoundTo) (q : Nat) (a : FVal) : FRes :=
  match a with
  | .nan _ => nanRes [a]
  | .inf _ => invalidRes
  | .fin neg m e =>
    let (m', k) := if 0 ≤ e then (m * 2 ^ e.toNat, 0) else (m, (-e).toNat)
    match sinPi m' k q with
    | none => ⟨.fin (neg && q == 0) 0 0, 0, true⟩
    | some (n, none) => ⟨.fin (n != (neg && q == 0)) 1 0, 0, false⟩
    | some (n, some (v, x)) => towardZero r (n != (neg && q == 0)) v x true

end Sys2Proof.Machine
end

