-- ==== Sys2Proof/Machine/FloatInstr.lean ====
section
/-! DEFINITION. The floating-point instructions (R155 to R166): each computes lane by lane, or once, and a lane whose
result raises an enabled exception or fails the significance comparison faults by R54 and R154. -/

namespace Sys2Proof.Machine

/-- FLT.INFO of a fault whose rule states no INFO: a free value (log entry 16). -/
def openInfo (s : State) : BitVec 64 := Config.freeWord s.freeCtr

/-- The exceptions of a lane that MODE.TRAPEN enables. -/
def enabledExc (c : Ctx) (x : Exc) : Exc := x &&& modeTrapEn c.frag.mode

/-- The rule of R54 and R154: the lanes of `bad` fault, the others are written; with no lane in `bad` all are. -/
def trapLanes (s : State) (c : Ctx) (i : Instr) (bad : Lanes) (exc : Nat → Exc) (writes : Lanes → HistStep) : State :=
  let good := issueActive s c &&& ~~~ bad
  if bad = 0 then complete c i s (writes good)
  else takeFault c { code := excCode (enabledExc c (exc (lowestLane bad))), lanes := bad, info := openInfo s }
    s (complete c i s (writes good))

/-- A form of one floating-point result, per thread or uniform. -/
def floatForm (i : Instr) (d : Code) (s : State) (wide : Ctx → Bool) (t : Ctx → Nat) (f : Ctx → Nat → LaneRes) :
    Host.Outcome State Fault Refusal :=
  issueForm i s fun c =>
    let act := issueActive s c
    if uniformIssue i then
      let r := f c 0
      if enabledExc c r.exc ≠ 0 ∧ act ≠ 0 then trapLanes s c i act (fun _ => r.exc) fun _ => {}
      else complete c i s (writeCode c 0 d (wide c) (t c) r.bits r.tag)
    else
      trapLanes s c i (lanesWhere act fun lane => enabledExc c (f c lane).exc != 0) (fun lane => (f c lane).exc)
        fun good => laneWrites good fun lane =>
          let r := f c lane
          writeCode c lane d (wide c) (t c) r.bits r.tag

/-- A form whose result is of TYPE. -/
def typedForm (i : Instr) (d : Code) (s : State) (f : Ctx → Nat → LaneRes) : Host.Outcome State Fault Refusal :=
  floatForm i d s (fun c => is64 (modeType c.frag.mode)) (fun c => modeType c.frag.mode) f

/-- An arithmetic operand of TYPE. -/
def fArg (s : State) (c : Ctx) (a : Code) (lane : Nat) : FIn :=
  let t := modeType c.frag.mode
  finOf t c.frag.mode (readCode s c t (tyBits t) a lane)

/-- The B operand of TYPE. -/
def fSrc (s : State) (c : Ctx) (b : Src) (lane : Nat) : FIn :=
  let t := modeType c.frag.mode
  finOf t c.frag.mode (readSrc s c t (tyBits t) b lane)

/-- The operand with its sign inverted. -/
def FIn.neg (a : FIn) : FIn := ⟨a.v.neg, a.tag⟩

/-- A compared result of TYPE from a value and its class tag. -/
def comparedBy (c : Ctx) (r : FRes × Nat) : LaneRes := compared (modeType c.frag.mode) c.frag.mode r.1 r.2

/-- A form of two operands of TYPE. -/
def floatBinary (i : Instr) (d a : Code) (b : Src) (s : State) (f : RoundTo → FIn → FIn → FRes × Nat) :
    Host.Outcome State Fault Refusal :=
  typedForm i d s fun c lane => comparedBy c (f (roundTo c.frag.mode) (fArg s c a lane) (fSrc s c b lane))

/-- A form of one operand of TYPE. -/
def floatUnary (i : Instr) (d a : Code) (s : State) (f : RoundTo → FIn → FRes × Nat) :
    Host.Outcome State Fault Refusal :=
  typedForm i d s fun c lane => comparedBy c (f (roundTo c.frag.mode) (fArg s c a lane))

/-- FADD (R155). -/
def execFadd (w : BitVec 3) (d a : Code) (b : Src) (s : State) : Host.Outcome State Fault Refusal :=
  floatBinary (.fadd w d a b) d a b s addTagged
/-- FSUB (R155). -/
def execFsub (w : BitVec 3) (d a : Code) (b : Src) (s : State) : Host.Outcome State Fault Refusal :=
  floatBinary (.fsub w d a b) d a b s fun r x y => addTagged r x y.neg
/-- FMUL (R155). -/
def execFmul (w : BitVec 3) (d a : Code) (b : Src) (s : State) : Host.Outcome State Fault Refusal :=
  floatBinary (.fmul w d a b) d a b s mulTagged
/-- FFMA (R155): a × b + d, d read first. -/
def execFfma (w : BitVec 3) (d a : Code) (b : Src) (s : State) : Host.Outcome State Fault Refusal :=
  typedForm (.ffma w d a b) d s fun c lane =>
    comparedBy c (fmaTagged (roundTo c.frag.mode) (fArg s c a lane) (fSrc s c b lane) (fArg s c d lane))
/-- FFMS (R155): a × b − d, d read first. -/
def execFfms (w : BitVec 3) (d a : Code) (b : Src) (s : State) : Host.Outcome State Fault Refusal :=
  typedForm (.ffms w d a b) d s fun c lane =>
    comparedBy c (fmaTagged (roundTo c.frag.mode) (fArg s c a lane) (fSrc s c b lane) (fArg s c d lane).neg)
/-- FDIV (R155). -/
def execFdiv (w : BitVec 3) (d a : Code) (b : Src) (s : State) : Host.Outcome State Fault Refusal :=
  floatBinary (.fdiv w d a b) d a b s divTagged
/-- FSQRT (R155). -/
def execFsqrt (w : BitVec 3) (d a : Code) (s : State) : Host.Outcome State Fault Refusal :=
  floatUnary (.fsqrt w d a) d a s fun r x => (sqrtF r x.v, min (precision r.t) (x.tag + 1))
/-- FRCP (R156). -/
def execFrcp (w : BitVec 3) (d a : Code) (s : State) : Host.Outcome State Fault Refusal :=
  floatUnary (.frcp w d a) d a s fun r x => (frcpF r x.v, min x.tag (precision r.t - 1))
/-- FRSQ (R156). -/
def execFrsq (w : BitVec 3) (d a : Code) (s : State) : Host.Outcome State Fault Refusal :=
  floatUnary (.frsq w d a) d a s fun r x => (frsqF r x.v, min (precision r.t - 1) (x.tag + 1))

/-- The Transcendental class (R75). -/
def transcendentalTag (r : RoundTo) (x : FIn) : Nat := min x.tag (precision r.t) - 2

/-- FEXP2 (R156). -/
def execFexp2 (w : BitVec 3) (d a : Code) (s : State) : Host.Outcome State Fault Refusal :=
  floatUnary (.fexp2 w d a) d a s fun r x => (fexp2F r x.v, transcendentalTag r x)
/-- FLOG2 (R156). -/
def execFlog2 (w : BitVec 3) (d a : Code) (s : State) : Host.Outcome State Fault Refusal :=
  floatUnary (.flog2 w d a) d a s fun r x => (flog2F r x.v, transcendentalTag r x)
/-- FSIN (R156). -/
def execFsin (w : BitVec 3) (d a : Code) (s : State) : Host.Outcome State Fault Refusal :=
  floatUnary (.fsin w d a) d a s fun r x => (trigF r 0 x.v, transcendentalTag r x)
/-- FCOS (R156). -/
def execFcos (w : BitVec 3) (d a : Code) (s : State) : Host.Outcome State Fault Refusal :=
  floatUnary (.fcos w d a) d a s fun r x => (trigF r 1 x.v, transcendentalTag r x)

/-- A result of the Selection class: not compared with SIGMIN. -/
def selected (c : Ctx) (x : FVal × Nat × Exc) : LaneRes :=
  uncompared (modeType c.frag.mode) ⟨x.1, x.2.2, true⟩ x.2.1

/-- FMIN (R158). -/
def execFmin (w : BitVec 3) (d a : Code) (b : Src) (s : State) : Host.Outcome State Fault Refusal :=
  typedForm (.fmin w d a b) d s fun c lane => selected c (selectTagged false (fArg s c a lane) (fSrc s c b lane))
/-- FMAX (R158). -/
def execFmax (w : BitVec 3) (d a : Code) (b : Src) (s : State) : Host.Outcome State Fault Refusal :=
  typedForm (.fmax w d a b) d s fun c lane => selected c (selectTagged true (fArg s c a lane) (fSrc s c b lane))

/-- The sign bit of a type. -/
def signMask (t : Nat) : BitVec 64 := BitVec.ofNat 64 (2 ^ (tyBits t - 1))

/-- A result of the Sign class (R159): bits as given, the tag of the magnitude's operand under R76. -/
def signed (c : Ctx) (bits : BitVec 64) (tag : Tag) : LaneRes :=
  let t := modeType c.frag.mode
  ⟨bits, BitVec.ofNat 6 (capTag t ⟨decodeF t bits, 0, true⟩ (sigNorm tag (precision t))), 0⟩

/-- FABS (R159). -/
def execFabs (w : BitVec 3) (d a : Code) (s : State) : Host.Outcome State Fault Refusal :=
  typedForm (.fabs w d a) d s fun c lane =>
    let t := modeType c.frag.mode
    let x := readCode s c t (tyBits t) a lane
    signed c (x.1 &&& ~~~ signMask t) x.2
/-- FNEG (R159). -/
def execFneg (w : BitVec 3) (d a : Code) (s : State) : Host.Outcome State Fault Refusal :=
  typedForm (.fneg w d a) d s fun c lane =>
    let t := modeType c.frag.mode
    let x := readCode s c t (tyBits t) a lane
    signed c (x.1 ^^^ signMask t) x.2
/-- FCPS (R159): a's bits with b's sign. -/
def execFcps (w : BitVec 3) (d a : Code) (b : Src) (s : State) : Host.Outcome State Fault Refusal :=
  typedForm (.fcps w d a b) d s fun c lane =>
    let t := modeType c.frag.mode
    let x := readCode s c t (tyBits t) a lane
    let y := readSrc s c t (tyBits t) b lane
    signed c ((x.1 &&& ~~~ signMask t) ||| (y.1 &&& signMask t)) x.2

/-- FCMP (R160): a predicate, with invalid for a signalling NaN only. -/
def execFcmp (w : BitVec 3) (k : FloatCond) (p : BitVec 3) (a : Code) (b : Src) (s : State) :
    Host.Outcome State Fault Refusal :=
  issueForm (.fcmp w k p a b) s fun c =>
    let exc lane := nanExc [(fArg s c a lane).v, (fSrc s c b lane).v]
    let value lane := floatCond k (fArg s c a lane).v (fSrc s c b lane).v
    trapLanes s c (.fcmp w k p a b) (lanesWhere (issueActive s c) fun lane => enabledExc c (exc lane) != 0) exc
      fun good => writePred c p.toNat good (lanesWhere good value)

/-- The class bit of FCLASS (R161). -/
def classBit (t : Nat) (v : FVal) : Nat :=
  match v with
  | .inf neg => if neg then 0 else 7
  | .nan sig => if sig then 8 else 9
  | .fin neg m e =>
    if m = 0 then (if neg then 3 else 4)
    else
      let sub := (Nat.log2 m : Int) + e < (formatOf t).emin
      if neg then (if sub then 2 else 1) else (if sub then 5 else 6)

/-- FCLASS (R161): a 32-bit integer, FTZ ignored. -/
def execFclass (w : BitVec 3) (d a : Code) (s : State) : Host.Outcome State Fault Refusal :=
  issueForm (.fclass w d a) s fun c =>
    let t := modeType c.frag.mode
    complete c (.fclass w d a) s (resultWrites s c (.fclass w d a) d false tyU32 fun lane =>
      (BitVec.ofNat 64 (2 ^ classBit t (decodeF t (readCode s c t (tyBits t) a lane).1)), 62))

/-- An integral value as a floating-point result: zero keeps the sign (R162). -/
def integralF (r : RoundTo) (a : FVal) : FRes :=
  match a with
  | .nan _ => nanRes [a]
  | .inf neg => ⟨.inf neg, 0, true⟩
  | .fin neg _ _ =>
    match roundToInt r.rm a with
    | some z => ⟨.fin neg z.natAbs 0, 0, true⟩
    | none => ⟨a, 0, true⟩

/-- FRND (R162). -/
def execFrnd (w : BitVec 3) (d a : Code) (s : State) : Host.Outcome State Fault Refusal :=
  floatUnary (.frnd w d a) d a s fun r x => let v := integralF r x.v; (v, integralTag r.t x v)

/-- a × 2^b rounded (R163). Beyond ±8192 every finite nonzero a over- or underflows alike. -/
def scaleF (r : RoundTo) (a : FVal) (b : Int) : FRes :=
  match a with
  | .fin neg m e => convertF r (.fin neg m (e + max (-8192) (min 8192 b)))
  | _ => convertF r a

/-- FSCALE (R163): b is a signed 32-bit integer, a single register even under F64. -/
def execFscale (w : BitVec 3) (d a : Code) (b : Src) (s : State) : Host.Outcome State Fault Refusal :=
  typedForm (.fscale w d a b) d s fun c lane =>
    let x := fArg s c a lane
    comparedBy c (scaleF (roundTo c.frag.mode) x.v (signedVal 32 (readWhole32 s c b lane)), x.tag)

/-- The exact floating-point pairs (R62). -/
def exactPair (src dst : Nat) : Bool :=
  (dst == 7) || (dst == 6 && (src == 8 || src == 9 || src == 10 || isBx src)) || (dst == 10 && (src == 8 || src == 9))

/-- A lane of FCVT to a floating-point type (R164, R78). -/
def convertLane (mode : BitVec 32) (src : Nat) (x : BitVec 64 × Tag) : LaneRes :=
  let t := modeType mode
  let v := if isBx src then bxLane src x.1 else flushIn src (modeFtz mode) (decodeF src x.1)
  let ta := sigNorm x.2 (precision src)
  compared t mode (convertF (roundTo mode) v) (if exactPair src t then ta else min ta (precision t))

/-- FCVT to a BX type (R164, R60, R61): the wave's 32 lanes are one block, lanes outside ACTIVE counting as +0.0. -/
def quantiseLanes (s : State) (c : Ctx) (src : Nat) (a : Code) : Nat → LaneRes :=
  let mode := c.frag.mode
  let t := modeType mode
  let act := issueActive s c
  let ins := laneList.map fun lane =>
    if act.getLsbD lane then
      let x := readCode s c t (tyBits src) a lane
      FIn.mk (flushIn src (modeFtz mode) (decodeF src x.1)) (sigNorm x.2 (precision src))
    else ⟨.fin false 0 0, precision src⟩
  let b := quantise t (modeRound mode) ins
  fun lane =>
    let e := b.elems[lane]?.getD ⟨0, 0, 0⟩
    ⟨BitVec.ofNat 64 (e.el + 256 * b.e0 + 65536 * b.e1), BitVec.ofNat 6 e.tag,
     e.exc ||| (if b.overflow then excOverflow else 0) ||| sigExc mode e.tag⟩

/-- FCVT (R164). -/
def execFcvt (w : BitVec 3) (d a : Code) (src : BitVec 4) (s : State) : Host.Outcome State Fault Refusal :=
  typedForm (.fcvt w d a src) d s fun c lane =>
    let t := modeType c.frag.mode
    if isBx t then quantiseLanes s c src.toNat a lane
    else convertLane c.frag.mode src.toNat (readCode s c t (tyBits src.toNat) a lane)

/-- ICVT (R165). -/
def execIcvt (w : BitVec 3) (d a : Code) (src : BitVec 4) (s : State) : Host.Outcome State Fault Refusal :=
  typedForm (.icvt w d a src) d s fun c lane =>
    let t := modeType c.frag.mode
    let u := src.toNat
    let x := readCode s c t (tyBits u) a lane
    if isInt t then
      let (z, e) := floatToInt t (modeRound c.frag.mode) (flushIn u (modeFtz c.frag.mode) (decodeF u x.1))
      ⟨wrapInt (tyBits t) z, 62, e⟩
    else comparedBy c (intToFloat (roundTo c.frag.mode) (intVal u x.1), precision t)

/-- FTAG (R166): the tag as held, as an integer. -/
def execFtag (w : BitVec 3) (d a : Code) (s : State) : Host.Outcome State Fault Refusal :=
  issueForm (.ftag w d a) s fun c =>
    let t := modeType c.frag.mode
    complete c (.ftag w d a) s (resultWrites s c (.ftag w d a) d (is64 t) (if is64 t then tyU64 else tyU32) fun lane =>
      ((readCode s c t (tyBits t) a lane).2.setWidth 64, 62))

/-- The writes of FTAGW in a lane: the register's own bits with the new tag, both registers of a pair (R28). The bits are not
read: whatever value the register comes to hold stays (R82). -/
def retag (c : Ctx) (lane : Nat) (d : Code) (wide : Bool) (tag : Tag) : HistStep :=
  let k := d.toNat
  if k < 64 then
    { vs := (c.wave.cell lane k, ⟨(cellGet {} (c.wave.cell lane k) c.wave.regs).val, tag⟩) ::
        (if wide then [(c.wave.cell lane (k + 1), ⟨(cellGet {} (c.wave.cell lane (k + 1)) c.wave.regs).val, tag⟩)] else []) }
  else if k < 96 then { ss := [(k - 64, ⟨(cellGet {} (k - 64) c.frag.s).val, tag⟩)] }
  else {}

/-- FTAGW (R166): bits [5:0] of b as the tag of d, after R72. -/
def execFtagw (w : BitVec 3) (d : Code) (b : Src) (s : State) : Host.Outcome State Fault Refusal :=
  issueForm (.ftagw w d b) s fun c =>
    let wide := is64 (modeType c.frag.mode)
    let tag lane := heldTag ((readLow s c b lane).extractLsb' 0 6)
    complete c (.ftagw w d b) s
      (if uniformIssue (.ftagw w d b) then retag c 0 d wide (tag 0)
       else laneWrites (issueActive s c) fun lane => retag c lane d wide (tag lane))

end Sys2Proof.Machine
end

