-- ==== Sys2Proof/Machine/Slots.lean ====
section
/-! DEFINITION. The issue slot of a quadrant (R265 to R269): the active set, its recency list and the pending set. The
readiness of a fragment, which needs its next instruction, is judged in Machine/Turns.lean and kept in its slot state. -/

namespace Sys2Proof.Machine

/-- A fragment of a core with its place and class. -/
structure Placed where
  ref : FragRef
  quadrant : Nat
  handler : Bool
  frag : Fragment

/-- The fragments of a core, block by block. -/
def Core.fragments (k : Core) : List Placed :=
  k.blocks.flatMap fun e => e.2.waves.flatMap fun w =>
    w.frags.map fun f => ⟨⟨e.1, w.idx, f.id⟩, w.quadrant, w.handler, f⟩

/-- The fragments of a quadrant. -/
def Core.quadrantFragments (k : Core) (q : Nat) : List Placed := k.fragments.filter fun p => p.quadrant == q

/-- Whether a fragment is the Darner's, or a Thimble core's firmware. -/
def Placed.darner (p : Placed) : Bool := p.ref.block == supervisorHandle

/-- The waits that leave a fragment in the active set (R268): those that its list does not name. -/
def Wait.keepsSlot : Wait → Bool
  | .drains _ | .invalidation _ _ | .fifo _ _ _ | .postedFull | .overlap _ | .settled | .hamper | .accumulator
  | .svcSpace | .room | .quiet _ | .checkpoint _ _ _ _ | .darnerIdle | .heldLimit _ | .locked _ _ | .barrier => true
  | .recv _ _ _ | .jwait _ | .sendTarget _ | .sendReply _ _ _ | .svcReply _ | .svcHeld | .service _ | .iron | .ironPort _ | .sent _
  | .engineQueue _ | .enginePort _ | .scoreboardRoom _ | .scoreboard _ _ _ _ _ | .opwait _ | .granules _ => false

/-- Whether a fragment's state lets it stay in the active set (R268). -/
def FragState.keepsSlot : FragState → Bool
  | .run => true
  | .waitEvent w => w.keepsSlot
  | _ => false

/-- A quadrant's recency list, least recently issued first. -/
def Core.recency (k : Core) (q : Nat) : List FragRef := cellGet [] q k.lists

/-- Changes a quadrant's recency list. -/
def Core.setRecency (k : Core) (q : Nat) (l : List FragRef) : Core := { k with lists := cellSet [] q l k.lists }

/-- Changes a fragment of a core. -/
def Core.modFrag (k : Core) (r : FragRef) (f : Fragment → Fragment) : Core :=
  k.modBlock r.block fun b => b.modWave r.wave fun w => w.modFrag r.frag f

/-- A fragment leaves the active set: it leaves the recency list, its pass-over count is reset, and its wait among the
pending fragments begins anew (R267, R269). -/
def leaveActive (k : Core) (q : Nat) (r : FragRef) : Core :=
  (k.setRecency q ((k.recency q).filter (· != r))).modFrag r fun f => { f with slot := {} }

/-- A fragment enters the active set and joins the end of the recency list (R267). -/
def enterActive (k : Core) (cycle q : Nat) (r : FragRef) : Core :=
  (k.setRecency q ((k.recency q).filter (· != r) ++ [r])).modFrag r fun f =>
    { f with slot := { active := true, entered := cycle } }

/-- The ready pending fragments of a quadrant that use the slots of ordinary and handler fragments. -/
def pendingReady (k : Core) (q : Nat) : List Placed :=
  (k.quadrantFragments q).filter fun p => !p.frag.slot.active && p.frag.slot.readySince.isSome && !p.darner

/-- The pending fragment of a list that has waited longest. -/
def longestReady (l : List Placed) : Option Placed :=
  l.foldl (fun best p =>
    match best with
    | none => some p
    | some b => if p.frag.slot.readySince.getD 0 < b.frag.slot.readySince.getD 0 then some p else best) none

/-- The pending fragment to promote next: ready, handler fragments first, then the one that has waited longest (R269). -/
def nextPending (k : Core) (q : Nat) : Option Placed :=
  (longestReady ((pendingReady k q).filter (·.handler))).orElse fun _ => longestReady (pendingReady k q)

/-- The Darner's pending fragment to promote next. -/
def nextDarner (k : Core) (q : Nat) : Option Placed :=
  longestReady ((k.quadrantFragments q).filter fun p => p.darner && !p.frag.slot.active && p.frag.slot.readySince.isSome)

/-- The ready pending fragment that may take the slot of a fragment that yields it: the Darner's fragments share the ninth
slot, and all others the eight (R139, R265). -/
def yieldTo (k : Core) (q : Nat) (darner : Bool) : Option Placed :=
  if darner then nextDarner k q else nextPending k q

/-- The active ordinary and handler fragments of a quadrant. -/
def activeCount (k : Core) (q : Nat) : Nat :=
  ((k.quadrantFragments q).filter fun p => p.frag.slot.active && !p.darner).length

/-- Fills free slots from the ready pending fragments (R269): at most `n` of them. -/
def fillSlots (k : Core) (cycle q : Nat) : Nat → Core
  | 0 => k
  | n + 1 =>
    if 8 ≤ activeCount k q then k
    else
      match nextPending k q with
      | none => k
      | some p => fillSlots (enterActive k cycle q p.ref) cycle q n

/-- The Darner's slot of quadrant 0 (R265): the longest-waiting of its ready fragments, while none holds it. -/
def fillDarnerSlot (k : Core) (cycle q : Nat) : Core :=
  if (k.quadrantFragments q).any fun p => p.darner && p.frag.slot.active then k
  else
    match nextDarner k q with
    | none => k
    | some p => enterActive k cycle q p.ref

/-- Fragments that wait, park or ended leave the active set (R268). -/
def settleSlots (k : Core) : Core :=
  let out := k.fragments.filter fun p => p.frag.slot.active && !p.frag.st.keepsSlot
  let k := out.foldl (fun k p => leaveActive k p.quadrant p.ref) k
  let live := k.fragments.map (·.ref)
  { k with lists := (k.lists.map fun e => (e.1, e.2.filter fun r => live.contains r)).filter fun e => e.2 != [] }

end Sys2Proof.Machine
end

