-- ==== Sys2Proof/Machine/Windows.lean ====
section
/-! DEFINITION. Register-stack granules (R27): which are resident, which a window needs, which move out for it, and where
a thread's spill area lies. -/

namespace Sys2Proof.Machine

/-- Granules resident at wave start: D / 8. -/
def residentGranules (h : Header) : Nat := h.depth / 8

/-- Whether granule `g` of a lane's stack is resident. -/
def Wave.resident (w : Wave) (h : Header) (lane g : Nat) : Bool :=
  (g < residentGranules h) != (cellGet 0 g w.residency).getLsbD lane

/-- The granules of the window that starts at stack index `base`. -/
def granulesOf (h : Header) (base : Nat) : List Nat :=
  let lo := base / 8
  let hi := (base + windowSize h - 1) / 8
  (List.range (hi + 1 - lo)).map (lo + ·)

/-- The granules of a window that are not resident. -/
def Wave.missing (w : Wave) (h : Header) (lane base : Nat) : List Nat :=
  (granulesOf h base).filter fun g => !w.resident h lane g

/-- The granules of a lane that are resident: those of the wave start not moved out, and those moved in. -/
def Wave.residents (w : Wave) (h : Header) (lane : Nat) : List Nat :=
  ((List.range (residentGranules h)).filter fun g => w.resident h lane g) ++
    ((w.residency.map (·.1)).filter fun g => residentGranules h ≤ g && w.resident h lane g)

/-- When a lane last named granule `g`, if it has since it became resident. -/
def Wave.lastNamed (w : Wave) (lane g : Nat) : Option Nat :=
  (w.named.find? fun e => e.1 == g && e.2.1.getLsbD lane).map (·.2.2)

/-- Less recent, with lower granules first among those not named since they became resident. Two granules that the same
instruction named last count by their index as well (DESIGN CHOICE, log entry 120: R27 gives that tie no order). -/
def Wave.lessRecent (w : Wave) (lane a b : Nat) : Bool :=
  match w.lastNamed lane a, w.lastNamed lane b with
  | none, none => a < b
  | none, some _ => true
  | some _, none => false
  | some x, some y => x < y || (x == y && a < b)

/-- Takes the least recent granules of a list, `n` of them. -/
def Wave.leastRecent (w : Wave) (lane : Nat) (l : List Nat) : Nat → List Nat
  | 0 => []
  | n + 1 =>
    match l with
    | [] => []
    | g :: r =>
      let best := r.foldl (fun b x => if w.lessRecent lane x b then x else b) g
      best :: w.leastRecent lane (l.filter (· != best)) n

/-- The granules that move out for the window at `base`: as many as it needs for D stack indices to be resident at most, none
of its own. -/
def Wave.victims (w : Wave) (h : Header) (lane base : Nat) : List Nat :=
  let need := granulesOf h base
  let there := w.residents h lane
  w.leastRecent lane (there.filter fun g => !need.contains g)
    ((w.missing h lane base).length + there.length - residentGranules h)

/-- A window base slid by `delta`. -/
def slid (base : Nat) (delta : Int) : Nat := ((base : Int) + delta).toNat

/-- Whether the windows that a slide of some lanes forms need granules moved. -/
def slideMoves (h : Header) (w : Wave) (lanes : Lanes) (delta : Int) : Bool :=
  (lanesOf lanes).any fun l => !(w.missing h l (slid (w.wbOf l) delta)).isEmpty

/-- Whether a slide exceeds the spill area (R27). -/
def slideExceeds (s : State) (b : Block) (w : Wave) (lanes : Lanes) (delta : Int) : Bool :=
  let size := match contextOf s b.asid with | some k => k.spillSize.toNat | none => 0
  (lanesOf lanes).any fun l =>
    (w.victims b.hdr l (slid (w.wbOf l) delta)).any fun g => b.spillSlot.isNone || size < 40 * (g + 1)

/-- The window bases of some lanes after a slide. -/
def Wave.slide (w : Wave) (lanes : Lanes) (delta : Int) : Wave :=
  { w with wb := (lanesOf lanes).foldl (fun m l => cellSet 0 l (slid (w.wbOf l) delta) m) w.wb }

/-- The area of a thread (R27). -/
def spillArea (k : Context) (slot wave lane : Nat) : BitVec 64 :=
  k.spillBase + BitVec.ofNat 64 (((slot * 64 + wave) * 32 + lane) * k.spillSize.toNat)

/-- The 40 bytes of a granule: 32 value bytes, then 8 tag bytes. -/
def granuleBytes (w : Wave) (lane g : Nat) : List Byte :=
  let cells := (List.range 8).map fun j => cellGet ({} : VReg) ((8 * g + j) * 32 + lane) w.regs
  cells.flatMap (fun c => leBytes c.val.toNat 4) ++ cells.map fun c => c.tag.setWidth 8

/-- Puts 40 bytes into a granule's registers. -/
def putGranule (w : Wave) (lane g : Nat) (bs : List Byte) : Wave :=
  { w with regs := (List.range 8).foldl (fun m j =>
      cellSet {} ((8 * g + j) * 32 + lane)
        ⟨BitVec.ofNat 32 (leNat ((bs.drop (4 * j)).take 4)), ((bs.drop (32 + j)).headD 0).setWidth 6⟩ m) w.regs }

/-- Marks a granule of a lane as moved in or out. -/
def Wave.setResident (w : Wave) (h : Header) (lane g : Nat) (v : Bool) : Wave :=
  let old := cellGet 0 g w.residency
  let bit := laneBit lane
  let differs := v != decide (g < residentGranules h)
  { w with
    residency := cellSet 0 g (if differs then old ||| bit else old &&& ~~~ bit) w.residency
    spilled := if v then w.spilled else cellSet 0 g (cellGet 0 g w.spilled ||| bit) w.spilled
    named := (w.named.map fun e => if e.1 = g then (e.1, e.2.1 &&& ~~~ bit, e.2.2) else e).filter fun e => e.2.1 != 0 }

/-- A granule of a lane moves out without a copy in the spill area. -/
def Wave.setAside (w : Wave) (h : Header) (lane g : Nat) : Wave :=
  let v := w.setResident h lane g false
  { v with spilled := cellSet 0 g (cellGet 0 g w.spilled &&& ~~~ laneBit lane) w.spilled }

end Sys2Proof.Machine
end

