-- ==== Sys2Proof/Machine/Control.lean ====
section
/-! DEFINITION. Control flow, MODE, the moves and the constants (R125 to R145). -/

namespace Sys2Proof.Machine

/-- Changes the issuing fragment. -/
def withFrag (s : State) (c : Ctx) (f : Fragment → Fragment) : State := modFrag s c.core c.ref f

/-- The fragment enters a wait at its instruction, which keeps the PC; its stall count runs (R103, R263). -/
def enterWait (c : Ctx) (i : Instr) (s : State) (st : FragState) : State :=
  withFrag { s with freeCtr := s.freeCtr + 1 } c fun f =>
    { f with st := st, waitSince := s.cycle, stallUntil := s.cycle + 1 + stallCount i, hist := {} :: f.hist.take 7,
             noCompare := false }

/-- A fragment whose wait at RCV, WSYNC, BAR or SBAR has ended goes past its instruction. -/
def passWait (f : Fragment) (bytes : Nat) : Fragment :=
  { f with st := .run, pc := f.pc + BitVec.ofNat 64 bytes }

/-- NOP (R139). -/
def execNop (w : BitVec 3) (s : State) : Host.Outcome State Fault Refusal :=
  issueForm (.nop w) s fun c => complete c (.nop w) s {}

/-- First bit and width of a MODE field group (R125). -/
def modeGroup (g : Nat) : Nat × Nat :=
  match g with
  | 0 => (0, 4) | 1 => (4, 4) | 2 => (8, 2) | 3 => (10, 3) | 4 => (13, 2) | 5 => (15, 6) | 6 => (21, 5) | _ => (26, 3)

/-- MODE with one field group replaced. -/
def setModeGroup (m : BitVec 32) (g : Nat) (v : Nat) : BitVec 32 :=
  let (lo, n) := modeGroup g
  let mask := BitVec.ofNat 32 ((2 ^ n - 1) * 2 ^ lo)
  (m &&& ~~~ mask) ||| (BitVec.ofNat 32 (v * 2 ^ lo) &&& mask)

/-- MODE (R125). -/
def execMode (w g : BitVec 3) (v : BitVec 14) (s : State) : Host.Outcome State Fault Refusal :=
  issueForm (.mode w g v) s fun c =>
    withFrag (complete c (.mode w g v) s {}) c fun f => { f with mode := setModeGroup f.mode g.toNat v.toNat }

/-- MODEW (R126). -/
def execModew (w : BitVec 3) (a : Code) (s : State) : Host.Outcome State Fault Refusal :=
  issueForm (.modew w a) s fun c =>
    let v := (readCode s c (modeType c.frag.mode) 32 a 0).1.extractLsb' 0 32
    if modeLegal v then withFrag (complete c (.modew w a) s {}) c fun f => { f with mode := v }
    else fragmentFault c 0x01 (v.setWidth 64) s

/-- The target of a PC-relative branch (R94, R127): PC + 4 + 4 × OFF. -/
def branchTarget (c : Ctx) (off : Int) : BitVec 64 := c.frag.pc + 4 + BitVec.ofInt 64 (4 * off)

/-- BRA (R127). -/
def execBra (w : BitVec 3) (o : BitVec 21) (s : State) : Host.Outcome State Fault Refusal :=
  issueForm (.bra w o) s fun c => completeAt c (.bra w o) s {} (branchTarget c o.toInt)

/-- BRZ (R127). -/
def execBrz (w : BitVec 3) (x : Code) (o : BitVec 14) (s : State) : Host.Outcome State Fault Refusal :=
  issueForm (.brz w x o) s fun c =>
    completeAt c (.brz w x o) s {}
      (if (readS s c (x.toNat - 64)).val = 0 then branchTarget c o.toInt else nextPc c (.brz w x o))

/-- BNZ (R127). -/
def execBnz (w : BitVec 3) (x : Code) (o : BitVec 14) (s : State) : Host.Outcome State Fault Refusal :=
  issueForm (.bnz w x o) s fun c =>
    completeAt c (.bnz w x o) s {}
      (if (readS s c (x.toNat - 64)).val = 0 then nextPc c (.bnz w x o) else branchTarget c o.toInt)

/-- LOOP (R127): S is read, then decremented. -/
def execLoop (w : BitVec 3) (x : Code) (o : BitVec 14) (s : State) : Host.Outcome State Fault Refusal :=
  issueForm (.loop w x o) s fun c =>
    let v := (readS s c (x.toNat - 64)).val - 1
    completeAt c (.loop w x o) s { ss := [(x.toNat - 64, ⟨v, 62⟩)] }
      (if v = 0 then nextPc c (.loop w x o) else branchTarget c o.toInt)

/-- The per-thread branch (R129): all members, none, or a split in which the lanes that take the branch leave. -/
def branchLanes (c : Ctx) (i : Instr) (s : State) (take : Lanes) (target : BitVec 64) : State :=
  if take = 0 then complete c i s {}
  else if take = c.frag.members then completeAt c i s {} target
  else
    modWave (complete c i s {}) c.core c.ref.block c.ref.wave fun w =>
      match w.frag? c.ref.frag with
      | none => w
      | some f =>
        let t : Fragment := { f with
          id := w.nextFrag, members := take, exec := take, pc := target, kept := none, slot := {},
          loads := restrictLoads take f.loads }
        let w := w.modFrag c.ref.frag fun f =>
          { f with members := f.members &&& ~~~ take, exec := f.exec &&& ~~~ take,
                   loads := restrictLoads (~~~ take) f.loads }
        { w with nextFrag := w.nextFrag + 1, frags := w.frags ++ [t] }

/-- BRP (R130). -/
def execBrp (w : BitVec 3) (o : BitVec 21) (s : State) : Host.Outcome State Fault Refusal :=
  issueForm (.brp w o) s fun c => branchLanes c (.brp w o) s (issueActive s c) (branchTarget c o.toInt)

/-- SIGBR (R131, R81): the lanes whose operand's tag is below SIGMIN. Under an integer TYPE a tag of 62 counts as 62. -/
def execSigbr (w : BitVec 3) (x : Code) (o : BitVec 14) (s : State) : Host.Outcome State Fault Refusal :=
  issueForm (.sigbr w x o) s fun c =>
    let t := modeType c.frag.mode
    let below lane :=
      let tag := (readCode s c t (tyBits t) x lane).2
      sigNorm tag (if isInt t then 62 else precision t) < modeSigMin c.frag.mode
    branchLanes c (.sigbr w x o) s (lanesWhere (issueActive s c) fun lane => decide (below lane)) (branchTarget c o.toInt)

/-- JMPI (R128). -/
def execJmpi (w : BitVec 3) (a : Code) (s : State) : Host.Outcome State Fault Refusal :=
  issueForm (.jmpi w a) s fun c =>
    let t := (readCode s c (modeType c.frag.mode) 64 a 0).1
    if t.extractLsb' 0 2 ≠ 0 then fragmentFault c 0x04 t s else completeAt c (.jmpi w a) s {} t

/-- The link word (R135). -/
def linkWord (f : Nat) (ret : BitVec 64) : BitVec 64 :=
  BitVec.ofNat 7 f ++ ret.extractLsb' 0 57

/-- The link of a call that moved granules is a variable-latency result, which is there when the call issues (R104). -/
def Fragment.linkArrived (f : Fragment) : Fragment := { f with prods := f.prods.filter fun p => p.code != 95 }

/-- A slide of every member's window, with the moves of R27: it goes through, or waits for the granules; a call may exceed
the spill area (R151). -/
def slideTo (c : Ctx) (i : Instr) (s : State) (delta : Int) (x : HistStep) (target : BitVec 64) : State :=
  if slideMoves c.blk.hdr c.wave c.frag.members delta then
    if 0 < delta && slideExceeds s c.blk c.wave c.frag.members delta then fragmentFault c 0x12 (openInfo s) s
    else notifyDarner (waitEvent s c (.granules delta)) c.core (.granules c.ref)
  else
    modWave (completeAt c i s x target) c.core c.ref.block c.ref.wave fun w =>
      (w.slide c.frag.members delta).modFrag c.ref.frag fun f =>
        let f := { f with prods := f.prods.map (·.slid delta) }
        if c.frag.moved then f.linkArrived else f

/-- CALL (R136). -/
def execCall (w : BitVec 3) (f : BitVec 7) (o : BitVec 14) (s : State) : Host.Outcome State Fault Refusal :=
  issueForm (.call w f o) s fun c =>
    slideTo c (.call w f o) s f.toNat { ss := [(31, ⟨linkWord f.toNat (c.frag.pc + 4), 62⟩)] } (branchTarget c o.toInt)

/-- CALLI (R136). -/
def execCalli (w : BitVec 3) (a : Code) (f : BitVec 7) (s : State) : Host.Outcome State Fault Refusal :=
  issueForm (.calli w a f) s fun c =>
    let t := (readCode s c (modeType c.frag.mode) 64 a 0).1
    if t.extractLsb' 0 2 ≠ 0 then fragmentFault c 0x04 t s
    else slideTo c (.calli w a f) s f.toNat { ss := [(31, ⟨linkWord f.toNat (c.frag.pc + 4), 62⟩)] } t

/-- RET (R137). -/
def execRet (w : BitVec 3) (s : State) : Host.Outcome State Fault Refusal :=
  issueForm (.ret w) s fun c =>
    let link := (readS s c 31).val
    let f := (link.extractLsb' 57 7).toNat
    let t := (link.extractLsb' 0 57).setWidth 64
    if (lanesOf c.frag.members).any fun lane => c.wave.wbOf lane < f then fragmentFault c 0x01 (openInfo s) s
    else if t.extractLsb' 0 2 ≠ 0 then fragmentFault c 0x04 t s
    else slideTo c (.ret w) s (-(f : Int)) {} t

/-- RCV (R132): the fragment waits at reconvergence. -/
def execRcv (w : BitVec 3) (s : State) : Host.Outcome State Fault Refusal :=
  issueForm (.rcv w) s fun c => enterWait c (.rcv w) s .waitRcv

/-- A wave whose last fragment has ended ends, or, a handler wave, is dormant again with nothing of its run (R138, R264). -/
def Wave.settle (w : Wave) : Wave :=
  if w.frags = [] ∧ w.st = .running then
    if w.handler then
      { w with st := .dormant, regs := [], preds := [], wb := [], residency := [], spilled := [], named := [], sigpend := none,
               depth := 0 }
    else { w with st := .ended }
  else w

/-- An ordinary wave that has ended frees the iron that it holds (R231). -/
def Block.freeIron (b : Block) (w : Nat) : Block :=
  if b.iron = some w ∧ (b.wave? w).any (fun x => x.st == .ended) = true then { b with iron := none } else b

/-- Ends lanes of a fragment of a wave (R138); a fragment without members ends. -/
def Wave.endLanes (w : Wave) (frag : Nat) (lanes : Lanes) : Wave :=
  let w := { w with frags := (w.frags.map fun (f : Fragment) =>
    if f.id = frag then
      { f with members := f.members &&& ~~~ lanes, exec := f.exec &&& ~~~ lanes,
               loads := restrictLoads (~~~ lanes) f.loads } else f).filter fun f => f.members != 0 }
  w.settle

/-- EXIT (R138). -/
def execExit (w : BitVec 3) (s : State) : Host.Outcome State Fault Refusal :=
  issueForm (.exit w) s fun c =>
    let act := issueActive s c
    modBlock (modWave (complete c (.exit w) s {}) c.core c.ref.block c.ref.wave fun v => v.endLanes c.ref.frag act)
      c.core c.ref.block fun b => b.freeIron c.ref.wave

/-- YIELD (R139): a ready pending fragment of the quadrant takes the slot in the next cycle, if one waits (R268). -/
def execYield (w : BitVec 3) (s : State) : Host.Outcome State Fault Refusal :=
  issueForm (.yield w) s fun c =>
    let s := complete c (.yield w) s {}
    match yieldTo (coreOf s c.core) c.wave.quadrant (c.ref.block == supervisorHandle) with
    | none => s
    | some p =>
      modCore s c.core fun k => enterActive (leaveActive k c.wave.quadrant c.ref) (s.cycle + 1) c.wave.quadrant p.ref

/-- The width of MOV and SEL (R142). -/
def moveBits (t : Nat) : Nat := if is64 t then 64 else if t = 8 ∨ t = 9 then 16 else 32

/-- The type that lays a moved value out (R28): a 32-bit move keeps all 32 bits. -/
def moveType (t : Nat) : Nat := if t = 4 ∨ t = 5 then 0 else t

/-- MOV (R142). -/
def execMov (w : BitVec 3) (d a : Code) (s : State) : Host.Outcome State Fault Refusal :=
  issueForm (.mov w d a) s fun c =>
    let t := modeType c.frag.mode
    complete c (.mov w d a) s (resultWrites s c (.mov w d a) d (is64 t) (moveType t) fun lane =>
      readCode s c t (moveBits t) a lane)

/-- SEL (R143): the lanes of EXEC, A where the guard holds and B where it does not; a uniform one by EXEC's lowest lane. -/
def execSel (w : BitVec 3) (d a : Code) (b : Src) (s : State) : Host.Outcome State Fault Refusal :=
  issueForm (.sel w d a b) s fun c =>
    let t := modeType c.frag.mode
    let act := issueActive s c
    let pick (g : Bool) (lane : Nat) : BitVec 64 × Tag :=
      if g then readCode s c t (moveBits t) a lane else readSrc s c t (moveBits t) b lane
    let put (lane : Nat) (x : BitVec 64 × Tag) := writeCode c lane d (is64 t) (moveType t) x.1 x.2
    complete c (.sel w d a b) s
      (if uniformIssue (.sel w d a b) then put 0 (pick (act.getLsbD (lowestLane c.frag.exec)) 0)
       else laneWrites c.frag.exec fun lane => put lane (pick (act.getLsbD lane) lane))

/-- The value that MOVI writes (R144). -/
def moviValue (mode : BitVec 32) (v : Int) : BitVec 64 :=
  let t := modeType mode
  if isInt t then wrapInt (tyBits t) v else encodeF t (intToFloat (roundTo mode) v).val

/-- MOVI (R144). -/
def execMovi (w : BitVec 3) (d : Code) (v : BitVec 16) (s : State) : Host.Outcome State Fault Refusal :=
  issueForm (.movi w d v) s fun c =>
    let t := modeType c.frag.mode
    complete c (.movi w d v) s (resultWrites s c (.movi w d v) d (is64 t) t fun _ =>
      (moviValue c.frag.mode v.toInt, freshTag t))

/-- LIT with one literal word (R145). -/
def execLit (w : BitVec 3) (d : Code) (v : BitVec 32) (s : State) : Host.Outcome State Fault Refusal :=
  issueForm (.lit w d v) s fun c =>
    let t := modeType c.frag.mode
    complete c (.lit w d v) s (resultWrites s c (.lit w d v) d (is64 t) t fun _ => (literalValue t v, freshTag t))

/-- LIT with two literal words (R145). -/
def execLitWide (w : BitVec 3) (d : Code) (v : BitVec 64) (s : State) : Host.Outcome State Fault Refusal :=
  issueForm (.litWide w d v) s fun c =>
    let t := modeType c.frag.mode
    complete c (.litWide w d v) s (resultWrites s c (.litWide w d v) d true 3 fun _ =>
      (v, if t = 7 then 53 else 62))

end Sys2Proof.Machine
end

