-- ==== Sys2Proof/Machine/Lanes.lean ====
section
/-! DEFINITION. The lane operations (R171 to R177) and the reduction tree of R65. -/

namespace Sys2Proof.Machine

/-- The width of a lane move (R152). -/
def laneBits (t : Nat) : Nat := if is64 t then 64 else 32

/-- The type under which a lane move's value is held: 32 bits of a 16-bit floating-point type go whole (R152). -/
def laneType (t : Nat) : Nat := if t = tyF16 ∨ t = tyBF16 then tyU32 else moveType t

/-- The value and tag of an operand in a lane, as a lane move carries it. -/
def laneValue (s : State) (c : Ctx) (a : Code) (lane : Nat) : BitVec 64 × Tag :=
  readCode s c (modeType c.frag.mode) (laneBits (modeType c.frag.mode)) a lane

/-- A lane form's writes to each lane of ACTIVE, 32 or 64 bits as they are. -/
def laneMoves (s : State) (c : Ctx) (i : Instr) (d : Code) (f : Nat → BitVec 64 × Tag) : HistStep :=
  resultWrites s c i d (is64 (modeType c.frag.mode)) (laneType (modeType c.frag.mode)) f

/-- SHFL (R171): `source` gives the lane to read from lane number and index. -/
def shuffle (i : Instr) (d a : Code) (s : State) (index : Ctx → Nat → Nat) (source : Nat → Nat → Option Nat) :
    Host.Outcome State Fault Refusal :=
  issueForm i s fun c =>
    let act := issueActive s c
    complete c i s (laneMoves s c i d fun lane =>
      match source lane (index c lane) with
      | some j => laneValue s c a (if j ≤ 31 ∧ act.getLsbD j then j else lane)
      | none => laneValue s c a lane)

def srcIdx (_lane k : Nat) : Option Nat := some (k % 32)
def srcUp (lane k : Nat) : Option Nat := if k ≤ lane then some (lane - k) else none
def srcDown (lane k : Nat) : Option Nat := some (lane + k)
def srcXor (lane k : Nat) : Option Nat := some (lane ^^^ k % 32)

/-- The index of the A forms: b in the lane, as U32. -/
def shuffleIndex (s : State) (b : Src) (c : Ctx) (lane : Nat) : Nat := (readWhole32 s c b lane).toNat % 2 ^ 32

/-- SHFL.IDX, format A (R171). -/
def execShflIdxA (w : BitVec 3) (d a : Code) (b : Src) (s : State) : Host.Outcome State Fault Refusal :=
  shuffle (.shflIdxA w d a b) d a s (shuffleIndex s b) srcIdx
/-- SHFL.UP, format A (R171). -/
def execShflUpA (w : BitVec 3) (d a : Code) (b : Src) (s : State) : Host.Outcome State Fault Refusal :=
  shuffle (.shflUpA w d a b) d a s (shuffleIndex s b) srcUp
/-- SHFL.DOWN, format A (R171). -/
def execShflDownA (w : BitVec 3) (d a : Code) (b : Src) (s : State) : Host.Outcome State Fault Refusal :=
  shuffle (.shflDownA w d a b) d a s (shuffleIndex s b) srcDown
/-- SHFL.XOR, format A (R171). -/
def execShflXorA (w : BitVec 3) (d a : Code) (b : Src) (s : State) : Host.Outcome State Fault Refusal :=
  shuffle (.shflXorA w d a b) d a s (shuffleIndex s b) srcXor
/-- SHFL.IDX, format B (R171). -/
def execShflIdxB (w : BitVec 3) (d a : Code) (m : BitVec 5) (s : State) : Host.Outcome State Fault Refusal :=
  shuffle (.shflIdxB w d a m) d a s (fun _ _ => m.toNat) srcIdx
/-- SHFL.UP, format B (R171). -/
def execShflUpB (w : BitVec 3) (d a : Code) (m : BitVec 5) (s : State) : Host.Outcome State Fault Refusal :=
  shuffle (.shflUpB w d a m) d a s (fun _ _ => m.toNat) srcUp
/-- SHFL.DOWN, format B (R171). -/
def execShflDownB (w : BitVec 3) (d a : Code) (m : BitVec 5) (s : State) : Host.Outcome State Fault Refusal :=
  shuffle (.shflDownB w d a m) d a s (fun _ _ => m.toNat) srcDown
/-- SHFL.XOR, format B (R171). -/
def execShflXorB (w : BitVec 3) (d a : Code) (m : BitVec 5) (s : State) : Host.Outcome State Fault Refusal :=
  shuffle (.shflXorB w d a m) d a s (fun _ _ => m.toNat) srcXor

/-- A VOTE into a predicate (R172). -/
def voteForm (i : Instr) (d a : BitVec 3) (s : State) (f : Lanes → Lanes → Bool) : Host.Outcome State Fault Refusal :=
  issueForm i s fun c =>
    let act := issueActive s c
    let v := f act (readP s c a.toNat &&& act)
    complete c i s (writePred c d.toNat act (if v then BitVec.allOnes 32 else 0))

/-- VOTE.ANY (R172). -/
def execVoteAny (w d a : BitVec 3) (s : State) : Host.Outcome State Fault Refusal :=
  voteForm (.voteAny w d a) d a s fun _ held => held != 0
/-- VOTE.ALL (R172). -/
def execVoteAll (w d a : BitVec 3) (s : State) : Host.Outcome State Fault Refusal :=
  voteForm (.voteAll w d a) d a s fun act held => held == act
/-- VOTE.EQ (R172). -/
def execVoteEq (w d a : BitVec 3) (s : State) : Host.Outcome State Fault Refusal :=
  voteForm (.voteEq w d a) d a s fun act held => held == 0 || held == act

/-- VOTE.BALLOT (R172). -/
def execVoteBallot (w : BitVec 3) (d : Code) (a : BitVec 3) (s : State) : Host.Outcome State Fault Refusal :=
  issueForm (.voteBallot w d a) s fun c =>
    complete c (.voteBallot w d a) s (resultWrites s c (.voteBallot w d a) d false tyU32 fun _ =>
      ((readP s c a.toNat &&& issueActive s c).setWidth 64, 62))

/-- A value of the reduction tree: bits, tag, the exceptions of every step that made it, and the significance of its last
step. -/
structure RedNode where
  bits : BitVec 64
  tag : Tag
  exc : Exc := 0
  sig : Exc := 0
  deriving DecidableEq, Repr

/-- The identity of an operation (R173), with tag p(TYPE), or 62 for an integer. -/
def redIdentity (t : Nat) (o : RedOp) : RedNode :=
  let bits : BitVec 64 :=
    if isInt t then
      match o with
      | .add => 0 | .min => wrapInt (tyBits t) (intMax t) | .max => wrapInt (tyBits t) (intMin t)
      | .and => wrapInt (tyBits t) (-1) | .or => 0 | .xor => 0
    else
      match o with
      | .min => encodeF t (.inf false)
      | .max => encodeF t (.inf true)
      | _ => encodeF t (.fin true 0 0)
  { bits := bits, tag := freshTag t }

/-- One combining step (R65, R79): an integer operation, or one rounding, or the selection of R158. -/
def redStep (mode : BitVec 32) (o : RedOp) (x y : RedNode) : RedNode :=
  let t := modeType mode
  let exc := x.exc ||| y.exc
  if isInt t then
    let bits := match o with
      | .add => opIadd t x.bits y.bits
      | .min => opImin t x.bits y.bits
      | .max => opImax t x.bits y.bits
      | .and => x.bits &&& y.bits
      | .or => x.bits ||| y.bits
      | .xor => x.bits ^^^ y.bits
    { bits := bits, tag := 62, exc := exc }
  else
    let a := finOf t mode (x.bits, x.tag)
    let b := finOf t mode (y.bits, y.tag)
    match o with
    | .min | .max =>
      let r := selectTagged (o == .max) a b
      let l := uncompared t ⟨r.1, r.2.2, true⟩ r.2.1
      { bits := l.bits, tag := l.tag, exc := exc ||| l.exc }
    | _ =>
      let r := addTagged (roundTo mode) a b
      let l := uncompared t r.1 r.2
      { bits := l.bits, tag := l.tag, exc := exc ||| l.exc, sig := sigExc mode l.tag.toNat }

/-- The next level of the tree: adjacent pairs, the lower lanes on the left. -/
def redPairs (f : RedNode → RedNode → RedNode) : List RedNode → List RedNode
  | a :: b :: r => f a b :: redPairs f r
  | l => l

/-- The levels of the tree over 32 lanes, from single lanes up. -/
def redLevels (f : RedNode → RedNode → RedNode) (l : List RedNode) : List (List RedNode) :=
  let l1 := redPairs f l
  let l2 := redPairs f l1
  let l3 := redPairs f l2
  let l4 := redPairs f l3
  [l, l1, l2, l3, l4, redPairs f l4]

/-- The lanes' values at the foot of the tree (R173): the operand in ACTIVE, the identity elsewhere. -/
def redLeaves (s : State) (c : Ctx) (a : Code) (o : RedOp) : List RedNode :=
  let t := modeType c.frag.mode
  let act := issueActive s c
  laneList.map fun lane =>
    if act.getLsbD lane then
      let x := readCode s c t (tyBits t) a lane
      { bits := x.1, tag := if isInt t then 62 else x.2 }
    else redIdentity t o

/-- WRED (R173). -/
def execWred (w : BitVec 3) (d a : Code) (o : RedOp) (s : State) : Host.Outcome State Fault Refusal :=
  issueForm (.wred w d a o) s fun c =>
    let t := modeType c.frag.mode
    let act := issueActive s c
    let top := ((redLevels (redStep c.frag.mode o) (redLeaves s c a o))[5]?.getD []).headD (redIdentity t o)
    let r := if act = 0 then redIdentity t o else top
    let exc := r.exc ||| r.sig
    let put := resultWrites s c (.wred w d a o) d (is64 t) t fun _ => (r.bits, r.tag)
    if act ≠ 0 ∧ enabledExc c exc ≠ 0 then trapLanes s c (.wred w d a o) act (fun _ => exc) fun _ => {}
    else complete c (.wred w d a o) s put

/-- Lane `i`'s inclusive prefix (R65): the aligned blocks of 0 to i, from the largest, combined from left to right. -/
def redPrefix (f : RedNode → RedNode → RedNode) (levels : List (List RedNode)) (i : Nat) : Option RedNode :=
  (([5, 4, 3, 2, 1, 0] : List Nat).foldl (fun (st : Nat × Option RedNode) b =>
    if (i + 1) / 2 ^ b % 2 = 1 then
      let blk := (levels[b]?.getD [])[st.1 / 2 ^ b]?
      (st.1 + 2 ^ b, match st.2, blk with
        | some x, some y => some (f x y)
        | none, y => y
        | x, none => x)
    else st) (0, none)).2

/-- WSCAN (R174). -/
def execWscan (w : BitVec 3) (d a : Code) (o : RedOp) (s : State) : Host.Outcome State Fault Refusal :=
  issueForm (.wscan w d a o) s fun c =>
    let t := modeType c.frag.mode
    let f := redStep c.frag.mode o
    let levels := redLevels f (redLeaves s c a o)
    let res lane := (redPrefix f levels lane).getD (redIdentity t o)
    let exc lane := (res lane).exc ||| (res lane).sig
    trapLanes s c (.wscan w d a o) (lanesWhere (issueActive s c) fun lane => enabledExc c (exc lane) != 0) exc
      fun good => laneWrites good fun lane => writeCode c lane d (is64 t) t (res lane).bits (res lane).tag

/-- RDLANE (R175): lane j's value if j is a member, else 0 with tag 62. -/
def readLane (i : Instr) (d a : Code) (s : State) (index : Ctx → Nat) : Host.Outcome State Fault Refusal :=
  issueForm i s fun c =>
    let j := index c % 32
    let v := if c.frag.members.getLsbD j then laneValue s c a j else (0, 62)
    complete c i s (laneMoves s c i d fun _ => v)

/-- RDLANE, format A (R175). -/
def execRdlaneA (w : BitVec 3) (d a : Code) (b : Src) (s : State) : Host.Outcome State Fault Refusal :=
  readLane (.rdlaneA w d a b) d a s fun c => (readLow s c b 0).toNat
/-- RDLANE, format B (R175). -/
def execRdlaneB (w : BitVec 3) (d a : Code) (m : BitVec 5) (s : State) : Host.Outcome State Fault Refusal :=
  readLane (.rdlaneB w d a m) d a s fun _ => m.toNat

/-- WRLANE (R175): d in lane j := a, if j is in ACTIVE. -/
def writeLane (i : Instr) (d a : Code) (s : State) (index : Ctx → Nat) : Host.Outcome State Fault Refusal :=
  issueForm i s fun c =>
    let t := modeType c.frag.mode
    let j := index c % 32
    let v := laneValue s c a j
    complete c i s (if (issueActive s c).getLsbD j then writeCode c j d (is64 t) (laneType t) v.1 v.2 else {})

/-- WRLANE, format A (R175). -/
def execWrlaneA (w : BitVec 3) (d a : Code) (b : Src) (s : State) : Host.Outcome State Fault Refusal :=
  writeLane (.wrlaneA w d a b) d a s fun c => (readLow s c b 0).toNat
/-- WRLANE, format B (R175). -/
def execWrlaneB (w : BitVec 3) (d a : Code) (m : BitVec 5) (s : State) : Host.Outcome State Fault Refusal :=
  writeLane (.wrlaneB w d a m) d a s fun _ => m.toNat

/-- WPERM (R175): a lane takes the value of the lowest lane that sends to it. -/
def execWperm (w : BitVec 3) (d a : Code) (b : Src) (s : State) : Host.Outcome State Fault Refusal :=
  issueForm (.wperm w d a b) s fun c =>
    let t := modeType c.frag.mode
    let act := issueActive s c
    let sender j := (lanesOf act).find? fun i => (readLow s c b i).toNat % 32 == j
    complete c (.wperm w d a b) s (laneWrites act fun j =>
      match sender j with
      | some i => let v := laneValue s c a i; writeCode c j d (is64 t) (laneType t) v.1 v.2
      | none => {})

/-- WSYNC (R176): the mask; an empty ACTIVE falls through, every other fragment waits. -/
def execWsync (w : BitVec 3) (a : Code) (b : Src) (s : State) : Host.Outcome State Fault Refusal :=
  issueForm (.wsync w a b) s fun c =>
    if issueActive s c = 0 then complete c (.wsync w a b) s {}
    else
      let m : Lanes := match b with
        | .lit x => x
        | .reg _ => (readCode s c (modeType c.frag.mode) 32 a 0).1.extractLsb' 0 32
      enterWait c (.wsync w a b) s (.waitSync m (instrBytes (.wsync w a b)))

/-- MASK (R177): d := EXEC; EXEC := opnd(A)[31:0] ∧ members. -/
def execMask (w : BitVec 3) (d a : Code) (s : State) : Host.Outcome State Fault Refusal :=
  issueForm (.mask w d a) s fun c =>
    let v := (readCode s c (modeType c.frag.mode) 32 a 0).1.extractLsb' 0 32
    withFrag (complete c (.mask w d a) s (writeCode c 0 d true 3 (c.frag.exec.setWidth 64) 62)) c fun f =>
      { f with exec := v &&& f.members }

/-- EXECQ (R177): d := members × 2^32 + EXEC. -/
def execExecq (w : BitVec 3) (d : Code) (s : State) : Host.Outcome State Fault Refusal :=
  issueForm (.execq w d) s fun c =>
    complete c (.execq w d) s (writeCode c 0 d true 3 (c.frag.members ++ c.frag.exec) 62)

end Sys2Proof.Machine
end

