-- ==== Sys2Proof/Machine/ExactSums.lean ====
section
/-! DEFINITION. The exact-sum store (R68, R196 to R200): binding, adding, reading and retirement. A sum counts units of
2^−1074, so that it holds every finite value of F64 exactly. -/

namespace Sys2Proof.Machine

/-- The exponent of an exact sum's unit. -/
def sumExp : Int := -1074

/-- A finite value in units of 2^−1074. -/
def sumUnits (v : FVal) : Int :=
  match v with
  | .fin neg m e => scaledInt neg m e sumExp
  | _ => 0

/-- round(sum) with the special cases of R68. -/
def ExactSum.value (x : ExactSum) (r : RoundTo) : FRes :=
  if x.nan || (x.pinf && x.ninf) then invalidRes
  else if x.pinf then ⟨.inf false, 0, false⟩
  else if x.ninf then ⟨.inf true, 0, false⟩
  else roundInt r x.sum sumExp false

/-- The FORMAT of an accumulator's element. -/
def ExactSum.format (x : ExactSum) : Nat := if x.size = 8 then tyF64 else tyF32

/-- Whether two byte ranges share a byte. -/
def rangesMeet (a n b m : Nat) : Bool := a < b + m && b < a + n

/-- Poison that a write of whole sectors clears (R423). -/
def clearPoison (unit : Nat) (p : List Nat) (a n : Nat) : List Nat :=
  p.filter fun k => !(a ≤ k * unit && k * unit + unit ≤ a + n)

/-- Bytes enter memory, and clear the poison of the sectors they cover. -/
def memWrite (s : State) (pa : Nat) (bs : List Byte) : State :=
  { s with mem := writeBytes s.mem pa bs, poison := clearPoison 32 s.poison pa bs.length }

/-- RETIREMENT of one accumulator (R199): round(sum, FORMAT) under RNE, without FTZ, to the element. -/
def retireSum (s : State) (x : ExactSum) : State :=
  let t := x.format
  let v := (x.value ⟨t, 0, false⟩).val
  memWrite { s with exactSums := s.exactSums.filter (· != x) } x.pa (leBytes (encodeF t v).toNat x.size)

/-- Retires every accumulator whose element shares a byte with an access (R199). -/
def retireRange (s : State) (pa n : Nat) : State :=
  (s.exactSums.filter fun x => rangesMeet pa n x.pa x.size).foldl retireSum s

/-- The accumulator bound to an element. -/
def boundSum (s : State) (pa size : Nat) : Option ExactSum := s.exactSums.find? fun x => x.pa == pa && x.size == size

/-- The resident accumulators of a partition. -/
def residentSums (s : State) (p : Nat) : List ExactSum := s.exactSums.filter fun x => x.partition == p && !x.spilled

/-- The elements whose sums resilient blocks will add to at their commits, as partition, address and size, where no resident
accumulator holds them: each needs room in the store by then (R196, R430). -/
def heldSums (s : State) : List (Nat × Nat × Nat) :=
  (s.cores.flatMap fun k => k.2.blocks.flatMap fun e => e.2.ckpt.effects.filterMap fun x =>
    match x with
    | .sum _ pa size _ _ =>
      (match boundSum s pa size with
       | some y => if y.spilled then some (y.partition, pa, size) else none
       | none => some (partitionOf k.1, pa, size))
    | _ => none).eraseDups

/-- The images that a context's backing area holds for a partition. -/
def spilledSums (s : State) (asid p : Nat) : Nat :=
  (s.exactSums.filter fun x => x.partition == p && x.asid == asid && x.spilled).length

/-- Adds one value (R197). -/
def ExactSum.add (x : ExactSum) (v : FVal) : ExactSum :=
  match v with
  | .nan _ => { x with nan := true }
  | .inf false => { x with pinf := true }
  | .inf true => { x with ninf := true }
  | .fin _ _ _ => { x with sum := x.sum + sumUnits v }

/-- An accumulator bound to an element, its sum the element's value (R197). -/
def bindSum (s : State) (pa size partition asid launch : Nat) (bits : BitVec 64) : ExactSum :=
  let t := if size = 8 then tyF64 else tyF32
  let e : ExactSum := ⟨pa, size, partition, asid, launch, 0, false, false, false, false, s.cycle⟩
  e.add (decodeF t bits)

/-- Puts an accumulator in place of the one of its element. -/
def putSum (s : State) (x : ExactSum) : State :=
  { s with exactSums := (s.exactSums.filter fun y => !(y.pa == x.pa && y.size == x.size)) ++ [x] }

end Sys2Proof.Machine
end

