-- ==== Sys2Proof/Machine/Memory.lean ====
section
/-! DEFINITION. Physical memory (R384): local HBM, host and peer memory, and the device pages with what their reads and
writes do (R320, R366); held stores of a resilient block (R430); core SRAM with its poison (R275, R422). -/

namespace Sys2Proof.Machine

/-- The region of a physical address (R384). -/
def paRegion (pa : Nat) : Nat := pa / 2 ^ 48

/-- First and last-plus-one offset of a group's HBM windows (R384). -/
def groupWindow (first log2 : Nat) : Nat × Nat :=
  (first * Config.windowBytes, (first + 2 ^ log2) * Config.windowBytes)

/-- Whether a physical address lies in local HBM within a group's windows. -/
def inWindow (first log2 pa : Nat) : Bool :=
  let w := groupWindow first log2
  paRegion pa == 0 && w.1 ≤ pa && pa < w.2

/-- Whether the link that reaches a physical address has failed (R413, R414). -/
def linkFailed (s : State) (pa : Nat) : Bool :=
  (paRegion pa == 1 && s.links.cxlDown.contains (Config.cxlPort (pa / 4096) % 2)) ||
    (paRegion pa == 2 && s.links.ualinkDown.contains (Config.ualinkStation (pa / 2 ^ 40 % 256) % 24))

/-! ### Queue notification (R365, R366) -/

/-- Fields of a queue descriptor (R365). -/
def queueEnabled (d : BitVec 256) : Bool := d.getLsbD 165
def queueSizeLog2 (d : BitVec 256) : Nat := (d.extractLsb' 160 5).toNat
def queueGroupLog2 (d : BitVec 256) : Nat := (d.extractLsb' 171 3).toNat
def queueTickets (d : BitVec 256) : Nat := (d.extractLsb' 144 16).toNat
def queueAsid (d : BitVec 256) : Nat := (d.extractLsb' 128 16).toNat
def queueRidxAddr (d : BitVec 256) : BitVec 64 := d.extractLsb' 64 64
def queueRing (d : BitVec 256) : BitVec 64 := (d.extractLsb' 0 57).setWidth 64

/-- The descriptor that governs from a notify write on: the one written last. One that enables the queue sets both indices
and the pass to 0 (R366, R373); one that disables it aborts every packet that is not DONE, in the context that it ran in
(R370; log entry 88): Dibor ends them, after its journal has recorded it (R443). -/
def Queue.governed (k : Queue) : Queue :=
  match k.next with
  | none => k
  | some d =>
    if queueEnabled d && !queueEnabled k.desc then
      { k with desc := d, next := none, widx := 0, ridx := 0, pass := 0, wasReady := false, unreadySince := none }
    else if queueEnabled d then { k with desc := d, next := none }
    else
      { k with
        desc := d
        next := none
        widx := 0
        kick := false
        unreadySince := none
        packets := k.packets.map fun (p : Packet) =>
          if p.st = .done ∨ p.status = 0x36 then p else { p with status := 0x36, asid := queueAsid k.desc } }

/-- First partition of a queue's group (R365). -/
def queueGroup (q : Nat) (d : BitVec 256) : Nat := q / 64 / 2 ^ queueGroupLog2 d * 2 ^ queueGroupLog2 d

/-- The group, if any, whose interface is locked and that holds a partition (R396). -/
def lockedGroup (s : State) (p : Nat) : Option Nat :=
  (s.groups.find? fun g => g.1 ≤ p && p < g.1 + 2 ^ g.2.log2 && (g.2.tdisp == .locked || g.2.tdisp == .run)).map (·.1)

/-- The locked group, if any, whose partitions a queue's descriptor takes into a group: its size is frozen (R397). -/
def lockedBy (s : State) (q : Nat) (d : BitVec 256) : Option Nat :=
  (lockedGroup s (q / 64)).orElse fun _ =>
    if queueEnabled d then
      (s.groups.find? fun g => (g.2.tdisp == .locked || g.2.tdisp == .run) &&
        rangesMeet g.1 (2 ^ g.2.log2) (queueGroup q d) (2 ^ queueGroupLog2 d)).map (·.1)
    else none

/-- A group comes into being with a descriptor that enables its queue (R365): its virtual time starts at 0 (R373), and groups that
it cuts across are no more. -/
def regroup (s : State) (q : Nat) (d : BitVec 256) : State :=
  if !queueEnabled d then s
  else
    let g := queueGroup q d
    let n := queueGroupLog2 d
    let cut (x : Nat × Group) : Bool := x.1 != g && rangesMeet x.1 (2 ^ x.2.log2) g (2 ^ n)
    let groups := s.groups.map fun x => if cut x then (x.1, { x.2 with v := 0, reserved := none }) else x
    let s := { s with groups := groups }
    if (groupOf s g).log2 = n then s else modGroup s g fun x => { x with log2 := n, v := 0, reserved := none }

/-- The descriptor written last governs, and its grouping with it; none does that the configuration of a locked group forbids
(R397; log entry 89). -/
def governQueue (s : State) (q : Nat) : State :=
  if (queueOf s q).next.all fun d => (lockedBy s q d).isSome then s
  else
    let s := modQueue s q Queue.governed
    regroup s q (queueOf s q).desc

/-- An aligned 8-byte write at offset 0 of a queue's notify page (R366). -/
def notifyQueue (s : State) (q : Nat) (v : BitVec 64) : State :=
  modQueue (governQueue s q) q fun k =>
    if !queueEnabled k.desc || v < k.widx || k.ridx.toNat + 2 ^ queueSizeLog2 k.desc < v.toNat then
      { k with err := true }
    else { k with widx := v, kick := true }

/-! ### Device pages (R320) -/

/-- The counts that offset 0x020 of a post page reads: ACCEPTED, then DROPS. -/
def postCounts (s : State) : DevicePage → BitVec 64
  | .contextPost asid => match contextOf s asid with | some k => k.drops ++ k.accepted | none => 0
  | .driverPost p => (partState s p).drops ++ (partState s p).accepted
  | _ => 0

/-- Counts one dropped post of a page. -/
def dropPost (s : State) : DevicePage → State
  | .contextPost asid => modContext s asid fun k => { k with drops := k.drops + 1 }
  | .driverPost p => modPart s p fun k => { k with drops := k.drops + 1 }
  | _ => s

/-- Counts one accepted post of a page. -/
def acceptPost (s : State) : DevicePage → State
  | .contextPost asid => modContext s asid fun k => { k with accepted := k.accepted + 1 }
  | .driverPost p => modPart s p fun k => { k with accepted := k.accepted + 1 }
  | _ => s

/-- The device page at a physical address. -/
def pageAt (pa : Nat) : DevicePage := Config.devicePage (pa % 2 ^ 48 / 4096)

/-- One byte read from a device page. -/
def deviceByte (s : State) (pa : Nat) : Byte :=
  let o := pa % 4096
  if 0x20 ≤ o ∧ o < 0x28 then BitVec.ofNat 8 ((postCounts s (pageAt pa)).toNat / 256 ^ (o - 0x20)) else 0

/-- A read of a post page from outside (R320): ACCEPTED and DROPS at their offsets, zeros elsewhere. -/
def postRead (s : State) (p : DevicePage) (off size : Nat) : BitVec 64 :=
  let byte (o : Nat) : Nat :=
    if 0x20 ≤ o ∧ o < 0x28 then (postCounts s p).toNat / 256 ^ (o - 0x20) % 256 else 0
  BitVec.ofNat 64 ((List.range (min size 8)).foldl (fun n j => n + byte (off % 4096 + j) * 256 ^ j) 0)

/-- A write to a device page by an agent of the device: none is the 32-byte write that a post needs, so one that touches
the descriptor is dropped and counted (R321). -/
def deviceWrite (s : State) (pa : Nat) (bs : List Byte) : State :=
  match pageAt pa with
  | .notify q =>
    if pa % 4096 = 0 ∧ bs.length = 8 then notifyQueue s q (BitVec.ofNat 64 (leNat bs)) else s
  | p => if pa % 4096 < 32 then dropPost s p else s

/-! ### Physical accesses -/

/-- Whose access it is: a block of a core, whose uncommitted stores it sees (R430); none for every other agent. -/
abbrev Owner := Option (Nat × Nat)

/-- The block of an access, when its launch is resilient. -/
def resilientOwner (s : State) (o : Owner) : Option Block :=
  match o with
  | none => none
  | some (c, b) => (blockOf s c b).bind fun k => if k.hdr.resilient then some k else none

/-- One byte as an agent sees it. -/
def physByte (s : State) (o : Option Block) (pa : Nat) : Byte :=
  if paRegion pa = 3 then deviceByte s pa
  else
    match o.bind fun k => cellGet none pa k.ckpt.held with
    | some v => v
    | none => cellGet unwrittenByte pa s.mem

/-- Bytes as an agent sees them. -/
def physRead (s : State) (o : Owner) (pa n : Nat) : List Byte :=
  let k := resilientOwner s o
  (List.range n).map fun j => physByte s k (pa + j)

/-- Puts into the record of replaced words those that a block's write changes (R99). -/
def noteWords (s : State) (launch : Nat) (o : Option Block) (pa : Nat) (bs : List Byte) : State :=
  { s with overwritten := (List.range ((pa % 4 + bs.length + 3) / 4)).foldl (fun m j =>
      let a := (pa / 4 + j) * 4
      let old := (List.range 4).map fun k => physByte s o (a + k)
      let new := old.zipIdx.map fun e => if pa ≤ a + e.2 ∧ a + e.2 < pa + bs.length then bs.getD (a + e.2 - pa) 0 else e.1
      let l := cellGet [] (a / 4) m
      let x := (launch, BitVec.ofNat 32 (leNat old))
      if old = new ∨ l.contains x then m else cellSet [] (a / 4) (x :: l) m) s.overwritten }

/-- What a write by a block leaves beside the bytes: the words that it replaces in its launch's eyes (R99), and the poison that
it clears in its core's L1 lines (R423). -/
def noteWrite (s : State) (o : Owner) (pa : Nat) (bs : List Byte) : State :=
  match o with
  | none => s
  | some (c, b) =>
    let s := match blockOf s c b with
      | some k => noteWords s k.launch (if k.hdr.resilient then some k else none) pa bs
      | none => s
    if (coreOf s c).l1Poison.isEmpty then s
    else modCore s c fun k => { k with l1Poison := clearPoison 4 k.l1Poison pa bs.length }

/-- A write that an agent performs: a resilient block's is held, one beyond local HBM as an effect of its commit
(R430); any other retires the exact sums bound to its bytes (R199). -/
def physPut (s : State) (o : Owner) (pa : Nat) (bs : List Byte) : State :=
  match o, resilientOwner s o with
  | some (c, b), some _ =>
    modBlock s c b fun k =>
      let held := (bs.zipIdx.foldl (fun m e => cellSet none (pa + e.2) (some e.1) m) k.ckpt.held)
      if paRegion pa = 0 then { k with ckpt := { k.ckpt with held := held } }
      else { k with ckpt := { k.ckpt with held := held, effects := k.ckpt.effects ++ [.store s.nextIdent pa bs], due := true } }
  | _, _ => if paRegion pa = 3 then deviceWrite s pa bs else memWrite (retireRange s pa bs.length) pa bs

/-- A write by an agent, with what it leaves beside the bytes. -/
def physWrite (s : State) (o : Owner) (pa : Nat) (bs : List Byte) : State :=
  physPut (if paRegion pa = 3 then s else noteWrite s o pa bs) o pa bs

/-- The bytes of a read-modify-write that a resilient block holds: no other agent writes them before its commit (R324, R335,
R430). -/
def lockHeld (s : State) (o : Owner) (l : List Nat) : State :=
  match o, resilientOwner s o with
  | some (c, b), some _ =>
    modBlock s c b fun k => { k with ckpt := { k.ckpt with locked := k.ckpt.locked ++ l.filter fun a => !k.ckpt.locked.contains a } }
  | _, _ => s

/-- The other blocks that hold some bytes so; for an access that reads and writes them indivisibly (`rmw`), also those that hold
a store to them, whose commit would otherwise write between its read and its write. -/
def lockHolders (s : State) (o : Owner) (rmw : Bool) (l : List Nat) : List (Nat × Nat) :=
  s.cores.flatMap fun k => (k.2.blocks.filter fun e =>
    some (k.1, e.1) != o && (e.2.ckpt.locked.any l.contains ||
      (rmw && l.any fun a => (cellGet none a e.2.ckpt.held).isSome))).map fun e => (k.1, e.1)

/-- Whether another block holds some bytes so. -/
def lockedBytes (s : State) (o : Owner) (rmw : Bool) (l : List Nat) : Bool := !(lockHolders s o rmw l).isEmpty

/-- Whether bytes of physical memory are poisoned (R423). -/
def poisoned (s : State) (pa n : Nat) : Bool := s.poison.any fun k => rangesMeet pa n (k * 32) 32

/-- A checkpoint is forced before the next instruction of a resilient block (R430). -/
def forceCheckpoint (s : State) (c b : Nat) : State :=
  modBlock s c b fun k => if k.hdr.resilient then { k with ckpt := { k.ckpt with due := true } } else k

/-- The blocks that hold some bytes so commit before anything else (R430). -/
def freeLocks (s : State) (o : Owner) (rmw : Bool) (l : List Nat) : State :=
  (lockHolders s o rmw l).foldl (fun s e => forceCheckpoint s e.1 e.2) s

/-- The 128-byte lines of some bytes. -/
def linesOf (l : List Nat) : List Nat := (l.map (· / 128)).eraseDups

/-- The lines that a block holds uncommitted (R430). -/
def Block.lines (k : Block) : List Nat := linesOf (k.ckpt.held.map (·.1))

/-- The lines that a block holds uncommitted, and at most those that its posted stores will add. -/
def heldLines (k : Block) : Nat :=
  k.lines.length + (k.waves.foldl (fun n w => w.posted.foldl (fun n o => n + o.newLines) n) 0)

/-- The lines that a write of some bytes adds to those that a block holds. -/
def Block.newLines (k : Block) (l : List Nat) : Nat := ((linesOf l).filter fun a => !k.lines.contains a).length

/-- Whether `n` lines more for a resilient block would exceed one of R430's limits: 4 MiB for the block, 32 MiB for its
partition. -/
def heldOver (s : State) (c b n : Nat) : Bool :=
  match resilientOwner s (some (c, b)) with
  | none => false
  | some k =>
    let cores := [c / 2 * 2, c / 2 * 2 + 1]
    let all := cores.foldl (fun n c => (coreOf s c).blocks.foldl (fun n e => n + heldLines e.2) n) 0
    0 < n && (4 * 2 ^ 20 < (heldLines k + n) * 128 || 32 * 2 ^ 20 < (all + n) * 128)

/-- The checkpoints that an access over a limit forces (R430): the block's, and those of the blocks of its partition. -/
def freeHeld (s : State) (c : Nat) : State :=
  [c / 2 * 2, c / 2 * 2 + 1].foldl (fun s c =>
    (coreOf s c).blocks.foldl (fun s e => if heldLines e.2 = 0 then s else forceCheckpoint s c e.1) s) s

/-- Whether the acknowledgement of an invalidation waits (R389): for an effect that a resilient block made before it and still
holds, a store to host or peer memory or a FATOM's sum, whose physical address it has kept; and for a load in flight on a CXL
link. -/
def storesBefore (s : State) (ident : Nat) : Bool :=
  (s.links.flights.any fun x => x.ident ≤ ident) || s.cores.any fun k => k.2.blocks.any fun e =>
    (e.2.ckpt.effects.any fun x =>
      match x with
      | .store n _ _ => decide (n ≤ ident)
      | .sum n _ _ _ _ => decide (n ≤ ident)
      | _ => false) ||
      e.2.waves.any fun w => w.frags.any fun f => f.loads.any fun l =>
        l.ident ≤ ident && !l.link.isEmpty && !(l.vs.isEmpty && l.ss.isEmpty)

/-! ### Core SRAM -/

/-- Bytes of core SRAM. -/
def sramRead (s : State) (c a n : Nat) : List Byte := readBytes (coreOf s c).sram a n

/-- Writes bytes of core SRAM, clearing the poison of the words they cover (R423). -/
def sramWrite (s : State) (c a : Nat) (bs : List Byte) : State :=
  modCore s c fun k =>
    { k with sram := writeBytes k.sram a bs, sramPoison := clearPoison 4 k.sramPoison a bs.length }

/-- Whether bytes of core SRAM are poisoned. -/
def sramPoisoned (s : State) (c a n : Nat) : Bool := (coreOf s c).sramPoison.any fun k => rangesMeet a n (k * 4) 4

end Sys2Proof.Machine
end

