-- ==== Sys2Proof/Machine/ErrorLog.lean ====
section
/-! DEFINITION. The error log (R425 to R428): a cycle's events, which are taken in ascending channel order when the cycle ends, and
the events of consumed poison. -/

namespace Sys2Proof.Machine

/-- Fields of ELOGCTL (R426). -/
def logSize (c : BitVec 32) : Nat := c.toNat % 16
def logVector (c : BitVec 32) : Nat := c.toNat / 16 % 32
def logIrq (c : BitVec 32) : Bool := c.getLsbD 9
def logEnabled (c : BitVec 32) : Bool := c.getLsbD 10

/-- The 64 bytes of an event's record (R427), from the log with the event's counts: TIME, SEQ, CHAN, KIND, PART, ASID, ADDR, CE,
UE, DROPPED and zeros. -/
def logRecord (time : Nat) (l : ErrorLog) (e : LogEvent) : List Byte :=
  leBytes time 8 ++ leBytes l.seq.toNat 8 ++ leBytes e.chan 2 ++ leBytes e.kind 1 ++ leBytes e.part 1 ++ leBytes e.asid 2 ++
    leBytes 0 2 ++ leBytes e.addr 8 ++ leBytes (cellGet (0 : BitVec 32) e.chan l.ce).toNat 4 ++
    leBytes (cellGet (0 : BitVec 32) e.chan l.ue).toNat 4 ++ leBytes l.drop.toNat 8 ++ leBytes 0 16

/-- Whether a kind counts as corrected (R425, R428): a corrected error, or a link's retry. -/
def kindCorrected (kind : Nat) : Bool := kind == 0 || kind == 3

/-- The log once an event is counted: its channel's counter and ELOGSEQ (R428). -/
def ErrorLog.count (l : ErrorLog) (e : LogEvent) : ErrorLog :=
  let l := if kindCorrected e.kind then { l with ce := cellSet 0 e.chan (cellGet 0 e.chan l.ce + 1) l.ce }
    else { l with ue := cellSet 0 e.chan (cellGet 0 e.chan l.ue + 1) l.ue }
  { l with seq := l.seq + 1 }

/-- Whether the ring takes no record (R428). -/
def ErrorLog.full (l : ErrorLog) : Bool := !logEnabled l.ctl || (l.wr - l.rd).toNat == 2 ^ logSize l.ctl

/-- Where the next record stands (R427). -/
def ErrorLog.place (l : ErrorLog) : Nat := l.base.toNat + 64 * (l.wr.toNat % 2 ^ logSize l.ctl)

/-- One EVENT of the log (R428): the channel's counter, ELOGSEQ, and the ring or ELOGDROP, in one step; the interrupt follows. -/
def recordEvent (s : State) (e : LogEvent) : State :=
  let l := s.log.count e
  if l.full then { s with log := { l with drop := l.drop + 1 } }
  else
    let s := physWrite s none l.place (logRecord s.timebase l e)
    let s := { s with log := { l with wr := l.wr + 1 } }
    if logIrq l.ctl then emit s (.driverInterrupt (logVector l.ctl)) else s

/-- An event happens: the log takes it at the end of its cycle. -/
def logEvent (s : State) (chan kind part asid addr : Nat) : State :=
  { s with log := { s.log with pending := s.log.pending ++ [⟨chan, kind, part, asid, addr⟩] } }

/-- An event takes its place among those of its cycle: behind those of its channel and of the channels below it. -/
def placeEvent (e : LogEvent) : List LogEvent → List LogEvent
  | [] => [e]
  | x :: r => if e.chan < x.chan then e :: x :: r else x :: placeEvent e r

/-- The events of a cycle in ascending CHAN order (R428), those of one channel as they happened. -/
def eventOrder (l : List LogEvent) : List LogEvent := l.foldl (fun m e => placeEvent e m) []

/-- The END OF A CYCLE for the log: its events are taken. -/
def flushLog (s : State) : State :=
  (eventOrder s.log.pending).foldl recordEvent { s with log := { s.log with pending := [] } }

/-- The channel of a core (R425), cores being taken in core-number order. -/
def coreChan (core : Nat) : Nat := 768 + core

/-- Poison is consumed on a core (R427): the event is the core's, for a context, at a physical address. -/
def poisonEvent (s : State) (core asid pa : Nat) : State :=
  logEvent s (coreChan core) 2 (if core < Config.programCores then partitionOf core else 0xFF) asid pa

/-- Whether a fault of a program fragment finds a Hamper entry (R342); the Darner's need none. -/
def hamperRoom (s : State) (c : Ctx) : Bool :=
  c.ref.block == supervisorHandle || (hamperSlot (coreOf s c.core) c.ref.block c.ref.wave).isSome

end Sys2Proof.Machine
end

