-- ==== Sys2Proof/Machine/Translate.lean ====
section
/-! DEFINITION. Address translation (R379 to R386): the five-level walk, the translation caches with what they may still
deliver, and the accessed and dirty bits. -/

namespace Sys2Proof.Machine

/-- The end of a walk: a leaf that serves the access, or the code of R383. -/
inductive WalkEnd where
  /-- the address of the leaf entry, the entry, the physical address and the page's size -/
  | leaf (addr : Nat) (entry : BitVec 64) (pa size : Nat)
  | bad (code : Nat)
  deriving DecidableEq, Repr

/-- The kinds of access (R341): 0 read, 1 write, 2 execute. -/
def accRead : Nat := 0
def accWrite : Nat := 1
def accExec : Nat := 2

/-- Whether a table may lie at an address (R383). -/
def tableOk (s : State) (k : Context) (pa : Nat) : Bool :=
  (inWindow k.group k.groupLog2 pa || paRegion pa == 1) && !linkFailed s pa

/-- Whether a context's access may reach a physical address (R384). -/
def paAllowed (k : Context) (pa : Nat) : Bool :=
  match paRegion pa with
  | 0 => inWindow k.group k.groupLog2 pa
  | 1 => true
  | 2 => true
  | 3 =>
    match pageAt pa with
    | .contextPost asid => asid == k.asid
    | .notify _ => true
    | _ => false
  | _ => false

/-- A notify page is its queue's owner's (R366, R384). -/
def notifyAllowed (s : State) (k : Context) (pa : Nat) : Bool :=
  match paRegion pa, pageAt pa with
  | 3, .notify q => queueAsid (queueOf s q).desc == k.asid
  | _, _ => true

/-- The fields of a table entry (R381). -/
def entryPa (e : BitVec 64) : Nat := (e.extractLsb' 12 40).toNat * 4096
def entryV (e : BitVec 64) : Bool := e.getLsbD 0
def entryW (e : BitVec 64) : Bool := e.getLsbD 1
def entryX (e : BitVec 64) : Bool := e.getLsbD 2
def entryLeaf (e : BitVec 64) : Bool := e.getLsbD 3

/-- Bytes that one entry of a level covers (R380). -/
def levelSize (level : Nat) : Nat := 2 ^ (12 + 9 * level)

/-- Whether an entry's reserved bits are zero at its level (R381). -/
def entryOk (level : Nat) (e : BitVec 64) : Bool :=
  e.extractLsb' 52 12 == 0#12 && e.extractLsb' 7 5 == 0#5 &&
    (!entryLeaf e || level == 1 || level == 2) &&
    (if level = 0 then true
     else if entryLeaf e then !e.getLsbD 4 && entryPa e % levelSize level == 0
     else e.extractLsb' 4 3 == 0#3 && e.extractLsb' 1 2 == 0#2)

/-- The walk from a table at a level (R380, R383). `read` gives an entry by level and address, or none when its bytes are
poisoned. -/
def walkFrom (read : Nat → Nat → Option (BitVec 64)) (ok : Nat → Bool) (va : Nat) : Nat → Nat → WalkEnd
  | level, table =>
    if !ok table then .bad 0x09
    else
      let addr := table + 8 * (va / levelSize level % 512)
      match read level addr with
      | none => .bad 0x09
      | some e =>
        if !entryV e then .bad 0x07
        else if !entryOk level e then .bad 0x09
        else
          match level with
          | 0 => .leaf addr e (entryPa e + va % 4096) 4096
          | l + 1 =>
            if entryLeaf e then .leaf addr e (entryPa e + va % levelSize (l + 1)) (levelSize (l + 1))
            else walkFrom read ok va l (entryPa e)

/-- The entry that memory holds. -/
def memEntry (s : State) (_level addr : Nat) : Option (BitVec 64) :=
  if poisoned s addr 8 then none else some (BitVec.ofNat 64 (leNat (readBytes s.mem addr 8)))

/-- Whether a leaf, as a cache holds it, serves a kind of access without a walk of memory: a write needs its D set (R383). -/
def leafDirty (access : Nat) (e : BitVec 64) : Bool := access != accWrite || e.getLsbD 6

/-- The entry that the translation cache holds, or else memory. -/
def cachedEntry (s : State) (asid level addr : Nat) : Option (BitVec 64) :=
  match s.walkCache.find? fun e => e.asid == asid && e.level == level && e.addr == addr with
  | some e => some e.value
  | none => memEntry s level addr

/-- Whether a leaf serves an access (R383). -/
def leafServes (s : State) (k : Context) (access : Nat) (e : BitVec 64) (pa : Nat) : Bool :=
  !(access == accWrite && !entryW e) && !(access == accExec && !entryX e) && paAllowed k pa && notifyAllowed s k pa

/-- The walk of an access: a leaf that serves it, or its code. -/
def walk (s : State) (k : Context) (read : Nat → Nat → Option (BitVec 64)) (va access : Nat) : WalkEnd :=
  if k.ptroot.extractLsb' 52 12 ≠ 0 ∨ k.ptroot.extractLsb' 0 12 ≠ 0 then .bad 0x09
  else
    match walkFrom read (tableOk s k) va 4 k.ptroot.toNat with
    | .bad code => .bad code
    | .leaf addr e pa size => if leafServes s k access e pa then .leaf addr e pa size else .bad 0x08

/-- The entries that a walk reads, for the translation cache. -/
def walkPath (s : State) (asid va : Nat) : Nat → Nat → List WalkEntry
  | level, table =>
    let addr := table + 8 * (va / levelSize level % 512)
    match memEntry s level addr with
    | none => []
    | some e =>
      ⟨asid, level, addr, e⟩ ::
        (match level with
         | 0 => []
         | l + 1 => if entryV e && !entryLeaf e then walkPath s asid va l (entryPa e) else [])

/-- An entry's accessed and dirty bits after an access (R383). -/
def touchedEntry (e : BitVec 64) (access : Nat) : BitVec 64 :=
  e ||| (1#64 <<< 5) ||| (if access = accWrite then 1#64 <<< 6 else 0)

/-- The physical address that a cached translation gives an access, if one of a list serves it. -/
def cachedHit (l : List TlbEntry) (asid va access : Nat) : Option Nat :=
  (l.find? fun e => e.asid == asid && e.page ≤ va / 4096 && va / 4096 < e.page + e.pages &&
      (access != accWrite || (e.w && e.d)) && (access != accExec || e.x)).map fun e => e.pa + (va - e.page * 4096)

/-- An L1 TLB entry that serves an access. -/
def tlbHit (k : Core) (asid va access : Nat) : Option Nat := cachedHit k.tlb asid va access

/-- The result of a translation: a physical address, or a code. -/
inductive Translated where
  | ok (pa : Nat)
  | bad (code : Nat)
  deriving DecidableEq, Repr

/-- What a walk through the cached entries delivers: the address, and, of a leaf that memory holds and no cache, where it stands
and the bits that the access sets there (R383). A leaf that is cached serves as it stands, a write only when its D is set. -/
def staleWalk (s : State) (k : Context) (va access : Nat) : Option (Nat × Option (Nat × BitVec 64)) :=
  match walk s k (cachedEntry s k.asid) va access with
  | .bad _ => none
  | .leaf addr e pa size =>
    if s.walkCache.any fun x => x.asid == k.asid && levelSize x.level == size && x.addr == addr then
      if leafDirty access e then some (pa, none) else none
    else some (pa, some (addr, touchedEntry e access))

/-- The translations that the caches may still deliver, besides the one of memory (R385, R386, R389), each with the update of
a leaf in memory that goes with it; `own` are those that an engine holds for its operation. -/
def staleHits (s : State) (core : Nat) (k : Context) (own : List TlbEntry) (va access : Nat) (fresh : Option Nat) :
    List (Nat × Option (Nat × BitVec 64)) :=
  let held := (cachedHit own k.asid va access).toList ++ (tlbHit (coreOf s core) k.asid va access).toList
  ((held.map fun pa => (pa, none)) ++ (staleWalk s k va access).toList).filter fun x => some x.1 != fresh

/-- Sets the accessed and dirty bits of a leaf in memory (R383). -/
def touchLeaf (s : State) (addr : Nat) (e : BitVec 64) : State :=
  if memEntry s 0 addr = some e then s else memWrite s addr (leBytes e.toNat 8)

/-- A stale translation serves an access. -/
def serveStale (s : State) (x : Nat × Option (Nat × BitVec 64)) : State × Translated :=
  if linkFailed s x.1 then (s, .bad 0x09)
  else
    match x.2 with
    | some (addr, e) => (touchLeaf s addr e, .ok x.1)
    | none => (s, .ok x.1)

/-- A cached translation of a leaf. -/
def tlbEntryOf (asid va : Nat) (e : BitVec 64) (pa size : Nat) : TlbEntry :=
  ⟨asid, va / size * (size / 4096), size / 4096, pa / size * size, entryW e, entryX e, e.getLsbD 6⟩

/-- Fills the caches after a walk that delivered (R385). -/
def fillCaches (s : State) (core : Nat) (k : Context) (va : Nat) (e : BitVec 64) (pa size : Nat) : State :=
  let path := walkPath s k.asid va 4 k.ptroot.toNat
  let keep := s.walkCache.filter fun x => !(path.any fun y => y.asid == x.asid && y.level == x.level && y.addr == x.addr)
  let s := { s with walkCache := (path ++ keep).take 65536 }
  let entry := tlbEntryOf k.asid va e pa size
  modCore s core fun c =>
    { c with tlb := (entry :: c.tlb.filter fun x => !(x.asid == entry.asid && x.page == entry.page && x.pages == entry.pages)).take 256 }

/-- The misses of an access that the partition's counters see (R452): an L1 TLB miss, and what data caches, which the model
does not hold, would have missed (log entry 3). -/
def countMisses (s : State) (core salt : Nat) (tlbMiss : Bool) : State :=
  let s := if tlbMiss then countEvent s core 13 1 else s
  countEvent (countEvent s core 6 (choose s (salt + 0x10000) 2)) core 7 (choose s (salt + 0x20000) 2)

/-- TRANSLATION of one access of a core in an address space. A walk of memory decides, and it alone raises a fault (R386);
while a cache holds another translation, a free choice says which of them serves (log entry 11). ASID 0 without a context
is the supervisor's: its addresses are physical (log entry 17). `own` are an engine's translations. -/
def translateOwn (s : State) (core asid : Nat) (own : List TlbEntry) (va : BitVec 64) (access salt : Nat) : State × Translated :=
  match contextOf s asid with
  | none => if asid = 0 then (s, .ok va.toNat) else (s, .bad 0x09)
  | some k =>
    let a := va.toNat % 2 ^ 57
    let s := countMisses s core salt (tlbHit (coreOf s core) k.asid a access).isNone
    match walk s k (memEntry s) a access with
    | .leaf addr e pa size =>
      let stale := staleHits s core k own a access (some pa)
      match (if stale = [] then none else stale[choose s salt (stale.length + 1)]?) with
      | some old => serveStale s old
      | none =>
        if linkFailed s pa then (s, .bad 0x09)
        else
          let s := touchLeaf s addr (touchedEntry e access)
          (fillCaches s core k a (touchedEntry e access) pa size, .ok pa)
    | .bad code =>
      let stale := staleHits s core k own a access none
      match (if stale = [] then none else stale[choose s salt (stale.length + 1)]?) with
      | some old => serveStale s old
      | none => (s, .bad code)

/-- The translation of an access of a lane, a fetch or the Darner. -/
def translate (s : State) (core asid : Nat) (va : BitVec 64) (access salt : Nat) : State × Translated :=
  translateOwn s core asid [] va access salt

/-- Removes the cached translations that match an invalidation (R245, R389): KIND 0 the pages that hold an address, 1 an
address space, 2 every one of a set. Engines drop theirs too. -/
def dropTranslations (s : State) (asids : Nat → Bool) (va : Option Nat) : State :=
  let hit (e : TlbEntry) : Bool :=
    asids e.asid && (match va with | none => true | some a => e.page ≤ a / 4096 && a / 4096 < e.page + e.pages)
  let hitWalk (e : WalkEntry) : Bool :=
    asids e.asid && (match va with | none => true | some a => e.addr % 4096 / 8 == a / levelSize e.level % 512)
  { s with
    walkCache := s.walkCache.filter fun e => !hitWalk e
    cores := s.cores.map fun c => (c.1, { c.2 with
      tlb := c.2.tlb.filter fun e => !hit e
      blocks := c.2.blocks.map fun b => (b.1, { b.2 with
        ops := b.2.ops.map fun o => { o with xlat := o.xlat.filter fun e => !hit e } }) }) }

end Sys2Proof.Machine
end

