-- ==== Sys2Proof/Machine/Records.lean ====
section
/-! DEFINITION. Buffer records (R35 to R38): fields, the checks of R36, element addresses by rec_addr (R9), scale pairs and
tag bytes, and the record-slot forms RECSET, RECMOD and RECGET (R202 to R204). -/

namespace Sys2Proof.Machine

/-- A record. -/
abbrev Rec := BitVec 256

def recBase (r : Rec) : Nat := (r.extractLsb' 0 57).toNat
def recSpace (r : Rec) : Nat := (r.extractLsb' 57 2).toNat
def recCache (r : Rec) : Nat := (r.extractLsb' 59 3).toNat
def recBounds (r : Rec) : Nat := (r.extractLsb' 62 2).toNat
def recExt0 (r : Rec) : Nat := (r.extractLsb' 64 24).toNat
def recExt1 (r : Rec) : Nat := (r.extractLsb' 88 20).toNat
def recExt2 (r : Rec) : Nat := (r.extractLsb' 108 20).toNat
def recStride1 (r : Rec) : Int := (r.extractLsb' 128 40).toInt
def recStride2 (r : Rec) : Int := (r.extractLsb' 168 40).toInt
def recFormat (r : Rec) : Nat := (r.extractLsb' 208 4).toNat
def recTagMode (r : Rec) : Nat := (r.extractLsb' 213 2).toNat
def recRo (r : Rec) : Bool := r.getLsbD 215
def recAux (r : Rec) : Int := (r.extractLsb' 216 40).toInt

/-- Bits of an element in memory (R33, R56). -/
def elemBits (t : Nat) : Nat :=
  match t with
  | 11 => 8 | 12 => 6 | 13 => 4 | _ => 8 * tySize t

/-- Bytes of a block of 32 BX elements (R56). -/
def bxBlockBytes (t : Nat) : Nat := 4 * elemBits t

/-- The checks of R36: none, or the code of the first that fails. -/
def recCheck (r : Rec) : Option Nat :=
  if recSpace r = 3 ∨ 5 ≤ recCache r ∨ recBounds r = 3 ∨ 2 ≤ recTagMode r ∨ 14 ≤ recFormat r ∨ r.getLsbD 212 ∨
      (recSpace r = 2 ∧ 16 ≤ recBase r) then some 0x01
  else if isBx (recFormat r) &&
      (recExt0 r % 32 != 0 || recStride1 r % (bxBlockBytes (recFormat r) : Int) != 0 ||
        recStride2 r % (bxBlockBytes (recFormat r) : Int) != 0 || recBase r % 32 != 0) then some 0x05
  else none

/-- Where BASE starts: a FIFO record's BASE is its bank's number, and its offsets start at 0 (R35, R182). -/
def recOrigin (r : Rec) : Int := if recSpace r = 2 then 0 else recBase r

/-- rec_addr (R9): the element's place in bits, or none out of bounds; under BOUNDS 2 the plane is clamped. -/
def recPlace (r : Rec) (bits i : Nat) : Option Int :=
  let e0 := recExt0 r
  let e1 := recExt1 r
  let e2 := recExt2 r
  if e0 = 0 ∨ e1 = 0 ∨ e2 = 0 then none
  else
    let i0 := i % e0
    let i1 := i / e0 % e1
    let i2 := i / (e0 * e1)
    let at2 (p : Nat) : Int := (recOrigin r + i1 * recStride1 r + p * recStride2 r) * 8 + (i0 * bits : Nat)
    if i2 < e2 then some (at2 i2) else if recBounds r = 2 then some (at2 (e2 - 1)) else none

/-- The address of the scale pair of a BX element at a place (R38). -/
def scaleAddr (r : Rec) (place : Int) : Int :=
  recOrigin r + recAux r + 2 * ((place - recOrigin r * 8) / (32 * elemBits (recFormat r) : Nat))

/-- The address of the tag byte of an element at a place (R38). -/
def tagAddr (r : Rec) (place : Int) : Int :=
  recOrigin r + recAux r + (place - recOrigin r * 8) / (elemBits (recFormat r) : Nat)

/-- The tag of an element without a shadow array (R37, R83). -/
def formatTag (t : Nat) : Tag := freshTag t

/-- The tag that a tag byte delivers (R72, R83). -/
def shadowTag (t : Nat) (b : Byte) : Tag :=
  let k := heldTag (b.setWidth 6)
  if k.toNat ≤ 53 then BitVec.ofNat 6 (min k.toNat (precision t)) else k

/-- Field selectors of RECMOD and RECGET (R203): first bit and width. -/
def recField (sel : Nat) : Option (Nat × Nat) :=
  match sel with
  | 0 => some (0, 57) | 1 => some (57, 2) | 2 => some (59, 3) | 3 => some (62, 2) | 4 => some (64, 24)
  | 5 => some (88, 20) | 6 => some (108, 20) | 7 => some (128, 40) | 8 => some (168, 40) | 9 => some (208, 4)
  | 10 => some (213, 2) | 11 => some (215, 1) | 12 => some (216, 40) | _ => none

/-- A record with one field replaced. -/
def setRecField (r : Rec) (lo n : Nat) (v : Nat) : Rec :=
  let mask : Rec := BitVec.ofNat 256 ((2 ^ n - 1) * 2 ^ lo)
  (r &&& ~~~ mask) ||| (BitVec.ofNat 256 (v % 2 ^ n * 2 ^ lo))

/-- RECMOD's new record (R203). -/
def recModified (r : Rec) (sel : Nat) (v : BitVec 64) : Option Rec :=
  if sel = 13 then some (setRecField r 0 57 (recBase r + v.toNat))
  else (recField sel).map fun f => setRecField r f.1 f.2 v.toNat

/-- RECGET's value (R204). -/
def recGot (r : Rec) (sel : Nat) : Option (BitVec 64) :=
  if 16 ≤ sel ∧ sel ≤ 19 then some (r.extractLsb' (64 * (sel - 16)) 64)
  else
    match recField sel with
    | none => none
    | some (lo, n) =>
      let f := (r.extractLsb' lo 64) &&& BitVec.ofNat 64 (2 ^ n - 1)
      some (if sel = 7 ∨ sel = 8 ∨ sel = 12 then (f.extractLsb' 0 40).signExtend 64 else f)

/-- Writes a record slot of the issuing fragment's block. -/
def setSlot (s : State) (c : Ctx) (r : BitVec 5) (v : Rec) : State :=
  modBlock s c.core c.ref.block fun b => { b with recs := cellSet 0 r.toNat v b.recs }

/-- A checked slot write (R202, R203): the write, or the fault of R36 with mask EXEC. R36 states no FLT.INFO. -/
def writeSlot (c : Ctx) (i : Instr) (s : State) (r : BitVec 5) (v : Rec) : State :=
  match recCheck v with
  | some code => fragmentFault c code (openInfo s) s
  | none => setSlot (complete c i s {}) c r v

/-- RECSET (R202). -/
def execRecset (w : BitVec 3) (d : Code) (r : BitVec 5) (s : State) : Host.Outcome State Fault Refusal :=
  issueForm (.recset w d r) s fun c =>
    let x (j : Nat) : BitVec 64 := (readS s c (d.toNat - 64 + j)).val
    writeSlot c (.recset w d r) s r (x 3 ++ x 2 ++ x 1 ++ x 0)

/-- RECMOD (R203). -/
def execRecmod (w : BitVec 3) (d : Code) (r : BitVec 5) (a : Code) (s : State) : Host.Outcome State Fault Refusal :=
  issueForm (.recmod w d r a) s fun c =>
    let t := modeType c.frag.mode
    let sel := (readCode s c t 32 a 0).1
    match recModified (c.record r) sel.toNat (readCode s c t 64 d 0).1 with
    | none => fragmentFault c 0x01 sel s
    | some v => writeSlot c (.recmod w d r a) s r v

/-- RECGET (R204). -/
def execRecget (w : BitVec 3) (d : Code) (r : BitVec 5) (a : Code) (s : State) : Host.Outcome State Fault Refusal :=
  issueForm (.recget w d r a) s fun c =>
    let sel := (readCode s c (modeType c.frag.mode) 32 a 0).1
    match recGot (c.record r) sel.toNat with
    | none => fragmentFault c 0x01 (openInfo s) s
    | some v => complete c (.recget w d r a) s (writeCode c 0 d true 3 v 62)

end Sys2Proof.Machine
end

