-- ==== Sys2Proof/Machine/Access.lean ====
section
/-! DEFINITION. One element access: the checks of R183 in their order, the bytes an element occupies with its scale pair and
tag byte, translation, the scoreboard's view of a synchronous access (R287 to R289), and reading and writing elements
(R83, R185). -/

namespace Sys2Proof.Machine

/-- What a memory form asks of its record (R181). -/
structure AccessForm where
  spaces : List Nat
  formats : Nat → Bool
  /-- a store, atomic or FATOM: step 5 and write access -/
  writes : Bool
  /-- an atomic counts as a read too (R353) -/
  reads : Bool
  /-- LDU and STU: the TYPE that replaces FORMAT (R187) -/
  typed : Option Nat := none
  /-- LDX and STX (R84) -/
  shadow : Bool := false
  /-- whether the form touches tag bytes at all (R86) -/
  tags : Bool := true
  /-- registers that D covers, by the element's size (R183, R194) -/
  span : Nat → Nat := fun size => if size = 8 then 2 else 1
  /-- D's alignment, by the element's size -/
  align : Nat → Nat := fun size => if size = 8 then 2 else 1
  /-- PREF, CWB and CINV take steps 1 to 3 only (R201) -/
  cacheOnly : Bool := false

/-- The element's type in memory. -/
def AccessForm.elem (f : AccessForm) (r : Rec) : Nat := f.typed.getD (recFormat r)

/-- Whether the access reads or writes the tag byte (R83, R84, R187): an integer load does not read it. -/
def AccessForm.usesTag (f : AccessForm) (r : Rec) : Bool :=
  f.tags && f.typed.isNone && recSpace r != 2 && (f.shadow || recTagMode r == 1) && (f.writes || !isInt (recFormat r))

/-- Where one lane's element lies: the address of its first byte, the bit place in it, the bytes it touches, and the
addresses of its scale pair and tag byte. SPACE 0 addresses are virtual, the others offsets. -/
structure Place where
  addr : Nat
  bit : Nat
  len : Nat
  scale : Option Nat
  tag : Option Nat
  deriving DecidableEq, Repr

/-- What becomes of a lane before its access. -/
inductive LanePlan where
  | fault (code : Nat) (info : BitVec 64)
  /-- out of bounds under BOUNDS 1 -/
  | outside
  | go (p : Place)
  deriving DecidableEq, Repr

/-- The FIFO binding of a record, if its number is bound (R281). -/
def boundFifo (b : Block) (r : Rec) : Option Fifo := b.fifos.find? fun f => f.desc.bank == recBase r % 16

/-- The bytes that a SPACE 1 or SPACE 2 record can reach (R183 step 3, R281). -/
def spaceLimit (b : Block) (r : Rec) : Nat :=
  if recSpace r = 1 then b.hdr.scratch else if (boundFifo b r).isSome then 65536 else 0

/-- The place of an element in bits, as addresses. A SPACE 0 address is taken mod 2^57 (R182). -/
def placeOf (f : AccessForm) (r : Rec) (bits : Int) : Int × Place :=
  let t := f.elem r
  let first := bits / 8
  let wrap (a : Int) : Nat := if recSpace r = 0 then (a % (2 ^ 57 : Nat)).toNat else a.toNat
  let bit := (bits % 8).toNat
  (first, { addr := wrap first, bit := bit, len := (bit + elemBits t + 7) / 8,
            scale := if isBx t then some (wrap (scaleAddr r bits)) else none,
            tag := if f.usesTag r then some (wrap (tagAddr r bits)) else none })

/-- The first offset beyond the limit, if any: data, scale pair, tag byte (R183 step 3, R279). -/
def beyondLimit (f : AccessForm) (r : Rec) (limit : Nat) (bits : Int) : Option Int :=
  let t := f.elem r
  let out (a : Int) : Bool := a < 0 || (limit : Int) ≤ a
  let first := bits / 8
  let last := (bits + elemBits t - 1) / 8
  if out first then some first
  else if isBx t && out last then some last
  else if isBx t && out (scaleAddr r bits) then some (scaleAddr r bits)
  else if isBx t && out (scaleAddr r bits + 1) then some (scaleAddr r bits + 1)
  else if f.usesTag r && out (tagAddr r bits) then some (tagAddr r bits)
  else none

/-- The scope at which an access is made: one wider than core on SPACE 1 or 2 is core (R189). -/
def accessScope (mode : BitVec 32) (r : Rec) : Nat :=
  if recSpace r = 0 then modeScope mode else min (modeScope mode) 2

/-- The data comparator that an access matches (R353): FLT.INFO of its fault. -/
def dataMatch (s : State) (c : Ctx) (f : AccessForm) (r : Rec) (lanes : Lanes) (p : Place) : Option (BitVec 64) :=
  if c.frag.noCompare ∨ recSpace r ≠ 0 then none
  else
    let bytes := (List.range p.len).map (p.addr + ·) ++ p.tag.toList ++ (p.scale.toList.flatMap fun a => [a, a + 1])
    match contextOf s c.blk.asid with
    | none => none
    | some k =>
      ([8, 9, 10, 11] : List Nat).findSome? fun j =>
        match k.comparators[j]? with
        | none => none
        | some m =>
          let kind := (m.extractLsb' 65 2).toNat
          let lo := (m.extractLsb' 0 57).toNat
          let hi := lo + 2 ^ (m.extractLsb' 67 5).toNat
          if m.getLsbD 64 && m.extractLsb' 96 32 &&& lanes != 0 && ((f.reads && kind % 2 == 1) || (f.writes && kind / 2 == 1)) then
            (bytes.find? fun a => lo ≤ a && a < hi).map fun a =>
              BitVec.ofNat 64 (2 * 2 ^ 62 + j * 2 ^ 58 + a % 2 ^ 57)
          else none

/-- Steps 1 to 6 of R183, then the data comparators (R353), for an access that some lanes make at element `i`: one lane,
or every lane of ACTIVE in a uniform form. -/
def planLane (s : State) (c : Ctx) (f : AccessForm) (r : Rec) (d : Code) (lanes : Lanes) (i : Nat) : LanePlan :=
  let t := f.elem r
  let size := elemBits t / 8
  let info := BitVec.ofNat 64 i
  if !f.spaces.contains (recSpace r) || !f.formats (recFormat r) then .fault 0x05 info
  else if d.toNat < 64 ∧ d.toNat % f.align size ≠ 0 then .fault 0x01 info
  else if d.toNat < 64 ∧ windowSize c.blk.hdr < d.toNat + f.span size then .fault 0x01 info
  else
    match recPlace r (elemBits t) i with
    | none =>
      if recBounds r = 1 then .outside
      else .fault 0x05 info
    | some bits =>
      let (first, p) := placeOf f r bits
      match (if recSpace r = 0 then none else beyondLimit f r (spaceLimit c.blk r) bits) with
      | some off => .fault 0x06 (BitVec.ofInt 64 off)
      | none =>
        if f.cacheOnly then .go p
        else if !isBx t && first % (size : Int) != 0 then .fault 0x04 (BitVec.ofNat 64 p.addr)
        else if f.writes && recRo r then .fault 0x08 (BitVec.ofNat 64 p.addr)
        else if recSpace r = 0 ∧ modeScope c.frag.mode = 3 ∧ c.blk.sets.length ≤ modeSetSlot c.frag.mode then
          .fault 0x0F (BitVec.ofNat 64 (modeSetSlot c.frag.mode))
        else
          match dataMatch s c f r lanes p with
          | some x => .fault 0x13 x
          | none => .go p

/-! ### Translation of an access (step 7) -/

/-- A lane's element in physical bytes, SPACE 0 or core SRAM. -/
structure Piece where
  data : List Nat
  bit : Nat
  scale : List Nat
  tag : List Nat
  deriving DecidableEq, Repr

/-- The physical bytes of a virtual range, or the code and address of the byte that fails; `own` are an engine's translations. -/
def translateBytesOwn (s : State) (core asid : Nat) (own : List TlbEntry) (access salt va : Nat) :
    Nat → State × Except (Nat × Nat) (List Nat)
  | 0 => (s, .ok [])
  | n + 1 =>
    match translateOwn s core asid own (BitVec.ofNat 64 (va % 2 ^ 57)) access salt with
    | (s, .bad code) => (s, .error (code, va % 2 ^ 57))
    | (s, .ok pa) =>
      let here := min (n + 1) (4096 - va % 4096)
      if here = n + 1 then (s, .ok ((List.range (n + 1)).map (pa + ·)))
      else
        match translateBytesOwn s core asid own access salt (va + 1) n with
        | (s, .ok l) => (s, .ok (pa :: l))
        | e => e

/-- The physical bytes of a virtual range for a lane's access. -/
def translateBytes (s : State) (core asid : Nat) (access salt va n : Nat) : State × Except (Nat × Nat) (List Nat) :=
  translateBytesOwn s core asid [] access salt va n

/-- Step 7 of R183 for one lane: the element, its scale pair, its tag byte. -/
def locate (s : State) (core asid : Nat) (access salt : Nat) (p : Place) : State × Except (Nat × Nat) Piece :=
  match translateBytes s core asid access salt p.addr p.len with
  | (s, .error e) => (s, .error e)
  | (s, .ok data) =>
    match (match p.scale with | some a => translateBytes s core asid access salt a 2 | none => (s, .ok [])) with
    | (s, .error e) => (s, .error e)
    | (s, .ok scale) =>
      match (match p.tag with | some a => translateBytes s core asid access salt a 1 | none => (s, .ok [])) with
      | (s, .error e) => (s, .error e)
      | (s, .ok tag) => (s, .ok ⟨data, p.bit, scale, tag⟩)

/-- The physical SRAM byte of offset 0 of a SPACE 1 or SPACE 2 record (R279, R281). -/
def sramBase (b : Block) (r : Rec) : Nat :=
  if recSpace r = 1 then b.pbase
  else match boundFifo b r with
    | some f => f.bank * 65536
    | none => 0

/-- The bytes of an element in core SRAM. -/
def sramPiece (b : Block) (r : Rec) (p : Place) : Piece :=
  let o := sramBase b r
  ⟨(List.range p.len).map fun j => o + p.addr + j, p.bit,
   match p.scale with | some a => [o + a, o + a + 1] | none => [],
   match p.tag with | some a => [o + a] | none => []⟩

/-! ### Reading and writing elements -/

/-- Where an access goes: physical memory as an owner sees it, or core SRAM. -/
inductive Store where
  | phys (o : Owner)
  | sram (core : Nat)
  deriving DecidableEq, Repr

/-- One byte. -/
def Store.get (x : Store) (s : State) (a : Nat) : Byte :=
  match x with
  | .phys o => (physRead s o a 1).headD 0
  | .sram c => (sramRead s c a 1).headD 0

/-- Writes one byte run. -/
def Store.put (x : Store) (s : State) (a : Nat) (bs : List Byte) : State :=
  match x with
  | .phys o => physWrite s o a bs
  | .sram c => sramWrite s c a bs

/-- Whether a byte is poisoned; a block's accesses go through its core's L1 lines (R422), and a resilient one sees its own
write of a whole sector, although the sector is poisoned until the commit (R430). -/
def Store.badByte (x : Store) (s : State) (a : Nat) : Bool :=
  match x with
  | .phys o =>
    (Machine.poisoned s a 1 && !(resilientOwner s o).any fun k => k.ckpt.cleared.contains (a / 32)) ||
      (match o with | some (c, _) => (coreOf s c).l1Poison.any fun k => rangesMeet a 1 (k * 4) 4 | none => false)
  | .sram c => sramPoisoned s c a 1

/-- Whether any of some bytes is poisoned. -/
def Store.poisoned (x : Store) (s : State) (l : List Nat) : Bool := l.any (x.badByte s)

/-- Whether a list of bytes covers unit k of `n` bytes. -/
def coversUnit (l : List Nat) (n k : Nat) : Bool := (List.range n).all fun j => l.contains (k * n + j)

/-- The poison that the write of one instruction, or of one operation, clears (R423): of the sectors and words that its bytes
cover entirely; a resilient block's write clears that of memory at its commit (log entry 114). -/
def Store.cover (x : Store) (s : State) (l : List Nat) : State :=
  match x with
  | .phys o =>
    let s := match o with
      | some (c, _) =>
        if (coreOf s c).l1Poison.isEmpty then s
        else modCore s c fun k => { k with l1Poison := k.l1Poison.filter fun u => !coversUnit l 4 u }
      | none => s
    if s.poison.isEmpty then s
    else
      match o, resilientOwner s o with
      | some (c, b), some _ =>
        modBlock s c b fun k =>
          let out := s.poison.filter fun u => coversUnit l 32 u && !k.ckpt.cleared.contains u
          { k with ckpt := { k.ckpt with cleared := k.ckpt.cleared ++ out } }
      | _, _ => { s with poison := s.poison.filter fun u => !coversUnit l 32 u }
  | .sram c =>
    if (coreOf s c).sramPoison.isEmpty then s
    else modCore s c fun k => { k with sramPoison := k.sramPoison.filter fun u => !coversUnit l 4 u }

/-- The bytes that an access touches retire the exact sums they meet (R199). -/
def Store.touch (x : Store) (s : State) (l : List Nat) : State :=
  match x with
  | .phys _ => l.foldl (fun s a => retireRange s a 1) s
  | .sram _ => s

/-- All bytes of a piece. -/
def Piece.bytes (p : Piece) : List Nat := p.data ++ p.scale ++ p.tag

/-- Where the poison that an element's bytes hold is found (R85, R183): at the element's address, its scale pair's or its tag
byte's. -/
def Store.poisonAt (x : Store) (s : State) (p : Place) (l : Piece) : Option Nat :=
  if x.poisoned s l.data then some p.addr
  else if x.poisoned s l.scale then p.scale
  else if x.poisoned s l.tag then p.tag
  else none

/-- Marks the bytes of a read-modify-write of a resilient block. -/
def Store.lock (x : Store) (s : State) (l : List Nat) : State :=
  match x with
  | .phys o => lockHeld s o l
  | .sram _ => s

/-- The bytes of a list of addresses, as a number. -/
def Store.nat (x : Store) (s : State) (l : List Nat) : Nat := leNat (l.map (x.get s))

/-- Writes bytes to a list of addresses: one run where they follow each other. -/
def Store.putList (x : Store) (s : State) (l : List Nat) (bs : List Byte) : State :=
  match l with
  | [] => s
  | a :: _ =>
    if l = (List.range l.length).map (a + ·) then x.put s a bs
    else (l.zip bs).foldl (fun s e => x.put s e.1 [e.2]) s

/-- An element's value: its bits, with E0 and E1 above a BX element (R59, R185). -/
def readElem (x : Store) (s : State) (t : Nat) (p : Piece) : BitVec 64 :=
  if isBx t then
    let el := x.nat s p.data / 2 ^ p.bit % 2 ^ elemBits t
    BitVec.ofNat 64 (el + 256 * x.nat s p.scale)
  else BitVec.ofNat 64 (x.nat s p.data)

/-- An element's tag (R83). `shadow` says that the tag byte is read. -/
def readTag (x : Store) (s : State) (t : Nat) (p : Piece) : Tag :=
  match p.tag with
  | a :: _ => shadowTag t (x.get s a)
  | [] => formatTag t

/-- Writes an element: a BX element changes its own bits of the bytes it shares, and its block's scale pair (R185). -/
def writeElem (x : Store) (s : State) (t : Nat) (p : Piece) (v : BitVec 64) (tag : Tag) : State :=
  let s :=
    if isBx t then
      let n := elemBits t
      let old := x.nat s p.data
      let el := v.toNat % 2 ^ n
      let new := old - old / 2 ^ p.bit % 2 ^ n * 2 ^ p.bit + el * 2 ^ p.bit
      let s := x.putList s p.data (leBytes new p.data.length)
      let s := if n = 8 then s else x.lock s p.data
      x.putList s p.scale (leBytes (v.toNat / 256) 2)
    else x.putList s p.data (leBytes v.toNat p.data.length)
  match p.tag with
  | a :: _ => x.put s a [(if isInt t then (62 : Tag) else tag).setWidth 8]
  | [] => s

/-! ### The scoreboard of a synchronous access (R287 to R289) -/

/-- The 32-byte granules from the least to the greatest byte that some places touch. -/
def hullOf (base : Nat) (l : List Place) : Option (Nat × Nat) :=
  let bytes := l.flatMap fun p =>
    [p.addr, p.addr + p.len - 1] ++ (match p.scale with | some a => [a, a + 1] | none => []) ++ p.tag.toList
  match bytes with
  | [] => none
  | b :: r => some ((base + r.foldl min b) / 32, (base + r.foldl max b) / 32 + 1)

/-- Whether an entry conflicts with a hull (R288). `fifo` is the role in a FIFO bank. -/
def SbEntry.blocks (e : SbEntry) (lo hi : Nat) (write : Bool) (fifo : Option Bool) : Bool :=
  rangesMeet lo (hi - lo) e.lo (e.hi - e.lo) &&
    (match fifo with
     | none => write || e.write
     | some role => e.fifo == some role)

/-- Whether a synchronous access waits for an entry below a bound, or, before its check, for one made in an earlier
cycle. -/
def scoreboardBlocks (k : Core) (cycle : Nat) (lo hi : Nat) (write : Bool) (fifo : Option Bool) (bound : Option Nat) : Bool :=
  k.sb.any fun e => e.blocks lo hi write fifo &&
    (match bound with | some n => e.seq < n | none => e.made < cycle)

/-- The number below which the entries that a check sees lie: those made before its cycle (R288). -/
def sbBoundAt (k : Core) (cycle : Nat) : Nat :=
  (k.sb.filter fun e => cycle ≤ e.made).foldl (fun n e => min n e.seq) k.sbSeq

/-- The hull of an access through a SPACE 1 or SPACE 2 record, with its role in a bank (R287). -/
def accessHull (b : Block) (r : Rec) (write : Bool) (l : List Place) : Option (Nat × Nat × Option Bool) :=
  if recSpace r = 0 ∨ l = [] then none
  else
    let base := sramBase b r
    if recSpace r = 2 then some (base / 32, base / 32 + 2048, some write)
    else (hullOf base l).map fun h => (h.1, h.2, none)

/-- A wait of an access that has passed its scoreboard check: the check, once made, is not made again over later entries (R288,
R289). -/
def waitChecked (s : State) (c : Ctx) (w : Wait) : State :=
  let s := waitEvent s c w
  match w with
  | .scoreboard _ _ _ _ _ => s
  | _ => withFrag s c fun f =>
      { f with sbBound := if f.sbBound.isSome then f.sbBound else some (sbBoundAt (coreOf s c.core) s.cycle) }

/-- The wait of an access through a SPACE 1 or SPACE 2 record on the scoreboard, if it must wait (R288, R289). -/
def scoreboardWait (s : State) (c : Ctx) (r : Rec) (write : Bool) (l : List Place) : Option Wait :=
  match accessHull c.blk r write l with
  | none => none
  | some (lo, hi, role) =>
    let k := coreOf s c.core
    if scoreboardBlocks k s.cycle lo hi write role c.frag.sbBound then
      some (.scoreboard lo hi write role (c.frag.sbBound.getD (sbBoundAt k s.cycle)))
    else none

/-! ### The wave's posted stores and store-fault records (R192, R349) -/

/-- The virtual bytes of a posted store's lane. -/
def StoreLane.meets (l : StoreLane) (size a n : Nat) : Bool :=
  rangesMeet (l.va.toNat % 2 ^ 57) size a n ||
    (match l.scaleVa with | some v => rangesMeet (v.toNat % 2 ^ 57) 2 a n | none => false) ||
    (match l.tagVa with | some v => rangesMeet (v.toNat % 2 ^ 57) 1 a n | none => false)

/-- The store-fault records of a wave that are not resolved, those that a pop has taken out among them (R251, R349). -/
def unresolved (k : Core) (block wave : Nat) : List StoreRecord :=
  (k.records ++ k.popped).filter fun x => x.block == block && x.wave == wave

/-- The wave's store-fault records. -/
def waveRecords (s : State) (c : Ctx) : List StoreRecord := unresolved (coreOf s c.core) c.ref.block c.ref.wave

/-- The virtual ranges of a place. -/
def Place.ranges (p : Place) : List (Nat × Nat) :=
  [(p.addr, p.len)] ++ (match p.scale with | some a => [(a, 2)] | none => []) ++ p.tag.toList.map fun a => (a, 1)

/-- The bytes of a posted store's lane. -/
def StoreLane.place (op : StoreOp) (l : StoreLane) : Place :=
  let n (a : BitVec 64) : Nat := a.toNat % 2 ^ 57
  { addr := n l.va, bit := l.bit, len := if isBx op.fmt then (l.bit + elemBits op.fmt + 7) / 8 else op.size,
    scale := l.scaleVa.map n, tag := l.tagVa.map n }

/-- The virtual ranges of a posted store. -/
def StoreOp.ranges (o : StoreOp) : List (Nat × Nat) := o.lanes.flatMap fun l => (l.place o).ranges

/-- Whether a wave's unaccepted posted stores or its unresolved records share a byte with some ranges (R192, R349). -/
def heldByStores (w : Wave) (records : List StoreRecord) (ranges : List (Nat × Nat)) : Bool :=
  let ops := w.posted ++ records.map (·.op)
  ranges.any fun e => ops.any fun o => o.lanes.any fun l => l.meets o.size e.1 e.2

/-- The ranges of a list that reach some physical bytes, as the pages are mapped now: `asid`'s pages, for reads. -/
def rangesAt (s : State) (core asid : Nat) (ranges : List (Nat × Nat)) (bytes : List Nat) : List (Nat × Nat) :=
  let pages := ((ranges.map fun e => e.1 / 4096).eraseDups).filterMap fun p =>
    match (translate s core asid (BitVec.ofNat 64 (p * 4096)) accRead 0x7F00).2 with
    | .ok pa => some (p, pa)
    | .bad _ => none
  ranges.filter fun e =>
    match pages.find? fun m => m.1 == e.1 / 4096 with
    | some (_, pa) => bytes.any fun b => rangesMeet (pa + e.1 % 4096) e.2 b 1
    | none => false

/-- The virtual ranges through which the wave's unaccepted stores and unresolved records reach some physical bytes (R192,
R327). -/
def aliasedStores (s : State) (c : Ctx) (bytes : List Nat) : List (Nat × Nat) :=
  match c.wave.posted ++ (waveRecords s c).map (·.op) with
  | [] => []
  | l => rangesAt s c.core c.blk.asid (l.flatMap StoreOp.ranges) bytes

/-! ### Barriers (R215, R216, R327) -/

/-- Whether a store that a block's ordinary waves issued below a number is not yet performed. -/
def Core.storesBelow (k : Core) (h : Nat) (b : Block) (bound : Nat) : Bool :=
  b.waves.any fun w => !w.handler &&
    ((w.posted.any fun o => o.ident < bound) || (unresolved k h w.idx).any fun r => r.op.ident < bound)

/-- Whether a block's launch has a member of a set whose stores below a number are not all performed. -/
def setStoresBelow (s : State) (b : Block) (num bound : Nat) : Bool :=
  (s.cores.any fun k => k.2.blocks.any fun e =>
    e.2.launch == b.launch && (e.2.sets.any fun m => m.num == num) && k.2.storesBelow e.1 e.2 bound) ||
    s.images.any fun x => x.launch == b.launch && (x.sets.any fun e => e.num == num) && x.stores.any fun o => o.ident < bound

/-- Whether a block of a resilient launch awaits, behind its SBARs on a set, the commit of what a member holds that it stored
before them, or a member that a rollback has taken back behind them (R216, R430; log entry 115). -/
def setHeld (s : State) (b : Block) (m : SetMember) : Bool :=
  b.hdr.resilient &&
    ((s.cores.any fun k => k.2.blocks.any fun e => e.2.launch == b.launch && e.2.lin != b.lin &&
        e.2.sets.any fun y => y.num == m.num &&
          (decide (y.sbars < m.sbars) || m.commits.any fun g => g.1 == e.2.lin && decide (e.2.ckpt.generation ≤ g.2))) ||
      s.images.any fun x => x.launch == b.launch && x.lin != b.lin &&
        x.sets.any fun y => y.num == m.num && decide (y.sbars < m.sbars))

/-- Whether what a block's barriers order before an access of an ordinary wave with number `n` is performed: the stores of the
block's ordinary waves before a BAR, and those of a set's member blocks before an SBAR on it. -/
def behindBarriers (s : State) (core h : Nat) (b : Block) (n : Nat) : Bool :=
  (b.barBounds.all fun m => decide (n < m) || !(coreOf s core).storesBelow h b m) &&
    b.sets.all fun m => (m.bounds.all fun k => decide (n < k) || !setStoresBelow s b m.num k) &&
      (decide (n < m.last) || !setHeld s b m)

/-- Whether the accesses before the barriers that a wave has passed are performed. Handler waves take no part. -/
def barrierSettled (s : State) (core h : Nat) (w : Wave) : Bool :=
  w.handler || (blockOf s core h).all fun b => behindBarriers s core h b s.nextIdent

/-- Whether the wave's earlier stores are all performed, and what the barriers order before its accesses. -/
def storesSettled (s : State) (c : Ctx) : Bool :=
  c.wave.posted.isEmpty && (waveRecords s c).isEmpty && barrierSettled s c.core c.ref.block c.wave

/-- The wait for some physical bytes: a block that holds them commits first, and so do the blocks that hold lines when an access
is over their limit (R430). -/
def waitForBytes (s : State) (c : Ctx) (w : Wait) : State :=
  let s := waitChecked s c w
  match w with
  | .locked rmw l => freeLocks s (some (c.core, c.ref.block)) rmw l
  | .heldLimit _ => freeHeld s c.core
  | _ => s

/-- Whether ORD releases. -/
def Ord.releases : Ord → Bool
  | .rel => true
  | .ar => true
  | _ => false

/-- Whether an access must wait for the wave's earlier stores: a release, or one that a FENCE holds back (R190, R337). -/
def orderHolds (s : State) (c : Ctx) (q : Ord) (writes : Bool) : Bool :=
  !storesSettled s c && (Ord.releases q || (writes && c.wave.fenceStores) || c.wave.fenceLoads)

end Sys2Proof.Machine
end

