-- ==== Sys2Proof/Machine/MemInstr.lean ====
section
/-! DEFINITION. The loads and stores, the cache forms, FENCE and DRAINS (R180 to R193, R201). -/

namespace Sys2Proof.Machine

/-! ### The lanes of one access -/

/-- The fault that a lane's access meets. -/
structure LaneFault where
  code : Nat
  info : BitVec 64
  access : Nat := 0
  walk : Bool := false
  /-- the physical byte whose poison the lane met (R427) -/
  pa : Nat := 0
  deriving DecidableEq, Repr

/-- The lanes of an access after steps 1 to 6 of R183: those that fault, those out of bounds under BOUNDS 1, and those
that go on. A uniform access stands in the list as lane 0. -/
structure AccessPlan where
  bad : List (Nat × LaneFault) := []
  outside : List Nat := []
  go : List (Nat × Place) := []

/-- The access kind of a form (R341). -/
def AccessForm.kind (f : AccessForm) : Nat := if f.writes then accWrite else accRead

/-- The lanes that an access is made for: the lanes of ACTIVE, or one for a uniform form. -/
def accessLanes (uniform : Bool) (act : Lanes) : List Nat := if uniform then (if act = 0 then [] else [0]) else lanesOf act

/-- Steps 1 to 6 of R183 for every lane of ACTIVE. -/
def planAccess (s : State) (c : Ctx) (f : AccessForm) (r : Rec) (d : Code) (uniform : Bool) (act : Lanes)
    (index : Nat → Nat) : AccessPlan :=
  (accessLanes uniform act).foldl (fun p lane =>
    match planLane s c f r d (if uniform then act else laneBit lane) (index lane) with
    | .fault code info =>
      { p with bad := p.bad ++ [(lane, { code := code, info := info, access := if 7 ≤ code ∧ code ≤ 9 then f.kind else 0 })] }
    | .outside => { p with outside := p.outside ++ [lane] }
    | .go x => { p with go := p.go ++ [(lane, x)] }) {}

/-- Where an access goes. -/
def accessStore (c : Ctx) (r : Rec) : Store :=
  if recSpace r = 0 then .phys (some (c.core, c.ref.block)) else .sram c.core

/-- An access with its bytes found: the state after the translations, the lanes that fault, and the pieces. -/
structure Located where
  state : State
  bad : List (Nat × LaneFault)
  pieces : List (Nat × Piece)

/-- Step 7 of R183 for every lane that goes on, and step 8, the poison in the data read. -/
def locateAll (s : State) (c : Ctx) (f : AccessForm) (r : Rec) (p : AccessPlan) : Located :=
  p.go.foldl (fun l e =>
    let (s, res) :=
      if recSpace r = 0 then locate l.state c.core c.blk.asid f.kind e.1 e.2
      else (l.state, .ok (sramPiece c.blk r e.2))
    match res with
    | .error (code, va) =>
      { state := s, bad := l.bad ++ [(e.1, { code := code, info := BitVec.ofNat 64 va, access := f.kind, walk := true })],
        pieces := l.pieces }
    | .ok x =>
      match if f.reads then (accessStore c r).poisonAt s e.2 x else none with
      | some a =>
        { state := s, pieces := l.pieces
          bad := l.bad ++ [(e.1, { code := 0x17, info := BitVec.ofNat 64 a
                                   pa := (x.bytes.find? ((accessStore c r).badByte s)).getD 0 })] }
      | none => { state := s, bad := l.bad, pieces := l.pieces ++ [(e.1, x)] }) ⟨s, p.bad, []⟩

/-- The lowest faulting lane's fault, and the faulting lanes (R183). -/
def accessFault (act : Lanes) (uniform : Bool) (bad : List (Nat × LaneFault)) : Option FaultInfo :=
  match bad with
  | [] => none
  | b :: r =>
    let low := r.foldl (fun m e => if e.1 < m.1 then e else m) b
    let lanes : Lanes := if uniform then act else bad.foldl (fun m e => m ||| laneBit e.1) 0
    some { code := low.2.code, lanes := lanes, info := low.2.info, access := low.2.access, walk := low.2.walk }

/-- The record of poison that an access has met (R427): one event of the core for the lowest of its lanes (log entry 62). -/
def notePoison (c : Ctx) (bad : List (Nat × LaneFault)) (s : State) : State :=
  match bad.find? fun e => e.2.code == 0x17 with
  | none => s
  | some e => poisonEvent s c.core c.blk.asid e.2.pa

/-- Ends an access: a fault detaches its lanes, and `after` is what the others have done. With no Hamper entry free nothing of it
takes effect (R342). -/
def finishAccess (c : Ctx) (act : Lanes) (uniform : Bool) (bad : List (Nat × LaneFault)) (before after : State) : State :=
  match accessFault act uniform bad with
  | none => after
  | some fi =>
    if hamperRoom before c then notePoison c bad (takeFault c fi before after) else takeFault c fi before after

/-- What an access must wait for before any lane makes it (R192, R289, R337, R349). `ranges` are its virtual
bytes. -/
def accessWait (s : State) (c : Ctx) (f : AccessForm) (r : Rec) (q : Ord) (p : AccessPlan) : Option Wait :=
  let places := p.go.map (·.2)
  let ranges := places.flatMap Place.ranges
  match scoreboardWait s c r f.writes places with
  | some w => some w
  | none =>
    if places = [] then none
    else if !barrierSettled s c.core c.ref.block c.wave then some .barrier
    else if recSpace r = 0 && heldByStores c.wave (waveRecords s c) ranges then some (.overlap ranges)
    else if orderHolds s c q f.writes then some .settled
    else none

/-- Whether an access is irrevocable for a resilient block (R430): it reaches regions 1 to 3, it is an atomic of set scope or
wider, or a release of device scope or wider. -/
def irrevocable (c : Ctx) (f : AccessForm) (r : Rec) (q : Ord) (pieces : List (Nat × Piece)) : Bool :=
  recSpace r == 0 && ((pieces.any fun e => e.2.bytes.any fun a => paRegion a != 0) ||
    (f.reads && f.writes && 3 ≤ modeScope c.frag.mode) || (Ord.releases q && 4 ≤ modeScope c.frag.mode))

/-- The wait of a SPACE 0 access for its bytes in physical memory: a store of the wave that reaches them through another virtual
address (R192); a byte that another resilient block holds (R324, R335); or the limits of held lines (R430), for a write. -/
def physWait (s : State) (c : Ctx) (writes rmw : Bool) (bytes : List Nat) : Option Wait :=
  match aliasedStores s c bytes with
  | a :: t => some (.overlap (a :: t))
  | [] => if writes && lockedBytes s (some (c.core, c.ref.block)) rmw bytes then some (.locked rmw bytes) else none

/-- The wait of an access for its bytes, of any SPACE. -/
def bytesWait (s : State) (c : Ctx) (f : AccessForm) (r : Rec) (l : List (Nat × Piece)) : Option Wait :=
  let bytes := l.flatMap fun e => e.2.bytes
  if recSpace r ≠ 0 then none
  else
    match physWait s c f.writes (f.writes && (f.reads || isBx (f.elem r))) bytes with
    | some w => some w
    | none =>
      if f.writes && heldOver s c.core c.ref.block (c.blk.newLines bytes) then some (.heldLimit (c.blk.newLines bytes)) else none

/-- THE SHARED COURSE of an access that is performed when it issues: an empty ACTIVE has no effect (R184); the checks;
the waits; the translations; then `body` on the lanes that have passed, and the fault of those that have not. `body`
gives the state with the memory effects and the state after completion. -/
def performAccess (i : Instr) (s : State) (c : Ctx) (f : AccessForm) (r : Rec) (d : Code) (q : Ord) (uniform : Bool)
    (index : Nat → Nat) (body : State → List (Nat × Piece) → List Nat → State) : State :=
  let act := issueActive s c
  if act = 0 then complete c i s {}
  else
    let p := planAccess s c f r d uniform act index
    match accessWait s c f r q p with
    | some w => waitChecked s c w
    | none =>
      let l := locateAll s c f r p
      match bytesWait s c f r l.pieces with
      | some w => waitForBytes s c w
      | none =>
        let after := body l.state l.pieces p.outside
        finishAccess c act uniform l.bad s
          (if irrevocable c f r q l.pieces then forceCheckpoint after c.core c.ref.block else after)

/-! ### Loads -/

/-- A completion whose results arrive later (R104, R191): they are the values read now. `miss` is the cycle in which an L1
miss is known, if there is one (R268). -/
def completeAfter (c : Ctx) (i : Instr) (s : State) (x : HistStep) (miss : Option Nat)
    (link : List (Lanes × Nat × BitVec 64)) : State :=
  completeWith c i s {} (nextPc c i) (if x.vs = [] ∧ x.ss = [] then none else
    some { vs := x.vs, ss := x.ss, ready := s.cycle + 1 + choose s 0xFFFF 512, miss := miss, pc := c.frag.pc, link := link })

/-- The completion of a form whose result no cache delivers. -/
def completeLater (c : Ctx) (i : Instr) (s : State) (x : HistStep) : State := completeAfter c i s x none []

/-- The completion of a load: one of SPACE 0 may miss L1, which is known 4 cycles after it issues (R268). `link` is what of its
data crosses a CXL port. -/
def completeLoad (c : Ctx) (i : Instr) (s : State) (r : Rec) (x : HistStep) (link : List (Lanes × Nat × BitVec 64) := []) : State :=
  completeAfter c i s x (if recSpace r = 0 ∧ choose s 0xFFFD 2 = 1 then some (s.cycle + 4) else none) link

/-- What of a load's data crosses a CXL port (R413): the lanes that await it, the port and the lane's address. -/
def linkLanes (c : Ctx) (uniform : Bool) (places : List (Nat × Place)) (pieces : List (Nat × Piece)) :
    List (Lanes × Nat × BitVec 64) :=
  pieces.filterMap fun e =>
    (e.2.bytes.find? fun a => paRegion a == 1).map fun a =>
      (if uniform then c.frag.members else laneBit e.1, Config.cxlPort (a / 4096) % 2,
       BitVec.ofNat 64 ((places.find? fun x => x.1 == e.1).elim 0 (·.2.addr)))

/-- The record index of a register form: opnd(A)[31:0], in each lane (R182). -/
def recIndex (s : State) (c : Ctx) (a : Code) (lane : Nat) : Nat :=
  ((readCode s c (modeType c.frag.mode) 32 a lane).1.extractLsb' 0 32).toNat

/-- A load of one element in each lane, or once (R185): `elem` is the element's type and `tag` the tag of a value read. -/
def loadForm (i : Instr) (f : AccessForm) (d : Code) (r : BitVec 5) (q : Ord) (uniform : Bool) (s : State)
    (index : State → Ctx → Nat → Nat) : Host.Outcome State Fault Refusal :=
  issueForm i s fun c =>
    let rc := c.record r
    let t := f.elem rc
    let zeroTag : Tag := if f.typed.isSome then 62 else formatTag t
    performAccess i s c f rc d q uniform (index s c) fun s' pieces outside =>
      let x := accessStore c rc
      let s' := pieces.foldl (fun s e => x.touch s e.2.bytes) s'
      let tagOf (p : Piece) : Tag := if f.typed.isSome then 62 else readTag x s' t p
      let ws := pieces.foldl (fun (w : HistStep) e =>
        w.append (writeCode c e.1 d (is64 t) t (readElem x s' t e.2) (tagOf e.2))) {}
      let ws := outside.foldl (fun (w : HistStep) lane => w.append (writeCode c lane d (is64 t) t 0 zeroTag)) ws
      let places := (planAccess s c f rc d uniform (issueActive s c) (index s c)).go
      completeLoad c i s' rc ws (if recSpace rc = 0 then linkLanes c uniform places pieces else [])

/-- LD and LDS accept every SPACE and FORMAT (R181). -/
def loadAccess : AccessForm := { spaces := [0, 1, 2], formats := fun _ => true, writes := false, reads := true }

/-- LDX reads the shadow array whatever TAGMODE holds (R188). -/
def loadShadow : AccessForm := { loadAccess with spaces := [0, 1], shadow := true }

/-- LDU reads elements of TYPE (R187). -/
def loadTyped (t : Nat) : AccessForm := { loadAccess with typed := some t, tags := false }

/-- LD_M (R185). -/
def execLdM (w : BitVec 3) (d : Code) (r : BitVec 5) (q : Ord) (a : Code) (s : State) : Host.Outcome State Fault Refusal :=
  loadForm (.ldM w d r q a) loadAccess d r q false s fun s c => recIndex s c a
/-- LD_MI (R185). -/
def execLdMi (w : BitVec 3) (d : Code) (r : BitVec 5) (q : Ord) (i : BitVec 7) (s : State) :
    Host.Outcome State Fault Refusal :=
  loadForm (.ldMi w d r q i) loadAccess d r q false s fun _ _ _ => i.toNat
/-- LDS_M (R185). -/
def execLdsM (w : BitVec 3) (d : Code) (r : BitVec 5) (q : Ord) (a : Code) (s : State) :
    Host.Outcome State Fault Refusal :=
  loadForm (.ldsM w d r q a) loadAccess d r q true s fun s c => recIndex s c a
/-- LDS_MI (R185). -/
def execLdsMi (w : BitVec 3) (d : Code) (r : BitVec 5) (q : Ord) (i : BitVec 7) (s : State) :
    Host.Outcome State Fault Refusal :=
  loadForm (.ldsMi w d r q i) loadAccess d r q true s fun _ _ _ => i.toNat
/-- LDX (R188). -/
def execLdx (w : BitVec 3) (d : Code) (r : BitVec 5) (q : Ord) (a : Code) (s : State) : Host.Outcome State Fault Refusal :=
  loadForm (.ldx w d r q a) loadShadow d r q false s fun s c => recIndex s c a
/-- LDU (R187): its element type is MODE.TYPE of the issuing fragment. -/
def execLdu (w : BitVec 3) (d : Code) (r : BitVec 5) (q : Ord) (a : Code) (s : State) : Host.Outcome State Fault Refusal :=
  let t := match ctxOf s with | some c => modeType c.frag.mode | none => 0
  loadForm (.ldu w d r q a) (loadTyped t) d r q false s fun s c => recIndex s c a

/-! ### Stores -/

/-- ORD of a form as R251's SFLAGS hold it. -/
def ordCode : Ord → Nat
  | .plain => 0 | .acq => 1 | .rel => 2 | .ar => 3

/-- The value and tag that a store takes from D in a lane (R185): an element of 64 bits is a pair or a whole s-register. -/
def storeValue (s : State) (c : Ctx) (d : Code) (t lane : Nat) : BitVec 64 × Tag :=
  readCode s c (modeType c.frag.mode) (if is64 t then 64 else 32) d lane

/-- The lanes of a posted store (R192, R251). -/
def storeLanes (s : State) (c : Ctx) (d : Code) (t : Nat) (go : List (Nat × Place)) : List StoreLane :=
  go.map fun e =>
    let v := storeValue s c d t e.1
    ⟨e.1, BitVec.ofNat 64 e.2.addr, v.1, v.2, e.2.tag.map (BitVec.ofNat 64), e.2.bit, e.2.scale.map (BitVec.ofNat 64)⟩

/-- Bytes of data that a store of an element touches at most, as SIZE of R251: a BX element's bytes. -/
def storeSize (t : Nat) (go : List (Nat × Place)) : Nat :=
  if isBx t then go.foldl (fun n e => max n e.2.len) 1 else tySize t

/-- The lines that a posted store may add to those that its resilient block holds: those of its virtual bytes. -/
def postedLines (p : AccessPlan) : Nat :=
  (linesOf (p.go.flatMap fun e => e.2.ranges.flatMap fun x => [x.1, x.1 + (x.2 - 1)])).length

/-- The wait of a posted store at its issue, if it must wait: for the wave's earlier stores, which a release follows and an
overlapping store does not pass (R350); for one of the 16 places (R192); for a record that it overlaps (R349); for the
limits of held lines (R430). -/
def postWait (s : State) (c : Ctx) (q : Ord) (p : AccessPlan) : Option Wait :=
  let ranges := p.go.flatMap (·.2.ranges)
  if p.go = [] then none
  else if Ord.releases q && !storesSettled s c then some .settled
  else if 16 ≤ c.wave.posted.length then some .postedFull
  else if heldByStores c.wave (waveRecords s c) ranges then some (.overlap ranges)
  else if heldOver s c.core c.ref.block (postedLines p) then some (.heldLimit (postedLines p))
  else none

/-- A posted store (R191): it goes on once steps 1 to 6 have passed; the 17th unaccepted one waits (R192). -/
def postStore (i : Instr) (s : State) (c : Ctx) (f : AccessForm) (r : Rec) (d : Code) (q : Ord) (kind : Nat)
    (p : AccessPlan) : State :=
  let t := f.elem r
  if p.go = [] then complete c i s {}
  else
    let op : StoreOp :=
      { ident := s.nextIdent, pc := c.frag.pc, kind := kind, size := storeSize t p.go, fmt := t, ord := ordCode q,
        scope := accessScope c.frag.mode r, lanes := storeLanes s c d t p.go,
        fenced := c.wave.fenceStores || Ord.releases q, since := s.cycle,
        newLines := if c.blk.hdr.resilient then postedLines p else 0 }
    let s' := modWave { complete c i s {} with nextIdent := s.nextIdent + 1 } c.core c.ref.block c.ref.wave fun w =>
      { w with posted := w.posted ++ [op] }
    if Ord.releases q && 4 ≤ modeScope c.frag.mode then forceCheckpoint s' c.core c.ref.block else s'

/-- A store (R185, R191): posted under PSTORE 0 in SPACE 0, and else performed at issue, its lanes in ascending order, so
that the highest-numbered one remains where they collide (R186). -/
def storeForm (i : Instr) (f : AccessForm) (d : Code) (r : BitVec 5) (q : Ord) (uniform : Bool) (kind : Nat) (s : State)
    (index : State → Ctx → Nat → Nat) : Host.Outcome State Fault Refusal :=
  issueForm i s fun c =>
    let rc := c.record r
    let t := f.elem rc
    let act := issueActive s c
    if recSpace rc = 0 && !modePstore c.frag.mode && act != 0 then
      let p := planAccess s c f rc d uniform act (index s c)
      match postWait s c q p with
      | some w => waitForBytes s c w
      | none => finishAccess c act uniform p.bad s (postStore i s c f rc d q kind p)
    else
      performAccess i s c f rc d q uniform (index s c) fun s' pieces _ =>
        let x := accessStore c rc
        let s' := pieces.foldl (fun st e =>
          let v := storeValue s c d t e.1
          writeElem x (x.touch st e.2.bytes) t e.2 v.1 v.2) s'
        complete c i (x.cover s' (pieces.flatMap fun e => e.2.bytes)) {}

/-- ST and STS accept every SPACE and FORMAT (R181). -/
def storeAccess : AccessForm := { spaces := [0, 1, 2], formats := fun _ => true, writes := true, reads := false }

/-- STX writes the shadow array whatever TAGMODE holds (R188). -/
def storeShadow : AccessForm := { storeAccess with spaces := [0, 1], shadow := true }

/-- STU writes elements of TYPE (R187). -/
def storeTyped (t : Nat) : AccessForm := { storeAccess with typed := some t, tags := false }

/-- ST_M (R185). -/
def execStM (w : BitVec 3) (d : Code) (r : BitVec 5) (q : Ord) (a : Code) (s : State) : Host.Outcome State Fault Refusal :=
  storeForm (.stM w d r q a) storeAccess d r q false 0 s fun s c => recIndex s c a
/-- ST_MI (R185). -/
def execStMi (w : BitVec 3) (d : Code) (r : BitVec 5) (q : Ord) (i : BitVec 7) (s : State) :
    Host.Outcome State Fault Refusal :=
  storeForm (.stMi w d r q i) storeAccess d r q false 0 s fun _ _ _ => i.toNat
/-- STS_M (R185). -/
def execStsM (w : BitVec 3) (d : Code) (r : BitVec 5) (q : Ord) (a : Code) (s : State) :
    Host.Outcome State Fault Refusal :=
  storeForm (.stsM w d r q a) storeAccess d r q true 1 s fun s c => recIndex s c a
/-- STS_MI (R185). -/
def execStsMi (w : BitVec 3) (d : Code) (r : BitVec 5) (q : Ord) (i : BitVec 7) (s : State) :
    Host.Outcome State Fault Refusal :=
  storeForm (.stsMi w d r q i) storeAccess d r q true 1 s fun _ _ _ => i.toNat
/-- STU (R187): its element type is MODE.TYPE of the issuing fragment. -/
def execStu (w : BitVec 3) (d : Code) (r : BitVec 5) (q : Ord) (a : Code) (s : State) : Host.Outcome State Fault Refusal :=
  let t := match ctxOf s with | some c => modeType c.frag.mode | none => 0
  storeForm (.stu w d r q a) (storeTyped t) d r q false 2 s fun s c => recIndex s c a
/-- STX (R188). -/
def execStx (w : BitVec 3) (d : Code) (r : BitVec 5) (q : Ord) (a : Code) (s : State) : Host.Outcome State Fault Refusal :=
  storeForm (.stx w d r q a) storeShadow d r q false 3 s fun s c => recIndex s c a

/-! ### Cache forms (R201) -/

/-- PREF, CWB and CINV take steps 1 to 3 of R183. -/
def cacheAccess : AccessForm :=
  { spaces := [0, 1, 2], formats := fun _ => true, writes := false, reads := false, cacheOnly := true }

/-- The poison of the L1 lines of some bytes leaves with them (R423): lines have 128 bytes (R430). -/
def writeBackPoison (s : State) (core : Nat) (l : List Nat) : State :=
  let out := (coreOf s core).l1Poison.filter fun k => l.any fun a => a / 128 == k / 32
  if out.isEmpty then s
  else
    let s := modCore s core fun k => { k with l1Poison := k.l1Poison.filter fun x => !out.contains x }
    { s with poison := s.poison ++ ((out.map (· / 8)).eraseDups.filter fun x => !s.poison.contains x) }

/-- A cache form: it moves no value. A form that writes back raises translation faults as a load does and retires the exact
sums of its elements; a prefetch drops a lane that would fault. -/
def cacheForm (i : Instr) (r : BitVec 5) (a : Code) (writesBack : Bool) (s : State) : Host.Outcome State Fault Refusal :=
  issueForm i s fun c =>
    let rc := c.record r
    let act := issueActive s c
    if act = 0 then complete c i s {}
    else
      let p := planAccess s c cacheAccess rc 96 false act (recIndex s c a)
      if recSpace rc ≠ 0 then finishAccess c act false p.bad s (complete c i s {})
      else
        let l := locateAll s c cacheAccess rc p
        if writesBack then
          let s' := l.pieces.foldl (fun st e => writeBackPoison ((accessStore c rc).touch st e.2.bytes) c.core e.2.bytes) l.state
          finishAccess c act false l.bad s (complete c i s' {})
        else finishAccess c act false p.bad s (complete c i l.state {})

/-- PREF (R201). -/
def execPref (w : BitVec 3) (r : BitVec 5) (a : Code) (s : State) : Host.Outcome State Fault Refusal :=
  cacheForm (.pref w r a) r a false s
/-- CWB (R201). -/
def execCwb (w : BitVec 3) (r : BitVec 5) (a : Code) (s : State) : Host.Outcome State Fault Refusal :=
  cacheForm (.cwb w r a) r a true s
/-- CINV (R201). -/
def execCinv (w : BitVec 3) (r : BitVec 5) (a : Code) (s : State) : Host.Outcome State Fault Refusal :=
  cacheForm (.cinv w r a) r a true s

/-! ### FENCE and DRAINS -/

/-- A FENCE with the waits it leaves on the wave's later accesses while posted stores are unaccepted (R190): stores and
read-modify-writes, and for fence.ar loads too. One that releases at device or system scope forces a resilient block's
checkpoint (R430). -/
def fenceForm (i : Instr) (stores loads : Bool) (s : State) : Host.Outcome State Fault Refusal :=
  issueForm i s fun c =>
    let open' := !storesSettled s c
    let s' := modWave (complete c i s {}) c.core c.ref.block c.ref.wave fun w =>
      { w with fenceStores := w.fenceStores || (stores && open'), fenceLoads := w.fenceLoads || (loads && open') }
    if stores && 4 ≤ modeScope c.frag.mode then forceCheckpoint s' c.core c.ref.block else s'

/-- FENCE_ACQ (R190): loads and read-modify-writes are performed when they issue, so nothing is left to wait for. -/
def execFenceAcq (w : BitVec 3) (s : State) : Host.Outcome State Fault Refusal := fenceForm (.fenceAcq w) false false s
/-- FENCE_REL (R190). -/
def execFenceRel (w : BitVec 3) (s : State) : Host.Outcome State Fault Refusal := fenceForm (.fenceRel w) true false s
/-- FENCE_AR (R190). -/
def execFenceAr (w : BitVec 3) (s : State) : Host.Outcome State Fault Refusal := fenceForm (.fenceAr w) true true s

/-- Whether a SENDP of a wave, issued below a number, is still on its way (R193). -/
def sendsPending (s : State) (core block wave bound : Nat) : Bool :=
  s.net.any fun m => !m.confirm && m.ident < bound && m.core == core && m.sender.block == block && m.sender.wave == wave

/-- Whether a DRAINS that waits for what the wave issued below a number may go on (R193). -/
def drained (s : State) (core block : Nat) (w : Wave) (bound : Nat) : Bool :=
  !(w.posted.any fun o => o.ident < bound) &&
    !(unresolved (coreOf s core) block w.idx).any (fun x => x.op.ident < bound) && !sendsPending s core block w.idx bound

/-- DRAINS (R193). -/
def execDrains (w : BitVec 3) (s : State) : Host.Outcome State Fault Refusal :=
  issueForm (.drains w) s fun c =>
    let bound := c.frag.drainBound.getD s.nextIdent
    if drained s c.core c.ref.block c.wave bound then complete c (.drains w) s {} else waitEvent s c (.drains bound)

end Sys2Proof.Machine
end

