-- ==== Sys2Proof/Machine/Atomics.lean ====
section
/-! DEFINITION. The atomics and the exact-sum forms (R186, R194 to R200). -/

namespace Sys2Proof.Machine

/-! ### ATOM and CAS -/

/-- ATOM accepts the integer formats of 32 and 64 bits; EXCH and CAS also F32 and F64 (R181). They touch no shadow array
(R86). -/
def atomAccess (floats : Bool) : AccessForm :=
  { spaces := [0, 1], formats := fun t => t ≤ 3 || (floats && (t == 6 || t == 7)), writes := true, reads := true,
    tags := false }

/-- CAS: D names four registers of an 8-byte element and two of a 4-byte one (R183, R194). -/
def casAccess : AccessForm :=
  { atomAccess true with span := fun size => if size = 8 then 4 else 2, align := fun size => if size = 8 then 4 else 2 }

/-- The lanes of a read-modify-write in ascending order, each reading what the one before left (R186, R194). `op` gives the
value that a lane stores, if any, from the old one. The result is the state and the old value of each lane. -/
def applyLanes (x : Store) (t : Nat) (op : Nat → BitVec 64 → Option (BitVec 64)) :
    List (Nat × Piece) → State → State × List (Nat × BitVec 64)
  | [], s => (s, [])
  | e :: r, s =>
    let s := x.touch s e.2.bytes
    let old := readElem x s t e.2
    let s := match op e.1 old with | some v => x.lock (writeElem x s t e.2 v 62) e.2.data | none => s
    let (s, l) := applyLanes x t op r s
    (s, (e.1, old) :: l)

/-- A read-modify-write form (R194): the old values, with tag 62, arrive in D. -/
def atomForm (i : Instr) (f : AccessForm) (d : Code) (r : BitVec 5) (q : Ord) (a : Code) (s : State)
    (op : Ctx → Nat → Nat → BitVec 64 → Option (BitVec 64)) : Host.Outcome State Fault Refusal :=
  issueForm i s fun c =>
    let rc := c.record r
    let t := recFormat rc
    performAccess i s c f rc d q (uniformIssue i) (recIndex s c a) fun s' pieces outside =>
      let (s', olds) := applyLanes (accessStore c rc) t (op c t) pieces s'
      let put (w : HistStep) (lane : Nat) (v : BitVec 64) := w.append (writeCode c lane d (is64 t) t v 62)
      let ws := olds.foldl (fun w e => put w e.1 e.2) {}
      completeLoad c i s' rc (outside.foldl (fun w lane => put w lane 0) ws)

/-- The operand x of an ATOM in a lane, at the element's width. -/
def atomOperand (s : State) (c : Ctx) (d : Code) (t lane : Nat) : BitVec 64 :=
  (readCode s c (modeType c.frag.mode) (tyBits t) d lane).1

/-- An ATOM whose new value is computed from old and x. -/
def atomOp (i : Instr) (floats : Bool) (d : Code) (r : BitVec 5) (q : Ord) (a : Code) (s : State)
    (op : Nat → BitVec 64 → BitVec 64 → BitVec 64) : Host.Outcome State Fault Refusal :=
  atomForm i (atomAccess floats) d r q a s fun c t lane old => some (op t old (atomOperand s c d t lane))

/-- ATOM_ADD (R194). -/
def execAtomAdd (w : BitVec 3) (d : Code) (r : BitVec 5) (q : Ord) (a : Code) (s : State) :
    Host.Outcome State Fault Refusal := atomOp (.atomAdd w d r q a) false d r q a s opIadd
/-- ATOM_SUB (R194). -/
def execAtomSub (w : BitVec 3) (d : Code) (r : BitVec 5) (q : Ord) (a : Code) (s : State) :
    Host.Outcome State Fault Refusal := atomOp (.atomSub w d r q a) false d r q a s opIsub
/-- ATOM_MIN (R194). -/
def execAtomMin (w : BitVec 3) (d : Code) (r : BitVec 5) (q : Ord) (a : Code) (s : State) :
    Host.Outcome State Fault Refusal := atomOp (.atomMin w d r q a) false d r q a s opImin
/-- ATOM_MAX (R194). -/
def execAtomMax (w : BitVec 3) (d : Code) (r : BitVec 5) (q : Ord) (a : Code) (s : State) :
    Host.Outcome State Fault Refusal := atomOp (.atomMax w d r q a) false d r q a s opImax
/-- ATOM_AND (R194). -/
def execAtomAnd (w : BitVec 3) (d : Code) (r : BitVec 5) (q : Ord) (a : Code) (s : State) :
    Host.Outcome State Fault Refusal := atomOp (.atomAnd w d r q a) false d r q a s opAnd
/-- ATOM_OR (R194). -/
def execAtomOr (w : BitVec 3) (d : Code) (r : BitVec 5) (q : Ord) (a : Code) (s : State) :
    Host.Outcome State Fault Refusal := atomOp (.atomOr w d r q a) false d r q a s opOr
/-- ATOM_XOR (R194). -/
def execAtomXor (w : BitVec 3) (d : Code) (r : BitVec 5) (q : Ord) (a : Code) (s : State) :
    Host.Outcome State Fault Refusal := atomOp (.atomXor w d r q a) false d r q a s opXor
/-- ATOM_EXCH (R194). -/
def execAtomExch (w : BitVec 3) (d : Code) (r : BitVec 5) (q : Ord) (a : Code) (s : State) :
    Host.Outcome State Fault Refusal := atomOp (.atomExch w d r q a) true d r q a s fun _ _ x => x

/-- The code of the register that holds CAS's swap value (R194). -/
def casSwap (d : Code) (t : Nat) : Code := if d.toNat < 64 ∧ is64 t then d + 2 else d + 1

/-- CAS (R194): bit for bit. -/
def execCas (w : BitVec 3) (d : Code) (r : BitVec 5) (q : Ord) (a : Code) (s : State) : Host.Outcome State Fault Refusal :=
  atomForm (.cas w d r q a) casAccess d r q a s fun c t lane old =>
    if old = atomOperand s c d t lane then some (atomOperand s c (casSwap d t) t lane) else none

/-! ### FATOM and FATOMQ -/

/-- FATOM and FATOMQ accept SPACE 0 records of F32 and F64 (R181) and carry no tags (R86). D holds one operand of TYPE, and
the alignment of step 1 of R183 is the element's. -/
def sumAccess (writes : Bool) : AccessForm :=
  { spaces := [0], formats := fun t => t == 6 || t == 7, writes := writes, reads := true, tags := false,
    span := fun _ => 1 }

/-- The physical address of a piece's first byte. -/
def Piece.pa (p : Piece) : Nat := p.data.headD 0

/-- The accumulators that a form must bring into a partition's store: elements without one that it binds, and spilled
ones. -/
def sumsNeeded (s : State) (partition size : Nat) (binds : Bool) (pieces : List (Nat × Piece)) : List (Nat × Nat × Nat) :=
  ((pieces.filterMap fun e =>
    match boundSum s e.2.pa size with
    | some x => if x.spilled then some (x.partition, e.2.pa, size) else none
    | none => if binds then some (partition, e.2.pa, size) else none)).eraseDups

/-- A partition whose 64 accumulators do not hold what a form needs (R200), beside those resident and those that resilient
blocks will bind at their commits (R430). -/
def sumsShort (s : State) (need : List (Nat × Nat × Nat)) : Option Nat :=
  let all := (need ++ heldSums s).eraseDups
  (need.map (·.1)).eraseDups.find? fun p => 64 < (residentSums s p).length + (all.filter fun e => e.1 == p).length

/-- Brings the spilled accumulators of some elements back (R200). -/
def fillSums (s : State) (size : Nat) (pieces : List (Nat × Piece)) : State :=
  pieces.foldl (fun s e =>
    match boundSum s e.2.pa size with
    | some x => if x.spilled then putSum s { x with spilled := false, used := s.cycle } else s
    | none => s) s

/-- Adds one value to the accumulator of an element, binding one to its value in memory if none is bound (R197). -/
def addToSum (s : State) (pa size partition asid launch t : Nat) (bits : BitVec 64) : State :=
  let (s, x) := match boundSum s pa size with
    | some x => (s, x)
    | none =>
      let s := retireRange s pa size
      (s, bindSum s pa size partition asid launch (BitVec.ofNat 64 (leNat (readBytes s.mem pa size))))
  putSum s { x.add (decodeF t bits) with used := s.cycle, launch := launch, spilled := false }

/-- FATOM's contribution of one lane: at once, or, in a resilient block, at its next commit (R430), when the room in the store that
its issue has found stands by for it (R200). -/
def contribute (s : State) (c : Ctx) (size t : Nat) (p : Piece) (bits : BitVec 64) : State :=
  if c.blk.hdr.resilient then
    modBlock s c.core c.ref.block fun k =>
      { k with ckpt := { k.ckpt with effects := k.ckpt.effects ++ [.sum s.nextIdent p.pa size t bits], due := true } }
  else addToSum s p.pa size (partitionOf c.core) c.blk.asid c.blk.launch t bits

/-- The shared course of FATOM and FATOMQ, whose `body` answers further lanes that fault: as any access, with the permission fault for peer memory (R197) and the wait
for room in the store (R200). -/
def performSum (i : Instr) (s : State) (c : Ctx) (rc : Rec) (d : Code) (q : Ord) (a : Code) (writes : Bool)
    (body : State → List (Nat × Piece) → List Nat → State × List (Nat × LaneFault)) : State :=
  let act := issueActive s c
  let uniform := uniformIssue i
  let f := sumAccess writes
  let size := tySize (recFormat rc)
  if act = 0 then complete c i s {}
  else
    let p := planAccess s c f rc d uniform act (recIndex s c a)
    match accessWait s c f rc q p with
    | some w => waitChecked s c w
    | none =>
      let l := locateAll s c f rc p
      match physWait s c true false (l.pieces.flatMap fun e => e.2.bytes) with
      | some w => waitForBytes s c w
      | none =>
      let peer := l.pieces.filter fun e => paRegion e.2.pa == 2
      let bad := l.bad ++ (if writes then peer.map fun e =>
        (e.1, ({ code := 0x08, info := BitVec.ofNat 64 ((p.go.find? fun g => g.1 == e.1).map (·.2.addr) |>.getD 0),
                 access := accWrite } : LaneFault))
        else [])
      let pieces := if writes then l.pieces.filter fun e => paRegion e.2.pa != 2 else l.pieces
      match sumsShort s (sumsNeeded s (partitionOf c.core) size writes pieces) with
      | some part => notifyDarner (waitEvent s c .accumulator) c.core (.exactSum c.ref part)
      | none =>
        let (after, more) := body (fillSums l.state size pieces) pieces p.outside
        finishAccess c act uniform (bad ++ more) s (forceCheckpoint after c.core c.ref.block)

/-- FATOM (R197). -/
def execFatom (w : BitVec 3) (d : Code) (r : BitVec 5) (q : Ord) (a : Code) (s : State) :
    Host.Outcome State Fault Refusal :=
  issueForm (.fatom w d r q a) s fun c =>
    let rc := c.record r
    let t := modeType c.frag.mode
    performSum (.fatom w d r q a) s c rc d q a true fun s' pieces _ =>
      (complete c (.fatom w d r q a)
        (pieces.foldl (fun st e =>
          contribute st c (tySize (recFormat rc)) t e.2
            (encodeF t (inF t c.frag.mode (readCode s c t (tyBits t) d e.1).1))) s') {}, [])

/-- Whether a resilient block holds a store of its own to some bytes. -/
def heldBytes (b : Block) (l : List Nat) : Bool := l.any fun a => (cellGet none a b.ckpt.held).isSome

/-- What FATOMQ delivers of an element: round(sum, TYPE), or the element converted (R198). What the block itself has stored there
and holds comes after the sum, which its commit will retire (R336, R430). -/
def sumValue (s : State) (c : Ctx) (x : Store) (u : Nat) (p : Piece) : LaneRes :=
  let t := modeType c.frag.mode
  let res := match if heldBytes c.blk p.bytes then none else boundSum s p.pa (tySize u) with
    | some y => y.value (roundTo c.frag.mode)
    | none => convertF (roundTo c.frag.mode) (flushIn u (modeFtz c.frag.mode) (decodeF u (readElem x s u p)))
  let tag := match res.val with | .fin _ _ _ => precision t | _ => 0
  ⟨encodeF t res.val, BitVec.ofNat 6 tag, res.exc⟩

/-- FATOMQ (R198): an enabled exception faults its lane (R53, R54). -/
def execFatomq (w : BitVec 3) (d : Code) (r : BitVec 5) (q : Ord) (a : Code) (s : State) :
    Host.Outcome State Fault Refusal :=
  let i : Instr := .fatomq w d r q a
  issueForm i s fun c =>
    let rc := c.record r
    let t := modeType c.frag.mode
    let u := recFormat rc
    let x := accessStore c rc
    performSum i s c rc d q a false fun s' pieces outside =>
      let s' := (pieces.filter fun e => (boundSum s' e.2.pa (tySize u)).isNone).foldl (fun st e => x.touch st e.2.bytes) s'
      let res := pieces.map fun e => (e.1, sumValue s' c x u e.2)
      let bad := res.filter fun e => enabledExc c e.2.exc != 0
      let put (l : List (Nat × LaneRes)) := l.foldl (fun (h : HistStep) e =>
        h.append (writeCode c e.1 d (is64 t) t e.2.bits e.2.tag)) {}
      let zero : LaneRes := ⟨0, freshTag t, 0⟩
      let good := (res.filter fun e => enabledExc c e.2.exc == 0) ++ outside.map fun lane => (lane, zero)
      (completeLater c i s' (put good),
        bad.map fun e => (e.1, { code := excCode (enabledExc c e.2.exc), info := openInfo s }))

end Sys2Proof.Machine
end

