-- ==== Sys2Proof/Machine/Sha3.lean ====
section
/-! DEFINITION. SHA3-512 (FIPS 202), by which images and measurements are digested (R409, R447, R448). -/

namespace Sys2Proof.Machine

/-- The rotation of lane x + 5 y in the step rho. -/
def keccakRot : List Nat :=
  [0, 1, 62, 28, 27, 36, 44, 6, 55, 20, 3, 10, 43, 25, 39, 41, 45, 15, 21, 8, 18, 2, 61, 56, 14]

/-- The round constants of the step iota. -/
def keccakRc : List (BitVec 64) :=
  [0x0000000000000001, 0x0000000000008082, 0x800000000000808A, 0x8000000080008000, 0x000000000000808B,
   0x0000000080000001, 0x8000000080008081, 0x8000000000008009, 0x000000000000008A, 0x0000000000000088,
   0x0000000080008009, 0x000000008000000A] ++
  [0x000000008000808B, 0x800000000000008B, 0x8000000000008089, 0x8000000000008003, 0x8000000000008002,
   0x8000000000000080, 0x000000000000800A, 0x800000008000000A, 0x8000000080008081, 0x8000000000008080,
   0x0000000080000001, 0x8000000080008008]

/-- Lane x + 5 y of a state. -/
def keccakLane (a : List (BitVec 64)) (x y : Nat) : BitVec 64 := a.getD (x % 5 + 5 * (y % 5)) 0

/-- One round: theta, rho and pi, chi, iota. -/
def keccakRound (a : List (BitVec 64)) (rc : BitVec 64) : List (BitVec 64) :=
  let c := (List.range 5).map fun x =>
    keccakLane a x 0 ^^^ keccakLane a x 1 ^^^ keccakLane a x 2 ^^^ keccakLane a x 3 ^^^ keccakLane a x 4
  let col (x : Nat) : BitVec 64 := c.getD (x % 5) 0
  let t := (List.range 25).map fun i => keccakLane a (i % 5) (i / 5) ^^^ col (i % 5 + 4) ^^^ (col (i % 5 + 1)).rotateLeft 1
  -- pi moves lane (x, y) to (y, 2 x + 3 y), so that (x, y) holds what stood at (x + 3 y, x)
  let b := (List.range 25).map fun i =>
    let x := (i % 5 + 3 * (i / 5)) % 5
    let y := i % 5
    (keccakLane t x y).rotateLeft (keccakRot.getD (x + 5 * y) 0)
  (List.range 25).map fun i =>
    let x := i % 5
    let y := i / 5
    keccakLane b x y ^^^ (~~~ keccakLane b (x + 1) y &&& keccakLane b (x + 2) y) ^^^ (if i = 0 then rc else 0)

/-- The permutation Keccak-f[1600]. -/
def keccakF (a : List (BitVec 64)) : List (BitVec 64) := keccakRc.foldl keccakRound a

/-- The lane of eight bytes, lowest first. -/
def laneOfBytes (l : List Byte) : BitVec 64 := BitVec.ofNat 64 (l.foldr (fun b n => b.toNat + 256 * n) 0)

/-- Absorbs blocks of 72 bytes. -/
def sha3Absorb (a : List (BitVec 64)) (l : List Byte) : Nat → List (BitVec 64)
  | 0 => a
  | n + 1 =>
    let blk := l.take 72
    let x := a.zipIdx.map fun e => if e.2 < 9 then e.1 ^^^ laneOfBytes ((blk.drop (8 * e.2)).take 8) else e.1
    sha3Absorb (keccakF x) (l.drop 72) n

/-- SHA3-512. -/
def sha3 (m : List Byte) : List Byte :=
  let gap := 72 - m.length % 72
  let pad : List Byte := if gap = 1 then [0x86] else [0x06] ++ List.replicate (gap - 2) 0 ++ [0x80]
  let l := m ++ pad
  let a := sha3Absorb (List.replicate 25 0) l (l.length / 72)
  (a.take 8).flatMap fun x => (List.range 8).map fun j => x.extractLsb' (8 * j) 8

end Sys2Proof.Machine
end

