-- ==== Sys2Proof/Machine/Fifo.lean ====
section
/-! DEFINITION. FIFO banks (R206, R207, R281 to R283) and the ports of a block (R309 to R312). -/

namespace Sys2Proof.Machine

/-! ### Banks -/

/-- N of R206. -/
def Fifo.slots (f : Fifo) : Nat := 65536 / f.desc.slotBytes
/-- FREE of R206. -/
def Fifo.free (f : Fifo) : Nat := f.slots - (f.rp - f.fp)
/-- FILLED of R206. -/
def Fifo.filled (f : Fifo) : Nat := f.cp - f.lp

/-- A block's binding of a logical number. -/
def Block.fifo? (b : Block) (logical : Nat) : Option Fifo := b.fifos.find? fun f => f.desc.bank == logical

/-- Changes a binding. -/
def Block.modFifo (b : Block) (logical : Nat) (g : Fifo → Fifo) : Block :=
  { b with fifos := b.fifos.map fun f => if f.desc.bank = logical then g f else f }

/-- What a FIFOP does, from its sub-operation and phase (R207): what it waits for, whether its check fails, the moved
counters, and the slot number returned. -/
structure FifoMove where
  ready : Bool
  legal : Bool
  next : Fifo
  result : Nat

/-- The four rows of R207's table. -/
def fifoMove (f : Fifo) (produce second : Bool) (k : Nat) : FifoMove :=
  let n := f.slots
  match produce, second with
  | true, false => ⟨k ≤ f.free, true, { f with rp := f.rp + k }, f.rp % n⟩
  | true, true => ⟨true, k ≤ f.rp - f.cp, { f with cp := f.cp + k }, (f.cp + k) % n⟩
  | false, false => ⟨k ≤ f.filled, true, { f with lp := f.lp + k }, f.lp % n⟩
  | false, true => ⟨true, k ≤ f.lp - f.fp, { f with fp := f.fp + k }, (f.fp + k) % n⟩

/-- FIFOP (R207): phase and k come from a. -/
def fifoForm (i : Instr) (produce : Bool) (d : Code) (r : BitVec 5) (a : Code) (s : State) :
    Host.Outcome State Fault Refusal :=
  issueForm i s fun c =>
    let rc := c.record r
    let act := issueActive s c
    let v := (readCode s c (modeType c.frag.mode) 32 a 0).1
    let k := (v.extractLsb' 0 16).toNat
    let second := v.getLsbD 16
    let logical := recBase rc % 16
    if act = 0 then complete c i s {}
    else if recSpace rc ≠ 2 then takeFault c { code := 0x05, lanes := act, info := v } s s
    else
      match c.blk.fifo? logical with
      | none => takeFault c { code := 0x06, lanes := act, info := openInfo s } s s
      | some f =>
        let m := fifoMove f produce second k
        let lo := f.bank * 2048
        let sb := coreOf s c.core
        if f.slots < k ∨ v.extractLsb' 17 15 ≠ 0 ∨ !m.legal then fragmentFault c 0x05 v s
        else if scoreboardBlocks sb s.cycle lo (lo + 2048) produce (some produce) c.frag.sbBound then
          waitEvent s c (.scoreboard lo (lo + 2048) produce (some produce) (c.frag.sbBound.getD (sbBoundAt sb s.cycle)))
        else if produce && second && !storesSettled s c then waitChecked s c .settled
        else if !m.ready then waitChecked s c (.fifo logical k (!produce))
        else
          completeLater c i (modBlock s c.core c.ref.block fun b => b.modFifo logical fun _ => m.next)
            (writeCode c 0 d true tyU64 (BitVec.ofNat 64 m.result) 62)

/-- FIFOP_RESERVE (R207). -/
def execFifopReserve (w : BitVec 3) (d : Code) (r : BitVec 5) (a : Code) (s : State) :
    Host.Outcome State Fault Refusal := fifoForm (.fifopReserve w d r a) true d r a s
/-- FIFOP_COMMIT (R207). -/
def execFifopCommit (w : BitVec 3) (d : Code) (r : BitVec 5) (a : Code) (s : State) :
    Host.Outcome State Fault Refusal := fifoForm (.fifopCommit w d r a) true d r a s
/-- FIFOP_CLAIM (R207). -/
def execFifopClaim (w : BitVec 3) (d : Code) (r : BitVec 5) (a : Code) (s : State) :
    Host.Outcome State Fault Refusal := fifoForm (.fifopClaim w d r a) false d r a s
/-- FIFOP_FREE (R207). -/
def execFifopFree (w : BitVec 3) (d : Code) (r : BitVec 5) (a : Code) (s : State) :
    Host.Outcome State Fault Refusal := fifoForm (.fifopFree w d r a) false d r a s

/-! ### Ports -/

/-- A port of a block. -/
def Block.port (b : Block) (p : Nat) : Port := cellGet {} p b.ports

/-- Changes a port. -/
def Block.modPort (b : Block) (p : Nat) (f : Port → Port) : Block :=
  { b with ports := cellSet {} p (f (b.port p)) b.ports }

/-- The binding that makes a port a counting port, with its threshold (R312). -/
def Block.counting (b : Block) (p : Nat) : Option (Fifo × Nat) :=
  b.fifos.findSome? fun f =>
    match f.desc.counted with
    | some (q, th) => if q = p then some (f, th) else none
    | none => none

/-- Whether a port has a free slot (R311, R312). -/
def Block.hasSlot (b : Block) (p : Nat) : Bool :=
  (b.counting p).isNone && (b.port p).msgs.length + (b.port p).rsv < Config.portSlots

/-- Whether a port takes an offer: it has a free slot that no message which reaches the block anew awaits (R431). -/
def Block.hasRoom (b : Block) (p : Nat) : Bool := b.hasSlot p && !(b.late.any fun e => e.1 == p)

/-- The messages of a port as its consumers see them in a cycle (R311): one that is not visible yet hides those behind it. -/
def Block.visible (b : Block) (cycle p : Nat) : List Msg :=
  if (b.port p).msgs.headD ⟨0, 0, 0, 0, none, 0⟩ |>.seen.ble cycle then (b.port p).msgs else []

/-- An ordinary offer that found a slot: the message joins the queue. -/
def Block.putMsg (b : Block) (p : Nat) (m : Msg) : Block := b.modPort p fun x => { x with msgs := x.msgs ++ [m] }

/-- The messages that reach a block anew enter their ports, in their order of arrival, as far as there are free slots
(R431). -/
def Block.redeliver (cycle : Nat) (b : Block) : Block :=
  b.late.foldl (fun b e =>
    if b.hasRoom e.1 then b.putMsg e.1 { e.2 with seen := cycle + 1 } else { b with late := b.late ++ [e] }) { b with late := [] }

/-- The info word of a message (R211, R310). -/
def Msg.info (m : Msg) : BitVec 64 :=
  BitVec.ofNat 64 (m.status.toNat * 2 ^ 20 + m.kind.toNat * 2 ^ 16 + m.sender.toNat)

/-- The sender identifier of a wave (R208). -/
def senderId (wave lin : Nat) : BitVec 16 := BitVec.ofNat 16 (wave % 64 + lin % 1024 * 64)

/-- A dropped offer (R319): OVF and DROPS of the port, and the Darner's notification when OVF becomes 1. -/
def dropAtPort (s : State) (core block p : Nat) : State :=
  match blockOf s core block with
  | none => s
  | some b =>
    let x := b.port p
    let drops := min (x.drops + 1) 0xFFFF
    let s := modBlock s core block fun b => b.modPort p fun x => { x with ovf := true, drops := drops }
    if x.ovf then s else notifyDarner s core (.overflow block 0 p drops false)

end Sys2Proof.Machine
end

