-- ==== Sys2Proof/Machine/Messages.lean ====
section
/-! DEFINITION. Messages, barriers and traps (R208 to R217, R254). A posted message travels in the network list of the
state until its delivery (Machine/Delivery.lean). -/

namespace Sys2Proof.Machine

/-! ### Where a block is -/

/-- Where a launch's block is (R209, R210, R321). -/
inductive BlockPlace where
  | resident (core block : Nat)
  | swappedOut
  | notPlaced
  /-- retired or killed, or of a launch that is no longer live -/
  | gone
  deriving DecidableEq, Repr

/-- The resident block of a launch with a linear index. -/
def residentBlock (s : State) (launch lin : Nat) : Option (Nat × Nat) :=
  s.cores.findSome? fun k =>
    (k.2.blocks.find? fun e => e.1 < supervisorHandle && e.2.launch == launch && e.2.lin == lin).map fun e => (k.1, e.1)

/-- Where a block is. -/
def placeOfBlock (s : State) (launch lin : Nat) : BlockPlace :=
  match residentBlock s launch lin with
  | some (c, b) => .resident c b
  | none =>
    if s.images.any fun x => x.launch == launch && x.lin == lin then .swappedOut
    else
      match launchOf s launch with
      | none => .gone
      | some l => if l.ended.contains lin then .gone else .notPlaced

/-! ### SEND and SENDP -/

/-- Fields of DST (R208). -/
def dstPort (t : BitVec 64) : Nat := (t.extractLsb' 0 5).toNat
def dstRel (t : BitVec 64) : Bool := t.getLsbD 5
def dstTarget (t : BitVec 64) : Nat := (t.extractLsb' 6 2).toNat
def dstBlock (t : BitVec 64) : Nat := (t.extractLsb' 8 32).toNat
def dstStatus (t : BitVec 64) : BitVec 8 := t.extractLsb' 40 8

/-- Blocks of a grid. -/
def gridSize (g : Nat × Nat × Nat) : Nat := g.1 * g.2.1 * g.2.2

/-- Whether DST is malformed (R208). -/
def dstBad (b : Block) (t : BitVec 64) : Bool :=
  t.extractLsb' 48 16 != 0#16 || 2 ≤ dstTarget t || b.hdr.ports ≤ dstPort t ||
    (dstTarget t == 1 && gridSize b.grid ≤ dstBlock t)

/-- The linear index of DST's target block. -/
def dstLin (b : Block) (t : BitVec 64) : Nat := if dstTarget t = 1 then dstBlock t else b.lin

/-- Whether a SEND or SENDP leaves its block. -/
def leavesBlock (b : Block) (t : BitVec 64) : Bool := dstLin b t != b.lin

/-- The message that a SEND or SENDP posts. -/
def sentMsg (c : Ctx) (t payload : BitVec 64) : Msg :=
  ⟨payload, senderId c.wave.idx c.blk.lin, 0, dstStatus t, if dstRel t then some (modeScope c.frag.mode) else none, 0⟩

/-- Puts a message on its way. One to the own core arrives in this cycle and is seen from the next (R311); the time on the
network is open. -/
def postMsg (s : State) (c : Ctx) (t payload : BitVec 64) (confirm held : Bool) : State :=
  let lin := dstLin c.blk t
  let local' := match residentBlock s c.blk.launch lin with | some (k, _) => k == c.core | none => false
  let m : NetMsg :=
    { ident := s.nextIdent, launch := c.blk.launch, lin := lin, port := dstPort t, msg := sentMsg c t payload,
      core := c.core, sender := c.ref, senderLaunch := c.blk.launch, senderLin := c.blk.lin, confirm := confirm,
      held := held, ready := s.cycle + (if local' then 0 else choose s 0xFFFE 1024) }
  { s with
    net := s.net ++ [m]
    nextIdent := s.nextIdent + 1
    agenda := if local' then s.agenda ++ [.event { ident := s.nextIdent } .messageDelivery] else s.agenda }

/-- The shared part of SEND and SENDP: DST's check, then the wait of a release (R208, R209). -/
def sendForm (i : Instr) (a : Code) (b : Src) (s : State) (body : Ctx → BitVec 64 → BitVec 64 → State) :
    Host.Outcome State Fault Refusal :=
  issueForm i s fun c =>
    let ty := modeType c.frag.mode
    let t := (readCode s c ty 64 a 0).1
    let payload := (readSrc s c ty 64 b 0).1
    if dstBad c.blk t then fragmentFault c 0x01 t s
    else if dstRel t && !storesSettled s c then waitEvent s c .settled
    else body c t payload

/-- The fault of a full port on a SEND (R209); FLT.INFO[63] says that the target had retired. -/
def sendFull (c : Ctx) (t : BitVec 64) (retired : Bool) (s : State) : State :=
  fragmentFault c 0x11 (if retired then t ||| (1#64 <<< 63) else t) s

/-- SEND (R209). A fragment that comes back to a SEND whose message it had posted takes the kept answer (R248). In a
resilient block a message to another block is held until the commit, and the SEND is complete within the block (R430). -/
def execSend (w : BitVec 3) (a : Code) (b : Src) (s : State) : Host.Outcome State Fault Refusal :=
  sendForm (.send w a b) a b s fun c t payload =>
    let i : Instr := .send w a b
    match c.frag.kept.bind fun k => if k.isSend && k.back && k.pc == c.frag.pc then some k else none with
    | some k =>
      let s' := withFrag s c fun f => { f with kept := none }
      if !k.held then
        withFrag (enterWait c i s' (.waitEvent (.sendReply k.ident t (instrBytes i)))) c fun f => { f with waitSince := s.timebase }
      else if k.full then sendFull c t k.retired s'
      else complete c i s' {}
    | none =>
      match placeOfBlock s c.blk.launch (dstLin c.blk t) with
      | .gone => sendFull c t true s
      | .swappedOut | .notPlaced => waitEvent s c (.sendTarget (dstLin c.blk t))
      | .resident _ _ =>
        if c.blk.hdr.resilient && leavesBlock c.blk t then
          let s := modBlock s c.core c.ref.block fun k =>
            { k with ckpt := { k.ckpt with effects := k.ckpt.effects ++ [.message s.nextIdent], due := true } }
          complete c i (postMsg s c t payload false true) {}
        else
          let wait : Wait := .sendReply s.nextIdent t (instrBytes i)
          withFrag (enterWait c i (postMsg s c t payload true false) (.waitEvent wait)) c fun f =>
            { f with waitSince := s.timebase }

/-- SENDP (R210). -/
def execSendp (w : BitVec 3) (a : Code) (b : Src) (s : State) : Host.Outcome State Fault Refusal :=
  sendForm (.sendp w a b) a b s fun c t payload =>
    let held := c.blk.hdr.resilient && leavesBlock c.blk t
    let s' := if held then
        modBlock s c.core c.ref.block fun k =>
          { k with ckpt := { k.ckpt with effects := k.ckpt.effects ++ [.message s.nextIdent], due := true } }
      else s
    complete c (.sendp w a b) (postMsg s' c t payload false held) {}

/-! ### RECV, JWAIT, PATEN, PORTQ -/

/-- Whether a message is an engine completion that reports a failure (R224). -/
def Msg.failed (m : Msg) : Bool := m.kind == 1 && m.status != 0 && m.status != 1

/-- The s-registers that a RECV of a message writes (R211). -/
def recvWrites (d : Code) (m : Msg) : HistStep :=
  let k := d.toNat - 64
  { ss := [(k, ⟨m.payload, 62⟩), (k + 1, ⟨m.info, 62⟩)] }

/-- Consumption of a message by a fragment at a waiting or issuing instruction that goes past it (R211, R224): the results
are written, and a failed completion parks the fragment behind the instruction. -/
def consume (c : Ctx) (i : Instr) (s : State) (x : HistStep) (failed : Option Msg) : State :=
  let done := complete c i s x
  match failed with
  | none => done
  | some m =>
    takeFault c { code := 0x16, lanes := c.frag.members, info := m.payload, whole := true, pc := some (nextPc c i) } s done

/-- RECV (R211). -/
def execRecv (w : BitVec 3) (d a : Code) (s : State) : Host.Outcome State Fault Refusal :=
  let i : Instr := .recv w d a
  issueForm i s fun c =>
    let v := (readCode s c (modeType c.frag.mode) 64 a 0).1
    let p := (v.extractLsb' 0 5).toNat
    if v &&& ~~~ 0x31F#64 ≠ 0 ∨ c.blk.hdr.ports ≤ p ∨ (c.blk.counting p).isSome then fragmentFault c 0x01 v s
    else
      match c.blk.visible s.cycle p with
      | [] =>
        if v.getLsbD 9 then complete c i s { ss := [(d.toNat - 64, ⟨0, 62⟩), (d.toNat - 63, ⟨1#64 <<< 63, 62⟩)] }
        else enterWait c i s (.waitEvent (.recv p d (v.getLsbD 8)))
      | m :: rest =>
        let s' := modBlock s c.core c.ref.block fun b => b.modPort p fun x => { x with msgs := rest }
        consume c i s' (recvWrites d m) (if m.failed then some m else none)

/-- JWAIT (R212). -/
def execJwait (w : BitVec 3) (k : BitVec 4) (s : State) : Host.Outcome State Fault Refusal :=
  issueForm (.jwait w k) s fun c =>
    match c.blk.patterns[k.toNat]? with
    | none => fragmentFault c 0x01 (openInfo s) s
    | some p =>
      if p.wake then enterWait c (.jwait w k) s (.waitEvent (.jwait k.toNat))
      else fragmentFault c 0x01 (openInfo s) s

/-- PATEN (R213). -/
def patenForm (i : Instr) (k : BitVec 4) (on : Bool) (s : State) : Host.Outcome State Fault Refusal :=
  issueForm i s fun c =>
    if c.blk.patterns.length ≤ k.toNat then fragmentFault c 0x01 (openInfo s) s
    else
      modBlock (complete c i s {}) c.core c.ref.block fun b =>
        { b with patterns := b.patterns.modify k.toNat fun p => { p with enabled := on } }

/-- PATEN_ON (R213). -/
def execPatenOn (w : BitVec 3) (k : BitVec 4) (s : State) : Host.Outcome State Fault Refusal :=
  patenForm (.patenOn w k) k true s
/-- PATEN_OFF (R213). -/
def execPatenOff (w : BitVec 3) (k : BitVec 4) (s : State) : Host.Outcome State Fault Refusal :=
  patenForm (.patenOff w k) k false s

/-- PORTQ's word (R214). -/
def portWord (b : Block) (p : Nat) : BitVec 64 :=
  let x := b.port p
  let msgs : BitVec 4 := match b.counting p with
    | some (f, th) => if th ≤ f.filled then 1 else 0
    | none => BitVec.ofNat 4 x.msgs.length
  0#32 ++ BitVec.ofNat 16 x.drops ++ 0#6 ++ BitVec.ofBool (b.counting p).isSome ++ BitVec.ofBool x.ovf ++
    BitVec.ofNat 4 x.rsv ++ msgs

/-- PORTQ (R214). -/
def execPortq (w : BitVec 3) (d a : Code) (s : State) : Host.Outcome State Fault Refusal :=
  issueForm (.portq w d a) s fun c =>
    let v := (readCode s c (modeType c.frag.mode) 64 a 0).1
    let p := (v.extractLsb' 0 5).toNat
    if v &&& ~~~ 0x11F#64 ≠ 0 ∨ c.blk.hdr.ports ≤ p then fragmentFault c 0x01 v s
    else
      let s' := if v.getLsbD 8 then
          modBlock s c.core c.ref.block fun b => b.modPort p fun x => { x with ovf := false, drops := 0 }
        else s
      completeLater c (.portq w d a) s' (writeCode c 0 d true tyU64 (portWord c.blk p) 62)

/-! ### Barriers -/

/-- BAR (R215). -/
def execBar (w : BitVec 3) (s : State) : Host.Outcome State Fault Refusal :=
  issueForm (.bar w) s fun c =>
    if c.wave.handler then fragmentFault c 0x0F (openInfo s) s else enterWait c (.bar w) s .waitBar

/-- SBAR (R216, R34). -/
def execSbar (w : BitVec 3) (s : State) : Host.Outcome State Fault Refusal :=
  issueForm (.sbar w) s fun c =>
    if c.wave.handler ∨ c.blk.sets.length ≤ modeSetSlot c.frag.mode then fragmentFault c 0x0F (openInfo s) s
    else enterWait c (.sbar w) s .waitSbar

/-! ### Traps -/

/-- A form that faults the lanes of ACTIVE; the others complete it, and with none it has no effect (R217, R254). -/
def trapForm (i : Instr) (code : Nat) (k : BitVec 14) (s : State) : Host.Outcome State Fault Refusal :=
  issueForm i s fun c =>
    let act := issueActive s c
    if act = 0 then complete c i s {}
    else takeFault c { code := code, lanes := act, info := k.setWidth 64 } s (complete c i s {})

/-- TRAP (R217). -/
def execTrap (w : BitVec 3) (k : BitVec 14) (s : State) : Host.Outcome State Fault Refusal :=
  trapForm (.trap w k) 0x14 k s

/-- BKPT (R254): source 0 in FLT.INFO (R353); an HREL replay of its entry issues it once without comparator checks. -/
def execBkpt (w : BitVec 3) (k : BitVec 14) (s : State) : Host.Outcome State Fault Refusal :=
  trapForm (.bkpt w k) 0x13 k s

end Sys2Proof.Machine
end

