-- ==== Sys2Proof/Machine/Press.lean ====
section
/-! DEFINITION. The Press's arithmetic (R66, R67, R88) and the conversions of the engines (R62, R230, R235, R236). -/

namespace Sys2Proof.Machine

/-- MODE with another TYPE. -/
def withType (mode : BitVec 32) (t : Nat) : BitVec 32 := setModeGroup mode 1 t

/-- One step of a sum: the accumulator's value with its tag, and the exceptions gathered. -/
structure AccStep where
  bits : BitVec 64
  tag : Tag
  exc : Exc := 0
  deriving DecidableEq, Repr

/-- An operand of a product: its value, its tag after sig_norm, and its format's p. -/
structure Factor where
  v : FVal
  tag : Nat
  p : Nat
  deriving DecidableEq, Repr

/-- A Press operand of a floating-point format (R47, R52). -/
def factorOf (mode : BitVec 32) (fmt : Nat) (e : Elem) : Factor :=
  ⟨if isBx fmt then bxLane fmt e.bits else flushIn fmt (modeFtz mode) (decodeF fmt e.bits),
   sigNorm e.tag (precision fmt), precision fmt⟩

/-- T_term of R88. -/
def termTag (pAcc : Nat) (a w : Factor) : Nat :=
  if a.tag = a.p ∧ w.tag = w.p then pAcc
  else
    let pin := min a.p w.p
    sigMul (min a.tag pin) (min w.tag pin) pin

/-- An exact partial S with its tag T_S and the exceptions of its products (R66, R88). -/
def partialSum (t rm pAcc : Nat) (l : List (Factor × Factor)) : FIn × Exc :=
  let vals := l.flatMap fun e => [e.1.v, e.2.v]
  let prods := l.map fun e => (exactMul e.1.v e.2.v, termTag pAcc e.1 e.2)
  let infs := prods.filterMap fun e => match e.1 with | some (.inf n) => some n | _ => none
  if vals.any (·.isNan) then
    (⟨.nan false, 0⟩, nanExc vals ||| (if l.any fun e => !e.1.v.isNan && !e.2.v.isNan && (exactMul e.1.v e.2.v).isNone
      then excInvalid else 0) ||| (if infs.contains true && infs.contains false then excInvalid else 0))
  else if prods.any fun e => e.1.isNone then (⟨.nan false, 0⟩, excInvalid)
  else if infs.contains true && infs.contains false then (⟨.nan false, 0⟩, excInvalid)
  else
    match infs with
    | n :: _ => (⟨.inf n, 0⟩, 0)
    | [] =>
      let terms := prods.filterMap fun e => match e.1 with | some (.fin n m x) => some (n, m, x, e.2) | _ => none
      let q := (terms.map fun e => e.2.2.1).foldl min ((terms.map fun e => e.2.2.1).headD 0)
      let z := terms.foldl (fun z e => z + scaledInt e.1 e.2.1 e.2.2.1 q) (0 : Int)
      if z = 0 then
        let neg := (terms.headD (false, 0, 0, 0)).1
        let same := terms.all fun e => e.2.1 == 0 && e.1 == neg
        (⟨.fin (if same then neg else rm == 3) 0 0, if terms.all fun e => e.2.2.2 == pAcc then pAcc else 0⟩, 0)
      else
        let s : FVal := .fin (z < 0) z.natAbs q
        let us := terms.map fun e => expOf t (.fin e.1 e.2.1 e.2.2.1) - e.2.2.2
        (⟨s, clampTag (expOf t s - us.foldl max (us.headD 0)) pAcc⟩, 0)

/-- acc := round(acc + S), with the tag of R88 and R76. -/
def accAdd (mode : BitVec 32) (t : Nat) (a : AccStep) (s : FIn × Exc) : AccStep :=
  let m := withType mode t
  let l := uncompared t (addF (roundTo m) (inF t m a.bits) s.1.v)
    (sigAdd t (precision t) (finOf t m (a.bits, a.tag)) s.1 (addF (roundTo m) (inF t m a.bits) s.1.v))
  ⟨l.bits, l.tag, a.exc ||| s.2 ||| l.exc⟩

/-- Groups of four, ascending (R66). -/
def fours {α : Type} : List α → List (List α)
  | a :: b :: c :: d :: r => [a, b, c, d] :: fours r
  | [] => []
  | l => [l]

/-- An element of BF16, F16 or TF32 inputs (R66). -/
def dotF32 (mode : BitVec 32) (acc : AccStep) (l : List (Factor × Factor)) : AccStep :=
  (fours l).foldl (fun a g => accAdd mode tyF32 a (partialSum tyF32 (modeRound mode) 24 g)) acc

/-- An element of F64 inputs: one fused step per K (R66, R88). -/
def dotF64 (mode : BitVec 32) (acc : AccStep) (l : List (Factor × Factor)) : AccStep :=
  let m := withType mode tyF64
  l.foldl (fun a e =>
    let c := finOf tyF64 m (a.bits, a.tag)
    let x := fmaF (roundTo m) e.1.v e.2.v c.v
    let tag := match exactMul e.1.v e.2.v with
      | some prod => sigAdd tyF64 53 ⟨prod, termTag 53 e.1 e.2⟩ c x
      | none => 0
    let r := uncompared tyF64 x tag
    ⟨r.bits, r.tag, a.exc ||| r.exc⟩) acc

/-- An element of I8 inputs (R66). -/
def dotI32 (acc : AccStep) (l : List (Elem × Elem)) : AccStep :=
  let z := l.foldl (fun z e => z + intVal tyI8 e.1.bits * intVal tyI8 e.2.bits) (intVal tyI32 acc.bits)
  ⟨wrapInt 32 z, 62, acc.exc⟩

/-- Fields of a BX element in its register form (R59): selector, and the exponent it selects. -/
def bxSelector (fmt : Nat) (e : Elem) : Nat := if e.bits.getLsbD (bxBits fmt) then 1 else 0
def bxExponent (e : Elem) (sel : Nat) : Nat := (e.bits.extractLsb' (8 + 8 * sel) 8).toNat

/-- A BX element without its exponents' special value: the finite product is formed from its fields. -/
def bxFactor (fmt : Nat) (e : Elem) : Factor :=
  let m := bxBits fmt
  let mag := (e.bits.toNat % 2 ^ m : Nat)
  let neg := e.bits.getLsbD (m + 1)
  ⟨.fin neg mag ((bxExponent e (bxSelector fmt e) : Int) - 127 - m), sigNorm e.tag (precision fmt), precision fmt⟩

/-- A row of two BX formats (R67): blocks of 32, then selector pairs. -/
def dotBx (mode : BitVec 32) (fa fw : Nat) (acc : AccStep) (l : List (Elem × Elem)) : AccStep :=
  let blocks := [l.take 32, l.drop 32]
  blocks.foldl (fun a b =>
    ([(0, 0), (0, 1), (1, 0), (1, 1)] : List (Nat × Nat)).foldl (fun a ij =>
      let g := b.filter fun e => bxSelector fa e.1 == ij.1 && bxSelector fw e.2 == ij.2
      if g.isEmpty then a
      else if g.any fun e => bxExponent e.1 ij.1 == 0xFF || bxExponent e.2 ij.2 == 0xFF then
        ⟨canonicalNan tyF32, 0, a.exc ||| excInvalid⟩
      else
        accAdd mode tyF32 a (partialSum tyF32 (modeRound mode) 24 (g.map fun e => (bxFactor fa e.1, bxFactor fw e.2))))
      a) acc

/-- The accumulator type of a format (R228). -/
def accType (fmt : Nat) : Nat := if fmt = tyF64 then tyF64 else if fmt = tyI8 then tyI32 else tyF32

/-- One accumulator element of an MMA (R228): a row against a column, with the significance comparison of R91 after the
last rounding. -/
def mmaElement (mode : BitVec 32) (fa fw : Nat) (acc : AccStep) (row col : List Elem) : AccStep :=
  let pairs := row.zip col
  if fa = tyI8 then dotI32 acc pairs
  else
    let r :=
      if isBx fa then dotBx mode fa fw acc pairs
      else
        let fs := pairs.map fun e => (factorOf mode fa e.1, factorOf mode fw e.2)
        if fa = tyF64 then dotF64 mode acc fs else dotF32 mode acc fs
    { r with exc := r.exc ||| sigExc mode r.tag.toNat }

/-- Whether an MMA's activation format pairs with the latched one (R228). -/
def formatsPair (fa fw : Nat) : Bool := fa == fw || (isBx fa && isBx fw)

/-- The formats of WLOAD and MMA records (R227). -/
def pressFormat (t : Nat) : Bool := [tyF16, tyBF16, tyTF32, tyF64, tyI8, tyBX8, tyBX6, tyBX4].contains t

/-- Whether the Mangle converts one format to another (R235), a BX destination included. -/
def converts (src dst : Nat) : Bool :=
  src == dst ||
    (if isBx dst then isFloat src
     else if isBx src then isFloat dst
     else if isInt src then isInt dst || isFloat dst
     else if isInt dst then isFloat src
     else true)

/-- One element converted between formats (R62, R63, R78), a BX destination apart; equal formats are converted as well, as
ACCRD and ACCLD do (R89, R230; log entry 31). -/
def convertValue (mode : BitVec 32) (src dst : Nat) (x : Elem) : LaneRes :=
  if isInt dst then
    if isInt src then ⟨wrapInt (tyBits dst) (satInt dst (intVal src x.bits)), 62, 0⟩
    else
      let (z, e) := floatToInt dst (modeRound mode) (flushIn src (modeFtz mode) (decodeF src x.bits))
      ⟨wrapInt (tyBits dst) z, 62, e⟩
  else if isInt src then
    compared dst mode (intToFloat (roundTo (withType mode dst)) (intVal src x.bits)) (precision dst)
  else convertLane (withType mode dst) src (x.bits, x.tag)

/-- An element of a Mangle operation: between equal formats its bits and tag as they are (R235, R90). -/
def convertElem (mode : BitVec 32) (src dst : Nat) (x : Elem) : LaneRes :=
  if src = dst then ⟨x.bits, x.tag, 0⟩ else convertValue mode src dst x

/-- A block of 32 elements quantised (R60, R61); `fixed` gives E0 and E1 of a QUANT with FIXE (R236). -/
def quantiseElems (mode : BitVec 32) (src dst : Nat) (fixed : Option (Nat × Nat)) (l : List Elem) : List LaneRes :=
  let ins := l.map fun e => FIn.mk (flushIn src (modeFtz mode) (decodeF src e.bits)) (sigNorm e.tag (precision src))
  let b := match fixed with
    | none => quantise dst (modeRound mode) ins
    | some (e0, e1) =>
      let special := ins.any fun x => x.v.isNan || x.v.isInf
      let e1 := if special then 0xFF else e1
      ⟨e0, e1, ins.map (bxElement dst (modeRound mode) e0 e1 special false), false⟩
  b.elems.map fun e =>
    ⟨BitVec.ofNat 64 (e.el + 256 * b.e0 + 65536 * b.e1), BitVec.ofNat 6 e.tag,
     e.exc ||| (if b.overflow then excOverflow else 0) ||| sigExc mode e.tag⟩

/-! ### Accumulator rows (R229) -/

/-- The physical accumulator cell of a logical element. -/
def accCell (b : Block) (base t r n : Nat) : Nat :=
  (b.accBase + base + (if t = tyF64 then 2 * r else r)) * 64 + n

/-- An accumulator element under a type. -/
def accGet (k : Core) (b : Block) (base t r n : Nat) : AccStep :=
  let a := accCell b base t r n
  let lo := cellGet ({} : VReg) a k.acc
  if t = tyF64 then ⟨(cellGet ({} : VReg) (a + 64) k.acc).val ++ lo.val, lo.tag, 0⟩
  else ⟨lo.val.setWidth 64, lo.tag, 0⟩

/-- Writes an accumulator element; the tag is held with bits [31:0]. The cell of bits
[63:32] of an F64 element gets tag 62 (DESIGN CHOICE, log entry 122: R229 gives that cell no tag). -/
def accPut (k : Core) (b : Block) (base t r n : Nat) (v : BitVec 64) (tag : Tag) : Core :=
  let a := accCell b base t r n
  let m := cellSet {} a ⟨v.extractLsb' 0 32, tag⟩ k.acc
  if t = tyF64 then { k with acc := cellSet {} (a + 64) ⟨v.extractLsb' 32 32, 62⟩ m } else { k with acc := m }

/-- The 64 column numbers. -/
def columns : List Nat := List.range 64

/-- Zeroes a row with tag 62 (R230). -/
def accZero (k : Core) (b : Block) (base t r : Nat) : Core := columns.foldl (fun k n => accPut k b base t r n 0 62) k

/-- Column n of W, along K (R227). -/
def tileColumn (tile : List Elem) (n : Nat) : List Elem := (tile.drop (64 * n)).take 64

/-- A row accumulated against the tile, with the exceptions of its elements. -/
def mmaRow (mode : BitVec 32) (fa fw : Nat) (k : Core) (b : Block) (base r : Nat) (row tile : List Elem) : Core × Exc :=
  let t := accType fa
  columns.foldl (fun (x : Core × Exc) n =>
    let y := mmaElement mode fa fw (accGet x.1 b base t r n) row (tileColumn tile n)
    (accPut x.1 b base t r n y.bits y.tag, x.2 ||| y.exc)) (k, 0)

end Sys2Proof.Machine
end

