-- ==== Sys2Proof/Machine/EngineIssue.lean ====
section
/-! DEFINITION. Issuing an engine operation (R219 to R222, R226 to R240): the parameter word, the issue checks, the
footprints of R285 and R286, the operation table, the iron, and CANCEL, OPQ and OPWAIT. -/

namespace Sys2Proof.Machine

/-! ### The parameter word -/

/-- A bit field of the parameter word. -/
def pField (p : BitVec 64) (lo n : Nat) : Nat := p.toNat / 2 ^ lo % 2 ^ n

def pPost (p : BitVec 64) : Bool := p.getLsbD 5
def pPort (p : BitVec 64) : Nat := pField p 0 5

/-- The bits of P that a form reserves (R220 to R238). -/
def reservedBits (f : OpForm) : BitVec 64 :=
  match f with
  | .wload => 0xF000F000000000C0
  | .mma | .accz | .accrd | .accld => 0x80000000000000C0
  | .copy => 0xC0
  | .gather | .scat => 0xFFFFFFC00000E0C0
  | .quant => 0xFFFFFFFFFF0000C0
  | .coll => 0xFFFF00000000C0C0

/-- Fields of the parameter words. -/
def wloadKoff (p : BitVec 64) : Nat := pField p 28 16
def wloadRow (p : BitVec 64) : Nat := pField p 8 20
def wloadGen (p : BitVec 64) : Nat := pField p 48 12
def rowsOf (p : BitVec 64) : Nat := pField p 8 10
def accBaseOf (p : BitVec 64) : Nat := pField p 18 9
def firstRow (p : BitVec 64) : Nat := pField p 27 20
def colOff (p : BitVec 64) : Nat := pField p 47 16
def copyNx (p : BitVec 64) : Nat := pField p 8 4
def copyList (p : BitVec 64) : Nat := pField p 12 52
def gatherLen (p : BitVec 64) : Nat := pField p 16 22
def gatherRec (p : BitVec 64) : Nat := pField p 8 5
def collGroup (p : BitVec 64) : Nat := pField p 32 16
def collRoot (p : BitVec 64) : Nat := pField p 16 16
def collRop (p : BitVec 64) : Nat := pField p 11 3
def collKind (p : BitVec 64) : Nat := pField p 8 3

/-- ACCT of F[1:0] (R229). -/
def flagType (flags : Nat) : Nat := match flags % 4 with | 0 => tyF32 | 1 => tyF64 | _ => tyI32

/-- The accumulator type of a Press form's rows. -/
def opAccType (form : OpForm) (flags : Nat) (da : Rec) : Nat :=
  match form with
  | .mma => accType (recFormat da)
  | _ => flagType flags

/-- A record's element count. -/
def recCount (r : Rec) : Nat := recExt0 r * recExt1 r * recExt2 r

/-- Whether a form has a source, a destination, and rows of the accumulator. -/
def readsDa (f : OpForm) : Bool := f != .accz && f != .accrd
def writesDw (f : OpForm) : Bool := f == .accrd || f == .copy || f == .gather || f == .scat || f == .quant || f == .coll
def usesRows (f : OpForm) : Bool := f == .mma || f == .accz || f == .accrd || f == .accld

/-- The engine of a form: 0 Press, 1 Mangle, 2 collective (R222). -/
def engineOf (f : OpForm) : Nat :=
  match f with
  | .wload | .mma | .accz | .accrd | .accld => 0
  | .copy | .gather | .scat | .quant => 1
  | .coll => 2

/-- The slots of an engine (R222). -/
def engineSlots (e : Nat) : Nat × Nat := match e with | 0 => (0, 8) | 1 => (8, 24) | _ => (24, 28)

/-! ### Issue checks (R221) -/

/-- Reserved values of P. -/
def paramReserved (f : OpForm) (flags : Nat) (p : BitVec 64) : Bool :=
  p &&& reservedBits f != 0 ||
    (match f with
     | .mma | .accrd | .accld => rowsOf p == 0 || 512 < rowsOf p
     | .accz => rowsOf p == 0 || 512 < rowsOf p || colOff p != 0 || firstRow p != 0
     | .copy => 8 ≤ copyNx p || (copyNx p == 0 && copyList p != 0)
     | .gather | .scat => gatherLen p == 0
     | .quant =>
       if flags % 2 = 0 then pField p 8 16 != 0 else pField p 16 8 < pField p 8 8 || 254 < pField p 16 8
     | .coll =>
       3 ≤ collRop p || 5 ≤ collKind p || (collKind p != 1 && collKind p != 2 && collRoot p != 0)
     | .wload => false)

/-- PORT of a posting form is beyond PORTS or a counting port. -/
def portBad (b : Block) (p : BitVec 64) : Bool := pPost p && (b.hdr.ports ≤ pPort p || (b.counting (pPort p)).isSome)

/-- Whether an address or stride is a multiple of a record's element size; BX formats are exempt (R221). -/
def strideOk (r : Rec) (z : Int) : Bool := isBx (recFormat r) || z % (tySize (recFormat r) : Int) == 0

/-- A record that an engine accepts: aligned in SPACE 0 or 1, of no BX FORMAT and no shadow tags in SPACE 2 (R221, R301),
and within R36. -/
def engineRecordOk (r : Rec) : Bool :=
  (recCheck r).isNone &&
    (if recSpace r = 2 then !isBx (recFormat r) && recTagMode r != 1
     else strideOk r (recBase r) && strideOk r (recStride1 r) && strideOk r (recStride2 r))

/-- Whether a form accepts its records' formats and spaces (R227 to R238). -/
def formatsOk (f : OpForm) (flags : Nat) (da dw irec : Rec) : Bool :=
  let a := recFormat da
  let w := recFormat dw
  match f with
  | .wload | .mma => pressFormat a
  | .accz => true
  | .accrd => !isBx w
  | .accld => if flagType flags = tyI32 then [tyI8, tyI16, tyI32].contains a else isFloat a
  | .copy => converts a w
  | .quant => isFloat a && isBx w
  | .gather | .scat =>
    !isBx a && !isBx w && converts a w && (recFormat irec == tyI32 || recFormat irec == tyU32) && recSpace irec != 2
  | .coll => recSpace da != 2 && recSpace dw != 2 && a == w && (a ≤ 3 || isFloat a)

/-- Whether counts and offsets are as the form requires. `ranks` is the size of a registered group, `root` whether this
block is its root. -/
def countsOk (f : OpForm) (p : BitVec 64) (da dw : Rec) (ranks : Option Nat) (root : Bool) : Bool :=
  match f with
  | .wload => !isBx (recFormat da) || wloadKoff p % 32 == 0
  | .mma | .accld => !isBx (recFormat da) || colOff p % 32 == 0
  | .copy | .quant =>
    !(isBx (recFormat dw) && !isBx (recFormat da)) || (recCount da % 32 == 0 && recExt0 dw % 32 == 0)
  | .coll =>
    let n := recCount da
    let m := recCount dw
    match collKind p with
    | 0 | 2 => n ≤ m
    | 1 => !root || n ≤ m
    | 3 => (match ranks with | some k => k * n ≤ m | none => true)
    | _ => (match ranks with | some k => n % k == 0 && n / k ≤ m | none => true)
  | _ => true

/-- Whether the accumulator rows lie within ACCROWS (R229). -/
def rowsFit (b : Block) (t : Nat) (p : BitVec 64) : Bool :=
  if t = tyF64 then accBaseOf p % 2 == 0 && accBaseOf p + 2 * rowsOf p ≤ b.hdr.accRows
  else accBaseOf p + rowsOf p ≤ b.hdr.accRows

/-- The group of a COLL as the block's context has registered it, and the block's rank in it (R238). The entries of this
device's blocks name its own endpoint. -/
def collGroupOf (s : State) (b : Block) (gid : Nat) : Option (CollGroup × Option Nat) :=
  (contextOf s b.asid).bind fun k =>
    (k.collGroups.find? fun g => g.gid == gid).map fun g =>
      (g, g.ranks.findIdx? fun e => e.1 == Config.endpoint && e.2.1 == b.launch && e.2.2 == b.lin)

/-- The checks of R221 but for COPY's extension list. Of several that fail at once, the order is 0x01,
0x05, 0x08 (DESIGN CHOICE, log entry 127: R221 gives none). -/
def issueCheck (s : State) (b : Block) (f : OpForm) (flags : Nat) (p : BitVec 64) (da dw irec : Rec) : Option Nat :=
  let g := if f = .coll then collGroupOf s b (collGroup p) else none
  let ranks := g.map fun x => x.1.ranks.length
  let root := (g.bind (·.2)) == some (collRoot p)
  if paramReserved f flags p || portBad b p then some 0x01
  else if !formatsOk f flags da dw irec || (usesRows f && !rowsFit b (opAccType f flags da) p) ||
      (readsDa f && !engineRecordOk da) || (writesDw f && !engineRecordOk dw) ||
      ((f == .gather || f == .scat) && !engineRecordOk irec) || !countsOk f p da dw ranks root ||
      (f == .accrd && isBx (recFormat dw)) then some 0x05
  else if writesDw f && recRo dw then some 0x08
  else none

/-! ### COPY's extension list (R234) -/

/-- One entry of the list, or none when its reserved field is set. -/
def xdimOf (v : BitVec 128) : Option XDim :=
  if v.extractLsb' 112 16 ≠ 0 then none
  else some ⟨(v.extractLsb' 0 32).toNat, (v.extractLsb' 32 40).toInt, (v.extractLsb' 72 40).toInt⟩

/-- What the read of the list gives. -/
inductive ListRead where
  | ok (s : State) (l : List XDim)
  | bad (code : Nat) (info : BitVec 64) (walk : Bool)
  /-- poison in an entry, whose record the log takes -/
  | poison (s : State) (info : BitVec 64)

/-- The list read as plain loads by the issuing wave: `n` entries from a virtual address. -/
def readList (s : State) (c : Ctx) (da dw : Rec) (va : Nat) : Nat → ListRead
  | 0 => .ok s []
  | n + 1 =>
    match translateBytes s c.core c.blk.asid accRead 0 va 16 with
    | (_, .error (code, a)) => .bad code (BitVec.ofNat 64 a) true
    | (s, .ok l) =>
      let x : Store := .phys (some (c.core, c.ref.block))
      if x.poisoned s l then .poison (poisonEvent s c.core c.blk.asid ((l.find? (x.badByte s)).getD 0)) (BitVec.ofNat 64 va)
      else
        match xdimOf (BitVec.ofNat 128 (x.nat s l)) with
        | none => .bad 0x01 (BitVec.ofNat 64 va) false
        | some d =>
          if (recSpace da != 2 && !strideOk da d.sStride) || (recSpace dw != 2 && !strideOk dw d.dStride) then
            .bad 0x05 0 false
          else
            match readList (x.touch s l) c da dw (va + 16) n with
            | .ok s r => .ok s (d :: r)
            | e => e

/-! ### Footprints (R285, R286) -/

/-- lo and hi of a record's data, over its dimensions above 0 as extent and stride. -/
def hullRange (r : Rec) (dims : List (Nat × Int)) : Int × Int :=
  let row : Int := ((recExt0 r * elemBits (recFormat r) + 7) / 8 : Nat)
  dims.foldl (fun (x : Int × Int) e =>
    let z := ((e.1 : Int) - 1) * e.2
    (x.1 + min 0 z, x.2 + max 0 z)) ((recBase r : Int), (recBase r : Int) + row)

/-- Ceiling division. -/
def ceilDiv (a : Int) (b : Nat) : Int := -((-a) / (b : Int))

/-- A scratchpad hull in physical granules, empty hulls left out (R285). -/
def scratchHull (b : Block) (r : Rec) (xs : List (Nat × Int)) (tags : Bool) : Option (Nat × Nat) :=
  let dims := [(recExt1 r, recStride1 r), (recExt2 r, recStride2 r)] ++ xs
  if recExt0 r = 0 ∨ dims.any fun e => e.1 == 0 then none
  else
    let (lo, hi) := hullRange r dims
    let base : Int := recBase r
    let t := recFormat r
    let size : Nat := elemBits t / 8
    let more : List (Int × Int) :=
      (if isBx t then
        let d : Int := (32 * elemBits t / 8 : Nat)
        [(base + recAux r + 2 * ((lo - base) / d), base + recAux r + 2 * ceilDiv (hi - base) d.toNat)] else []) ++
      (if tags then
        let n := if isBx t then 1 else size
        let el (z : Int) : Int := if isBx t then z * 8 / (elemBits t : Int) else z / (n : Int)
        [(base + recAux r + el (lo - base), base + recAux r + (if isBx t then ceilDiv ((hi - base) * 8) (elemBits t)
          else ceilDiv (hi - base) n))] else [])
    let lo := more.foldl (fun m e => min m e.1) lo
    let hi := more.foldl (fun m e => max m e.2) hi
    let lo := max lo 0
    let hi := min hi b.hdr.scratch
    if hi ≤ lo then none
    else some ((b.pbase + lo.toNat) / 32, (b.pbase + hi.toNat + 31) / 32)

/-- One footprint: record role, granules, whether it writes, and the role in a bank. -/
structure Footprint where
  role : Nat
  lo : Nat
  hi : Nat
  write : Bool
  fifo : Option Bool

/-- The footprint of one record. -/
def footprint (b : Block) (role : Nat) (r : Rec) (xs : List (Nat × Int)) (write : Bool) : Option Footprint :=
  let tags := recTagMode r == 1
  match recSpace r with
  | 1 => (scratchHull b r xs tags).map fun h => ⟨role, h.1, h.2, write, none⟩
  | 2 => (b.fifo? (recBase r % 16)).map fun f => ⟨role, f.bank * 2048, f.bank * 2048 + 2048, write, some write⟩
  | _ => none

/-- The one footprint of a record that an operation reads and writes (R284): both sides' bytes (R285), as written. -/
def Footprint.both (r w : Option Footprint) : Option Footprint :=
  match r, w with
  | some x, some y => some { y with lo := min x.lo y.lo, hi := max x.hi y.hi }
  | some x, none => some { x with role := 1, write := true, fifo := x.fifo.map fun _ => true }
  | none, y => y

/-- The footprints of an operation (R284): one for each record it names. `ra` and `rw` are the slots of DA and DW, `ri` that of
the index record. -/
def footprints (b : Block) (f : OpForm) (da dw irec : Rec) (xs : List XDim) (ra rw ri : Nat) : List Footprint :=
  let src := footprint b 0 da (xs.map fun x => (x.extent, x.sStride)) false
  let dst := footprint b 1 dw (xs.map fun x => (x.extent, x.dStride)) true
  let index := if (f == .gather || f == .scat) && ri != ra && ri != rw then (footprint b 2 irec [] false).toList else []
  (match readsDa f, writesDw f with
   | true, true => if ra = rw then (Footprint.both src dst).toList else src.toList ++ dst.toList
   | true, false => src.toList
   | false, true => dst.toList
   | false, false => []) ++ index

/-- The free entries among the two reserved to a block (R284). -/
def reservedFree (k : Core) (block : Nat) : Nat := 2 - (k.sb.filter fun e => e.block == block && e.reserved).length

/-- The free shared entries of a core (R284). -/
def sharedFree (k : Core) : Nat :=
  Config.scoreboardEntries - 2 * (k.blocks.filter fun e => e.1 < supervisorHandle).length -
    (k.sb.filter fun e => !e.reserved).length

/-- Whether a core has room for `n` more entries of a block (R284). -/
def scoreboardRoom (k : Core) (block n : Nat) : Bool := n ≤ reservedFree k block + sharedFree k

/-! ### The tiles that irons pin (R298, R299) -/

/-- The key of a block's latched tile (R299): a tile of a SPACE 0 record has no owner, and every other is its block's. -/
def tileKey (b : Block) (block : Nat) (x : Latched) : TileKey :=
  let t := recFormat x.record
  { asid := b.asid, owner := if recSpace x.record = 0 then none else some block, base := recBase x.record, fmt := t,
    koff := wloadKoff x.param, wrow := wloadRow x.param, scales := recAux x.record, gen := wloadGen x.param,
    units := if t = tyF64 then 4 else if t = tyTF32 then 2 else 1 }

/-- The tile that a held iron of a block would pin. -/
def ironTile (k : Core) (h : Nat) : Option TileKey :=
  (tabGet h k.blocks).bind fun b => if b.iron.isSome then b.latched.map (tileKey b h) else none

/-- The pins in force: those whose block still holds its iron and the same tile. -/
def Core.pinned (k : Core) : List (Nat × TileKey) := k.press.pins.filter fun e => ironTile k e.1 == some e.2

/-- The units of some tiles. -/
def tileUnits (l : List TileKey) : Nat := (l.eraseDups).foldl (fun n z => n + z.units) 0

/-- A block that holds its iron pins its tile, unless more than 8 units would be pinned. -/
def Core.pin (k : Core) (h : Nat) : Core :=
  let l := k.pinned
  let l := match ironTile k h with
    | some y => if (l.any fun e => e.1 == h) || 8 < tileUnits (y :: l.map (·.2)) then l else l ++ [(h, y)]
    | none => l
  { k with press := { k.press with pins := l } }

/-- The pins after a block has taken its iron or latched a tile. -/
def pinTile (s : State) (c h : Nat) : State := modCore s c fun k => k.pin h

/-! ### The operation table -/

/-- Whether an operation is live: QUEUED, RUNNING or STALLED. -/
def Op.live (o : Op) : Bool := o.st != .done

/-- The identifier of an operation (R222). -/
def opId (f : OpForm) (slot seq : Nat) : BitVec 64 := BitVec.ofNat 64 (seq % 2 ^ 24 * 256 + engineOf f * 32 + slot)

/-- The operation that an identifier names. -/
def Block.opOf (b : Block) (id : BitVec 64) : Option Op := b.ops.find? fun o => opId o.form o.slot o.seq == id

/-- The slot that an issue takes: the engine's least recently freed one (R222). -/
def Block.freeSlot (b : Block) (engine : Nat) : Option Nat :=
  let (lo, hi) := engineSlots engine
  b.opFree.find? fun k => lo ≤ k && k < hi

/-- Changes an operation. -/
def Block.modOp (b : Block) (slot : Nat) (f : Op → Op) : Block :=
  { b with ops := b.ops.map fun o => if o.slot = slot then f o else o }

/-- The wait of a queued issue, if it must wait, in the order of R220; last for the wave's earlier stores, since the issue is a
release (R327), at which the wave is held (R350). -/
def issueWait (s : State) (c : Ctx) (f : OpForm) (p : BitVec 64) (n : Nat) : Option Wait :=
  if engineOf f = 0 && (c.blk.iron.any fun w => w != c.wave.idx) then some .iron
  else if (c.blk.freeSlot (engineOf f)).isNone then some (.engineQueue (engineOf f))
  else if pPost p && !c.blk.hasRoom (pPort p) then some (.enginePort (pPort p))
  else if !scoreboardRoom (coreOf s c.core) c.ref.block n then some (.scoreboardRoom n)
  else if !storesSettled s c then some .settled
  else none

/-- How many COLLs the block has issued on a group: the k of the next one (R238). -/
def nextPairing (b : Block) (gid : Nat) : Nat :=
  match b.pairings.find? fun e => e.1 == gid with | some e => e.2 | none => 0

/-- An operation enters its queue (R220): slot, reservation, scoreboard entries, and its identifier in S. -/
def enqueueOp (i : Instr) (s : State) (c : Ctx) (x : Code) (op : Op) (fs : List Footprint) : State :=
  let p := op.param
  let made := s.cycle
  let s := modCore s c.core fun k =>
    let add := fs.zipIdx.map fun e =>
      (⟨c.ref.block, op.slot, e.1.role, e.1.lo, e.1.hi, e.1.write, e.1.fifo, e.2 < reservedFree k c.ref.block, k.sbSeq + e.2,
        made⟩ : SbEntry)
    { k with sb := k.sb ++ add, sbSeq := k.sbSeq + fs.length }
  let s := modBlock s c.core c.ref.block fun b =>
    let b := if pPost p then b.modPort (pPort p) fun q => { q with rsv := q.rsv + 1 } else b
    { b with
      ops := (b.ops.filter fun o => o.slot != op.slot) ++ [op]
      opSeq := b.opSeq + 1
      opFree := b.opFree.filter (· != op.slot)
      pairings := if op.form = .coll then
          (b.pairings.filter fun e => e.1 != collGroup p) ++ [(collGroup p, op.pairing + 1)]
        else b.pairings }
  let s := if op.form = .coll then forceCheckpoint s c.core c.ref.block else s
  completeLater c i s { ss := [(x.toNat - 64, ⟨opId op.form op.slot op.seq, 62⟩)] }

/-- What the read of COPY's list waits for, as a load of the wave does (R192, R327, R349). -/
def listWait (s : State) (c : Ctx) (va bytes : Nat) : Option Wait :=
  if bytes = 0 then none
  else if !barrierSettled s c.core c.ref.block c.wave then some .barrier
  else if heldByStores c.wave (waveRecords s c) [(va, bytes)] then some (.overlap [(va, bytes)])
  else if orderHolds s c .plain false then some .settled
  else
    match translateBytes s c.core c.blk.asid accRead 0 va bytes with
    | (_, .error _) => none
    | (s', .ok l) => physWait s' c false false l

/-- The records that an engine form copies when it issues. -/
def engineCopy (c : Ctx) (f : OpForm) (p : BitVec 64) (ra rw : BitVec 5) : EngineCopy :=
  { da := if readsDa f then c.record ra else 0, dw := if writesDw f then c.record rw else 0
    irec := if f = .gather ∨ f = .scat then c.record (BitVec.ofNat 5 (gatherRec p)) else 0 }

/-- A wait of an engine form, which keeps what it has copied: records that change meanwhile do not reach it (R220). -/
def waitCopied (s : State) (c : Ctx) (w : Wait) (k : EngineCopy) : State :=
  withFrag (waitEvent s c w) c fun f => { f with copied := some k }

/-- The issue behind the copies and their checks: the waits, then the operation. -/
def issueOp (i : Instr) (s : State) (c : Ctx) (f : OpForm) (x : Code) (p : BitVec 64) (ra rw : BitVec 5) (flags : Nat)
    (k : EngineCopy) (xs : List XDim) : State :=
  let fs := footprints c.blk f k.da k.dw k.irec xs ra.toNat rw.toNat (gatherRec p)
  match issueWait s c f p fs.length with
  | some w => waitCopied s c w { k with xdims := some xs }
  | none =>
    let op : Op :=
      { slot := (c.blk.freeSlot (engineOf f)).getD 0, seq := c.blk.opSeq, form := f, param := p,
        mode := c.frag.mode, flags := flags, da := k.da, dw := k.dw, irec := k.irec, xdims := xs, wave := c.wave.idx,
        pairing := if f = .coll then nextPairing c.blk (collGroup p) else 0, after := s.nextIdent }
    enqueueOp i s c x op fs

/-- COPY's list, read behind the copies of the records, then the issue. -/
def issueListed (i : Instr) (s : State) (c : Ctx) (f : OpForm) (x : Code) (p : BitVec 64) (ra rw : BitVec 5) (flags : Nat)
    (k : EngineCopy) : State :=
  let va := copyList p * 32
  let nx := if f = .copy then copyNx p else 0
  match listWait s c va (16 * nx) with
  | some w => waitCopied s c w k
  | none =>
    match readList s c k.da k.dw va nx with
    | .bad code info walk =>
      takeFault c { code := code, lanes := c.frag.members, info := if code = 5 then p else info, whole := true,
                    walk := walk, access := if walk then accRead else 0 } s s
    | .poison s' info =>
      let fi : FaultInfo := { code := 0x17, lanes := c.frag.members, info := info, whole := true }
      if hamperRoom s c then takeFault c fi s' s' else takeFault c fi s s
    | .ok s' xs => issueOp i s' c f x p ra rw flags k xs

/-- A QUEUED ENGINE FORM (R220): the copies and their checks, COPY's list, the waits, then the operation. One that has waited
goes on from its copies. `ra` and `rw` are its record fields. -/
def engineForm (i : Instr) (f : OpForm) (x : Code) (ra rw : BitVec 5) (flags : Nat) (s : State) :
    Host.Outcome State Fault Refusal :=
  issueForm i s fun c =>
    let p := (readS s c (x.toNat - 64)).val
    match c.frag.copied with
    | some k =>
      (match k.xdims with
       | some xs => issueOp i s c f x p ra rw flags k xs
       | none => issueListed i s c f x p ra rw flags k)
    | none =>
      let k := engineCopy c f p ra rw
      match issueCheck s c.blk f flags p k.da k.dw k.irec with
      | some code => takeFault c { code := code, lanes := c.frag.members, info := p, whole := true,
                                   access := if code = 8 then accWrite else 0 } s s
      | none => issueListed i s c f x p ra rw flags k

/-- WLOAD (R227). -/
def execWload (w : BitVec 3) (k : Code) (x : BitVec 5) (s : State) : Host.Outcome State Fault Refusal :=
  engineForm (.wload w k x) .wload k x 0 0 s
/-- MMA (R228). -/
def execMma (w : BitVec 3) (k : Code) (x : BitVec 5) (s : State) : Host.Outcome State Fault Refusal :=
  engineForm (.mma w k x) .mma k x 0 0 s
/-- ACCZ (R230). -/
def execAccz (w : BitVec 3) (k : Code) (f : BitVec 2) (s : State) : Host.Outcome State Fault Refusal :=
  engineForm (.accz w k f) .accz k 0 0 f.toNat s
/-- ACCRD (R230). -/
def execAccrd (w : BitVec 3) (k : Code) (y : BitVec 5) (f : BitVec 3) (s : State) : Host.Outcome State Fault Refusal :=
  engineForm (.accrd w k y f) .accrd k 0 y f.toNat s
/-- ACCLD (R230). -/
def execAccld (w : BitVec 3) (k : Code) (x : BitVec 5) (f : BitVec 2) (s : State) : Host.Outcome State Fault Refusal :=
  engineForm (.accld w k x f) .accld k x 0 f.toNat s
/-- COPY (R233). -/
def execCopy (w : BitVec 3) (k : Code) (x y : BitVec 5) (s : State) : Host.Outcome State Fault Refusal :=
  engineForm (.copy w k x y) .copy k x y 0 s
/-- GATHER (R237). -/
def execGather (w : BitVec 3) (k : Code) (x y : BitVec 5) (s : State) : Host.Outcome State Fault Refusal :=
  engineForm (.gather w k x y) .gather k x y 0 s
/-- SCAT (R237). -/
def execScat (w : BitVec 3) (k : Code) (x y : BitVec 5) (s : State) : Host.Outcome State Fault Refusal :=
  engineForm (.scat w k x y) .scat k x y 0 s
/-- QUANT (R236). -/
def execQuant (w : BitVec 3) (k : Code) (x y : BitVec 5) (f : BitVec 1) (s : State) : Host.Outcome State Fault Refusal :=
  engineForm (.quant w k x y f) .quant k x y f.toNat s
/-- COLL (R238). -/
def execColl (w : BitVec 3) (k : Code) (x y : BitVec 5) (s : State) : Host.Outcome State Fault Refusal :=
  engineForm (.coll w k x y) .coll k x y 0 s

/-! ### The iron (R231, R232) -/

/-- A system message of a wave, seen from the next cycle. -/
def systemMsg (s : State) (c : Ctx) (payload : BitVec 64) (rel : Option Nat) : Msg :=
  ⟨payload, senderId c.wave.idx c.blk.lin, 3, 0, rel, s.cycle + 1⟩

/-- Whether a message that the wave has sent to a port of its own block is still on its way (R318). -/
def sentBefore (s : State) (c : Ctx) (port : Nat) : Bool :=
  s.net.any fun m => m.core == c.core && m.sender.block == c.ref.block && m.sender.wave == c.wave.idx &&
    m.launch == c.blk.launch && m.lin == c.blk.lin && m.port == port && m.answer.isNone

/-- IRON (R231). -/
def execIron (w : BitVec 3) (k : Code) (s : State) : Host.Outcome State Fault Refusal :=
  issueForm (.iron w k) s fun c =>
    let p := (readS s c (k.toNat - 64)).val
    if p &&& ~~~ 0x3F#64 ≠ 0 ∨ portBad c.blk p then fragmentFault c 0x01 p s
    else if c.blk.iron.any fun v => v != c.wave.idx then waitEvent s c .iron
    else if pPost p && sentBefore s c (pPort p) then waitEvent s c (.sent (pPort p))
    else if pPost p && !c.blk.hasRoom (pPort p) then waitEvent s c (.ironPort (pPort p))
    else
      pinTile (modBlock (complete c (.iron w k) s {}) c.core c.ref.block fun b =>
        let b := { b with iron := some c.wave.idx }
        if pPost p then b.putMsg (pPort p) (systemMsg s c (BitVec.ofNat 64 c.wave.idx) none) else b) c.core c.ref.block

/-- IRONP (R232): completely or not at all. Its message releases the wave's earlier accesses and follows the wave's earlier
messages to the port (R318, R328). -/
def execIronp (w : BitVec 3) (k : Code) (s : State) : Host.Outcome State Fault Refusal :=
  issueForm (.ironp w k) s fun c =>
    let p := (readS s c (k.toNat - 64)).val
    let drop := p.getLsbD 14
    let wave := pField p 8 6
    if p &&& 0xFFFFFFFFFFFF80C0 ≠ 0 ∨ (drop ∧ wave ≠ 0) ∨ c.blk.hdr.waves + c.blk.hdr.handlers ≤ wave ∨
        portBad c.blk p then fragmentFault c 0x01 p s
    else if c.blk.iron ≠ some c.wave.idx then fragmentFault c 0x0F p s
    else if pPost p && !storesSettled s c then waitEvent s c .settled
    else if pPost p && sentBefore s c (pPort p) then waitEvent s c (.sent (pPort p))
    else if pPost p && !c.blk.hasRoom (pPort p) then fragmentFault c 0x11 p s
    else
      pinTile (modBlock (complete c (.ironp w k) s {}) c.core c.ref.block fun b =>
        let b := { b with iron := if drop then none else some wave }
        let payload : BitVec 64 := if drop then 1#64 <<< 63 else BitVec.ofNat 64 wave
        if pPost p then b.putMsg (pPort p) (systemMsg s c payload (some 1)) else b) c.core c.ref.block

/-! ### CANCEL, OPQ and OPWAIT (R239, R240) -/

/-- CANCEL (R239): an operation whose work is over is not stopped. -/
def execCancel (w : BitVec 3) (a : Code) (s : State) : Host.Outcome State Fault Refusal :=
  issueForm (.cancel w a) s fun c =>
    let id := (readCode s c (modeType c.frag.mode) 64 a 0).1
    modBlock (complete c (.cancel w a) s {}) c.core c.ref.block fun b =>
      { b with ops := b.ops.map fun o =>
          if opId o.form o.slot o.seq = id ∧ o.live ∧ !o.ended then { o with cancel := true } else o }

/-- The state word of R240; an identifier that names nothing is UNKNOWN. -/
def stateWord (o : Option Op) : BitVec 64 :=
  match o with
  | none => 4
  | some o =>
    let st := match o.st with | .queued => 0 | .running => 1 | .stalled => 2 | .done => 3
    BitVec.ofNat 64 (st + (if o.st = .done then o.status * 256 else 0) + o.progress % 2 ^ 32 * 2 ^ 16)

/-- OPQ (R240). -/
def execOpq (w : BitVec 3) (d a : Code) (s : State) : Host.Outcome State Fault Refusal :=
  issueForm (.opq w d a) s fun c =>
    let o := c.blk.opOf (readCode s c (modeType c.frag.mode) 64 a 0).1
    let info := match o with | some o => (if o.st = .done then o.info else 0) | none => 0
    completeLater c (.opq w d a) s { ss := [(d.toNat - 64, ⟨stateWord o, 62⟩), (d.toNat - 63, ⟨info, 62⟩)] }

/-- OPWAIT (R240): a failed operation that posts nothing faults the lanes of ACTIVE behind the instruction (R224). -/
def execOpwait (w : BitVec 3) (d a : Code) (s : State) : Host.Outcome State Fault Refusal :=
  issueForm (.opwait w d a) s fun c =>
    let id := (readCode s c (modeType c.frag.mode) 64 a 0).1
    match c.blk.opOf id with
    | none => completeLater c (.opwait w d a) s (writeCode c 0 d true tyU64 (stateWord none) 62)
    | some o =>
      if o.live then waitEvent s c (.opwait id)
      else
        let done := completeLater c (.opwait w d a) s (writeCode c 0 d true tyU64 (stateWord (some o)) 62)
        let act := issueActive s c
        if !pPost o.param && o.status != 0 && o.status != 1 && o.status != 7 && act != 0 then
          takeFault c { code := 0x16, lanes := act, info := id, pc := some (nextPc c (.opwait w d a)) } s done
        else done

end Sys2Proof.Machine
end

