-- ==== Sys2Proof/Machine/EngineAccess.lean ====
section
/-! DEFINITION. How an engine operation reaches its elements (R225, R301, R302): translation with its stalls, the
allocation's limits, FIFO streams, and the operation's final state with what it leaves. -/

namespace Sys2Proof.Machine

/-- What comes of one engine access: it goes on, it stalls, or the operation stops with a status and INFO (R223). -/
inductive EngineRes (α : Type) where
  | ok (s : State) (x : α)
  | stall (s : State) (w : StallCause)
  | stop (s : State) (status : Nat) (info : BitVec 64)

/-- Where an operation is. -/
structure OpRef where
  core : Nat
  block : Nat
  slot : Nat
  deriving DecidableEq, Repr

/-- An operation of a resident block. -/
def opAt (s : State) (o : OpRef) : Option (Block × Op) :=
  (blockOf s o.core o.block).bind fun b => (b.ops.find? fun x => x.slot == o.slot).map fun x => (b, x)

/-- Changes an operation. -/
def modOp (s : State) (o : OpRef) (f : Op → Op) : State := modBlock s o.core o.block fun b => b.modOp o.slot f

/-- Final statuses (R223). -/
def stDone : Nat := 0
def stCancelled : Nat := 1
def stFault : Nat := 2
def stUncorr : Nat := 3
def stBadFmt : Nat := 4
def stNoWeights : Nat := 5
def stBounds : Nat := 6
def stArith : Nat := 7
def stLink : Nat := 8
def stGroup : Nat := 9

/-- The operation keeps the translations of some pages that its core's L1 TLB has delivered, 8 at most (R385). -/
def keepTranslations (s : State) (o : OpRef) (asid : Nat) (pages : List Nat) : State :=
  let l := pages.filterMap fun p => (coreOf s o.core).tlb.find? fun e => e.asid == asid && e.page ≤ p && p < e.page + e.pages
  modOp s o fun x => { x with xlat := (l ++ x.xlat).eraseDups.take 8 }

/-- The bytes of one virtual range for an engine: it stalls where the memory-management unit may resolve the fault, and
stops where it cannot (R223, R225, R387). -/
def engineBytes (s : State) (o : OpRef) (asid access va n : Nat) : EngineRes (List Nat) :=
  let own := match opAt s o with | some (_, x) => x.xlat | none => []
  match translateBytesOwn s o.core asid own access (o.slot * 64) va n with
  | (s, .ok l) => .ok (keepTranslations s o asid ([va / 4096, (va + (n - 1)) / 4096].eraseDups)) l
  | (_, .error (code, a)) =>
    if code = 0x09 then .stop s stFault (BitVec.ofNat 64 (code * 2 ^ 57 + a)) else .stall s (.page (BitVec.ofNat 64 a) access)

/-- The physical bytes of an element's place in SPACE 0. -/
def enginePiece (s : State) (o : OpRef) (asid access : Nat) (p : Place) : EngineRes Piece :=
  match engineBytes s o asid access p.addr p.len with
  | .stall s w => .stall s w
  | .stop s c i => .stop s c i
  | .ok s data =>
    match (match p.scale with | some a => engineBytes s o asid access a 2 | none => .ok s []) with
    | .stall s w => .stall s w
    | .stop s c i => .stop s c i
    | .ok s scale =>
      match (match p.tag with | some a => engineBytes s o asid access a 1 | none => .ok s []) with
      | .stall s w => .stall s w
      | .stop s c i => .stop s c i
      | .ok s tag => .ok s ⟨data, p.bit, scale, tag⟩

/-! ### FIFO streams (R301, R302) -/

/-- Makes the slot of a stream's next byte available: the counters move when it is the first byte of a slot. -/
def Stream.open' (x : Stream) (f : Fifo) (size : Nat) (writer : Bool) : Option (Stream × Fifo) :=
  if x.pos * size / f.desc.slotBytes < x.taken then some (x, f)
  else if writer then
    if f.free = 0 then none
    else some ({ x with start := if x.taken = 0 then f.rp % f.slots else x.start, taken := x.taken + 1 }, { f with rp := f.rp + 1 })
  else
    if f.filled = 0 then none
    else some ({ x with start := if x.taken = 0 then f.lp % f.slots else x.start, taken := x.taken + 1 }, { f with lp := f.lp + 1 })

/-- The bank offset of the stream's next byte. -/
def Stream.offset (x : Stream) (f : Fifo) (size : Nat) : Nat :=
  let b := x.pos * size
  (x.start + b / f.desc.slotBytes) % f.slots * f.desc.slotBytes + b % f.desc.slotBytes

/-- An access has been made: a writer commits and a reader frees each slot whose last byte it has passed (R302). -/
def Stream.pass (x : Stream) (f : Fifo) (size : Nat) (writer : Bool) : Stream × Fifo :=
  let n := (x.pos + 1) * size / f.desc.slotBytes
  ({ x with pos := x.pos + 1, given := n },
   if writer then { f with cp := f.cp + (n - x.given) } else { f with fp := f.fp + (n - x.given) })

/-- Gives back what a stream still holds: a writer commits, a reader frees (R302). -/
def closeStream (b : Block) (r : Rec) (x : Stream) (writer : Bool) : Block :=
  if recSpace r = 2 then
    b.modFifo (recBase r % 16) fun f =>
      if writer then { f with cp := f.cp + (x.taken - x.given) } else { f with fp := f.fp + (x.taken - x.given) }
  else b

/-! ### One element -/

/-- The side of an operation that an access belongs to. -/
inductive Side where
  | source | dest
  deriving DecidableEq, Repr

/-- An element access: the record, its linear index, the extension's byte offset, its order number (for INFO); `wide` where an
index of more than 32 bits is out of bounds whatever the extents (R228, R237). -/
structure ElemAt where
  record : Rec
  index : Int
  extra : Int := 0
  order : Nat
  wide : Bool := false

/-- What an element access finds: its place and bytes, a bank's next bytes, or that it lies out of bounds under BOUNDS 1. -/
inductive Found where
  | at (x : Store) (place : Place) (p : Piece)
  | bank (logical : Nat) (offset : Nat) (p : Piece)
  | outside

/-- rec_addr for an engine (R9, R37): an index that its form puts out of bounds takes the clamped address under BOUNDS 2, its
lower coordinates by floor division. -/
def enginePlace (e : ElemAt) : Option Int :=
  let r := e.record
  let bits := elemBits (recFormat r)
  if 0 ≤ e.index ∧ (e.wide = true → e.index < 2 ^ 32) then recPlace r bits e.index.toNat
  else if recBounds r = 2 ∧ recCount r ≠ 0 then
    recPlace r bits ((e.index % (recExt0 r * recExt1 r : Nat)).toNat + recExt0 r * recExt1 r * (recExt2 r - 1))
  else none

/-- The bytes of an element of a SPACE 0 or SPACE 1 record. -/
def findFlat (s : State) (o : OpRef) (b : Block) (f : AccessForm) (e : ElemAt) (bits : Int) : EngineRes Found :=
  let r := e.record
  let bits := bits + 8 * e.extra
  let (_, p) := placeOf f r bits
  if recSpace r = 0 then
    match enginePiece s o b.asid f.kind p with
    | .ok s x => .ok s (.at (.phys (some (o.core, o.block))) p x)
    | .stall s w => .stall s w
    | .stop s c i => .stop s c i
  else
    match beyondLimit f r b.hdr.scratch bits with
    | some off => .stop s stBounds (BitVec.ofInt 64 off)
    | none => .ok s (.at (.sram o.core) p (sramPiece b r p))

/-- A side's stream. -/
def Op.stream (x : Op) (writer : Bool) : Stream := if writer then x.outS else x.inS

/-- Changes a side's stream. -/
def Op.setStream (x : Op) (writer : Bool) (y : Stream) : Op := if writer then { x with outS := y } else { x with inS := y }

/-- The bytes of the next element of a stream, whose slot is reserved or claimed first (R302). -/
def findStream (s : State) (o : OpRef) (b : Block) (op : Op) (side : Side) (e : ElemAt) : EngineRes Found :=
  let logical := recBase e.record % 16
  let size := tySize (recFormat e.record)
  let writer := side == .dest
  match b.fifo? logical with
  | none => .stop s stBounds (BitVec.ofNat 64 ((op.stream writer).pos * size))
  | some f =>
    match (op.stream writer).open' f size writer with
    | none => .stall s (.fifo logical writer)
    | some (st, f) =>
      let off := st.offset f size
      let s := modBlock s o.core o.block fun b => b.modFifo logical fun _ => f
      let s := modOp s o fun x => x.setStream writer st
      .ok s (.bank logical off ⟨(List.range size).map (f.bank * 65536 + off + ·), 0, [], []⟩)

/-- An access through a bank has been made: its stream goes on. A WLOAD keeps the slots that hold its tile (R227). -/
def passStream (s : State) (o : OpRef) (logical size : Nat) (writer : Bool) : State :=
  match opAt s o with
  | none => s
  | some (b, op) =>
    match b.fifo? logical with
    | none => s
    | some f =>
      if op.form = .wload then modOp s o fun y => { y with inS := { y.inS with pos := y.inS.pos + 1 } }
      else
        let (x, f) := (op.stream writer).pass f size writer
        modOp (modBlock s o.core o.block fun b => b.modFifo logical fun _ => f) o fun y => y.setStream writer x

/-- Finds an element: out of bounds by rec_addr and BOUNDS first (R37, R233). -/
def findElem (s : State) (o : OpRef) (side : Side) (e : ElemAt) : EngineRes Found :=
  match opAt s o with
  | none => .stop s stFault 0
  | some (b, op) =>
    match enginePlace e with
    | none => if recBounds e.record = 1 then .ok s .outside else .stop s stBounds (BitVec.ofNat 64 e.order)
    | some bits =>
      if recSpace e.record = 2 then findStream s o b op side e
      else findFlat s o b (if side = .dest then storeAccess else loadAccess) e bits

/-- The tag of an element that an engine reads (R83); one that it copies without a conversion keeps bits [5:0] of the tag byte
as they are (R90). -/
def engineTag (x : Store) (s : State) (t : Nat) (raw : Bool) (p : Piece) : Tag :=
  match p.tag with
  | a :: _ => if raw && !isInt t then (x.get s a).setWidth 6 else readTag x s t p
  | [] => formatTag t

/-- The record of the poison that an engine has read (R427): the core's event. -/
def poisonFound (s : State) (o : OpRef) (x : Store) (p : Piece) : State :=
  poisonEvent s o.core ((blockOf s o.core o.block).elim 0 (·.asid)) ((p.bytes.find? (x.badByte s)).getD 0)

/-- Reads what was found, with its tag (R37, R83); poison ends the operation with the record address that holds it (R223). -/
def readFound (s : State) (o : OpRef) (r : Rec) (raw : Bool) : Found → EngineRes Elem
  | .outside => .ok s ⟨0, formatTag (recFormat r)⟩
  | .at x place p =>
    match x.poisonAt s place p with
    | some a => .stop (poisonFound s o x p) stUncorr (BitVec.ofNat 64 a)
    | none =>
      let s := x.touch s p.bytes
      .ok s ⟨readElem x s (recFormat r) p, engineTag x s (recFormat r) raw p⟩
  | .bank logical off p =>
    let x : Store := .sram o.core
    if x.poisoned s p.bytes then .stop (poisonFound s o x p) stUncorr (BitVec.ofNat 64 off)
    else .ok (passStream s o logical (tySize (recFormat r)) false) ⟨readElem x s (recFormat r) p, formatTag (recFormat r)⟩

/-- Whether an operation copies elements without a conversion. -/
def Op.copies (x : Op) : Bool :=
  (x.form == .copy || x.form == .gather || x.form == .scat) && recFormat x.da == recFormat x.dw

/-- Reads an element with its tag. -/
def readElemAt (s : State) (o : OpRef) (e : ElemAt) : EngineRes Elem :=
  match findElem s o .source e with
  | .stall s w => .stall s w
  | .stop s c i => .stop s c i
  | .ok s x => readFound s o e.record ((opAt s o).any fun y => y.2.copies && e.record == y.2.da) x

/-- Finds where an element is written; a resilient block at its limit of held lines waits for a checkpoint, and every writer
for bytes that another block holds (R430, R335). -/
def findDest (s : State) (o : OpRef) (e : ElemAt) : EngineRes Found :=
  match findElem s o .dest e with
  | .stall s w => .stall s w
  | .stop s c i => .stop s c i
  | .ok s x =>
    match x with
    | .at (.phys who) _ p =>
      let rmw := isBx (recFormat e.record)
      let n := (blockOf s o.core o.block).elim 0 fun b => b.newLines p.bytes
      if lockedBytes s who rmw p.bytes then .stall (freeLocks s who rmw p.bytes) (.locked rmw p.bytes)
      else if heldOver s o.core o.block n then .stall (freeHeld s o.core) (.held n)
      else .ok s x
    | _ => .ok s x

/-- The poison that an operation's writes clear (R423): what it has written of poisoned sectors and words is kept with it, until it
covers one. -/
def coverOp (s : State) (o : OpRef) (x : Store) (l : List Nat) : State :=
  if l.any (x.badByte s) then
    let s := modOp s o fun y => { y with covered := y.covered ++ l.filter fun a => !y.covered.contains a }
    match opAt s o with
    | some (_, y) => x.cover s y.covered
    | none => s
  else s

/-- Writes an element with its tag where it was found; it is dropped outside the bounds. -/
def writeFound (s : State) (o : OpRef) (r : Rec) (x : Found) (v : Elem) : State :=
  match x with
  | .outside => s
  | .at y _ p => coverOp (writeElem y (y.touch s p.bytes) (recFormat r) p v.bits v.tag) o y p.bytes
  | .bank logical _ p =>
    passStream (coverOp (writeElem (.sram o.core) s (recFormat r) p v.bits v.tag) o (.sram o.core) p.bytes) o logical
      (tySize (recFormat r)) true

/-- Reads further elements of an operation's row or tile behind those it has staged: at most `n`. -/
def stageElems (s : State) (o : OpRef) (at' : Nat → ElemAt) (have' : Nat) : Nat → EngineRes Unit
  | 0 => .ok s ()
  | n + 1 =>
    match readElemAt s o (at' have') with
    | .stall s w => .stall s w
    | .stop s c i => .stop s c i
    | .ok s e => stageElems (modOp s o fun x => { x with staged := x.staged ++ [e] }) o at' (have' + 1) n

/-! ### The end of an operation -/

/-- The operation's work is over (R223): its final state follows at its completion. -/
def endOp (s : State) (o : OpRef) (status : Nat) (info : BitVec 64) : State :=
  modOp s o fun x => { x with ended := true, st := .running, status := status, info := info, staged := [], result := [] }

/-- The end of an operation that did all its work: ARITH when it gathered an enabled exception (R304). -/
def endDone (s : State) (o : OpRef) : State :=
  match opAt s o with
  | none => s
  | some (_, x) =>
    let e := x.exc &&& modeTrapEn x.mode
    if e = 0 then endOp s o stDone 0 else endOp s o stArith (e.setWidth 64)

/-- The operation becomes STALLED (R225); a page goes to the fault broker (R387). -/
def stallOp (s : State) (o : OpRef) (w : StallCause) : State :=
  let s := modOp s o fun x => { x with st := .stalled, stall := w }
  match w, blockOf s o.core o.block with
  | .page va access, some b =>
    joinPageRequest s b.asid (va.toNat / 4096) access [] [(o.core, o.block, o.slot)] b.launch
      (o.slot + 64 + o.core * 128 + o.block * 16384)
  | _, _ => s

/-- Applies the outcome of a portion of work. -/
def settleWork {α : Type} (o : OpRef) (r : EngineRes α) (f : State → α → State) : State :=
  match r with
  | .ok s x => f s x
  | .stall s w => stallOp s o w
  | .stop s c i => endOp s o c i

end Sys2Proof.Machine
end

