-- ==== Sys2Proof/Machine/EngineRun.lean ====
section
/-! DEFINITION. The engines at work: the Press's grants (R293 to R300, R303), the Mangle's channels (R305, R306), the
collective engine (R307, R308), the return from a stall (R225) and the final states (R223, R302). -/

namespace Sys2Proof.Machine

/-! ### Eligibility -/

/-- Whether no earlier scoreboard entry conflicts with the operation's own (R289). -/
def opClear (s : State) (o : OpRef) : Bool :=
  let k := coreOf s o.core
  let mine (e : SbEntry) : Bool := e.block == o.block && e.slot == o.slot
  !(k.sb.any fun x => mine x && k.sb.any fun e => !mine e && decide (e.seq < x.seq) && e.blocks x.lo x.hi x.write x.fifo)

/-- Whether the wave's accesses before the issue are performed (R220), and those that a barrier has ordered before it (R215,
R216). -/
def opOrdered (s : State) (o : OpRef) (op : Op) : Bool :=
  let before (x : StoreOp) : Bool := x.ident < op.after
  let k := coreOf s o.core
  match blockOf s o.core o.block, waveOf s o.core o.block op.wave with
  | some b, some w =>
    !w.posted.any before && !((unresolved k o.block op.wave).any fun r => before r.op) &&
      (w.handler || behindBarriers s o.core o.block b op.after)
  | _, _ => true

/-- Whether an operation may work: it is QUEUED with its way free, or RUNNING. -/
def opEligible (s : State) (o : OpRef) (op : Op) : Bool :=
  !op.ended && !op.cancel &&
    (match op.st with
     | .queued => opClear s o && opOrdered s o op
     | .running => true
     | _ => false)

/-- Whether the condition that a STALLED operation waits on holds (R225). -/
def stallOver (s : State) (o : OpRef) (b : Block) (op : Op) : Bool :=
  match op.stall with
  | .none => true
  | .page _ _ => !(s.pageRequests.any fun r => r.ops.contains (o.core, o.block, o.slot))
  | .fifo logical writer =>
    (match b.fifo? logical with
     | none => true
     | some f => if writer then 0 < f.free else 0 < f.filled)
  | .held n => !heldOver s o.core o.block n
  | .locked rmw l => !lockedBytes s (some (o.core, o.block)) rmw l

/-- The oldest operation of a list that satisfies a test. -/
def oldestOp (l : List Op) (f : Op → Bool) : Option Op :=
  (l.filter f).foldl (fun m x => match m with | none => some x | some y => if x.seq < y.seq then some x else some y) none

/-- The live operations of an engine. -/
def Block.liveOps (b : Block) (engine : Nat) : List Op := b.ops.filter fun o => o.live && engineOf o.form == engine

/-- The block handles from one after `p` upward, modulo 64. -/
def handlesAfter (p : Nat) : List Nat := (List.range 64).map fun k => (p + 1 + k) % 64

/-- A portion of work is behind the operation: a new restart point. -/
def workDone (s : State) (o : OpRef) (n : Nat) (exc : Exc) : State :=
  modOp s o fun x => { x with progress := x.progress + n, exc := x.exc ||| exc, staged := [] }

/-! ### The Press -/

/-- The element k of the next row of a Press form. -/
def rowElem (op : Op) (r : Rec) (k : Nat) : ElemAt :=
  { record := r, index := ((firstRow op.param + op.progress) * recExt0 r + colOff op.param + k : Nat),
    order := 64 * op.progress + k, wide := op.form == .mma }

/-- The element of a WLOAD's tile, in the order n × 64 + k (R227). -/
def tileElem (p : BitVec 64) (r : Rec) (i : Nat) : ElemAt :=
  { record := r, index := ((wloadRow p + i / 64) * recExt0 r + wloadKoff p + i % 64 : Nat), order := i }

/-- Fetches the rest of the row's elements of DA. -/
def fetchRow (s : State) (o : OpRef) (op : Op) : EngineRes Unit :=
  stageElems s o (rowElem op op.da) op.staged.length (64 - op.staged.length)

/-- Gives back a latched tile's slots and latches nothing (R227). -/
def unlatch (s : State) (o : OpRef) : State :=
  modBlock s o.core o.block fun b =>
    match b.latched with
    | none => b
    | some x => { closeStream b x.record x.slots false with latched := none }

/-- The tile of a refetch, element by element (R297): the same bytes, and no counter moves. `q` counts the elements of a
bank's stream so far. -/
def refetch (s : State) (o : OpRef) (b : Block) (x : Latched) (got : List Elem) (i q : Nat) : Nat → EngineRes (List Elem)
  | 0 => .ok s got.reverse
  | n + 1 =>
    let e := tileElem x.param x.record i
    let r := x.record
    let found : EngineRes Found :=
      match enginePlace e with
      | none => .ok s .outside
      | some bits =>
        if recSpace r = 2 then
          match b.fifo? (recBase r % 16) with
          | none => .stop s stBounds 0
          | some f =>
            let size := tySize (recFormat r)
            let off := ({ x.slots with pos := q }).offset f size
            .ok s (.at (.sram o.core) { addr := off, bit := 0, len := size, scale := none, tag := none }
              ⟨(List.range size).map (f.bank * 65536 + off + ·), 0, [], []⟩)
        else findFlat s o b loadAccess e bits
    match found with
    | .stall s w => .stall s w
    | .stop s c i => .stop s c i
    | .ok s y =>
      match readFound s o r false y with
      | .stall s w => .stall s w
      | .stop s c i => .stop s c i
      | .ok s v => refetch s o b x (v :: got) (i + 1) (match y with | .outside => q | _ => q + 1) n

/-- The tiles that held irons pin (R298). -/
def pinnedTiles (k : Core) : List TileKey := k.pinned.map (·.2)

/-- Evicts least recently used tiles until the store's 16 units suffice (R293, R298). -/
def evictTiles (pinned : List TileKey) (l : List TileKey) : Nat → List TileKey
  | 0 => l
  | n + 1 =>
    if l.foldl (fun n z => n + z.units) 0 ≤ 16 then l
    else
      match l.find? fun x => !pinned.contains x with
      | none => l
      | some x => evictTiles pinned (l.erase x) n

/-- The tile goes into the array: it becomes the store's most recently used, and the array's former tile stands in the
shadow buffer (R296, R298). -/
def Press.use (p : Press) (pinned : List TileKey) (y : TileKey) : Press :=
  let store := evictTiles pinned (p.store.filter (· != y) ++ [y]) 17
  if p.array = some y then { p with store := store }
  else { p with store := store, shadow := p.array, array := some y }

/-- Quarter cycles that a row takes at full rate (R296). -/
def rowQuarters (t : Nat) : Nat :=
  if t = tyF64 then 64 else if t = tyTF32 then 8 else if t = tyI8 ∨ t = tyBX8 ∨ t = tyBX6 then 2 else if t = tyBX4 then 1 else 4

/-- A row has entered at the rate of the latched format (R296, R450): the ramp's work counts in quarter cycles, to 512 cycles. -/
def Press.row (p : Press) (t time : Nat) : Press :=
  let ramp := if p.idle then 0 else p.ramp
  let cost := rowQuarters t * (if ramp < 1024 then 4 else if ramp < 2048 then 2 else 1)
  { p with ramp := min 2048 (ramp + cost), lastRow := time, idle := false }

/-- Changes a core's Press. -/
def modPress (s : State) (c : Nat) (f : Press → Press) : State := modCore s c fun k => { k with press := f k.press }

/-- The tile that a block's MMA needs is in the array: refetched through its record where the store no longer holds it, or a
restore has dropped it (R297). A refetch that cannot be resolved leaves no weights latched. -/
def needTile (s : State) (o : OpRef) (b : Block) (x : Latched) : EngineRes Latched :=
  let y := tileKey b o.block x
  let use (s : State) : State := modPress s o.core fun p => p.use (pinnedTiles (coreOf s o.core)) y
  if x.present && (coreOf s o.core).press.store.contains y then .ok (use s) x
  else
    match refetch s o b x [] 0 0 4096 with
    | .stall s w => .stall s w
    | .stop s c i => .stop (unlatch s o) (if c = stUncorr then stUncorr else stFault) i
    | .ok s tile =>
      let y := { x with tile := tile, present := true }
      let s := modBlock s o.core o.block fun b => { b with latched := some y }
      .ok (use (if x.present then s else pinTile s o.core o.block)) y

/-- One row of an MMA. -/
def mmaStep (x : Latched) (s : State) (o : OpRef) (op : Op) : EngineRes Unit :=
  match fetchRow s o op with
  | .stall s w => .stall s w
  | .stop s c i => .stop s c i
  | .ok s () =>
    match opAt s o with
    | none => .stop s stFault 0
    | some (b, op) =>
      let (k, e) := mmaRow op.mode (recFormat op.da) (recFormat x.record) (coreOf s o.core) b (accBaseOf op.param)
        op.progress op.staged x.tile
      let s := countEvent (modCore s o.core fun _ => k) o.core 4 1
      .ok (workDone (modPress s o.core fun p => p.row (recFormat x.record) s.timebase) o 1 e) ()

/-- One row of an ACCLD (R230). -/
def accldStep (s : State) (o : OpRef) (op : Op) : EngineRes Unit :=
  match fetchRow s o op with
  | .stall s w => .stall s w
  | .stop s c i => .stop s c i
  | .ok s () =>
    match opAt s o with
    | none => .stop s stFault 0
    | some (b, op) =>
      let t := flagType op.flags
      let l := op.staged.map fun e => convertValue op.mode (recFormat op.da) t e
      let k := (l.zipIdx).foldl (fun k e => accPut k b (accBaseOf op.param) t op.progress e.2 e.1.bits e.1.tag)
        (coreOf s o.core)
      .ok (workDone (modCore s o.core fun _ => k) o 1 (l.foldl (fun x e => x ||| e.exc) 0)) ()

/-- One row of an ACCZ (R230). -/
def acczStep (s : State) (o : OpRef) (op : Op) : EngineRes Unit :=
  match opAt s o with
  | none => .stop s stFault 0
  | some (b, _) =>
    .ok (workDone (modCore s o.core fun k => accZero k b (accBaseOf op.param) (flagType op.flags) op.progress) o 1 0) ()

/-- Where the next `n` elements go, from element k on. -/
def findAll (s : State) (o : OpRef) (at' : Nat → ElemAt) (k : Nat) (got : List Found) : Nat → EngineRes (List Found)
  | 0 => .ok s got.reverse
  | n + 1 =>
    match findDest s o (at' k) with
    | .stall s w => .stall s w
    | .stop s c i => .stop s c i
    | .ok s x => findAll s o at' (k + 1) (x :: got) n

/-- The elements of a row of an ACCRD, converted. -/
def accrdRow (s : State) (o : OpRef) (b : Block) (op : Op) : List LaneRes :=
  let t := flagType op.flags
  columns.map fun n =>
    let a := accGet (coreOf s o.core) b (accBaseOf op.param) t op.progress n
    convertValue op.mode t (recFormat op.dw) ⟨a.bits, a.tag⟩

/-- A row of an ACCRD has been written: with CLEAR it is zeroed in the same step (R230, R303). -/
def accrdDone (s : State) (o : OpRef) (b : Block) (op : Op) (e : Exc) : State :=
  let s := if 4 ≤ op.flags then modCore s o.core fun k => accZero k b (accBaseOf op.param) (flagType op.flags) op.progress else s
  workDone s o 1 e

/-- Writes the elements that `result` holds one after the other, from element `k` on. -/
def writeResult (s : State) (o : OpRef) (at' : Nat → ElemAt) (k : Nat) : Nat → EngineRes Unit
  | 0 => .ok s ()
  | n + 1 =>
    match findDest s o (at' k) with
    | .stall s w => .stall s w
    | .stop s c i => .stop s c i
    | .ok s place =>
      match opAt s o with
      | none => .stop s stFault 0
      | some (_, op) =>
        let s := writeFound s o (at' k).record place (op.result.headD {})
        writeResult (modOp s o fun x => { x with result := x.result.tail }) o at' (k + 1) n

/-- One row of an ACCRD through a bank: its elements go out as the bank's slots become free (R302). -/
def accrdBank (s : State) (o : OpRef) (b : Block) (op : Op) : EngineRes Unit :=
  let s :=
    if op.result.isEmpty then
      let l := accrdRow s o b op
      modOp s o fun x => { x with result := l.map fun e => ⟨e.bits, e.tag⟩, exc := l.foldl (fun x e => x ||| e.exc) x.exc }
    else s
  let left := if op.result.isEmpty then 64 else op.result.length
  match writeResult s o (rowElem op op.dw) (64 - left) left with
  | .stall s w => .stall s w
  | .stop s c i => .stop s c i
  | .ok s () => .ok (accrdDone s o b op 0) ()

/-- One row of an ACCRD (R230): a row outside a bank is written whole. -/
def accrdStep (s : State) (o : OpRef) (op : Op) : EngineRes Unit :=
  match opAt s o with
  | none => .stop s stFault 0
  | some (b, _) =>
    if recSpace op.dw = 2 then accrdBank s o b op
    else
      match findAll s o (rowElem op op.dw) 0 [] 64 with
      | .stall s w => .stall s w
      | .stop s c i => .stop s c i
      | .ok s places =>
        let l := accrdRow s o b op
        let s := (places.zip l).foldl (fun s e => writeFound s o op.dw e.1 ⟨e.2.bits, e.2.tag⟩) s
        .ok (accrdDone s o b op (l.foldl (fun x e => x ||| e.exc) 0)) ()

/-- The operation's end once no row remains: its last row has entered the array (R239). -/
def pressEnd (s : State) (o : OpRef) : State :=
  match opAt s o with
  | none => s
  | some (_, op) => if rowsOf op.param ≤ op.progress then endDone s o else s

/-- Up to `n` rows of the operation, then its end when no row remains. -/
def pressRows (step : State → OpRef → Op → EngineRes Unit) (s : State) (o : OpRef) : Nat → State
  | 0 => pressEnd s o
  | n + 1 =>
    match opAt s o with
    | none => s
    | some (_, op) =>
      if rowsOf op.param ≤ op.progress then endDone s o
      else
        match step s o op with
        | .stall s w => stallOp s o w
        | .stop s c i => endOp s o c i
        | .ok s () => pressRows step s o n

/-- A WLOAD's grant (R227): the whole tile, latched when its last element is fetched. A stop leaves no weights latched. PROGRESS
stays 0, also once it has latched (DESIGN CHOICE, log entry 128: R303 speaks only of the time before). -/
def wloadGrant (s : State) (o : OpRef) (op : Op) : State :=
  match stageElems s o (tileElem op.param op.da) op.staged.length (4096 - op.staged.length) with
  | .stall s w => stallOp s o w
  | .stop s c i => endOp (unlatch s o) o c i
  | .ok s () =>
    match opAt s o with
    | none => s
    | some (_, op) =>
      let x : Latched := ⟨op.da, op.param, op.staged, op.inS, true⟩
      let s := modBlock (unlatch s o) o.core o.block fun b => { b with latched := some x }
      let s := modOp s o fun y => { y with inS := {}, staged := [] }
      let s := match blockOf s o.core o.block with
        | none => s
        | some b =>
          let s := pinTile s o.core o.block
          modPress s o.core fun p => p.use (pinnedTiles (coreOf s o.core)) (tileKey b o.block x)
      endOp s o stDone 0

/-- An MMA's grant: its checks against the latched weights, then its rows (R228). -/
def mmaGrant (s : State) (o : OpRef) (b : Block) (op : Op) : State :=
  match b.latched with
  | none => endOp s o stNoWeights 0
  | some x =>
    let fa := recFormat op.da
    let fw := recFormat x.record
    if !formatsPair fa fw then endOp s o stBadFmt (BitVec.ofNat 64 (fa + 16 * fw))
    else
      match needTile s o b x with
      | .stall s w => stallOp (modBlock s o.core o.block fun b => { b with latched := some { x with present := false } }) o w
      | .stop s c i => endOp s o c i
      | .ok s x => pressRows (mmaStep x) s o 64

/-- A grant's tile (R295): at most 64 rows, or one whole WLOAD. -/
def pressGrant (s : State) (o : OpRef) : State :=
  let s := modOp s o fun x => { x with st := .running, stall := .none }
  match opAt s o with
  | none => s
  | some (b, op) =>
    match op.form with
    | .wload => wloadGrant s o op
    | .mma => mmaGrant s o b op
    | .accz => pressRows acczStep s o 64
    | .accld => pressRows accldStep s o 64
    | .accrd => pressRows accrdStep s o 64
    | _ => s

/-- The head of a block's Press queue, if the block is eligible (R295). -/
def pressHead (s : State) (c h : Nat) : Option OpRef :=
  match blockOf s c h with
  | none => none
  | some b =>
    match oldestOp (b.liveOps 0) fun _ => true with
    | none => none
    | some op => if !b.stopped && opEligible s ⟨c, h, op.slot⟩ op then some ⟨c, h, op.slot⟩ else none

/-- PRESS_GRANT (R295): the first eligible block from the handle after the pointer. -/
def execPressGrant (s : State) : Host.Outcome State Fault Refusal :=
  let c := s.subject.core
  .next (match (handlesAfter (coreOf s c).press.pointer).findSome? fun h => pressHead s c h with
    | none => s
    | some o => pressGrant (modPress s c fun p => { p with pointer := o.block }) o)

/-- PRESS_IDLE (R450): no row for 1 µs. -/
def execPressIdle (s : State) : Host.Outcome State Fault Refusal :=
  let c := s.subject.core
  let p := (coreOf s c).press
  .next (if !p.idle ∧ p.lastRow + 1000 ≤ s.timebase then modPress s c fun p => { p with idle := true, ramp := 0 } else s)

/-! ### The Mangle -/

/-- The elements of a Mangle operation (R233, R237). -/
def mangleTotal (op : Op) : Nat :=
  match op.form with
  | .gather | .scat => recCount op.irec * gatherLen op.param
  | _ => op.xdims.foldl (fun n d => n * d.extent) (recCount op.da)

/-- The extension offsets of source and destination at an outer index (R233). -/
def extraOffsets : List XDim → Nat → Int × Int
  | [], _ => (0, 0)
  | d :: r, n =>
    let x := extraOffsets r (n / d.extent)
    ((n % d.extent : Nat) * d.sStride + x.1, (n % d.extent : Nat) * d.dStride + x.2)

/-- The linear index that an index element selects; negative or above 2^32 − 1 it is out of bounds (R237). -/
def gatherIndex (irec : Rec) (idx : Elem) (len e : Nat) : Int := intVal (recFormat irec) idx.bits * (len : Int) + (e : Int)

/-- Source and destination of element q of a copy. -/
def copyElem (op : Op) (q : Nat) : ElemAt × ElemAt :=
  let n := recCount op.da
  let x := extraOffsets op.xdims (q / n)
  ({ record := op.da, index := (q % n : Nat), extra := x.1, order := q },
   { record := op.dw, index := (q % n : Nat), extra := x.2, order := q })

/-- Source and destination of element q of a GATHER or SCAT, with its index element. -/
def gatherElem (op : Op) (idx : Elem) (q : Nat) : ElemAt × ElemAt :=
  let n := gatherLen op.param
  let i := gatherIndex op.irec idx n (q % n)
  let row (r : Rec) : ElemAt := { record := r, index := q, order := q }
  let picked (r : Rec) : ElemAt := { record := r, index := i, order := q, wide := true }
  if op.form = .gather then (picked op.da, row op.dw) else (row op.da, picked op.dw)

/-- Moves one element, or changes nothing but what a stall reserves. -/
def moveElem (s : State) (o : OpRef) (op : Op) (src dst : ElemAt) : EngineRes Exc :=
  match findDest s o dst with
  | .stall s w => .stall s w
  | .stop s c i => .stop s c i
  | .ok s place =>
    match readElemAt s o src with
    | .stall s w => .stall s w
    | .stop s c i => .stop s c i
    | .ok s v =>
      let r := convertElem op.mode (recFormat op.da) (recFormat op.dw) v
      .ok (writeFound s o op.dw place ⟨r.bits, r.tag⟩) r.exc

/-- The fixed exponents of a QUANT with FIXE. -/
def fixedExponents (op : Op) : Option (Nat × Nat) :=
  if op.form = .quant ∧ op.flags % 2 = 1 then some (pField op.param 8 8, pField op.param 16 8) else none

/-- The next element of an operation that quantises: its block of 32 is read and quantised as a whole, then written element
by element (R235, R236). -/
def quantStep (s : State) (o : OpRef) (op : Op) : EngineRes Unit :=
  let first := op.progress / 32 * 32
  let ready : EngineRes Unit :=
    if !op.result.isEmpty then .ok s ()
    else
      match stageElems s o (fun k => (copyElem op (first + k)).1) op.staged.length (32 - op.staged.length) with
      | .stall s w => .stall s w
      | .stop s c i => .stop s c i
      | .ok s () =>
        match opAt s o with
        | none => .stop s stFault 0
        | some (_, op) =>
          let l := quantiseElems op.mode (recFormat op.da) (recFormat op.dw) (fixedExponents op) op.staged
          .ok (modOp s o fun x =>
            { x with result := (l.map fun e => ⟨e.bits, e.tag⟩).drop (op.progress - first),
                     exc := x.exc ||| l.foldl (fun z e => z ||| e.exc) 0 }) ()
  match ready with
  | .stall s w => .stall s w
  | .stop s c i => .stop s c i
  | .ok s () =>
    match findDest s o (copyElem op op.progress).2 with
    | .stall s w => .stall s w
    | .stop s c i => .stop s c i
    | .ok s place =>
      let v := match opAt s o with | some (_, x) => x.result.headD {} | none => {}
      let s := writeFound s o op.dw place v
      let s := modOp s o fun x => { x with result := x.result.tail, progress := x.progress + 1 }
      .ok (if op.progress + 1 = first + 32 then modOp s o fun x => { x with staged := [] } else s) ()

/-- The next element of a copy without quantisation. -/
def copyStep (s : State) (o : OpRef) (op : Op) : EngineRes Unit :=
  let (src, dst) := copyElem op op.progress
  match moveElem s o op src dst with
  | .stall s w => .stall s w
  | .stop s c i => .stop s c i
  | .ok s e => .ok (workDone s o 1 e) ()

/-- The next element of a GATHER or SCAT: the index is read before the first element of its row (R306). -/
def gatherStep (s : State) (o : OpRef) (op : Op) : EngineRes Unit :=
  let n := gatherLen op.param
  let index : EngineRes Elem :=
    match op.staged with
    | x :: _ => .ok s x
    | [] => readElemAt s o { record := op.irec, index := (op.progress / n : Nat), order := op.progress }
  match index with
  | .stall s w => .stall s w
  | .stop s c i => .stop s c i
  | .ok s idx =>
    let (src, dst) := gatherElem op idx op.progress
    match moveElem s o op src dst with
    | .stall s w => .stall (modOp s o fun x => { x with staged := [idx] }) w
    | .stop s c i => .stop s c i
    | .ok s e =>
      let s := workDone s o 1 e
      .ok (if (op.progress + 1) % n = 0 then s else modOp s o fun x => { x with staged := [idx] }) ()

/-- The bytes that the Mangle channels of a partition write count in units of 32 bytes (R452): what a unit still lacks is kept. -/
def countMangle (s : State) (core bits : Nat) : State :=
  let p := partitionOf core
  let t := (partState s p).mangleBits + bits
  modPart (countEvent s core 5 (t / 256)) p fun x => { x with mangleBits := t % 256 }

/-- One element of a Mangle operation. -/
def mangleStep (s : State) (o : OpRef) (op : Op) : EngineRes Unit :=
  match
    (match op.form with
     | .gather | .scat => gatherStep s o op
     | _ => if isBx (recFormat op.dw) && !isBx (recFormat op.da) then quantStep s o op else copyStep s o op) with
  | .ok s () => .ok (countMangle s o.core (elemBits (recFormat op.dw))) ()
  | x => x

/-- Frees the channel of an operation that stalls or ends (R305). -/
def freeChannel (s : State) (o : OpRef) : State :=
  modCore s o.core fun k =>
    { k with mangle := { k.mangle with chans := k.mangle.chans.map fun x => if x = some (o.block, o.slot) then none else x } }

/-- The operation's end once no element remains (R239). -/
def mangleEnd (s : State) (o : OpRef) : State :=
  match opAt s o with
  | none => s
  | some (_, op) => if mangleTotal op ≤ op.progress then freeChannel (endDone s o) o else s

/-- Up to `n` elements of a channel's operation. -/
def mangleRun (s : State) (o : OpRef) : Nat → State
  | 0 => mangleEnd s o
  | n + 1 =>
    match opAt s o with
    | none => freeChannel s o
    | some (b, op) =>
      if op.cancel || op.ended || b.stopped then freeChannel s o
      else if mangleTotal op ≤ op.progress then freeChannel (endDone s o) o
      else
        match mangleStep s o op with
        | .stall s w => freeChannel (stallOp s o w) o
        | .stop s c i => freeChannel (endOp s o c i) o
        | .ok s () => mangleRun s o n

/-- Whether a channel may take an operation (R305). -/
def mangleEligible (s : State) (o : OpRef) (b : Block) (op : Op) : Bool :=
  !b.stopped && !(coreOf s o.core).mangle.chans.contains (some (o.block, o.slot)) &&
    (opEligible s o op || (op.st == .stalled && !op.ended && !op.cancel && stallOver s o b op))

/-- The operation that a channel takes in a block. -/
def mangleChoice (s : State) (c h : Nat) : Option OpRef :=
  (blockOf s c h).bind fun b =>
    (oldestOp (b.liveOps 1) fun op => mangleEligible s ⟨c, h, op.slot⟩ b op).map fun op => ⟨c, h, op.slot⟩

/-- MANGLE_CHANNEL_TAKE (R305): the subject's slot names the channel. -/
def execMangleChannelTake (s : State) : Host.Outcome State Fault Refusal :=
  let c := s.subject.core
  let ch := s.subject.slot
  let m := (coreOf s c).mangle
  .next (match m.chans[ch]? with
    | some none =>
      match (handlesAfter (m.last.getD ch 0)).findSome? fun h => mangleChoice s c h with
      | none => s
      | some o =>
        let s := modCore s c fun k =>
          { k with mangle := { chans := k.mangle.chans.set ch (some (o.block, o.slot)), last := k.mangle.last.set ch o.block } }
        modOp s o fun x => { x with st := .running, stall := .none }
    | _ => s)

/-! ### Collectives -/

/-- Whether an operation is the block's oldest COLL on its group (R238). -/
def collFirst (b : Block) (op : Op) : Bool :=
  !(b.liveOps 2).any fun x => collGroup x.param == collGroup op.param && decide (x.seq < op.seq)

/-- Whether a contribution is that of a block's operation. -/
def Contribution.isOf (x : Contribution) (b : Block) (op : Op) : Bool :=
  x.asid == b.asid && x.gid == collGroup op.param && x.pairing == op.pairing && x.launch == b.launch && x.lin == b.lin

/-- Takes a block's contribution out of a pairing. -/
def takeContribution (s : State) (asid gid pairing launch lin : Nat) : State :=
  { s with contributions := s.contributions.filter fun x =>
      !(x.asid == asid && x.gid == gid && x.pairing == pairing && x.launch == launch && x.lin == lin) }

/-- Ends the members of a pairing whose contributions are staged: those still waiting take the status. -/
def failPairing (s : State) (asid gid pairing status : Nat) : State :=
  { s with contributions := s.contributions.map fun x =>
      if x.asid = asid ∧ x.gid = gid ∧ x.pairing = pairing ∧ x.result = none ∧ x.failed = none then
        { x with failed := some status } else x }

/-- A contribution reaches its pairing; that of a member which leaves it fails those that wait (R238, R308). -/
def putContribution (s : State) (x : Contribution) : State :=
  let s := if x.failed.isNone then s
    else failPairing (takeContribution s x.asid x.gid x.pairing x.launch x.lin) x.asid x.gid x.pairing stGroup
  { s with contributions := s.contributions ++ [x] }

/-- What a COLL does to its pairing is beyond its block: a resilient block's is held until the commit (R430). -/
def collEffect (s : State) (o : OpRef) (b : Block) (e : HeldEffect) (now : State → State) : State :=
  if b.hdr.resilient then
    modBlock s o.core o.block fun k => { k with ckpt := { k.ckpt with effects := k.ckpt.effects ++ [e], due := true } }
  else now s

/-- Removes an operation's contribution. -/
def dropContribution (s : State) (o : OpRef) (b : Block) (op : Op) : State :=
  collEffect s o b (.endContribution (collGroup op.param) op.pairing) fun s =>
    takeContribution s b.asid (collGroup op.param) op.pairing b.launch b.lin

/-- An operation's contribution, of some elements or of a status for its peers. -/
def bringContribution (s : State) (o : OpRef) (b : Block) (op : Op) (elems : List Elem) (failed : Option Nat) : State :=
  let x : Contribution := ⟨b.asid, collGroup op.param, op.pairing, b.launch, b.lin, op.param, recFormat op.da, op.mode, elems,
    none, 0, failed⟩
  collEffect s o b (.contribution x) fun s => putContribution s x

/-- Whether the element counts of a COLL suit its group (R238). -/
def collCountsOk (op : Op) (ranks rank : Nat) : Bool :=
  countsOk .coll op.param op.da op.dw (some ranks) (rank == collRoot op.param) &&
    (collKind op.param != 1 && collKind op.param != 2 || collRoot op.param < ranks)

/-- A member leaves a pairing that its peers wait on, or will: they complete with GROUP (R238, R308). -/
def leavePairing (s : State) (o : OpRef) (b : Block) (op : Op) : State := bringContribution s o b op [] (some stGroup)

/-- Whether a staging area cannot be allocated now: the spec gives no size of one, so the choice is open (R308). -/
def stagingFull (s : State) (o : OpRef) : Bool := choose s (0xFD80 + o.slot) 4 == 0

/-- The end of a collective operation whose result is written. -/
def collEnd (s : State) (o : OpRef) : State :=
  match opAt s o with
  | none => s
  | some (b, op) => if op.result.isEmpty then endDone (dropContribution s o b op) o else s

/-- Writes up to `n` elements of a collective's result (R307). -/
def collWrite (s : State) (o : OpRef) : Nat → State
  | 0 => collEnd s o
  | n + 1 =>
    match opAt s o with
    | none => s
    | some (b, op) =>
      match op.result with
      | [] => collEnd s o
      | v :: _ =>
        match findDest s o { record := op.dw, index := op.progress, order := op.progress } with
        | .stall s w => stallOp s o w
        | .stop s c i => endOp (dropContribution s o b op) o c i
        | .ok s place =>
          collWrite (modOp (writeFound s o op.dw place v) o fun x =>
            { x with progress := x.progress + 1, result := x.result.tail }) o n

/-- A portion of a collective operation's work: staging DA, or writing its result (R307). -/
def collRun (s : State) (o : OpRef) (n : Nat) : State :=
  match opAt s o with
  | none => s
  | some (b, op) =>
    if b.stopped || !opEligible s o op || !collFirst b op then s
    else
      match op.phase with
      | .staging =>
        match (collGroupOf s b (collGroup op.param)) with
        | some (g, some rank) =>
          if !collCountsOk op g.ranks.length rank then endOp (leavePairing s o b op) o stGroup 0
          else if op.st == .queued && stagingFull s o then s
          else
            let s := modOp s o fun x => { x with st := .running, stall := .none }
            let left := recCount op.da - op.staged.length
            match stageElems s o (fun k => { record := op.da, index := k, order := k }) op.staged.length (min n left) with
            | .stall s w => stallOp s o w
            | .stop s c i => endOp s o c i
            | .ok s () =>
              if n < left then s
              else
                match opAt s o with
                | none => s
                | some (b, op) =>
                  modOp (bringContribution s o b op op.staged none) o fun y => { y with staged := [], phase := .exchange }
        | _ => endOp s o stGroup 0
      | .exchange => s
      | .writing => collWrite s o n

/-- What one rank brings to a pairing: a local member's contribution, or a remote one's, whose values and tags are open. -/
def rankElems (s : State) (l : List Contribution) (n : Nat) (e : (Nat × Nat × Nat) × Nat) : List Elem :=
  if e.1.1 = Config.endpoint then
    match l.find? fun x => x.launch == e.1.2.1 && x.lin == e.1.2.2 with
    | some x => x.elems
    | none => []
  else
    (List.range n).map fun i =>
      let k := (s.freeCtr * 65536 + e.2) * 2 ^ 32 + i
      ⟨Config.freeWord (2 * k), (Config.freeWord (2 * k + 1)).setWidth 6⟩

/-- The reduction of one element over the ranks in ascending order (R69). -/
def collReduce (mode : BitVec 32) (t rop : Nat) (l : List Elem) : RedNode :=
  let o : RedOp := if rop = 0 then .add else if rop = 1 then .min else .max
  let m := withType mode t
  match l.map fun e => ({ bits := e.bits, tag := e.tag } : RedNode) with
  | [] => { bits := 0, tag := 62 }
  | x :: r => r.foldl (redStep m o) x

/-- The result of one rank of a collective (R238), with the exceptions of its reductions. Every participant receives the same bits
(R69): all ranks round under one ROUND and FTZ, `mode`'s; where the members of a pairing have captured different ones, the
spec does not say whose govern (DESIGN CHOICE, log entry 87). SIGMIN is compared, as the rank's own operation captured it,
for the sums of a floating-point FORMAT alone, and where there is a sum: a group of one rank delivers what it was given
(R69, R80, R91). -/
def collResult (x : Contribution) (mode : BitVec 32) (ranks : List (List Elem)) (rank : Nat) : List Elem × Exc :=
  let n := x.elems.length
  let k := ranks.length
  let reduced (lo m : Nat) : List Elem × Exc :=
    let l := (List.range m).map fun i => collReduce mode x.fmt (collRop x.param) (ranks.map fun r => r.getD (lo + i) {})
    let sig (e : RedNode) : Exc := if 1 < k && collRop x.param = 0 && isFloat x.fmt then sigExc x.mode e.tag.toNat else 0
    (l.map fun e => ⟨e.bits, e.tag⟩, l.foldl (fun z e => z ||| e.exc ||| sig e) 0)
  match collKind x.param with
  | 0 => reduced 0 n
  | 1 => if rank = collRoot x.param then reduced 0 n else ([], 0)
  | 2 => (ranks.getD (collRoot x.param) [], 0)
  | 3 => (ranks.flatten, 0)
  | _ => reduced (rank * (n / k)) (n / k)

/-- Whether two members of a pairing agree (R238). -/
def Contribution.agrees (x y : Contribution) : Bool :=
  x.elems.length == y.elems.length && x.fmt == y.fmt && collKind x.param == collKind y.param &&
    collRop x.param == collRop y.param && collRoot x.param == collRoot y.param

/-- Exchange and reduction of a pairing all of whose local members have staged (R307): every member gets its result. A
remote member's disagreement, like its data, is open. -/
def exchangePairing (s : State) (g : CollGroup) (asid pairing : Nat) : State :=
  let l := s.contributions.filter fun x => x.asid == asid && x.gid == g.gid && x.pairing == pairing
  let isLocal (e : Nat × Nat × Nat) : Bool := e.1 == Config.endpoint
  let here (e : Nat × Nat × Nat) : Bool := l.any fun x => x.launch == e.2.1 && x.lin == e.2.2
  if l.any fun x => x.failed.isSome then failPairing s asid g.gid pairing stGroup
  else if g.ranks.any fun e => isLocal e && !here e then s
  else
    match l with
    | [] => s
    | x :: _ =>
      let remote := g.ranks.any fun e => !isLocal e
      let down := g.ranks.any fun e => !isLocal e && s.links.ualinkDown.contains (Config.ualinkStation (e.1 % 256) % 24)
      if down then failPairing s asid g.gid pairing stLink else
      if !(l.all fun y => y.agrees x) || (remote && choose s 0xFF00 2 == 1) then failPairing s asid g.gid pairing stGroup
      else
        let ranks := (g.ranks.zipIdx).map (rankElems s l x.elems.length)
        let mode := (g.ranks.findSome? fun e =>
          if isLocal e then (l.find? fun y => y.launch == e.2.1 && y.lin == e.2.2).map (·.mode) else none).getD x.mode
        { s with
          freeCtr := s.freeCtr + 1
          contributions := s.contributions.map fun y =>
            if y.asid = asid ∧ y.gid = g.gid ∧ y.pairing = pairing ∧ y.result = none then
              match g.ranks.findIdx? fun e => isLocal e && e.2.1 == y.launch && e.2.2 == y.lin with
              | none => { y with failed := some stGroup }
              | some rank =>
                let (r, e) := collResult y mode ranks rank
                { y with result := some r, exc := e }
            else y }

/-- COLL_EXCHANGE_COMPLETE (R307): the subject's operation takes its result, once the pairing has exchanged, and begins to
write; a pairing that failed ends it. -/
def execCollExchangeComplete (s : State) : Host.Outcome State Fault Refusal :=
  let o : OpRef := ⟨s.subject.core, s.subject.block, s.subject.slot⟩
  .next (match opAt s o with
    | none => s
    | some (b, op) =>
      if op.phase != .exchange || op.ended || op.cancel || !op.live || b.stopped then s
      else
        let s := match collGroupOf s b (collGroup op.param) with
          | none => failPairing s b.asid (collGroup op.param) op.pairing stGroup
          | some (g, _) => exchangePairing s g b.asid op.pairing
        match s.contributions.find? fun x => x.isOf b op with
        | none => s
        | some x =>
          match x.failed, x.result with
          | some c, _ => endOp (dropContribution s o b op) o c 0
          | none, some r => collEnd (modOp s o fun y => { y with phase := .writing, result := r, exc := y.exc ||| x.exc }) o
          | none, none => s)

/-- The end of a contribution with its operation (R308): a cancelled one ends the peers that wait on the pairing. -/
def endContribution (s : State) (o : OpRef) (b : Block) (op : Op) : State :=
  if op.form ≠ .coll ∨ op.ended then s
  else if op.phase = .writing then dropContribution s o b op
  else leavePairing s o b op

/-! ### Stalls and final states -/

/-- An operation stops with a status between two steps of its work (R223): a WLOAD, or an MMA that refetches its tile, leaves no
weights latched (R297, R303); a collective operation gives back its contribution. -/
def stopOp (s : State) (o : OpRef) (b : Block) (op : Op) (status : Nat) (info : BitVec 64) : State :=
  let s := match op.form with
    | .wload => unlatch s o
    | .mma => if b.latched.any fun x => !x.present then unlatch s o else s
    | .coll => dropContribution s o b op
    | _ => s
  endOp s o status info

/-- The FAULT of a stalled operation whose page the memory-management unit cannot resolve (R223, R387). -/
def failOp (s : State) (o : OpRef) (b : Block) (op : Op) (info : BitVec 64) : State := stopOp s o b op stFault info

/-- ENGINE_RESUME (R225): a STALLED Press or collective operation whose condition holds goes on when a grant next reaches it; a
Mangle operation stays STALLED until a channel takes it (R305). -/
def execEngineResume (s : State) : Host.Outcome State Fault Refusal :=
  let o : OpRef := ⟨s.subject.core, s.subject.block, s.subject.slot⟩
  .next (match opAt s o with
    | none => s
    | some (b, op) =>
      if op.st == .stalled && engineOf op.form != 1 && stallOver s o b op then modOp s o fun x => { x with st := .running, stall := .none } else s)

/-- A core's portion of engine work: its Mangle channels and its collective operations move on, each by an open number of
elements. -/
def engineWork (s : State) (c : Nat) : State :=
  let amount (s : State) (k : Nat) : Nat := 1 + choose s (0xFE00 + k) 64
  let s := (coreOf s c).mangle.chans.zipIdx.foldl (fun s e =>
    match e.1 with
    | none => s
    | some (h, slot) => mangleRun s ⟨c, h, slot⟩ (amount s e.2)) s
  let s := (coreOf s c).blocks.foldl (fun s e =>
    (e.2.liveOps 2).foldl (fun s op => collRun s ⟨c, e.1, op.slot⟩ (amount s op.slot)) s) s
  { s with freeCtr := s.freeCtr + 1 }

/-- The completion message of an operation (R223). -/
def completionMsg (b : Block) (op : Op) (seen : Nat) : Msg :=
  let payload := (opId op.form op.slot op.seq).toNat + (if op.status = stArith then op.info.toNat % 32 * 2 ^ 32 else 0)
  ⟨BitVec.ofNat 64 payload, senderId op.wave b.lin, 1, BitVec.ofNat 8 op.status, none, seen⟩

/-- An operation's final state (R223, R302): its streams close, its message fills the slot reserved for it, its scoreboard
entries end and its table slot is free for a later issue. -/
def finishOp (s : State) (o : OpRef) (b : Block) (op : Op) : State :=
  let s := endContribution s o b op
  let op := if op.ended then op else { op with status := stCancelled, info := 0 }
  let s := freeChannel s o
  let s := modCore s o.core fun k => { k with sb := k.sb.filter fun e => !(e.block == o.block && e.slot == o.slot) }
  let s := strikeWaiters s (fun _ => false) (· == (o.core, o.block, o.slot))
  modBlock s o.core o.block fun b =>
    let b := if readsDa op.form then closeStream b op.da op.inS false else b
    let b := if writesDw op.form then closeStream b op.dw op.outS true else b
    let b := b.modOp o.slot fun x =>
      { x with st := .done, ended := true, status := op.status, info := op.info, stall := .none, staged := [],
               result := [], inS := {}, outS := {} }
    let b := { b with opFree := b.opFree.filter (· != o.slot) ++ [o.slot] }
    if pPost op.param then
      (b.modPort (pPort op.param) fun p => { p with rsv := p.rsv - 1 }).putMsg (pPort op.param)
        (completionMsg b op (s.cycle + 1))
    else b

/-- ENGINE_COMPLETION (R223, R239): the operation's work is over, or a CANCEL stops it at its restart point. -/
def execEngineCompletion (s : State) : Host.Outcome State Fault Refusal :=
  let o : OpRef := ⟨s.subject.core, s.subject.block, s.subject.slot⟩
  .next (match opAt s o with
    | none => s
    | some (b, op) => if op.live && (op.ended || op.cancel) && !b.stopped then finishOp s o b op else s)

end Sys2Proof.Machine
end

