-- ==== Sys2Proof/Machine/Contexts.lean ====
section
/-! DEFINITION. The end of blocks, packets and contexts: what a kill removes (R247), a packet's completion word (R369), and
the end of a context with its identifier's quarantine (R398, R399). -/

namespace Sys2Proof.Machine

/-! ### The end of a block -/

/-- Whether an event of the Darner concerns a block. -/
def DarnerEvent.ofBlock (b : Nat) : DarnerEvent → Bool
  | .swapOut x _ => x == b
  | .restore _ _ => false
  | .checkpoint x => x == b
  | .granules f => f.block == b
  | .exactSum f _ => f.block == b
  | .sumRequest f _ => f.block == b
  | .storeFault x _ => x == b
  | .hamper _ => false
  | .service f _ => f.block == b
  | .overflow x _ _ _ _ => x == b

/-- The requests on CXL links of the loads of a block's fragments whose data have not arrived. A request brings the registers of
the lanes that await it. -/
def flightsOf (b : Block) : List Flight :=
  b.waves.flatMap fun w => w.frags.flatMap fun f => f.loads.flatMap fun l =>
    if l.vs.isEmpty && l.ss.isEmpty then []
    else l.link.map fun e =>
      ⟨b.asid, l.ident, e.2.1, l.ready, if l.ss.isEmpty then 4 * laneCount e.1 * l.vs.length else 8⟩

/-- A block leaves its core: its fragments, entries, records, queues and resources are gone with it, but for its requests on a
link. -/
def removeBlock (s : State) (c b : Nat) : State :=
  let entries := ((coreOf s c).hamper.filter fun e => e.block == b).map (·.idx)
  let s := { s with links := { s.links with flights := s.links.flights ++ ((blockOf s c b).elim [] flightsOf) } }
  let s := modCore s c fun k =>
    { k with
      blocks := tabErase b k.blocks
      hamper := k.hamper.filter fun e => e.block != b
      records := k.records.filter fun e => e.block != b
      popped := k.popped.filter fun e => e.block != b
      sb := k.sb.filter fun e => e.block != b
      mangle := { k.mangle with chans := k.mangle.chans.map fun x =>
        match x with
        | some (h, slot) => if h = b then none else some (h, slot)
        | none => none }
      darner := { k.darner with events := k.darner.events.filter fun e => !e.ofBlock b }
      lists := (k.lists.map fun l => (l.1, l.2.filter fun (r : FragRef) => r.block != b)).filter fun l => !l.2.isEmpty }
  strikeWaiters s (fun e => e.1 == c && entries.contains e.2) fun e => e.1 == c && e.2.1 == b

/-- A core's mailbox keeps something for Dibor (R443). -/
def mailTo (s : State) (core : Nat) (m : Mail) : State :=
  { s with firmware := { s.firmware with mailboxes := s.firmware.mailboxes ++ [(core, m)] } }

/-- A launch counts a block that has ended, once. -/
def countEnded (s : State) (launch lin : Nat) (killed : Bool) : State :=
  modLaunch s launch fun l =>
    if l.ended.contains lin then l
    else { l with ended := l.ended ++ [lin], killed := if killed then l.killed + 1 else l.killed }

/-- A launch's block has ended, by retirement or by kill; while Dibor's core has failed, the core's mailbox keeps it too. -/
def endLaunchBlock (s : State) (core launch lin : Nat) (killed : Bool) : State :=
  let s := countEnded s launch lin killed
  if s.firmware.suspended then mailTo s core (.ended launch lin killed) else s

/-- A KILL (R247): operations stop without messages, unaccepted stores and records vanish, accepted stores stand. A
resilient block's uncommitted effects never happen (R430). -/
def killBlock (s : State) (c b : Nat) : State :=
  match blockOf s c b with
  | none => s
  | some k =>
    let s := removeBlock s c b
    let s := { s with
      net := s.net.filter fun m => !(m.held && m.senderLaunch == k.launch && m.senderLin == k.lin)
      contributions := s.contributions.filter fun x => !(x.asid == k.asid && x.launch == k.launch && x.lin == k.lin) }
    endLaunchBlock s c k.launch k.lin true

/-- The program cores' resident blocks that satisfy a test, as core and handle. -/
def residentBlocks (s : State) (f : Block → Bool) : List (Nat × Nat) :=
  s.cores.flatMap fun k => (k.2.blocks.filter fun e => e.1 < supervisorHandle && f e.2).map fun e => (k.1, e.1)

/-- Kills every resident block that satisfies a test. -/
def killBlocks (s : State) (f : Block → Bool) : State :=
  (residentBlocks s f).foldl (fun s e => killBlock s e.1 e.2) s

/-! ### Packets (R367 to R370) -/

/-- `n` bits of a packet from bit `lo` on. -/
def pkBits (p : BitVec 512) (lo n : Nat) : Nat := (p.extractLsb' lo n).toNat

def pkHdr (p : BitVec 512) : Nat := pkBits p 0 16
def pkType (p : BitVec 512) : Nat := pkHdr p % 16
def pkBarrier (p : BitVec 512) : Bool := pkHdr p / 16 % 2 == 1
def pkAcq (p : BitVec 512) : Nat := pkHdr p / 32 % 8
def pkRel (p : BitVec 512) : Nat := pkHdr p / 256 % 8
def pkIrq (p : BitVec 512) : Nat := pkBits p 160 32
def pkKernel (p : BitVec 512) : Nat := pkBits p 192 64
def pkArgs (p : BitVec 512) : Nat := pkBits p 256 64
def pkSignal (p : BitVec 512) : Nat := pkBits p 320 64

/-- ABORTED of R369. -/
def stAborted : Nat := 0x36

/-- What an access of Dibor's in a context gives: bytes, a page that must be resolved first, or no answer at all. -/
inductive DiborRead where
  | ok (s : State) (bytes : List Byte)
  | wait (s : State)
  | fail (s : State)

/-- The physical bytes of a virtual range for Dibor. A page not present is resolved as any page fault is (R387): the page
request names Dibor's core, and an answer that refuses it fails the access. -/
def diborBytes (s : State) (asid access va n : Nat) : State × Option (List Nat) × Bool :=
  match translateBytes s diborCore asid access 0xFD00 va n with
  | (s, .ok l) => (s, some l, false)
  | (_, .error (code, a)) =>
    let key := (asid, a / 4096, access)
    if s.firmware.refused.contains key then
      ({ s with firmware := { s.firmware with refused := s.firmware.refused.erase key } }, none, false)
    else if code = 0x09 then (s, none, false)
    else if s.pageRequests.any fun r =>
        r.asid == asid && r.page == a / 4096 && r.access == access && r.entries.contains (diborCore, 0) then
      (s, none, true)
    else (joinPageRequest s asid (a / 4096) access [(diborCore, 0)] [] 0 (diborCore * 128), none, true)

/-- A read by Dibor in a context. -/
def diborRead (s : State) (asid va n : Nat) : DiborRead :=
  match diborBytes s asid accRead va n with
  | (s, some l, _) =>
    let x : Store := .phys none
    if x.poisoned s l then .fail (poisonEvent s diborCore asid ((l.find? (x.badByte s)).getD 0))
    else
      let s := x.touch s l
      .ok s (l.map (x.get s))
  | (s, none, true) => .wait s
  | (s, none, false) => .fail s

/-- The completion word (R369). -/
def completionWord (status killed : Nat) : BitVec 64 := BitVec.ofNat 64 (status + killed * 2 ^ 32)

/-- The interrupt of a packet, where IRQEN asks for one (R369). -/
def packetIrq (s : State) (queue : Nat) (raw : BitVec 512) : State :=
  if pkIrq raw / 32 % 2 = 1 then emit s (.interrupt (queue / 64) (pkIrq raw % 32)) else s

/-- The write of a completion word, then the interrupt; none while its page is being resolved. A write that cannot be
resolved is dropped, and the queue's ERR is set (R369). -/
def writeCompletion (s : State) (queue asid : Nat) (raw : BitVec 512) (status killed : Nat) : Option State × State :=
  let a := pkSignal raw
  if a = 0 ∨ a % 8 ≠ 0 then (some (packetIrq s queue raw), s)
  else
    match diborBytes s asid accWrite a 8 with
    | (s, some l, _) =>
      let x : Store := .phys none
      (some (packetIrq (x.putList (x.touch s l) l (leBytes (completionWord status killed).toNat 8)) queue raw), s)
    | (s, none, true) => (none, s)
    | (s, none, false) => (some (packetIrq (modQueue s queue fun q => { q with err := true }) queue raw), s)

/-- The identifier of a launch (R370). -/
def launchIdent (queue index node : Nat) : Nat := queue * 2 ^ 52 + index % 2 ^ 40 * 2 ^ 12 + node

/-- Changes a packet of a queue. -/
def modPacket (s : State) (q index : Nat) (f : Packet → Packet) : State :=
  modQueue s q fun k => { k with packets := k.packets.map fun p => if p.index = index then f p else p }

/-- The launches of a packet, its graph nodes' included. -/
def packetLaunches (s : State) (q index : Nat) : List Launch :=
  s.launches.filter fun l => l.queue == q && l.index == index

/-- A launch's leavings go with its completion: its exact sums are retired (R199), and its words are fetched anew (R99). -/
def endLaunch (s : State) (ident : Nat) : State :=
  let s := (s.exactSums.filter fun x => x.launch == ident).foldl retireSum s
  { s with
    launches := s.launches.filter fun l => l.ident != ident
    images := s.images.filter fun x => x.launch != ident
    checkpoints := s.checkpoints.filter fun x => x.launch != ident
    overwritten := (s.overwritten.map fun e => (e.1, e.2.filter fun x => x.1 != ident)).filter fun e => e.2 != [] }

/-- Changes a node of a packet's graph. -/
def Packet.modNode (p : Packet) (n : Nat) (f : Node → Node) : Packet :=
  { p with nodes := p.nodes.zipIdx.map fun e => if e.2 = n then f e.1 else e.1 }

/-- Page requests outstanding on a link for an identifier: of each page, the first kind of access that was asked for, and those
that nobody waits for any more; the others wait for its answer and have not been sent (R387, R398). -/
def sentRequests (s : State) (asid : Nat) : List PageRequest :=
  s.pageRequests.filter fun r => r.asid == asid && (!r.live || sentRequest s asid r.page == some r)

/-- The identifier of a context that has ended, and whose packets are DONE, is retired into quarantine (R398). -/
def retireContext (s : State) (asid : Nat) : State :=
  let l := sentRequests s asid
  let s := dropTranslations s (· == asid) none
  { s with
    contexts := s.contexts.filter fun k => k.asid != asid
    quarantine := s.quarantine.map fun x => if x.asid = asid then { x with since := s.timebase, outstanding := l.length } else x
    pageRequests := (s.pageRequests.filter fun r => r.asid != asid) ++ l.map fun r => { r with entries := [], ops := [] } }

/-- Whether a packet of some queue has still to write its words in a context. -/
def awaitsWords (s : State) (asid : Nat) : Bool :=
  s.queues.any fun q => q.2.packets.any fun p => p.status == stAborted && p.asid == asid

/-- An ended context is retired once its packets' words are written. -/
def settleEnding (s : State) (asid : Nat) : State :=
  if (contextOf s asid).any Context.ending && !awaitsWords s asid then retireContext s asid else s

/-- The ABORTED words of the nodes of a graph that are not DONE or SKIPPED, in ascending order; none while a page is awaited. -/
def abortNodes (s : State) (q : Nat) (p : Packet) : List (Node × Nat) → Option State × State
  | [] => (some s, s)
  | (x, j) :: r =>
    if x.st = .done ∨ x.st = .skipped then abortNodes s q p r
    else
      match writeCompletion s q p.asid x.packet stAborted x.killed with
      | (none, s) => (none, s)
      | (some s, _) => abortNodes (modPacket s q p.index fun y => y.modNode j fun z => { z with st := .done }) q p r

/-- A packet is to end ABORTED (R370): its blocks are killed and its launches are over, and its words follow. -/
def beginAbort (s : State) (q : Nat) (p : Packet) (asid : Nat) : State :=
  let l := packetLaunches s q p.index
  let s := killBlocks s fun b => l.any fun x => x.ident == b.launch
  let ended := packetLaunches s q p.index
  let killed (node : Nat) : Nat := (ended.filter fun x => x.node == node).foldl (fun n x => n + x.killed) 0
  let s := l.foldl (fun s x => endLaunch s x.ident) s
  modQueue s q fun k =>
    { k with
      ridx := if p.st = .fetched ∧ p.status ≠ stAborted then k.ridx + 1 else k.ridx
      unreadySince := none
      packets := k.packets.map fun y =>
        if y.index = p.index then
          { y with st := .completing, status := stAborted, asid := asid
                   killed := ended.foldl (fun n x => n + x.killed) y.killed
                   nodes := y.nodes.zipIdx.map fun e => { e.1 with killed := e.1.killed + killed (e.2 + 1) } }
        else y }

/-- The words and interrupts of a packet that ends ABORTED (R369, R371): its nodes', then its own. It stays COMPLETING while a
page is awaited, and is then DONE. -/
def finishAbort (s : State) (q index : Nat) : State :=
  match (queueOf s q).packets.find? fun p => p.index == index with
  | none => s
  | some p =>
    match abortNodes s q p p.nodes.zipIdx with
    | (none, s) => s
    | (some s, _) =>
      match writeCompletion s q p.asid p.raw stAborted p.killed with
      | (none, s) => s
      | (some s, _) =>
        settleEnding (modQueue s q fun k => { k with packets := k.packets.filter fun y => y.index != index }) p.asid

/-- The abort of a packet begins, in the context of its queue or in the one in which it was asked for. -/
def startAbort (s : State) (q index : Nat) : State :=
  match (queueOf s q).packets.find? fun p => p.index == index with
  | none => s
  | some p => beginAbort s q p (if p.status = stAborted then p.asid else queueAsid (queueOf s q).desc)

/-- A packet ends ABORTED (R370). -/
def abortPacket (s : State) (q index : Nat) : State := finishAbort (startAbort s q index) q index

/-- A packet is to end ABORTED: Dibor decides the rest, and its journal records it first (R443). -/
def askAbort (s : State) (q index : Nat) : State :=
  modPacket s q index fun p =>
    if p.status = stAborted then p else { p with status := stAborted, asid := queueAsid (queueOf s q).desc }

/-! ### The journal (R443) -/

/-- Decisions enter the journal, each once, while a standby keeps it (R443). -/
def journal (s : State) (l : List Decision) : State :=
  { s with firmware := { s.firmware with
      journal := s.firmware.journal ++ l.filter fun d => !s.firmware.journal.contains d } }

/-! ### The end of a context (R399, R398) -/

/-- The packets of the queues that a context governs, by queue and index. -/
def contextPackets (s : State) (asid : Nat) : List (Nat × Nat) :=
  s.queues.flatMap fun q => if queueAsid q.2.desc = asid then q.2.packets.map fun p => (q.1, p.index) else []

/-- The END of a context: blocks killed, packets aborted, images discarded, accumulators retired, and the identifier retired
once the packets' words are written, each as a decision of its own (R443). -/
def endContext (s : State) (asid : Nat) : State :=
  match contextOf s asid with
  | none => s
  | some k =>
    if k.ending then s
    else
      let s := killBlocks s fun b => b.asid == asid
      let packets := contextPackets s asid
      let launches := packets.flatMap fun e => (packetLaunches s e.1 e.2).map (·.ident)
      let s := { s with
        quarantine := s.quarantine ++ [{ asid := asid, since := s.timebase, outstanding := 0, completions := 0, bytes := 0,
                                         launches := launches }] }
      let s := packets.foldl (fun s e => startAbort s e.1 e.2) s
      let s := (s.exactSums.filter fun x => x.asid == asid).foldl retireSum s
      settleEnding { modContext s asid fun k => { k with ending := true } with
        images := s.images.filter fun x => x.asid != asid
        checkpoints := s.checkpoints.filter fun x => x.asid != asid
        contributions := s.contributions.filter fun x => x.asid != asid
        preempts := s.preempts.filter fun p => p.target != .context asid } asid

/-- A core finds that a context is to end: Dibor decides it, as its journal or a mailbox keeps it for it (R443, R445). -/
def askContextEnd (s : State) (core asid : Nat) : State :=
  if s.firmware.suspended then mailTo s core (.endContext asid)
  else if s.firmware.standby then journal s [⟨{ asid := asid }, .contextEnd asid⟩]
  else endContext s asid

/-- Data addressed to a retired identifier is discarded and counted (R398). -/
def countDiscard (s : State) (asid bytes : Nat) : State :=
  { s with quarantine := s.quarantine.map fun (q : Quarantine) =>
      if q.asid = asid then { q with completions := q.completions + 1, bytes := q.bytes + bytes } else q }

/-- Requests whose completion has come go: that of a retired identifier is discarded and counted (R398). -/
def landFlights (s : State) : State :=
  (s.links.flights.filter fun x => x.ready ≤ s.cycle).foldl (fun s x => countDiscard s x.asid x.bytes)
    { s with links := { s.links with flights := s.links.flights.filter fun x => s.cycle < x.ready } }

/-- The requests of a retired identifier that are outstanding on a link (R398): page requests and loads. -/
def openRequests (s : State) (q : Quarantine) : Nat :=
  q.outstanding + (s.links.flights.filter fun x => x.asid == q.asid).length

end Sys2Proof.Machine
end

