-- ==== Sys2Proof/Machine/Stores.lean ====
section
/-! DEFINITION. Posted stores on their way (R191, R192), store-fault records (R348) and SFQ (R251). -/

namespace Sys2Proof.Machine

/-- Where a store's lanes go, in ascending order: the lanes found, and those that fail with their codes. -/
def locateLanes (s : State) (core asid : Nat) (op : StoreOp) :
    State × List (StoreLane × Piece) × List (StoreLane × Nat) :=
  op.lanes.foldl (fun (x : State × List (StoreLane × Piece) × List (StoreLane × Nat)) l =>
    match locate x.1 core asid accWrite (0x7000 + l.lane) (l.place op) with
    | (s, .ok p) => (s, x.2.1 ++ [(l, p)], x.2.2)
    | (s, .error (code, _)) => (s, x.2.1, x.2.2 ++ [(l, code)])) (s, [], [])

/-- Performs lanes of a store (R185): an element's data and tag byte in one step, where R85 would also let another access come between
them (log entry 113). -/
def performLanes (s : State) (core block : Nat) (op : StoreOp) (l : List (StoreLane × Piece)) : State :=
  let x : Store := .phys (some (core, block))
  x.cover (l.foldl (fun s e => writeElem x (x.touch s e.2.bytes) op.fmt e.2 e.1.data e.1.tag) s)
    (l.flatMap fun e => e.2.bytes)

/-- Once the wave's earlier stores are settled, what a FENCE held back for them goes on (R190). -/
def settleFences (s : State) (core block wave : Nat) : State :=
  if (unresolved (coreOf s core) block wave).isEmpty then
    modWave s core block wave fun w =>
      if w.posted.isEmpty then { w with fenceStores := false, fenceLoads := false } else w
  else s

/-- Whether a posted store must wait for an earlier store of its wave: unaccepted, or a record that is not resolved (R327,
R332, R349). The two share a byte, or a FENCE or a release orders them. `pieces` are the later store's physical bytes. -/
def storeAfter (s : State) (core asid : Nat) (op earlier : StoreOp) (pieces : List Nat) : Bool :=
  op.fenced || (op.ranges.any fun e => earlier.lanes.any fun l => l.meets earlier.size e.1 e.2) ||
    !(rangesAt s core asid earlier.ranges pieces).isEmpty

/-- Whether a posted store may be performed (R192, R215, R327): none of its wave's earlier stores comes first, and the barriers
before it are settled. -/
def mayAccept (s : State) (core block : Nat) (b : Block) (w : Wave) (op : StoreOp) (pieces : List Nat) : Bool :=
  let earlier := (w.posted.takeWhile fun o => o.ident != op.ident) ++ (unresolved (coreOf s core) block w.idx).map (·.op)
  !(earlier.any fun o => storeAfter s core b.asid op o pieces) &&
    (w.handler || behindBarriers s core block b op.ident) &&
    !lockedBytes s (some (core, block)) (isBx op.fmt) pieces

/-- A store of a wave's queue. -/
def Wave.store? (w : Wave) (ident : Nat) : Option StoreOp := w.posted.find? fun o => o.ident == ident

/-- Where the lanes of a store whose requests did not come back with poison go; the others fail with 0x17 (R191, R422). -/
def locateStore (s : State) (core asid : Nat) (op : StoreOp) : State × List (StoreLane × Piece) × List (StoreLane × Nat) :=
  let bad := op.lanes.filter fun l => op.hit &&& laneBit l.lane != 0
  let (s, good, more) := locateLanes s core asid { op with lanes := op.lanes.filter fun l => op.hit &&& laneBit l.lane == 0 }
  (s, good, op.lanes.filterMap fun l => if bad.contains l then some (l, 0x17) else more.find? fun e => e.1 == l)

/-- The ACCEPTANCE of a posted store (R192): the lanes that translate are performed; the others, if any, remain for the record,
with the code of the lowest of them (R348). It waits for the stores that come before it. -/
def acceptStore (s : State) (core block wave ident : Nat) : State :=
  match blockOf s core block with
  | none => s
  | some b =>
    match b.wave? wave with
    | none => s
    | some w =>
      match w.store? ident with
      | none => s
      | some op =>
        let put (s : State) (l : List StoreOp) : State :=
          modWave s core block wave fun w => { w with posted := w.posted.flatMap fun o => if o.ident = ident then l else [o] }
        if op.failed.isSome then s
        else
          let (s', good, bad) := locateStore s core b.asid op
          let pieces := good.flatMap fun e => e.2.bytes
          if !mayAccept s core block b w op pieces then freeLocks s (some (core, block)) (isBx op.fmt) pieces
          else
            let s := performLanes s' core block op good
            let s := { s with freeCtr := s.freeCtr + 1 }
            match bad with
            | [] => settleFences (put (countEvent s core 12 1) []) core block wave
            | e :: _ => put s [{ op with lanes := bad.map (·.1), failed := some e.2 }]

/-- POSTED_STORE_ACCEPT (R192): the subject's ident names the store. -/
def execPostedStoreAccept (s : State) : Host.Outcome State Fault Refusal :=
  .next (acceptStore s s.subject.core s.subject.block s.subject.wave s.subject.ident)

/-- STORE_FAULT_RECORD (R348): the failed lanes of the wave's oldest store become a record, while the queue has room. -/
def execStoreFaultRecord (s : State) : Host.Outcome State Fault Refusal :=
  let c := s.subject.core
  let b := s.subject.block
  let w := s.subject.wave
  .next (match (waveOf s c b w).bind fun x => x.posted.head? with
    | none => s
    | some op =>
      match op.failed with
      | none => s
      | some code =>
        if Config.storeRecords ≤ (coreOf s c).records.length then s
        else
          let s := modCore s c fun k => { k with records := k.records ++ [⟨b, w, code, { op with failed := none, hit := 0 }⟩] }
          let s := modWave s c b w fun x => { x with posted := x.posted.tail }
          notifyDarner s c (.storeFault b w))

/-! ### SFQ (R251) -/

/-- The 576 bytes of a record. -/
def recordBytes (r : StoreRecord) : List Byte :=
  let lane (k : Nat) : Option StoreLane := r.op.lanes.find? fun l => l.lane == k
  let tags := r.op.lanes.any fun l => l.tagVa.isSome
  leBytes r.op.pc.toNat 8 ++ leBytes r.code 1 ++ leBytes r.op.kind 1 ++ leBytes r.op.size 1 ++
    leBytes ((if tags then 1 else 0) + r.op.ord * 2 + r.op.scope * 8) 1 ++
    leBytes (r.op.lanes.foldl (fun m l => m ||| laneBit l.lane) (0 : Lanes)).toNat 4 ++ leBytes r.block 2 ++
    leBytes r.wave 1 ++ leBytes 0 13 ++
    (laneList.flatMap fun k => leBytes (match lane k with | some l => l.va.toNat % 2 ^ 57 | none => 0) 8) ++
    (laneList.flatMap fun k => leBytes (match lane k with | some l => l.data.toNat | none => 0) 8) ++
    (laneList.flatMap fun k => leBytes (match lane k with | some l => l.tag.toNat | none => 0) 1)

/-- SFQ's answer: the records that remain, EMPTY and REFAULT. -/
def sfqWord (s : State) (core : Nat) (empty refault : Bool) : BitVec 64 :=
  BitVec.ofNat 64 ((coreOf s core).records.length % 64 + (if empty then 256 else 0) + (if refault then 65536 else 0))

/-- A pop takes the oldest record out of the queue; it stays unresolved, and what waits on it goes on waiting (R251, R349). -/
def takeRecord (s : State) (core : Nat) (r : StoreRecord) : State :=
  modCore s core fun k => { k with records := k.records.tail, popped := k.popped ++ [r] }

/-- The oldest record is resolved and removed, and what waited on it goes on. -/
def popRecord (s : State) (core : Nat) (r : StoreRecord) : State :=
  settleFences (modCore s core fun k => { k with records := k.records.tail }) core r.block r.wave

/-- The replay of the oldest record: all of its lanes, or none when one faults again. -/
def replayRecord (s : State) (core : Nat) (r : StoreRecord) : State × Bool :=
  match blockOf s core r.block with
  | none => (s, true)
  | some b =>
    match locateLanes s core b.asid r.op with
    | (s', good, []) => (popRecord (performLanes s' core r.block r.op good) core r, false)
    | (_, _, _) => (s, true)

/-- The bytes that a replay of the oldest record waits for: another resilient block holds them (R324, R335). -/
def replayHeld (s : State) (core : Nat) : Option (Bool × List Nat) :=
  (coreOf s core).records.head?.bind fun r =>
    (blockOf s core r.block).bind fun b =>
      let bytes := (locateLanes s core b.asid r.op).2.1.flatMap fun e => e.2.bytes
      if lockedBytes s (some (core, r.block)) (isBx r.op.fmt) bytes then some (isBx r.op.fmt, bytes) else none

/-- The effect of an SFQ operation on a queue, with its answer. -/
def sfqOp (s : State) (core : Nat) (op : Nat) (a : Nat) : State × BitVec 64 :=
  match (coreOf s core).records with
  | [] => (s, sfqWord s core true false)
  | r :: _ =>
    let (s, refault) :=
      match op with
      | 0 => (physWrite s none a (recordBytes r), false)
      | 1 => (takeRecord (physWrite s none a (recordBytes r)) core r, false)
      | 2 => replayRecord s core r
      | _ => (popRecord s core r, false)
    (s, sfqWord s core false refault)

/-- SFQ: b[1:0] is the operation. -/
def sfqForm (i : Instr) (d a : Code) (b : Src) (s : State) : Host.Outcome State Fault Refusal :=
  issueForm i s fun c =>
    let va := readWord s c a
    let vb := readSrcWord s c b
    if va.toNat % 64 ≠ 0 then fragmentFault c 0x01 va s
    else if 4 ≤ vb.toNat then fragmentFault c 0x01 vb s
    else
      match if vb = 2 then replayHeld s c.core else none with
      | some (rmw, l) => waitForBytes s c (.locked rmw l)
      | none =>
      let (s', v) := sfqOp s c.core vb.toNat va.toNat
      completeLater c i s' (writeCode c 0 d true tyU64 v 62)

/-- SFQ peek. -/
def execSfqPeek (w : BitVec 3) (d a : Code) (b : Src) (s : State) : Host.Outcome State Fault Refusal :=
  sfqForm (.sfqPeek w d a b) d a b s
/-- SFQ pop. -/
def execSfqPop (w : BitVec 3) (d a : Code) (b : Src) (s : State) : Host.Outcome State Fault Refusal :=
  sfqForm (.sfqPop w d a b) d a b s
/-- SFQ replay. -/
def execSfqReplay (w : BitVec 3) (d a : Code) (b : Src) (s : State) : Host.Outcome State Fault Refusal :=
  sfqForm (.sfqReplay w d a b) d a b s
/-- SFQ discard. -/
def execSfqDiscard (w : BitVec 3) (d a : Code) (b : Src) (s : State) : Host.Outcome State Fault Refusal :=
  sfqForm (.sfqDiscard w d a b) d a b s

end Sys2Proof.Machine
end

