-- ==== Sys2Proof/Machine/Fetch.lean ====
section
/-! DEFINITION. Instruction fetch (R92, R97, R99) and the length of the instruction at an address. -/

namespace Sys2Proof.Machine

/-- A fetched word, or the code and address of the fetch's fault. -/
inductive Fetched where
  | ok (s : State) (w : Word)
  | bad (code va : Nat)

/-- Fetches one word. One that stores of its launch have overwritten is the new or an old one (R99). An address past the last canonical
one wraps to 0 (DESIGN CHOICE, log entry 124: the spec says neither that it wraps nor that it faults). -/
def fetchWord (s : State) (core block : Nat) (b : Block) (va salt : Nat) : Fetched :=
  match translate s core b.asid (BitVec.ofNat 64 (va % 2 ^ 57)) accExec salt with
  | (_, .bad code) => .bad code (va % 2 ^ 57)
  | (s, .ok pa) =>
    if poisoned s pa 4 then .bad 0x17 (va % 2 ^ 57)
    else
      let now := wordOfBytes (physRead s (some (core, block)) pa 4)
      let old := ((cellGet [] (pa / 4) s.overwritten).filterMap fun e =>
        if e.1 = b.launch ∧ e.2 ≠ now then some e.2 else none).eraseDups
      .ok s (((now :: old)[choose s (salt + 1) (old.length + 1)]?).getD now)

/-- What the fetch of an instruction gives: the instruction with its first word, a decode fault's word, or a fault. -/
inductive FetchedInstr where
  | ok (s : State) (i : Instr) (w : Word)
  | illegal (s : State) (w : Word)
  | bad (code va : Nat)

/-- Fetches the instruction at an address: its word, then its literal words (R97). -/
def fetchInstr (s : State) (core block : Nat) (b : Block) (pc : Nat) : FetchedInstr :=
  match fetchWord s core block b pc 0x8000 with
  | .bad code va => .bad code va
  | .ok s x =>
    let done (s : State) (l h : Word) : FetchedInstr :=
      match decodeWords x l h with
      | .ok i => .ok s i x
      | .error _ => .illegal s x
    match literalCount x with
    | 0 => done s 0 0
    | 1 =>
      match fetchWord s core block b (pc + 4) 0x8002 with
      | .bad code va => .bad code va
      | .ok s l => done s l 0
    | _ =>
      match fetchWord s core block b (pc + 4) 0x8002 with
      | .bad code va => .bad code va
      | .ok s l =>
        match fetchWord s core block b (pc + 8) 0x8004 with
        | .bad code va => .bad code va
        | .ok s h => done s l h

/-- The bytes from an instruction to the next sequential one (R97). A word that cannot be fetched or decoded counts as one
word. -/
def lengthAt (s : State) (core block : Nat) (b : Block) (pc : Nat) : Nat :=
  match fetchWord s core block b pc 0x8000 with
  | .ok _ x => 4 + 4 * literalCount x
  | .bad _ _ => 4

end Sys2Proof.Machine
end

