-- ==== Sys2Proof/Machine/Signals.lean ====
section
/-! DEFINITION. Signals (R346, R403 to R406): the signal table, the delivery of a frame, the wait that a signalled fragment
leaves (R248), and signal return. -/

namespace Sys2Proof.Machine

/-! ### The Darner's accesses in a context -/

/-- Bytes of a context's address space, read by the Darner's own loads with an acquire; or the code that fails. -/
def ctxRead (s : State) (core : Nat) (o : Owner) (asid va n : Nat) : State × Except Nat (List Byte) :=
  match translateBytes s core asid accRead 0xFC00 (va % 2 ^ 57) n with
  | (_, .error (code, _)) => (s, .error code)
  | (s', .ok l) =>
    let x : Store := .phys o
    if x.poisoned s' l then (poisonEvent s core asid ((l.find? (x.badByte s')).getD 0), .error 0x17)
    else
      let s' := x.touch s' l
      (s', .ok (l.map (x.get s')))

/-- Bytes written into a context's address space by the Darner's own stores, or nothing when any byte faults. What it writes for
a resilient block is held with the block's own stores, so that a rollback undoes it (R87, R430). -/
def ctxWrite (s : State) (core : Nat) (o : Owner) (asid va : Nat) (bs : List Byte) : Option State :=
  match translateBytes s core asid accWrite 0xFC00 (va % 2 ^ 57) bs.length with
  | (_, .error _) => none
  | (s, .ok l) =>
    let x : Store := .phys o
    some (x.cover (x.putList (x.touch s l) l bs) l)

/-- `n` bytes of a list from an offset on, as a number. -/
def bytesNat (l : List Byte) (o n : Nat) : Nat := leNat ((l.drop o).take n)

/-! ### The signal table (R403) -/

/-- The table of a context, as the Darner reads it. -/
def sigTable (s : State) (core : Nat) (asid : Nat) : Option (List Byte) :=
  match contextOf s asid with
  | none => none
  | some k =>
    match (ctxRead s core none asid k.sigTab.toNat 1088).2 with
    | .ok l => some l
    | .error _ => none

/-- A valid entry of the table: ACTION, HANDLER and HMODE. -/
structure SigEntry where
  action : Nat
  handler : BitVec 64
  hmode : BitVec 32

/-- The entry of a signal number; an invalid one counts as ACTION 2 (R403). -/
def sigEntry (table : List Byte) (signo : Nat) : Option SigEntry :=
  let o := 0x40 + 16 * signo
  let h := bytesNat table o 8
  let m := BitVec.ofNat 32 (bytesNat table (o + 8) 4)
  let a := bytesNat table (o + 12) 1
  if 64 ≤ signo ∨ 2 ^ 57 ≤ h ∨ h % 4 ≠ 0 ∨ !modeLegal m ∨ 3 < a ∨ bytesNat table (o + 13) 3 ≠ 0 then none
  else some ⟨a, BitVec.ofNat 64 h, m⟩

/-- RETCODE, OVFSIG and FAULTSIG of the table. -/
def sigRetcode (table : List Byte) : Nat := bytesNat table 0 2
def sigOverflow (table : List Byte) : Nat := bytesNat table 2 1
def sigOfFault (table : List Byte) (code : Nat) : Nat := if code < 32 then bytesNat table (0x20 + code) 1 else 0xFF

/-- The address of a wave's frame at a depth, or none for a block beyond FRAMEBLOCKS (R405). -/
def frameAddr (table : List Byte) (lin wave depth : Nat) : Option Nat :=
  if bytesNat table 4 4 ≤ lin then none else some (bytesNat table 8 8 + ((lin * 64 + wave) * 4 + depth) * 384)

/-! ### Delivery -/

/-- The results that a fragment awaits arrive: they are written at once. Lanes of a load that failed have still to fault. -/
def Wave.landLoads (w : Wave) (frag : Nat) : Wave :=
  match w.frag? frag with
  | none => w
  | some f =>
    { w with
      regs := cellSetAll {} (f.loads.flatMap (·.vs)) w.regs
      frags := w.frags.map fun (x : Fragment) =>
        if x.id = frag then {
          x with s := cellSetAll {} (x.loads.flatMap (·.ss)) x.s
                 loads := (x.loads.filter fun l => !l.fail.isEmpty).map fun l => { l with vs := [], ss := [] } } else x }

/-- What a fragment that leaves its wait keeps (R248): the answer to a posted SEND, or an SVC's TAG; at most one. -/
def keptOf (f : Fragment) (depth : Nat) : Option Kept :=
  match f.kept with
  | some k => some { k with back := false }
  | none =>
    match f.st with
    | .waitEvent (.sendReply n _ _) => some { isSend := true, pc := f.pc, depth := depth, ident := n }
    | .waitEvent (.svcReply tag) => some { isSend := false, pc := f.pc, depth := depth, ident := tag }
    | _ => none

/-- The 384 bytes of a frame (R405). -/
def frameBytes (f : Fragment) (next : BitVec 64) (x0 x1 x2 : BitVec 64) (signo kind : Nat) : List Byte :=
  let reg (k : Nat) : SReg := cellGet {} k f.s
  leBytes f.pc.toNat 8 ++ leBytes next.toNat 8 ++ leBytes x0.toNat 8 ++ leBytes x1.toNat 8 ++ leBytes x2.toNat 4 ++
    leBytes f.exec.toNat 4 ++ leBytes f.members.toNat 4 ++ leBytes f.mode.toNat 4 ++ leBytes signo 1 ++ leBytes kind 1 ++
    leBytes 0 14 ++ (laneList.flatMap fun k => leBytes (reg k).val.toNat 8) ++
    (laneList.flatMap fun k => leBytes (reg k).tag.toNat 1) ++ leBytes 0 32

/-- DELIVERY of a signal to a fragment (R346, R405): its frame is written and its handler entered in user mode. None when
the delivery fails, which kills the block. -/
def deliverSignal (s : State) (core : Nat) (r : FragRef) (signo kind : Nat) (x0 x1 x2 x3 : BitVec 64) : Option State :=
  let s := modWave s core r.block r.wave fun w => w.landLoads r.frag
  match blockOf s core r.block with
  | none => none
  | some b =>
    match b.wave? r.wave, fragOf s core r, sigTable s core b.asid with
    | some w, some f, some table =>
      match sigEntry table signo, frameAddr table b.lin r.wave w.depth with
      | some e, some a =>
        if 4 ≤ w.depth then none
        else
          let next := f.pc + BitVec.ofNat 64 (lengthAt s core r.block b f.pc.toNat)
          match ctxWrite s core (some (core, r.block)) b.asid a (frameBytes f next x0 x1 x2 signo kind) with
          | none => none
          | some s =>
            some (modWave s core r.block r.wave fun w =>
              { w.modFrag r.frag fun (f : Fragment) =>
                  { f with
                    s := cellSetAll {} [(0, ⟨x0, 62⟩), (1, ⟨x1, 62⟩), (2, ⟨x2, 62⟩), (3, ⟨x3, 62⟩)] f.s
                    kept := keptOf f w.depth
                    mode := e.hmode, exec := f.members, pc := e.handler, st := .run, prods := [], hist := [],
                    noCompare := false, sbBound := none, copied := none, released := false }
                with depth := w.depth + 1 })
      | _, _ => none
    | _, _, _ => none

/-- The fragment that a signal to a wave goes to: the one that holds the lowest live lane among those not parked (R248). -/
def signalTarget (w : Wave) : Option Fragment :=
  let l := w.frags.filter fun (f : Fragment) => match f.st with | .parked _ => false | _ => true
  l.foldl (fun m f => match m with
    | none => some f
    | some g => if lowestLane f.members < lowestLane g.members then some f else some g) none

/-- A signal to a wave without a Hamper entry (R248): delivered, kept pending while every live lane is parked, or passed
over when no lane lives. -/
def postToWave (s : State) (core block wave signo : Nat) (value : BitVec 64) : State :=
  match waveOf s core block wave with
  | none => s
  | some w =>
    match signalTarget w with
    | some f =>
      let x3 := (value &&& ~~~ (0xFF : BitVec 64)) ||| BitVec.ofNat 64 signo
      (match deliverSignal s core ⟨block, wave, f.id⟩ signo 1 (BitVec.ofNat 64 (f.members.toNat * 2 ^ 32)) 0
          (f.exec.setWidth 64) x3 with
       | some s => s
       | none => killBlock s core block)
    | none => if w.frags.isEmpty then s else modWave s core block wave fun w => { w with sigpend := some (signo, value) }

/-- A pending signal reaches the fragment that an HREL has resumed (R248). -/
def deliverPending (s : State) (core block wave : Nat) : State :=
  match waveOf s core block wave with
  | none => s
  | some w =>
    match w.sigpend with
    | none => s
    | some (n, v) => postToWave (modWave s core block wave fun w => { w with sigpend := none }) core block wave n v

/-! ### The actions of the signal table (R404) -/

/-- Every block of a context is killed, and a core's Darner reports that the context is to end (R247, R399). -/
def killContext (s : State) (core asid : Nat) : State := askContextEnd (killBlocks s fun b => b.asid == asid) core asid

/-- ACTION for a SIGPOST or a notification to a wave: a table that cannot be read, an invalid entry, or FAULTSIG 0xFF kills
the block. A named wave that has no live lane is passed over (R248). -/
def signalAction (s : State) (core block : Nat) (wave : Option Nat) (signo : Nat) (value : BitVec 64) : State :=
  match blockOf s core block with
  | none => s
  | some b =>
    if wave.any fun w => (b.wave? w).all fun x => x.frags.isEmpty then s
    else
    match (sigTable s core b.asid).bind fun t => sigEntry t signo with
    | none => killBlock s core block
    | some e =>
      match e.action with
      | 0 => (match wave with | some w => postToWave s core block w signo value | none => s)
      | 1 => s
      | 2 => killBlock s core block
      | _ => killContext s core b.asid

/-! ### Hamper entries (R247) -/

/-- An entry of a core's Hamper. -/
def entryOf (s : State) (core idx : Nat) : Option HamperEntry := (coreOf s core).hamper.find? fun e => e.idx == idx

/-- Nobody awaits the resolution of an entry any more. -/
def forgetEntry (s : State) (core idx : Nat) : State :=
  strikeWaiters s (· == (core, idx)) fun _ => false

/-- HREL replay (R247). -/
def releaseReplay (s : State) (core : Nat) (e : HamperEntry) : State :=
  deliverPending (replayEntry (forgetEntry s core e.idx) core e) core e.block e.wave

/-- HREL skip (R247): the fragment goes on behind its instruction. -/
def releaseSkip (s : State) (core : Nat) (e : HamperEntry) : State :=
  match blockOf s core e.block, fragOf s core ⟨e.block, e.wave, e.frag⟩ with
  | some b, some f =>
    let pc := f.pc + BitVec.ofNat 64 (lengthAt s core e.block b f.pc.toNat)
    let s := unpark (forgetEntry s core e.idx) core e pc false
    let s := modFrag s core ⟨e.block, e.wave, e.frag⟩ fun x =>
      { x with kept := x.kept.filter fun k => !(k.back && k.pc == f.pc) }
    deliverPending s core e.block e.wave
  | _, _ => s

/-- FLT of an entry (R341). -/
def entryFlt (e : HamperEntry) : BitVec 64 := BitVec.ofNat 64 (e.code + e.mask.toNat * 2 ^ 32)

/-- HREL signal (R247, R346). -/
def releaseSignal (s : State) (core : Nat) (e : HamperEntry) (signo : Nat) : State :=
  match fragOf s core ⟨e.block, e.wave, e.frag⟩ with
  | none => s
  | some f =>
    let s := unpark (forgetEntry s core e.idx) core e f.pc false
    match deliverSignal s core ⟨e.block, e.wave, e.frag⟩ signo 0 (entryFlt e) e.info (e.active.setWidth 64)
        (BitVec.ofNat 64 signo) with
    | some s => deliverPending s core e.block e.wave
    | none => killBlock s core e.block

/-- HREL kill (R247). -/
def releaseKill (s : State) (core : Nat) (e : HamperEntry) (proc : Bool) : State :=
  match blockOf s core e.block with
  | none => s
  | some b => if proc then killContext s core b.asid else killBlock s core e.block

/-! ### Signal return (R406) -/

/-- The kept request after a return to `pc` at a depth (R248): taken up again, or given up when RPC lies elsewhere. -/
def keptAfterReturn (f : Fragment) (depth : Nat) (pc : BitVec 64) : Option Kept × Bool :=
  match f.kept with
  | none => (none, false)
  | some k =>
    if k.depth ≠ depth then (some k, false)
    else if k.pc = pc then (some { k with back := true }, false)
    else (none, !k.isSend && k.held)

/-- The context's post page counts a reply that reaches nobody (R401): replies come through the partition's driver page. -/
def dropReply (s : State) (core : Nat) : State :=
  modPart s (partitionOf core) fun p => { p with drops := p.drops + 1 }

/-- A fault of a fragment that waits on a device service, at its SVC, with mask EXEC. -/
def serviceFault (s : State) (core : Nat) (r : FragRef) (code : Nat) (info : BitVec 64) : State :=
  match ctxOf { s with focus := some ⟨core, r⟩ } with
  | none => s
  | some c => fragmentFault c code info s

/-- SIGRET as the Darner serves it: the wave's top frame is read and restored. -/
def signalReturn (s : State) (core : Nat) (r : FragRef) : State :=
  match blockOf s core r.block with
  | none => s
  | some b =>
    match b.wave? r.wave with
    | none => s
    | some w =>
      if w.depth = 0 then serviceFault s core r 0x01 (Config.freeWord s.freeCtr)
      else
        match (sigTable s core b.asid).bind fun t => frameAddr t b.lin r.wave (w.depth - 1) with
        | none => killBlock s core r.block
        | some a =>
          match ctxRead s core (some (core, r.block)) b.asid a 384 with
          | (_, .error _) => killBlock s core r.block
          | (s, .ok l) =>
            let rpc := BitVec.ofNat 64 (bytesNat l 0 8)
            let mode := BitVec.ofNat 32 (bytesNat l 0x2C 4)
            if rpc.toNat % 4 ≠ 0 then serviceFault s core r 0x04 rpc
            else if !modeLegal mode then serviceFault s core r 0x01 (mode.setWidth 64)
            else
              let depth := w.depth - 1
              let regs := laneList.map fun k =>
                (k, (⟨BitVec.ofNat 64 (bytesNat l (0x40 + 8 * k) 8),
                      heldTag (BitVec.ofNat 6 (bytesNat l (0x140 + k) 1))⟩ : SReg))
              let dropped := match w.frag? r.frag with
                | some f => (keptAfterReturn f depth rpc).2
                | none => false
              let s := modWave s core r.block r.wave fun w =>
                { w.modFrag r.frag fun (f : Fragment) =>
                    { f with
                      s := cellSetAll {} regs f.s, mode := mode, exec := BitVec.ofNat 32 (bytesNat l 0x24 4) &&& f.members,
                      pc := rpc, st := .run, kept := (keptAfterReturn f depth rpc).1, prods := [], hist := [] }
                  with depth := depth }
              if dropped then dropReply s core else s

end Sys2Proof.Machine
end

