-- ==== Sys2Proof/Machine/System.lean ====
section
/-! DEFINITION. The privileged forms (R241 to R252) but for CTXSV, CTXLD and CHKPT, which Machine/Images.lean and
Machine/Checkpoints.lean hold, and SVC with the services (R253, R400 to R402, R406). -/

namespace Sys2Proof.Machine

/-! ### RDSYS and WRSYS (R41, R243) -/

/-- Whether a core is a Thimble core, whose supervisor code has no target (R242). -/
def isThimble (core : Nat) : Bool := Config.programCores ≤ core

/-- The entry in service. -/
def serviceEntry (k : Core) : Option HamperEntry :=
  k.darner.entry.bind fun i => k.hamper.find? fun e => e.idx == i && e.st == .service

/-- The target fragment of the Darner's current event (R242). -/
def targetOf (k : Core) : Option FragRef :=
  match k.darner.current with
  | some (.granules f) => some f
  | some (.exactSum f _) => some f
  | some (.sumRequest f _) => some f
  | some (.service f _) => some f
  | some (.hamper _) => (serviceEntry k).map fun e => ⟨e.block, e.wave, e.frag⟩
  | _ => none

/-- The target with its wave and block. -/
def targetPlace (s : State) (core : Nat) : Option (FragRef × Block × Wave × Fragment) :=
  (targetOf (coreOf s core)).bind fun r =>
    (blockOf s core r.block).bind fun b =>
      (b.wave? r.wave).bind fun w => (w.frag? r.frag).map fun f => (r, b, w, f)

/-- The context of the target. -/
def targetContext (s : State) (core : Nat) : Option Context :=
  (targetPlace s core).bind fun x => contextOf s x.2.1.asid

/-- Whether a fragment's registers may be written (R41): it is parked, or waits on a service reply. -/
def writableTarget (f : Fragment) : Bool :=
  match f.st with
  | .parked _ => true
  | .waitEvent (.svcReply _) => true
  | .waitEvent (.service _) => true
  | _ => false

/-- The value of a system register, or none where R41 or R243 raises 0x01. `lane` is WINB's. On a Thimble core the spec
gives no value to the registers of a partition: they read as a free value of their width. -/
def readSys (s : State) (core n lane : Nat) : Option (BitVec 64) :=
  let ctx (f : Context → BitVec 64) : Option (BitVec 64) := (targetContext s core).map f
  let frag (f : Wave → Fragment → BitVec 64) : Option (BitVec 64) := (targetPlace s core).map fun x => f x.2.2.1 x.2.2.2
  let entry (f : HamperEntry → BitVec 64) : Option (BitVec 64) := (serviceEntry (coreOf s core)).map f
  let own (n : Nat) (v : BitVec 64) : Option (BitVec 64) :=
    some (if isThimble core then cutTo n (Config.freeWord s.freeCtr) else v)
  match n with
  | 0x000 => frag fun _ f => f.mode.setWidth 64
  | 0x001 => frag fun _ f => f.exec.setWidth 64
  | 0x002 => frag fun _ f => f.pc
  | 0x003 => frag fun w _ => BitVec.ofNat 64 (w.wbOf lane)
  | 0x010 => ctx fun k => BitVec.ofNat 64 k.asid
  | 0x011 => ctx (·.ptroot)
  | 0x012 => ctx (·.spillBase)
  | 0x013 => ctx fun k => k.spillSize.setWidth 64
  | 0x014 => ctx (·.sigTab)
  | 0x015 => ctx (·.svcCh)
  | 0x016 => ctx fun k => k.spillSlots.setWidth 64
  | 0x020 => entry entryFlt
  | 0x021 => entry (·.info)
  | 0x022 => entry fun e => e.active.setWidth 64
  | 0x030 => some ((coreOf s core).bankcfg.setWidth 64)
  | 0x040 => some (BitVec.ofNat 64 s.timebase)
  | 0x041 => own 8 (BitVec.ofNat 64 (partitionOf core % 256))
  | 0x050 => own 32 ((partState s (partitionOf core)).pmcsel.setWidth 64)
  | _ => none

/-- RDSYS (R243). -/
def execRdsys (w : BitVec 3) (d : Code) (n : BitVec 12) (s : State) : Host.Outcome State Fault Refusal :=
  issueForm (.rdsys w d n) s fun c =>
    let lane := ((readWord s c d).extractLsb' 0 5).toNat
    match readSys s c.core n.toNat lane with
    | none => fragmentFault c 0x01 (openInfo s) s
    | some v => completeLater c (.rdsys w d n) s (writeCode c 0 d true tyU64 v 62)

/-- Whether a context may take an identifier: its own, or one that is neither Dibor's, nor live, nor in quarantine (R398). -/
def mayRename (s : State) (old new : Nat) : Bool :=
  new == old || (new != 0 && (contextOf s new).isNone && !(s.quarantine.any fun q => q.asid == new))

/-- The identifier of a context changes, with all that the context has: its blocks, launches, images, checkpoints, exact sums,
contributions, page requests and requests on links, and its pre-emption. Cached translations keep theirs until a TLBI. -/
def renameContext (s : State) (old new : Nat) : State :=
  let ren (a : Nat) : Nat := if a = old then new else a
  { s with
    contexts := s.contexts.map fun (k : Context) => { k with asid := ren k.asid }
    launches := s.launches.map fun (l : Launch) => { l with asid := ren l.asid }
    images := s.images.map fun (x : Image) => { x with asid := ren x.asid }
    checkpoints := s.checkpoints.map fun (x : Image) => { x with asid := ren x.asid }
    exactSums := s.exactSums.map fun (x : ExactSum) => { x with asid := ren x.asid }
    contributions := s.contributions.map fun (x : Contribution) => { x with asid := ren x.asid }
    pageRequests := s.pageRequests.map fun (x : PageRequest) => { x with asid := ren x.asid }
    links := { s.links with flights := s.links.flights.map fun (x : Flight) => { x with asid := ren x.asid } }
    preempts := s.preempts.map fun (p : Preempt) =>
      { p with target := if p.target = .context old then .context new else p.target }
    cores := s.cores.map fun c => (c.1, { c.2 with
      blocks := c.2.blocks.map fun e => (e.1, { e.2 with asid := ren e.2.asid }) }) }

/-- PMCSEL's write (R452): every counter whose selection changes is cleared. -/
def writePmcsel (s : State) (p : Nat) (v : BitVec 32) : State :=
  modPart s p fun x =>
    { x with
      pmcsel := v
      pmc := x.pmc.filter fun e => x.pmcsel.extractLsb' (4 * e.1) 4 == v.extractLsb' (4 * e.1) 4 }

/-- What a WRSYS does: a new state, or the fault's code and FLT.INFO (none where the rule states no INFO). -/
inductive SysWrite where
  | ok (s : State)
  | bad (code : Nat) (info : Option (BitVec 64))

/-- The write of a system register (R41, R243). -/
def writeSys (s : State) (core n : Nat) (v : BitVec 64) : SysWrite :=
  let frag (f : Fragment → Fragment) : SysWrite :=
    match targetPlace s core with
    | none => .bad 0x01 none
    | some (r, _, _, x) => if writableTarget x then .ok (modFrag s core r f) else .bad 0x01 none
  let ctx (f : Context → Context) : SysWrite :=
    match targetContext s core with
    | none => .bad 0x01 none
    | some k => .ok (modContext s k.asid f)
  match n with
  | 0x000 =>
    let m := v.extractLsb' 0 32
    if modeLegal m then frag fun f => { f with mode := m } else .bad 0x01 (some v)
  | 0x001 => frag fun f => { f with exec := v.extractLsb' 0 32 &&& f.members }
  | 0x002 => if v.toNat % 4 ≠ 0 then .bad 0x04 (some v) else frag fun f => { f with pc := v }
  | 0x003 =>
    let lane := (v.extractLsb' 32 5).toNat
    match targetPlace s core with
    | none => .bad 0x01 none
    | some (r, _, _, x) =>
      if writableTarget x then
        .ok (modWave s core r.block r.wave fun w => { w with wb := cellSet 0 lane (v.extractLsb' 0 32).toNat w.wb })
      else .bad 0x01 none
  | 0x010 =>
    match targetContext s core with
    | none => .bad 0x01 none
    | some k =>
      let new := (v.extractLsb' 0 16).toNat
      if mayRename s k.asid new then .ok (renameContext s k.asid new) else .bad 0x01 none
  | 0x011 => ctx fun k => { k with ptroot := v }
  | 0x012 => ctx fun k => { k with spillBase := v }
  | 0x013 => ctx fun k => { k with spillSize := v.extractLsb' 0 32 }
  | 0x014 => ctx fun k => { k with sigTab := v }
  | 0x015 => ctx fun k => { k with svcCh := v }
  | 0x016 => ctx fun k => { k with spillSlots := v.extractLsb' 0 32 }
  | 0x050 => if isThimble core then .ok s else .ok (writePmcsel s (partitionOf core) (v.extractLsb' 0 32))
  | _ => .bad 0x01 none

/-- WRSYS (R243). -/
def execWrsys (w : BitVec 3) (d : Code) (n : BitVec 12) (s : State) : Host.Outcome State Fault Refusal :=
  issueForm (.wrsys w d n) s fun c =>
    match writeSys s c.core n.toNat (readWord s c d) with
    | .bad code info => fragmentFault c code (info.getD (openInfo s)) s
    | .ok s => complete c (.wrsys w d n) s {}

/-! ### ERET, TLBI, BANKM, PMCRD -/

/-- The Darner's event ends (R244): an entry in service that no HREL released is QUEUED again, behind every other. -/
def endEvent (s : State) (core : Nat) : State :=
  modCore s core fun k =>
    { k with
      hamper := k.hamper.map fun (e : HamperEntry) => if e.st = .service then { e with st := .queued, age := k.nextAge } else e
      nextAge := k.nextAge + 1
      darner := { k.darner with current := none, entry := none, targetAsid := none } }

/-- ERET (R244). -/
def execEret (w : BitVec 3) (s : State) : Host.Outcome State Fault Refusal :=
  issueForm (.eret w) s fun c =>
    if (coreOf s c.core).darner.current.isNone then fragmentFault c 0x01 (openInfo s) s
    else enterWait c (.eret w) (endEvent s c.core) (.waitEvent .darnerIdle)

/-- TLBI (R245, R389): the matching entries go at once, and the fragment waits for the acknowledgement. -/
def execTlbi (w : BitVec 3) (a : Code) (b : Src) (s : State) : Host.Outcome State Fault Refusal :=
  let i : Instr := .tlbi w a b
  issueForm i s fun c =>
    let va := readWord s c a
    let vb := readSrcWord s c b
    let kind := (va.extractLsb' 16 2).toNat
    let part := (va.extractLsb' 18 6).toNat
    let asid := (va.extractLsb' 0 16).toNat
    if va.toNat / 2 ^ 24 ≠ 0 ∨ kind = 3 ∨ (!isThimble c.core ∧ part ≠ 0) then fragmentFault c 0x01 va s
    else
      let p := if isThimble c.core then part else partitionOf c.core
      let mine (x : Nat) : Bool :=
        if kind = 2 then
          (match contextOf s x with | some k => k.group ≤ p && p < k.group + 2 ^ k.groupLog2 | none => false)
        else x == asid
      let s := dropTranslations s mine (if kind = 0 then some (vb.toNat % 2 ^ 57) else none)
      let n := s.nextIdent
      let s := { s with invalidations := s.invalidations ++ [⟨n, false, 0⟩], nextIdent := n + 1 }
      enterWait c i s (.waitEvent (.invalidation n (instrBytes i)))

/-- Whether a bank holds an allocation or binding of a resident block. -/
def bankHeld (k : Core) (bank : Nat) : Bool :=
  k.blocks.any fun e => (0 < e.2.hdr.scratch && rangesMeet e.2.pbase e.2.hdr.scratch (bank * 65536) 65536) ||
    e.2.fifos.any fun f => f.bank == bank

/-- A bank's mode. -/
def bankMode (cfg : BitVec 32) (bank : Nat) : Nat := (cfg.extractLsb' (2 * bank) 2).toNat

/-- The L1 lines of a bank that leaves L1 mode under a new BANKCFG are written back (R277): the model does not say which bank holds
a line, so all of the core's are, which a cache may do at any time. -/
def leaveL1 (s : State) (core : Nat) (cfg : BitVec 32) : State :=
  let old := (coreOf s core).bankcfg
  if (List.range 16).any fun j => bankMode old j == 0 && bankMode cfg j != 0 then
    writeBackPoison s core ((coreOf s core).l1Poison.map (· * 4))
  else s

/-- BANKCFG with one bank's mode changed. -/
def setBankMode (cfg : BitVec 32) (bank mode : Nat) : BitVec 32 :=
  (cfg &&& ~~~ (BitVec.ofNat 32 (3 * 4 ^ bank))) ||| BitVec.ofNat 32 (mode % 4 * 4 ^ bank)

/-- BANKM (R249, R276): refused for a bank in use, and where no bank would stay in L1 mode. The model keeps no dirty lines
apart from memory, so the write-back leaves nothing to wait for. -/
def execBankm (w : BitVec 3) (d a : Code) (s : State) : Host.Outcome State Fault Refusal :=
  issueForm (.bankm w d a) s fun c =>
    let v := readWord s c a
    let bank := v.toNat % 16
    let mode := v.toNat / 16 % 4
    if 64 ≤ v.toNat ∨ mode = 3 then fragmentFault c 0x01 v s
    else
      let k := coreOf s c.core
      let cfg := setBankMode k.bankcfg bank mode
      if bankHeld k bank || !(List.range 16).any fun j => bankMode cfg j == 0 then
        completeLater c (.bankm w d a) s (writeCode c 0 d true tyU64 1 62)
      else
        completeLater c (.bankm w d a) (modCore (leaveL1 s c.core cfg) c.core fun k => { k with bankcfg := cfg })
          (writeCode c 0 d true tyU64 0 62)

/-- PMCRD (R252). -/
def execPmcrd (w : BitVec 3) (d a : Code) (s : State) : Host.Outcome State Fault Refusal :=
  issueForm (.pmcrd w d a) s fun c =>
    let v := readWord s c a
    let part := (v.extractLsb' 9 6).toNat
    if v &&& ~~~ (0x7F07 : BitVec 64) ≠ 0 ∨ (!isThimble c.core ∧ part ≠ 0) then fragmentFault c 0x01 v s
    else
      let p := if isThimble c.core then part else partitionOf c.core
      let n := v.toNat % 8
      let count := cellGet 0 n (partState s p).pmc
      let s := if v.getLsbD 8 then modPart s p fun x => { x with pmc := cellSet 0 n 0 x.pmc } else s
      completeLater c (.pmcrd w d a) s (writeCode c 0 d true tyU64 count 62)

/-! ### HREL and SIGPOST -/

/-- The shared part of HREL (R247): the operand's reserved bits, and the entry it names. `used` are the bits that the action
uses beside the entry's number. An action that R343 gives to the entry in service alone changes nothing of another (R6). -/
def hrelForm (i : Instr) (a : Code) (used : BitVec 64) (service : Bool) (s : State) (act : State → Ctx → HamperEntry → BitVec 64 → State) :
    Host.Outcome State Fault Refusal :=
  issueForm i s fun c =>
    let v := readWord s c a
    if v &&& ~~~ (0x3F ||| used) ≠ 0 then fragmentFault c 0x01 v s
    else
      match entryOf s c.core (v.toNat % 64) with
      | none => fragmentFault c 0x01 v s
      | some e => if service && e.st != .service then complete c i s {} else act (complete c i s {}) c e v

/-- HREL replay. -/
def execHrelReplay (w : BitVec 3) (a : Code) (s : State) : Host.Outcome State Fault Refusal :=
  hrelForm (.hrelReplay w a) a 0 true s fun s c e _ => releaseReplay s c.core e
/-- HREL skip. -/
def execHrelSkip (w : BitVec 3) (a : Code) (s : State) : Host.Outcome State Fault Refusal :=
  hrelForm (.hrelSkip w a) a 0 true s fun s c e _ => releaseSkip s c.core e
/-- HREL signal. -/
def execHrelSignal (w : BitVec 3) (a : Code) (s : State) : Host.Outcome State Fault Refusal :=
  hrelForm (.hrelSignal w a) a 0xFF00 true s fun s c e v => releaseSignal s c.core e (v.toNat / 256 % 256)
/-- HREL kill. -/
def execHrelKill (w : BitVec 3) (a : Code) (s : State) : Host.Outcome State Fault Refusal :=
  hrelForm (.hrelKill w a) a 0x10000 false s fun s c e v => releaseKill s c.core e (v.getLsbD 16)

/-- SIGPOST (R248, R404): the action of the signal's entry, in each target wave. -/
def execSigpost (w : BitVec 3) (a : Code) (b : Src) (s : State) : Host.Outcome State Fault Refusal :=
  issueForm (.sigpost w a b) s fun c =>
    let va := readWord s c a
    let vb := readSrcWord s c b
    let h := va.toNat % 64
    let wave := va.toNat / 64 % 64
    let all := va.getLsbD 12
    match blockOf s c.core h with
    | none => fragmentFault c 0x01 va s
    | some k =>
      if 2 ^ 13 ≤ va.toNat ∨ (!all ∧ k.hdr.waves + k.hdr.handlers ≤ wave) then fragmentFault c 0x01 va s
      else
        let targets := if all then k.waves.map (·.idx) else [wave]
        targets.foldl (fun s x => signalAction s c.core h (some x) (vb.toNat % 256) vb) (complete c (.sigpost w a b) s {})

/-! ### SVC -/

/-- A reply's words reach a waiting fragment (R253, R401), which goes on behind its SVC. What it keeps of an SVC that a signal
interrupted stays (R248). -/
def takeReply (f : Fragment) (payload status : BitVec 64) : Fragment :=
  { f.putS [(0, ⟨payload, 62⟩), (1, ⟨status, 62⟩)] with st := .run, pc := f.pc + 4 }

/-- The end of an attempt to write an SVC's request (R401). -/
inductive SvcEnd where
  | fault (code : Nat) (info : BitVec 64) (access : Nat) (walk : Bool)
  | full
  | done (s : State) (tag : Nat)

/-- The fault of a request whose channel cannot be read or written (R401): at the SVC, with mask EXEC; poison in the channel is
recorded (R427). -/
def svcFault (c : Ctx) (code : Nat) (info : BitVec 64) (access : Nat) (walk : Bool) (s : State) : State :=
  let s := if code = 0x17 && hamperRoom s c then poisonEvent s c.core c.blk.asid 0 else s
  takeFault c { code := code, lanes := c.frag.members, info := info, access := access, walk := walk, whole := true } s s

/-- The bytes of one virtual range of the channel, or the code and address that fails. -/
def svcBytes (s : State) (core asid access va n : Nat) : State × Except (Nat × Nat) (List Nat) :=
  match translateBytes s core asid access 0x6000 (va % 2 ^ 57) n with
  | (s, .error e) => (s, .error e)
  | (s, .ok l) =>
    if access = accRead ∧ (Store.phys none).poisoned s l then (s, .error (0x17, va % 2 ^ 57)) else (s, .ok l)

/-- A request entry (R400). -/
def svcEntry (b : Block) (wave : Nat) (f : Fragment) (k tag : Nat) : List Byte :=
  leBytes tag 4 ++ leBytes k 2 ++ leBytes 0 2 ++ leBytes b.launch 8 ++ leBytes b.lin 4 ++ leBytes wave 1 ++ leBytes 0 3 ++
    leBytes f.members.toNat 4 ++ leBytes f.exec.toNat 4 ++ leBytes f.pc.toNat 8 ++ leBytes 0 24 ++
    (List.range 8).flatMap fun j => leBytes (cellGet ({} : SReg) j f.s).val.toNat 8

/-- The WRITE of a request to the context's channel: HEAD and TAIL are read, the entry and TAIL are written, and the
interrupt is raised; nothing is written when any of it faults (R401). -/
def svcRequest (s : State) (core : Nat) (b : Block) (wave : Nat) (f : Fragment) (k : Nat) : SvcEnd :=
  match contextOf s b.asid with
  | none => .fault 0x09 0 0 false
  | some ctx =>
    let base := ctx.svcCh.toNat
    match svcBytes s core b.asid accRead base 0x18 with
    | (_, .error (code, a)) => .fault code (BitVec.ofNat 64 a) accRead true
    | (s, .ok l) =>
      let x : Store := .phys none
      let head := l.map (x.get s)
      let size := bytesNat head 0 1
      let tail := bytesNat head 8 8
      if size < 4 ∨ 12 < size then .fault 0x01 (openInfo s) 0 false
      else if 2 ^ size ≤ (tail + 2 ^ 64 - bytesNat head 16 8) % 2 ^ 64 then .full
      else
        match svcBytes s core b.asid accWrite (base + 0x40 + 128 * (tail % 2 ^ size)) 128 with
        | (_, .error (code, a)) => .fault code (BitVec.ofNat 64 a) accWrite true
        | (s, .ok entry) =>
          match svcBytes s core b.asid accWrite (base + 8) 8 with
          | (_, .error (code, a)) => .fault code (BitVec.ofNat 64 a) accWrite true
          | (s, .ok tailAt) =>
            let tag := tail % 2 ^ 32
            let s := x.putList (x.touch s entry) entry (svcEntry b wave f k tag)
            let s := x.putList (x.touch s tailAt) tailAt (leBytes (tail + 1) 8)
            let irq := bytesNat head 1 1
            .done (if irq / 32 % 2 = 1 then emit s (.interrupt (partitionOf core) (irq % 32)) else s) tag

/-- The wave's earlier accesses are performed before an SVC is served (R253). -/
def svcForm (i : Instr) (k : Nat) (s : State) (body : Ctx → State) : Host.Outcome State Fault Refusal :=
  issueForm i s fun c =>
    if !storesSettled s c then waitEvent s c .settled
    else if c.frag.super then
      enterWait c i (emit s (.diborRequest c.core k)) (.waitEvent (.service k))
    else body c

/-- A wait on a reply, timed from now (R351). -/
def enterReply (c : Ctx) (i : Instr) (s : State) (w : Wait) : State :=
  withFrag (enterWait c i s (.waitEvent w)) c fun f => { f with waitSince := s.timebase }

/-- A resilient block's request is an effect of its next commit (R430). -/
def holdService (s : State) (c : Ctx) (k : Nat) : State :=
  modBlock s c.core c.ref.block fun b =>
    { b with ckpt := { b.ckpt with effects := b.ckpt.effects ++ [.svc c.ref k], due := true } }

/-- SVC of a host service (R401); 0x3F83 and the unassigned device services fault. A fragment that a signal took out of its
wait does not write its request again (R248); a resilient block's request waits for the commit (R430). -/
def execSvc (w : BitVec 3) (k : BitVec 14) (s : State) : Host.Outcome State Fault Refusal :=
  let i : Instr := .svc w k
  svcForm i k.toNat s fun c =>
    if 0x3F80 ≤ k.toNat then fragmentFault c 0x01 (openInfo s) s
    else
      match c.frag.kept.bind fun x => if !x.isSend && x.back && x.pc == c.frag.pc then some x else none with
      | some x =>
        if x.held then withFrag (complete c i s {}) c fun f => { takeReply f x.payload x.status with pc := f.pc, kept := none }
        else enterReply c i (withFrag s c fun f => { f with kept := none }) (.svcReply x.ident)
      | none =>
        if c.blk.hdr.resilient then
          enterReply c i (holdService s c k.toNat) .svcHeld
        else
          match svcRequest s c.core c.blk c.wave.idx c.frag k.toNat with
          | .fault code info access walk => svcFault c code info access walk s
          | .full => waitEvent s c .svcSpace
          | .done s' tag => enterReply c i s' (.svcReply tag)

/-- Whether the SIZELOG2 of a context's channel is one of R400. A channel that cannot be read gives a device service, which
writes nothing to it, no fault. -/
def channelSizeOk (s : State) (core asid : Nat) : Bool :=
  match contextOf s asid with
  | none => true
  | some k =>
    match svcBytes s core asid accRead k.svcCh.toNat 1 with
    | (_, .error _) => true
    | (s, .ok l) => let n := bytesNat (l.map ((Store.phys none).get s)) 0 1; 4 ≤ n && n ≤ 12

/-- A device service: the Darner serves it as a service request (R402), when the context's channel is no reason to fault
(R400). That of a resilient block acts beyond it and is held until the commit; SIGRET acts within the block, and forces the
commit too (R430). -/
def deviceService (i : Instr) (k : Nat) (s : State) (ok : Ctx → Bool) : Host.Outcome State Fault Refusal :=
  svcForm i k s fun c =>
    if !(ok c && channelSizeOk s c.core c.blk.asid) then fragmentFault c 0x01 (openInfo s) s
    else if c.blk.hdr.resilient && k < 0x3F83 then enterReply c i (holdService s c k) .svcHeld
    else
      let s := forceCheckpoint s c.core c.ref.block
      notifyDarner (enterReply c i s (.service k)) c.core (.service c.ref k)

/-- SVC WDOG (R402). -/
def execSvcWdog (w : BitVec 3) (s : State) : Host.Outcome State Fault Refusal :=
  deviceService (.svcWdog w) 0x3F80 s fun _ => true
/-- SVC DEBUG (R402). -/
def execSvcDebug (w : BitVec 3) (s : State) : Host.Outcome State Fault Refusal :=
  deviceService (.svcDebug w) 0x3F81 s fun _ => true
/-- SVC COLLREG (R402). -/
def execSvcCollreg (w : BitVec 3) (s : State) : Host.Outcome State Fault Refusal :=
  deviceService (.svcCollreg w) 0x3F82 s fun _ => true

/-- SVC SIGRET (R402, R406): k is the RETCODE of the context's signal table, and any other k of the range faults. -/
def execSvcSigret (w : BitVec 3) (k : BitVec 14) (s : State) : Host.Outcome State Fault Refusal :=
  deviceService (.svcSigret w k) k.toNat s fun c =>
    match sigTable s c.core c.blk.asid with
    | none => false
    | some t => 0x3F84 ≤ k.toNat && sigRetcode t == k.toNat

/-- The Darner's reply to a device service: SENDER 0, and STATUS 0 on success; the STATUS of a failure is open. -/
def serviceReplyTo (s : State) (core : Nat) (r : FragRef) (v : BitVec 64) (ok : Bool) : State :=
  let status : BitVec 64 := if ok then 0 else (Config.freeWord s.freeCtr).extractLsb' 0 8 |>.setWidth 64
  modFrag { s with freeCtr := s.freeCtr + 1 } core r fun f => takeReply f v (status * 2 ^ 20 + 4 * 2 ^ 16)

/-- Whether a comparator's value is without reserved bits and values (R352). -/
def comparatorOk (j : Nat) (v : BitVec 128) : Bool :=
  let size := (v.extractLsb' 67 5).toNat
  let addr := (v.extractLsb' 0 57).toNat
  v.extractLsb' 72 24 == 0#24 && v.extractLsb' 57 7 == 0#7 &&
    (if j < 8 then size == 0 && v.extractLsb' 65 2 == 0#2 && addr % 4 == 0 else size < 31 && addr % 2 ^ size == 0)

/-- The effect of a device service on its context (R402): the reply's s0, and whether it succeeded. -/
def serviceEffect (s : State) (core : Nat) (r : FragRef) (b : Block) (f : Fragment) (k : Nat) : State × BitVec 64 × Bool :=
  let arg (n : Nat) : Nat := (cellGet ({} : SReg) n f.s).val.toNat
  let bad : BitVec 64 := 1#64 <<< 63
  let read (va n : Nat) := ctxRead s core (some (core, r.block)) b.asid va n
  match k with
  | 0x3F80 =>
    if 10 ^ 6 < arg 1 then (s, bad, false) else (modContext s b.asid fun x => { x with wdogUs := arg 1 }, 0, true)
  | 0x3F81 =>
    match read (arg 1) 192 with
    | (s, .error code) => (s, bad + BitVec.ofNat 64 code, false)
    | (s, .ok l) =>
      let v := (List.range 12).map fun j => BitVec.ofNat 128 (bytesNat l (16 * j) 16)
      if v.zipIdx.all fun e => comparatorOk e.2 e.1 then (modContext s b.asid fun x => { x with comparators := v }, 0, true)
      else (s, bad, false)
  | _ =>
    let n := arg 2
    let taken := match contextOf s b.asid with
      | some x => x.collGroups.any fun g => g.gid == arg 1
      | none => true
    if 0xFFFF < arg 1 || n == 0 || 4096 < n || taken then (s, bad, false)
    else
      match read (arg 3) (24 * n) with
      | (s, .error code) => (s, bad + BitVec.ofNat 64 code, false)
      | (s, .ok l) =>
        let e := (List.range n).map fun j =>
          (bytesNat l (24 * j) 8, bytesNat l (24 * j + 8) 8, bytesNat l (24 * j + 16) 8)
        if e.any fun x => 256 ≤ x.1 then (s, bad, false)
        else (modContext s b.asid fun x => { x with collGroups := x.collGroups ++ [⟨arg 1, e⟩] }, 0, true)

/-- The Darner serves a request (R402, R406). -/
def serveService (s : State) (core : Nat) (r : FragRef) (k : Nat) : State :=
  match blockOf s core r.block, fragOf s core r with
  | some b, some f =>
    if f.st != .waitEvent (.service k) then s
    else if k < 0x3F83 then
      let (s, v, ok) := serviceEffect s core r b f k
      serviceReplyTo s core r v ok
    else signalReturn s core r
  | _, _ => s

/-- UNASSIGNED_OPCODE (R100, R101): a decode fault. -/
def execUnassignedOpcode (word : BitVec 32) (s : State) : Host.Outcome State Fault Refusal :=
  issueForm (.unassignedOpcode word) s fun c => decodeFault c 0x01 word s

end Sys2Proof.Machine
end

