-- ==== Sys2Proof/Machine/Waves.lean ====
section
/-! DEFINITION. What a wave's fragments do together: reconvergence (R132 to R134), the collective release (R168), WSYNC
(R176), deadlock (R169), the barriers (R215, R216); and the slots and waits that no instruction ends: the exchange and
displacement of R268 and R269, a load's data (R191), a freed Hamper entry (R342), the watchdog (R351). Each is an event
whose subject names what it concerns; one whose condition does not hold changes nothing. -/

namespace Sys2Proof.Machine

/-- The place of a fragment, as its instruction sees it. -/
def placeCtx (s : State) (core : Nat) (r : FragRef) : Option Ctx := ctxOf { s with focus := some ⟨core, r⟩ }

/-- The wave that an event concerns. -/
def subjectWave (s : State) : Option Wave := waveOf s s.subject.core s.subject.block s.subject.wave

/-- The fragment that an event concerns. -/
def subjectFrag (s : State) : FragRef := ⟨s.subject.block, s.subject.wave, s.subject.frag⟩

/-! ### Merging (R133) -/

/-- The fragment of a list that holds the lowest lane (R262). -/
def elderOf : List Fragment → Option Fragment
  | [] => none
  | f :: r =>
    match elderOf r with
    | none => some f
    | some g => if lowestLane g.members < lowestLane f.members then some g else some f

/-- The history of a merged fragment: what any of the fragments overwrote (log entry 12). -/
def mergeHist (a b : List HistStep) : List HistStep :=
  (List.range (max a.length b.length)).map fun k =>
    let x := (a[k]?).getD {}
    let y := (b[k]?).getD {}
    { x with vs := x.vs ++ y.vs, ps := x.ps ++ y.ps, lateV := x.lateV ++ y.lateV }

/-- The elder takes another fragment in: its own s-registers stay, with the results in flight to them. -/
def Fragment.absorb (e f : Fragment) : Fragment :=
  { e with
    members := e.members ||| f.members
    exec := e.exec ||| f.exec
    stallUntil := max e.stallUntil f.stallUntil
    prods := e.prods ++ f.prods.filter fun p => p.code < 64 || 128 ≤ p.code
    hist := mergeHist e.hist f.hist
    loads := e.loads ++ f.loads.map fun p => { p with ss := [] } }

/-- MERGE of the fragments of a wave that satisfy a test (R133): the elder stays, with what `done` makes of it. -/
def Wave.merge (w : Wave) (p : Fragment → Bool) (done : Fragment → Fragment) : Wave :=
  let l := w.frags.filter p
  match elderOf l with
  | none => w
  | some e =>
    let m := (l.filter fun f => f.id != e.id).foldl Fragment.absorb e
    { w with frags := (w.frags.filter fun f => f.id == e.id || !p f).map fun f => if f.id = e.id then done m else f }

/-! ### The release conditions -/

/-- Whether a fragment waits at an RCV. -/
def Fragment.atRcv (f : Fragment) : Bool := f.st == .waitRcv

/-- Whether a fragment waits at a collective. -/
def Fragment.atColl (f : Fragment) : Bool := f.st == .waitColl

/-- The mask of a fragment that waits at a WSYNC. -/
def Fragment.syncMask (f : Fragment) : Option Lanes :=
  match f.st with
  | .waitSync m _ => some m
  | _ => none

/-- The release condition of R132. -/
def Wave.rcvReady (w : Wave) : Bool :=
  w.frags.any Fragment.atRcv && w.frags.all fun f => f.atRcv || f.atColl

/-- The lowest RCV at which a fragment waits. -/
def Wave.lowestRcv (w : Wave) : Option (BitVec 64) :=
  (w.frags.filter Fragment.atRcv).foldl (fun m f =>
    match m with
    | none => some f.pc
    | some x => if f.pc < x then some f.pc else some x) none

/-- The release condition of R168. -/
def Wave.collReady (w : Wave) : Bool :=
  match w.frags with
  | [] => false
  | f :: r => f.atColl && r.all fun g => g.atColl && g.pc == f.pc

/-- The release of R176 for a mask: every holder of one of its lanes waits with it and with the ACTIVE it asks for, and
together they hold all of it. -/
def Wave.syncReady (w : Wave) (m : Lanes) : Bool :=
  let holders := w.frags.filter fun f => f.members &&& m != 0
  !holders.isEmpty && m &&& ~~~ (holders.foldl (fun x f => x ||| f.members) (0 : Lanes)) == 0 &&
    holders.all fun f => f.syncMask == some m && activeOf w f == m &&& f.members

/-- The fragments that the mismatch rule of R176 faults on account of a waiting fragment. -/
def Wave.mismatched (w : Wave) (f : Fragment) : List Fragment :=
  match f.syncMask with
  | none => []
  | some m =>
    let others := w.frags.filter fun g =>
      g.id != f.id && g.members &&& m != 0 && (match g.syncMask with | some n => n != m | none => false)
    if activeOf w f != m &&& f.members || m &&& ~~~ w.live != 0 || !others.isEmpty then f :: others else []

/-- Whether a wave is deadlocked (R169). A mask mismatch is raised first. -/
def Wave.deadlocked (w : Wave) : Bool :=
  w.frags.any (fun f => f.atColl || f.syncMask.isSome) && (w.frags.all fun f => f.atRcv || f.atColl || f.syncMask.isSome) &&
    !w.rcvReady && !w.collReady &&
    w.frags.all fun f =>
      match f.syncMask with
      | some m => !w.syncReady m && (w.mismatched f).isEmpty
      | none => true

/-! ### The releases -/

/-- Changes the wave that an event concerns. -/
def modSubjectWave (s : State) (f : Wave → Wave) : State :=
  modWave s s.subject.core s.subject.block s.subject.wave f

/-- RCV_RELEASE (R132): the waiters at the lowest RCV merge and go on behind it. -/
def execRcvRelease (s : State) : Host.Outcome State Fault Refusal :=
  .next (match subjectWave s with
    | none => s
    | some w =>
      match w.lowestRcv with
      | none => s
      | some pc =>
        if w.rcvReady then
          modSubjectWave s fun w => w.merge (fun f => f.atRcv && f.pc == pc) fun f => passWait f 4
        else s)

/-- COLLECTIVE_RELEASE (R168): the waiters merge, and the merged fragment issues the form once. -/
def execCollectiveRelease (s : State) : Host.Outcome State Fault Refusal :=
  .next (match subjectWave s with
    | none => s
    | some w =>
      if w.collReady then
        modSubjectWave s fun w => w.merge (fun _ => true) fun f => { f with st := .run, released := true }
      else s)

/-- WSYNC_RELEASE (R176): the subject's fragment waits with the mask; its holders go on, each at its own PC. -/
def execWsyncRelease (s : State) : Host.Outcome State Fault Refusal :=
  .next (match (subjectWave s).bind fun w => (w.frag? s.subject.frag).bind Fragment.syncMask with
    | none => s
    | some m =>
      modSubjectWave s fun w =>
        if w.syncReady m then
          { w with frags := w.frags.map fun f =>
              match f.st with
              | .waitSync n bytes => if n = m ∧ f.members &&& m ≠ 0 then passWait f bytes else f
              | _ => f }
        else w)

/-- The synchronisation-mask-mismatch fault of one fragment (R176). -/
def mismatchFault (s : State) (core : Nat) (r : FragRef) : State :=
  match placeCtx s core r with
  | none => s
  | some c =>
    match c.frag.st with
    | .waitSync m bytes =>
      let after := modFrag s core r fun f => passWait f bytes
      takeFault c { code := 0x0F, lanes := c.active, info := m.setWidth 64, whole := c.active == c.frag.members } s after
    | _ => s

/-- WSYNC_MASK_MISMATCH (R176): once the subject's mismatch is detected, every fragment of the wave that stands in one
faults. -/
def execWsyncMaskMismatch (s : State) : Host.Outcome State Fault Refusal :=
  let core := s.subject.core
  let r := subjectFrag s
  .next (match subjectWave s with
    | none => s
    | some w =>
      if (w.frag? r.frag).all fun f => (w.mismatched f).isEmpty then s
      else
        ((w.frags.flatMap fun f => (w.mismatched f).map (·.id)).eraseDups).foldl (fun s id =>
          mismatchFault s core ⟨r.block, r.wave, id⟩) s)

/-- FLT.INFO of a deadlocked fragment: where the fragment with the lowest lane outside it waits; open when there is no other. -/
def deadlockInfo (s : State) (w : Wave) (f : Fragment) : BitVec 64 :=
  match elderOf (w.frags.filter fun g => g.id != f.id) with
  | some g => g.pc
  | none => openInfo s

/-- COLLECTIVE_DEADLOCK (R169). -/
def execCollectiveDeadlock (s : State) : Host.Outcome State Fault Refusal :=
  let core := s.subject.core
  .next (match subjectWave s with
    | none => s
    | some w =>
      if w.deadlocked then
        (w.frags.filter fun f => f.atColl || f.syncMask.isSome).foldl (fun s' f =>
          match placeCtx s' core ⟨s.subject.block, s.subject.wave, f.id⟩ with
          | none => s'
          | some c => fragmentFault c 0x10 (deadlockInfo s w f) s') s
      else s)

/-! ### The barriers -/

/-- Whether a wave takes part in its block's barriers: an ordinary wave that has not ended. -/
def Wave.participant (w : Wave) : Bool := !w.handler && w.st != .ended

/-- Whether a wave has arrived at BAR. -/
def Wave.atBar (w : Wave) : Bool := w.frags.all fun f => f.st == .waitBar

/-- Whether the block barrier releases (R215). -/
def Block.barReady (b : Block) : Bool :=
  (b.waves.any fun w => w.participant && !w.frags.isEmpty) && b.waves.all fun w => !w.participant || w.atBar

/-- The fragments that wait so go on behind their barrier, each at its own PC. -/
def Block.passBarrier (b : Block) (p : Fragment → Bool) : Block :=
  { b with waves := b.waves.map fun w =>
      if w.participant then { w with frags := w.frags.map fun f => if p f then passWait f 4 else f } else w }

/-- BAR_RELEASE (R215): the stores issued before it come before every access behind it. -/
def execBarRelease (s : State) : Host.Outcome State Fault Refusal :=
  .next (match blockOf s s.subject.core s.subject.block with
    | none => s
    | some b =>
      if b.barReady then
        modBlock s s.subject.core s.subject.block fun b =>
          { b.passBarrier (fun f => f.st == .waitBar) with
            barBounds := (b.barBounds.filter ((coreOf s s.subject.core).storesBelow s.subject.block b)) ++ [s.nextIdent] }
      else s)

/-- Whether a fragment waits at the SBAR of a set (R34, R216). -/
def Block.atSbar (b : Block) (num : Nat) (f : Fragment) : Bool :=
  f.st == .waitSbar && (b.sets[modeSetSlot f.mode]?).map (·.num) == some num

/-- Whether a block has arrived at the SBAR of a set. -/
def Block.arrivedAt (b : Block) (num : Nat) : Bool :=
  b.waves.all fun w => !w.participant || w.frags.all (b.atSbar num)

/-- Blocks of a grid. -/
def gridBlocks (g : Nat × Nat × Nat) : Nat := g.1 * g.2.1 * g.2.2

/-- Whether a linear index is a member of a set (R118). -/
def inSet (h : Header) (num lin : Nat) : Bool :=
  h.sets.any fun e => e.num == num && 0 < e.stride && e.first ≤ lin && (lin - e.first) % e.stride == 0 &&
    (lin - e.first) / e.stride < e.count

/-- The members of a launch's set, ascending. -/
def setMembers (l : Launch) (num : Nat) : List Nat := (List.range (gridBlocks l.grid)).filter (inSet l.hdr num)

/-- The SBARs on a set that a member of a launch has passed, and whether it waits at the next one; none for one not yet started.
A swapped-out member, and one whose rollback awaits room, has its count in its image. -/
def memberSbars (s : State) (l : Launch) (num lin : Nat) : Option (Nat × Bool) :=
  match (residentBlock s l.ident lin).bind fun e => blockOf s e.1 e.2 with
  | some b => (b.sets.find? fun m => m.num == num).map fun m => (m.sbars, b.arrivedAt num)
  | none =>
    (s.images.find? fun x => x.launch == l.ident && x.lin == lin).bind fun x =>
      (x.sets.find? fun m => m.num == num).map fun m => (m.sbars, false)

/-- The SBAR of a set that releases now: the fewest SBARs that a live member has passed, when every live member has passed more
or waits at the next one. Successive SBARs pair in their order: a member that a rollback has taken back is alone behind. -/
def sbarReady (s : State) (l : Launch) (num : Nat) : Option Nat :=
  let live := (setMembers l num).filter fun lin => !l.ended.contains lin
  let at' := live.map (memberSbars s l num)
  let least := (at'.filterMap id).foldl (fun m e => match m with | none => some e.1 | some n => some (min n e.1)) (none : Option Nat)
  least.bind fun n =>
    if at'.all fun e => e.any fun x => decide (n < x.1) || (x.1 == n && x.2) then some n else none

/-- The members of a set that hold stores now, with their generations (R430). -/
def setHolders (s : State) (l : Launch) (num : Nat) : List (Nat × Nat) :=
  (setMembers l num).filterMap fun lin =>
    ((residentBlock s l.ident lin).bind fun e => blockOf s e.1 e.2).bind fun b =>
      if b.ckpt.held.isEmpty then none else some (lin, b.ckpt.generation)

/-- Changes a block's membership of a set. -/
def Block.modSet (b : Block) (num : Nat) (f : SetMember → SetMember) : Block :=
  { b with sets := b.sets.map fun (m : SetMember) => if m.num = num then f m else m }

/-- A member block at the release of a set's SBAR `n`: the holders' commits come before its accesses behind the SBAR, its own is
due if it is one of them; one that waits at this SBAR goes on. `i` is the number of the next store. -/
def Block.passSbar (b : Block) (num n i : Nat) (holders : List (Nat × Nat)) (open' : Nat → Bool) : Block :=
  let due := b.ckpt.due || holders.any fun g => g.1 == b.lin
  let b := ({ b with ckpt := { b.ckpt with due := due } } : Block).modSet num fun m =>
    { m with commits := (m.commits.filter fun g => !holders.any fun x => x.1 == g.1) ++ holders }
  if b.sets.any fun (m : SetMember) => m.num == num && m.sbars == n then
    (b.passBarrier (b.atSbar num)).modSet num fun m =>
      { m with sbars := m.sbars + 1, last := i, bounds := m.bounds.filter open' ++ [i] }
  else b

/-- SBAR_RELEASE (R216): the subject's ident names the launch and its slot the set's number. Members not yet started, or
swapped out, keep it from releasing; members that have retired count as arrived. In a resilient launch the members that hold
stores commit before any member's accesses behind the SBAR (log entry 115). -/
def execSbarRelease (s : State) : Host.Outcome State Fault Refusal :=
  let num := s.subject.slot
  .next (match launchOf s s.subject.ident with
    | none => s
    | some l =>
      match sbarReady s l num with
      | none => s
      | some n =>
        let holders := setHolders s l num
        ((setMembers l num).filterMap fun lin => residentBlock s l.ident lin).foldl (fun s' e =>
          modBlock s' e.1 e.2 fun b => b.passSbar num n s.nextIdent holders (setStoresBelow s b num)) s)

/-! ### Interlocks (R104, R266) -/

/-- Whether an instruction names a register that one of some loads in flight still writes (R104, R266). -/
def awaitsLoad (c : Ctx) (i : Instr) (l : List PendingLoad) : Bool :=
  let codes := readCodes i c.frag.mode (coveredByRecord c i) ++ writtenCodes i (modeType c.frag.mode)
  l.any fun p =>
    (p.ss.any fun e => codes.contains (64 + e.1)) ||
      p.vs.any fun e =>
        let base := c.wave.wbOf (e.1 % 32)
        base ≤ e.1 / 32 && codes.contains (e.1 / 32 - base)

/-- Whether a fragment's next instruction waits on a load in flight of some kind. -/
def interlockedOn (s : State) (core : Nat) (r : FragRef) (p : PendingLoad → Bool) : Bool :=
  match placeCtx s core r with
  | none => false
  | some c =>
    let l := c.frag.loads.filter p
    !l.isEmpty &&
      (match fetchInstr s core r.block c.blk c.frag.pc.toNat with
       | .ok _ i _ => awaitsLoad c i l
       | _ => false)

/-- Whether a fragment's next instruction waits on a load in flight. -/
def interlocked (s : State) (core : Nat) (r : FragRef) : Bool := interlockedOn s core r fun _ => true

/-! ### Slots (R268, R269) -/

/-- Whether a load's L1 miss is known. -/
def PendingLoad.missed (p : PendingLoad) (cycle : Nat) : Bool := p.miss.any fun t => t ≤ cycle

/-- FRAGMENT_EXCHANGE (R268): a fragment whose wait is named there, or whose next instruction awaits a result that is far
off, leaves the active set, and a ready pending one takes its slot from the next cycle. The result of a load that has
missed L1 is far off, once the instruction that needs it is next. -/
def execFragmentExchange (s : State) : Host.Outcome State Fault Refusal :=
  let c := s.subject.core
  let r := subjectFrag s
  .next (match waveOf s c r.block r.wave, fragOf s c r with
    | some w, some f =>
      if f.slot.active && (!f.st.keepsSlot || interlockedOn s c r fun p => p.missed s.cycle) then
        countEvent (modCore s c fun k => fillSlots (leaveActive k w.quadrant r) (s.cycle + 1) w.quadrant 8) c 11 1
      else s
    | _, _ => s)

/-- The ordinary active fragment of a quadrant that has been active longest; one that enters in this cycle is none yet. -/
def oldestActive (k : Core) (cycle q : Nat) : Option Placed :=
  ((k.quadrantFragments q).filter fun p =>
    p.frag.slot.active && p.frag.slot.entered ≤ cycle && !p.darner && !p.handler).foldl (fun m p =>
    match m with
    | none => some p
    | some x => if p.frag.slot.entered < x.frag.slot.entered then some p else some x) none

/-- Whether a pending fragment has been ready for 192 cycles (R269). -/
def Placed.overdue (p : Placed) (cycle : Nat) : Bool := p.frag.slot.readySince.any fun t => t + 192 ≤ cycle

/-- PENDING_DISPLACEMENT (R269): the subject's fragment, pending and ready for 192 cycles without a free slot, takes the slot of
the ordinary fragment that has been active longest. -/
def execPendingDisplacement (s : State) : Host.Outcome State Fault Refusal :=
  let c := s.subject.core
  let r := subjectFrag s
  let k := coreOf s c
  .next (match k.fragments.find? fun p => p.ref == r with
    | none => s
    | some p =>
      match oldestActive k s.cycle p.quadrant with
      | none => s
      | some v =>
        if !p.darner && !p.frag.slot.active && p.overdue s.cycle && 8 ≤ activeCount k p.quadrant then
          modCore s c fun k => enterActive (leaveActive k p.quadrant v.ref) (s.cycle + 1) p.quadrant r
        else s)

/-! ### Loads, Hamper entries and the watchdog -/

/-- Whether nothing more is to come of a load in flight. -/
def PendingLoad.spent (l : PendingLoad) : Bool := l.vs.isEmpty && l.ss.isEmpty && l.fail.isEmpty

/-- What becomes of a fragment's load in flight: `rest` of it stays. -/
def putLoad (s : State) (core : Nat) (r : FragRef) (l rest : PendingLoad) : State :=
  modFrag s core r fun f => { f with loads := (f.loads.map fun x => if x = l then rest else x).filter fun x => !x.spent }

/-- Lanes of a fragment's load in flight get poison in place of data: they fault at the load (R191, R413, R422). `rest` is what
still comes of it. Lanes of a fragment that is parked fault once it is released (log entry 100). -/
def endLoad (s : State) (core : Nat) (r : FragRef) (l rest : PendingLoad) (code : Nat) (lanes : Lanes) (info : BitVec 64) : State :=
  let lost := putLoad s core r l rest
  match placeCtx lost core r with
  | none => lost
  | some c =>
    match c.frag.st with
    | .parked _ => putLoad s core r l { rest with fail := rest.fail ++ [(code, lanes &&& c.frag.members, info)] }
    | _ =>
      if lanes &&& c.frag.members = 0 then lost
      else if (hamperSlot (coreOf s core) r.block r.wave).isNone then
        modFrag lost core r fun f => { f with pc := l.pc, st := .waitEvent .hamper, waitSince := s.timebase }
      else
        let lost := if code = 0x17 then poisonEvent lost core c.blk.asid 0 else lost
        takeFault c { code := code, lanes := lanes, info := info, access := accRead, pc := some l.pc, active := some l.active }
          lost lost

/-- What a load in flight still brings once some lanes have failed: an s-register's data came for the load as a whole. -/
def PendingLoad.without (l : PendingLoad) (lanes : Lanes) : PendingLoad :=
  { l with vs := l.vs.filter fun e => !lanes.getLsbD (e.1 % 32), ss := [] }

/-- Whether a fragment is parked. -/
def FragState.isParked : FragState → Bool
  | .parked _ => true
  | _ => false

/-- Whether something of a load may arrive: its data, or the fault of lanes that came back with poison while their fragment was
parked. -/
def PendingLoad.due (l : PendingLoad) (cycle : Nat) (st : FragState) : Bool :=
  l.ready ≤ cycle && (!l.vs.isEmpty || !l.ss.isEmpty || l.fail.isEmpty || !st.isParked)

/-- What arrives of a load: its data, then the fault of its lanes that failed. -/
def arriveLoad (s : State) (core : Nat) (r : FragRef) (l : PendingLoad) : State :=
  if l.vs.isEmpty && l.ss.isEmpty then
    match l.fail with
    | [] => putLoad s core r l l
    | (code, lanes, info) :: rest => endLoad s core r l { l with fail := rest } code lanes info
  else
    let s := putLoad s core r l { l with vs := [], ss := [] }
    modWave s core r.block r.wave fun w => lateWrites w r.frag { vs := l.vs, ss := l.ss }

/-- LOAD_DATA_RETURN (R191): the first load of which something may arrive is taken up. -/
def execLoadDataReturn (s : State) : Host.Outcome State Fault Refusal :=
  let r := subjectFrag s
  .next (match fragOf s s.subject.core r with
    | none => s
    | some f =>
      match f.loads.find? fun p => p.due s.cycle f.st with
      | none => s
      | some p => arriveLoad s s.subject.core r p)

/-- HAMPER_ENTRY_FREED (R342): the fragment issues its instruction again for all of its lanes. -/
def execHamperEntryFreed (s : State) : Host.Outcome State Fault Refusal :=
  let c := s.subject.core
  let r := subjectFrag s
  .next (match fragOf s c r with
    | none => s
    | some f =>
      if f.st = .waitEvent .hamper ∧ (hamperSlot (coreOf s c) r.block r.wave).isSome then
        modFrag s c r fun f => { f with st := .run }
      else s)

/-- The wait kinds of the watchdog (R351). -/
def Wait.watched : Wait → Option Nat
  | .sendTarget _ => some 0
  | .sendReply _ _ _ => some 0
  | .svcReply _ => some 1
  | .svcHeld => some 1
  | .service _ => some 1
  | .scoreboard _ _ _ _ _ => some 2
  | _ => none

/-- WATCHDOG (R351): the fragment parks at its waiting instruction; what that instruction has sent out stays the fragment's,
so that a replay takes the wait up again. -/
def execWatchdog (s : State) : Host.Outcome State Fault Refusal :=
  let core := s.subject.core
  let r := subjectFrag s
  .next (match placeCtx s core r with
    | none => s
    | some c =>
      match c.frag.st, contextOf s c.blk.asid with
      | .waitEvent w, some k =>
        (match w.watched with
         | none => s
         | some kind =>
           if k.wdogUs = 0 ∨ s.timebase ≤ c.frag.waitSince + k.wdogUs * 1000 then s
           else
             let kept := (keptOf c.frag c.wave.depth).map fun x =>
               match c.frag.kept with | some y => y | none => { x with back := true }
             let c := { c with frag := { c.frag with kept := kept } }
             fragmentFault c 0x1A (BitVec.ofNat 64 kind) s)
      | _, _ => s)

end Sys2Proof.Machine
end

