-- ==== Sys2Proof/Machine/ImageEdit.lean ====
section
/-! DEFINITION. What Dibor writes into the image of a block that is swapped out (R408): messages into the saved port images
(R311, R319, R322) and service replies into the fragment entries (R401, R411); the image's digest follows (R409). -/

namespace Sys2Proof.Machine

/-- Zero bytes. -/
def zeros (n : Nat) : List Byte := List.replicate n 0

/-- A list filled with zeros to a length. -/
def padTo (n : Nat) (l : List Byte) : List Byte := l ++ zeros (n - l.length)

/-- A saved port (R410): its messages in queue order, then M, V, OVF and DROPS. -/
def portBytes (x : Port) : List Byte :=
  padTo 128 (x.msgs.flatMap fun m => leBytes m.payload.toNat 8 ++ leBytes m.sender.toNat 2 ++ leBytes m.kind.toNat 1 ++
    leBytes m.status.toNat 1 ++ leBytes (m.rel.getD 0xFF) 1 ++ zeros 3) ++
  padTo 16 (leBytes x.msgs.length 1 ++ leBytes x.rsv 1 ++ leBytes (if x.ovf then 1 else 0) 1 ++ zeros 1 ++ leBytes x.drops 2)

/-- A port read back from its 144 bytes. -/
def portOf (e : List Byte) : Port :=
  { msgs := (List.range (min 8 (bytesNat e 128 1))).map fun j =>
      let m := e.drop (16 * j)
      let rel := bytesNat m 12 1
      ⟨BitVec.ofNat 64 (bytesNat m 0 8), BitVec.ofNat 16 (bytesNat m 8 2), BitVec.ofNat 4 (bytesNat m 10 1),
        BitVec.ofNat 8 (bytesNat m 11 1), if rel = 0xFF then none else some rel, 0⟩
    rsv := bytesNat e 129 1, ovf := bytesNat e 130 1 == 1, drops := bytesNat e 132 2 }

/-- A number rounded up to a multiple of 64. -/
def up64 (n : Nat) : Nat := (n + 63) / 64 * 64

/-- The size of each section of an image (R410). -/
def sectSizes (h : Header) (nfrag nsb nham nsfr : Nat) : List Nat :=
  let n := h.waves + h.handlers
  [1152, n * 128, nfrag * 384, n * 32 * 5 * h.depth, h.scratch, h.fifos.length * 65568, h.accRows * 320, nsb * 32, 28 * 192,
   h.ports * 144, nham * 32, nsfr * 576]

/-- The offsets of sections of some sizes, each 64-byte aligned, from an offset on; and the end. -/
def sectOffsets (o : Nat) : List Nat → List Nat × Nat
  | [] => ([], o)
  | n :: r =>
    let (l, e) := sectOffsets (up64 (o + n)) r
    (o :: l, e)

/-! ### Images in memory -/

/-- The bytes that an image of a block takes at most (R410): with a fragment for each lane, and the most entries and records. -/
def imageBound (h : Header) : Nat := (sectOffsets 384 (sectSizes h ((h.waves + h.handlers) * 32) 128 64 32)).2

/-- The areas of memory that images take or will take, as address and bytes: those of blocks that are out, every checkpoint slot,
and where a block that is to be swapped out goes. -/
def imageAreas (s : State) : List (Nat × Nat) :=
  (s.images ++ s.checkpoints).map (fun x => (x.pa, x.bytes)) ++
    s.cores.flatMap fun k =>
      (k.2.blocks.flatMap fun e =>
        if e.2.hdr.resilient then [(e.2.ckpt.slots.1, imageBound e.2.hdr), (e.2.ckpt.slots.2, imageBound e.2.hdr)] else []) ++
        (k.2.darner.events ++ k.2.darner.current.toList).filterMap fun x =>
          match x with
          | .swapOut h pa => (tabGet h k.2.blocks).map fun b => (pa, imageBound b.hdr)
          | _ => none

/-- Where Dibor keeps an image of a block of a core (R409, R429): whole pages of the partition's window that hold no other image, from
a page that Dibor chooses by a key on, if they are free there (log entry 19). `more` are areas just chosen. -/
def imageAddr (s : State) (core key n : Nat) (more : List (Nat × Nat)) : Nat :=
  let w := groupWindow (partitionOf core) 0
  let used := more ++ imageAreas s
  let first := w.1 + Config.imagePage key % (Config.windowBytes / 4096) * 4096
  let fits (a : Nat) : Bool := a + n ≤ w.2 && !(used.any fun e => rangesMeet a n e.1 e.2)
  let after := used.filterMap fun e => if w.1 ≤ e.1 ∧ e.1 < w.2 then some ((e.1 + e.2 + 4095) / 4096 * 4096) else none
  ((first :: w.1 :: after).find? fits).getD first

/-- The key of a block's images: 0 and 1 are its checkpoint slots, 2 its swap-out. -/
def imageKey (launch lin j : Nat) : Nat := (launch + lin * 2 ^ 64) * 4 + j

/-- The two checkpoint slots of a block (R429). -/
def slotPair (s : State) (core launch lin : Nat) (h : Header) : Nat × Nat :=
  let a := imageAddr s core (imageKey launch lin 0) (imageBound h) []
  (a, imageAddr s core (imageKey launch lin 1) (imageBound h) [(a, imageBound h)])

/-- Changes the record of a block that is swapped out. -/
def modImage (s : State) (launch lin : Nat) (f : Image → Image) : State :=
  { s with images := s.images.map fun (x : Image) => if x.launch = launch ∧ x.lin = lin then f x else x }

/-- The image of a block. -/
def imageOf (s : State) (launch lin : Nat) : Option Image := s.images.find? fun x => x.launch == launch && x.lin == lin

/-- Bytes of an image. -/
def imageRead (s : State) (x : Image) (o n : Nat) : List Byte := physRead s none (x.pa + o) n

/-- The offset of an image's section. -/
def imageSect (s : State) (x : Image) (k : Nat) : Nat := leNat (imageRead s x (0x20 + 4 * k) 4)

/-- The digest of an image's bytes: over the image with its DIGEST field zero (R409). -/
def imageDigest (l : List Byte) : List Byte := sha3 (l.take 0x100 ++ zeros 64 ++ l.drop 0x140)

/-- Bytes of an image are replaced, and its digest follows. -/
def editImage (s : State) (x : Image) (o : Nat) (bs : List Byte) : State :=
  let s := memWrite (retireRange s x.pa x.bytes) (x.pa + o) bs
  memWrite s (x.pa + 0x100) (imageDigest (imageRead s x 0 x.bytes))

/-- Whether a block's image is its checkpoint slot: a rollback found no room for the block (R431). What reaches it is kept beside
the slot. -/
def slotImage (s : State) (x : Image) : Bool :=
  s.checkpoints.any fun y => y.launch == x.launch && y.lin == x.lin && y.pa == x.pa

/-- Whether a launch is resilient. -/
def resilientLaunch (s : State) (launch : Nat) : Bool := (launchOf s launch).any (·.hdr.resilient)

/-! ### Messages (R311, R319, R322) -/

/-- Whether a port of a launch's blocks is a counting port (R312). -/
def countingPort (s : State) (launch p : Nat) : Bool :=
  (launchOf s launch).any fun l => l.hdr.fifos.any fun f => f.counted.any fun x => x.1 == p

/-- A port as an image holds it, with what is kept beside a checkpoint slot for it. -/
def imagePort (s : State) (x : Image) (p : Nat) : Port :=
  let q := portOf (imageRead s x (imageSect s x 9 + 144 * p) 144)
  { q with msgs := q.msgs ++ (x.posts.filter fun e => e.1 == p).map (·.2) }

/-- An offer to a port of a block that is swapped out. A resilient block's later rollback delivers the message again (R431). -/
def offerImage (s : State) (launch lin p : Nat) (m : Msg) : State × Bool :=
  match imageOf s launch lin with
  | none => (s, false)
  | some x =>
    let q := imagePort s x p
    let o := imageSect s x 9 + 144 * p
    if !countingPort s launch p && q.msgs.length + q.rsv < Config.portSlots then
      let s' := if slotImage s x then modImage s launch lin fun x => { x with posts := x.posts ++ [(p, m)] }
        else editImage s x o (portBytes { q with msgs := q.msgs ++ [m] })
      (if resilientLaunch s launch then
         modImage s' launch lin fun x => { x with ckpt := { x.ckpt with arrivals := x.ckpt.arrivals ++ [(p, m)] } }
       else s', true)
    else if slotImage s x then (modImage s launch lin fun x => { x with dropped := x.dropped ++ [p] }, false)
    else
      let drops := min (q.drops + 1) 0xFFFF
      let s' := editImage s x o (portBytes { q with ovf := true, drops := drops })
      (if q.ovf then s' else modImage s' launch lin fun x => { x with events := x.events ++ [.overflow 0 0 p drops false] },
       false)

/-! ### Replies (R401, R408, R411) -/

/-- Whether a saved fragment waits for the reply with a TAG, or keeps the request it answers. -/
def savedAwaits (tag : Nat) (e : FragState × Option Kept) : Bool :=
  e.1 == .waitEvent (.svcReply tag) ||
    (match e.2 with
     | some k => !k.isSend && k.ident == tag && !k.held
     | none => false)

/-- Whether a saved block waits for a reply that it has not been given yet. -/
def Image.awaitsReply (x : Image) (tag : Nat) : Bool :=
  !(x.replies.any fun e => e.1 == tag) && x.frags.any (savedAwaits tag)

/-- A saved fragment once its reply is there: it runs on behind its SVC, or its kept request holds the reply. -/
def savedReplied (payload info : BitVec 64) (e : FragState × Option Kept) : FragState × Option Kept :=
  match e.1 with
  | .waitEvent (.svcReply _) => (.run, e.2)
  | st => (st, e.2.map fun k => { k with held := true, payload := payload, status := info })

/-- A reply enters the entry of fragment k in an image: s0, s1 and their tags with STATE RUN and PC + 4, or its KEPT fields. -/
def replyToEntry (s : State) (x : Image) (k : Nat) (waits : Bool) (payload info : BitVec 64) : State :=
  let o := imageSect s x 2 + 384 * k
  let e := imageRead s x o 384
  let put (l : List Byte) (at' : Nat) (bs : List Byte) : List Byte := l.take at' ++ bs ++ l.drop (at' + bs.length)
  let e :=
    if waits then
      put (put (put (put (put e 0xD [0]) 0x10 (leBytes (bytesNat e 0x10 8 + 4) 8)) 0x18 (zeros 8)) 0x40
        (leBytes payload.toNat 8 ++ leBytes info.toNat 8)) 0x140 [62, 62]
    else
      put (put e 0x20 (leBytes (bytesNat e 0x20 8 ||| 2 ^ 61) 8)) 0x28 (leBytes payload.toNat 8 ++ leBytes info.toNat 8)
  editImage s x o e

/-- A reply for a block that is out: it enters the image, or is kept beside a checkpoint slot. -/
def replyToImage (s : State) (x : Image) (tag : Nat) (payload info : BitVec 64) : State :=
  let reply := (tag, payload, info)
  let s := if resilientLaunch s x.launch then
      modImage s x.launch x.lin fun y => { y with ckpt := { y.ckpt with replies := y.ckpt.replies ++ [reply] } }
    else s
  if slotImage s x then modImage s x.launch x.lin fun y => { y with replies := y.replies ++ [reply] }
  else
    match x.frags.findIdx? (savedAwaits tag), x.frags.find? (savedAwaits tag) with
    | some k, some e =>
      let s := replyToEntry s x k (e.1 == .waitEvent (.svcReply tag)) payload info
      modImage s x.launch x.lin fun y =>
        { y with frags := y.frags.zipIdx.map fun f => if f.2 = k then savedReplied payload info f.1 else f.1 }
    | _, _ => s

end Sys2Proof.Machine
end

