-- ==== Sys2Proof/Machine/Delivery.lean ====
section
/-! DEFINITION. The delivery of messages (R209, R210, R311, R319, R322), the confirmation of a SEND, and the firing of
join patterns (R312 to R317) with the start of a wave (R21, R264). -/

namespace Sys2Proof.Machine

/-! ### Offers to ports -/

/-- An ordinary offer to a port of a resident block (R311): a message visible from the next cycle, or FULL. A resilient
block's arrivals from outside it are kept for a rollback (R431). -/
def offerPort (s : State) (core block p : Nat) (m : Msg) (outside : Bool) : State × Bool :=
  match blockOf s core block with
  | none => (s, false)
  | some b =>
    if b.hasRoom p then
      (modBlock s core block fun b =>
        let b := b.putMsg p { m with seen := s.cycle + 1 }
        if b.hdr.resilient && outside then { b with ckpt := { b.ckpt with arrivals := b.ckpt.arrivals ++ [(p, m)] } } else b,
       true)
    else (s, false)

/-- A message on its way. -/
def netMsgOf (s : State) (ident : Nat) : Option NetMsg := s.net.find? fun m => m.ident == ident

/-- Changes a message on its way. -/
def modNet (s : State) (ident : Nat) (f : NetMsg → NetMsg) : State :=
  { s with net := s.net.map fun m => if m.ident = ident then f m else m }

/-- A message has reached its end. -/
def dropNet (s : State) (ident : Nat) : State := { s with net := s.net.filter fun m => m.ident != ident }

/-- Whether two messages go from one wave to one port. -/
def NetMsg.sameWay (a b : NetMsg) : Bool :=
  a.senderLaunch == b.senderLaunch && a.senderLin == b.senderLin && a.sender.wave == b.sender.wave &&
    a.launch == b.launch && a.lin == b.lin && a.port == b.port

/-- Whether a message may arrive: it is not held, its time has come, and none from its wave to its port is ahead of it
(R208). -/
def mayArrive (s : State) (m : NetMsg) : Bool :=
  !m.held && m.answer.isNone && m.ready ≤ s.cycle &&
    (match s.net.find? fun x => x.answer.isNone && x.sameWay m with
     | some x => x.ident == m.ident
     | none => false)

/-- The fate of a message at its target: a SEND's answer is set, and a SENDP is done with. -/
def settleNet (s : State) (m : NetMsg) (full retired : Bool) : State :=
  if m.confirm then modNet s m.ident fun x => { x with answer := some (full, retired) } else dropNet s m.ident

/-- A SENDP to a retired block (R210): the sending block's Darner is notified. -/
def notifySender (s : State) (m : NetMsg) : State :=
  match residentBlock s m.senderLaunch m.senderLin with
  | none => s
  | some (c, b) => notifyDarner s c (.overflow b m.sender.wave m.port 0 true)

/-- MESSAGE_DELIVERY (R311): the subject's ident names the message. -/
def deliverMessage (s : State) (m : NetMsg) : State :=
  if mayArrive s m then
    match placeOfBlock s m.launch m.lin with
    | .resident c b =>
      match offerPort s c b m.port m.msg (m.lin != m.senderLin) with
      | (s, true) => settleNet s m false false
      | (s, false) => settleNet (if m.confirm then s else dropAtPort s c b m.port) m true false
    | .swappedOut => if m.confirm then s else settleNet (offerImage s m.launch m.lin m.port m.msg).1 m false false
    | .notPlaced => s
    | .gone => settleNet (if m.confirm then s else notifySender s m) m true true
  else s

/-- MESSAGE_DELIVERY (R311). -/
def execMessageDelivery (s : State) : Host.Outcome State Fault Refusal :=
  .next (match netMsgOf s s.subject.ident with
    | none => s
    | some m => deliverMessage s m)

/-! ### The confirmation of a SEND (R209, R248) -/

/-- Whether a fragment waits for the confirmation of a message: its DST and the bytes of its SEND. -/
def Fragment.awaits (f : Fragment) (ident : Nat) : Option (BitVec 64 × Nat) :=
  match f.st with
  | .waitEvent (.sendReply n t bytes) => if n = ident then some (t, bytes) else none
  | _ => none

/-- Whether a fragment keeps a SEND's pending confirmation (R248). -/
def Fragment.keeps (f : Fragment) (isSend : Bool) (ident : Nat) : Bool :=
  match f.kept with
  | some k => k.isSend == isSend && k.ident == ident && !k.held
  | none => false

/-- The confirmation reaches a fragment. -/
def confirmTo (s : State) (core : Nat) (r : FragRef) (ident : Nat) (full retired : Bool) : State :=
  match placeCtx s core r with
  | none => s
  | some c =>
    match c.frag.awaits ident with
    | some (t, bytes) => if full then sendFull c t retired s else modFrag s core r fun f => passWait f bytes
    | none =>
      if c.frag.keeps true ident then
        modFrag s core r fun f =>
          { f with kept := f.kept.map fun k => { k with held := true, full := full, retired := retired } }
      else s

/-- SEND_CONFIRMATION (R209): the answer reaches the fragment that waits for it or keeps it, or nobody. -/
def execSendConfirmation (s : State) : Host.Outcome State Fault Refusal :=
  .next (match netMsgOf s s.subject.ident with
    | none => s
    | some m =>
      match m.answer with
      | none => s
      | some (full, retired) =>
        let s := dropNet s m.ident
        match residentBlock s m.senderLaunch m.senderLin with
        | none => s
        | some (core, block) =>
          match (waveOf s core block m.sender.wave).bind fun w =>
              w.frags.find? fun f => (f.awaits m.ident).isSome || f.keeps true m.ident with
          | none => s
          | some f => confirmTo s core ⟨block, m.sender.wave, f.id⟩ m.ident full retired)

/-! ### The start of a wave (R21) -/

/-- The fragment with which a wave starts. -/
def startFragment (id : Nat) (lanes : Lanes) (mode : BitVec 32) (pc : BitVec 64) (s : Cells SReg) : Fragment :=
  { id := id, members := lanes, exec := lanes, mode := mode, pc := pc, s := s }

/-- WAVE START: window registers, predicates and window bases as at the start, one fragment. What the wave has still to
store stays. -/
def Wave.start (w : Wave) (lanes : Lanes) (mode : BitVec 32) (pc : BitVec 64) (s : Cells SReg) : Wave :=
  { w with
    st := .running, regs := [], preds := [], wb := [], residency := [], spilled := [], named := [],
    frags := [startFragment w.nextFrag lanes mode pc s], nextFrag := w.nextFrag + 1, sigpend := none, depth := 0 }

/-! ### Join patterns -/

/-- The ports of a pattern, ascending. -/
def Pattern.ports (p : Pattern) : List Nat := lanesOf p.portMask

/-- The oldest message of a port, real or virtual, as consumers see it in a cycle (R311, R312). -/
def Block.oldest (b : Block) (cycle p : Nat) : Option Msg :=
  match b.counting p with
  | some (f, th) =>
    if th ≤ f.filled ∧ th ≤ f.slots then
      some ⟨BitVec.ofNat 64 (f.lp % f.slots % 65536 + th % 256 * 65536), 0xFFFF, 2, 0, none, 0⟩
    else none
  | none => (b.visible cycle p).head?

/-- Takes the oldest message of a port; a counting port's is a claim of THRESH slots (R312). -/
def Block.takeOldest (b : Block) (p : Nat) : Block :=
  match b.counting p with
  | some (f, th) => b.modFifo f.desc.bank fun x => { x with lp := x.lp + th }
  | none => b.modPort p fun x => { x with msgs := x.msgs.tail }

/-- The dormant handler wave that a firing starts (R264). -/
def Block.dormant (b : Block) : Option Wave :=
  (b.waves.filter fun w => w.handler && w.st == .dormant).foldl (fun m w =>
    match m with
    | none => some w
    | some x => if w.idx < x.idx then some w else some x) none

/-- The fragments that wait on a pattern, with their waves; the longest-waiting comes first, then the lowest wave and lane. -/
def Block.waiter (b : Block) (k : Nat) : Option (Nat × Fragment) :=
  let l := b.waves.flatMap fun w =>
    (w.frags.filter fun f => f.st == .waitEvent (.jwait k)).map fun f => (w.idx, f)
  l.foldl (fun m e =>
    match m with
    | none => some e
    | some x => if e.2.waitSince < x.2.waitSince then some e else some x) none

/-- Whether a pattern is eligible (R314). -/
def Block.eligible (b : Block) (cycle k : Nat) (p : Pattern) : Bool :=
  p.enabled && p.ports.all (fun q => (b.oldest cycle q).isSome) &&
    (if p.wake then (b.waiter k).isSome else b.dormant.isSome)

/-- The pattern that fires (R314). -/
def Block.firing (b : Block) (cycle : Nat) : Option (Nat × Pattern) :=
  let l := (b.patterns.zipIdx.map fun e => (e.2, e.1)).filter fun e => b.eligible cycle e.1 e.2
  let top := l.foldl (fun m e => max m e.2.priority) 0
  let best := l.filter fun e => e.2.priority == top
  if b.hdr.rotate then (best.find? fun e => b.rotate ≤ e.1).orElse fun _ => best.head? else best.head?

/-- The registers in which a firing delivers its messages (R316). -/
def firedRegs (l : List Msg) : List (Nat × SReg) :=
  (l.zipIdx.map fun e => (e.2, (⟨e.1.payload, 62⟩ : SReg))) ++
    (if l.length ≤ 16 then l.zipIdx.map fun e => (16 + e.2, (⟨e.1.info, 62⟩ : SReg)) else [])

/-- A firing's fault, when a message reports a failed operation (R224, R316): at the handler PC or behind the JWAIT. -/
def firedFault (c : Ctx) (pc : BitVec 64) (l : List Msg) (before after : State) : State :=
  match l.find? Msg.failed with
  | none => after
  | some m =>
    takeFault c { code := 0x16, lanes := c.frag.members, info := m.payload, whole := true, pc := some pc } before after

/-- The FIRING of a pattern (R315, R316): every port's oldest message is consumed, and a handler wave starts or a waiting
fragment wakes. The started or woken fragment runs from the next cycle. A failed operation's fault needs a Hamper entry:
without one the messages stay. -/
def firePattern (s : State) (core block : Nat) (b : Block) (k : Nat) (p : Pattern) : State :=
  let l := p.ports.filterMap fun q => b.oldest s.cycle q
  let take (s : State) : State :=
    countEvent (modBlock s core block fun b =>
      { p.ports.foldl Block.takeOldest b with rotate := if b.hdr.rotate then (k + 1) % 16 else b.rotate }) core 8 1
  let room (wave : Nat) : Bool := !(l.any Msg.failed) || (hamperSlot (coreOf s core) block wave).isSome
  if p.wake then
    match b.waiter k with
    | none => s
    | some (wave, f) =>
      if !room wave then s
      else
        let r : FragRef := ⟨block, wave, f.id⟩
        let s' := modFrag (take s) core r fun f =>
          { (passWait f 4).putS (firedRegs l) with stallUntil := max f.stallUntil (s.cycle + 1) }
        match placeCtx s core r with
        | none => s'
        | some c => firedFault c (f.pc + 4) l s s'
  else
    match b.dormant with
    | none => s
    | some w =>
      if !room w.idx then s
      else
        let s' := modWave (take s) core block w.idx fun w =>
          { w.start (BitVec.allOnes 32) b.hdr.defMode p.handler (cellSetAll {} (firedRegs l) []) with
            frags := [{ startFragment w.nextFrag (BitVec.allOnes 32) b.hdr.defMode p.handler
                          (cellSetAll {} (firedRegs l) []) with stallUntil := s.cycle + 1 }] }
        match placeCtx s' core ⟨block, w.idx, w.nextFrag⟩ with
        | none => s'
        | some c => firedFault c p.handler l s s'

/-- JOIN_FIRING (R314): the block's join logic, from the state at the start of the cycle. -/
def execJoinFiring (s : State) : Host.Outcome State Fault Refusal :=
  let c := s.subject.core
  let h := s.subject.block
  .next (match blockOf s c h with
    | none => s
    | some b =>
      match b.firing s.cycle with
      | none => s
      | some (k, p) => firePattern s c h b k p)

end Sys2Proof.Machine
end

