-- ==== Sys2Proof/Machine/Placement.lean ====
section
/-! DEFINITION. Whether a block fits a core, and its placement there (R21, R27, R118, R257, R275 to R282, R284, R300, R376). -/

namespace Sys2Proof.Machine

/-! ### Register files, waves and entries -/

/-- The resident blocks of a core's programs. -/
def Core.programs (k : Core) : List Block := (k.blocks.filter fun e => e.1 < supervisorHandle).map (·.2)

/-- The waves of a block that hold register stacks in a quadrant (R258). -/
def Block.wavesIn (b : Block) (q : Nat) : Nat :=
  (b.waves.filter fun w => w.quadrant == q && (w.handler || w.st != .ended)).length

/-- Registers per lane that a quadrant has free (R14). -/
def Core.freeRegs (k : Core) (q : Nat) : Nat :=
  1024 - k.programs.foldl (fun n b => n + b.hdr.depth * b.wavesIn q) 0

/-- Waves resident in a quadrant. -/
def Core.wavesIn (k : Core) (q : Nat) : Nat := k.programs.foldl (fun n b => n + b.wavesIn q) 0

/-- The quadrant with the most free registers, the lowest on a tie. -/
def Core.baseQuadrant (k : Core) : Nat :=
  [1, 2, 3].foldl (fun b q => if k.freeRegs b < k.freeRegs q then q else b) 0

/-- Threads of a block. -/
def blockThreads (d : Nat × Nat × Nat) : Nat := d.1 * d.2.1 * d.2.2

/-- The ordinary waves of a block that are formed (R257). -/
def formedWaves (d : Nat × Nat × Nat) : Nat := (blockThreads d + 31) / 32

/-- The wave indices of a block that take register stacks: ordinary waves, then handler waves. -/
def stackWaves (h : Header) (d : Nat × Nat × Nat) : List Nat :=
  List.range (formedWaves d) ++ (List.range h.handlers).map (h.waves + ·)

/-- The quadrant of a wave of a block that is placed (R376). -/
def placedQuadrant (base wave : Nat) : Nat := (base + wave) % 4

/-- Whether each quadrant has room for its waves. -/
def quadrantsFit (k : Core) (h : Header) (waves : List Nat) : Bool :=
  let base := k.baseQuadrant
  (List.range 4).all fun q =>
    let n := (waves.filter fun w => placedQuadrant base w == q).length
    h.depth * n ≤ k.freeRegs q && k.wavesIn q + n ≤ 16

/-- Hamper entries in use beyond the reserved ones. -/
def sharedEntries (k : Core) : Nat := (k.hamper.filter fun e => !e.reserved).length

/-- Whether a core has Hamper entries for `waves` more waves and, beyond them, `more` saved entries (R342, R376). -/
def hamperFits (k : Core) (waves more : Nat) : Bool :=
  residentWaves k + waves + sharedEntries k + more ≤ Config.hamperEntries

/-- Whether a core has the two scoreboard entries of one more block and, beyond them, its `saved` ones (R284, R376). -/
def scoreboardFits (k : Core) (saved : Nat) : Bool :=
  k.programs.length * 2 + (k.sb.filter fun x => !x.reserved).length + 2 + saved ≤ Config.scoreboardEntries

/-! ### Core SRAM -/

/-- The banks that a byte range of core SRAM touches. -/
def banksOf (base size : Nat) : List Nat :=
  if size = 0 then [] else (List.range 16).filter fun j => rangesMeet base size (j * 65536) 65536

/-- Whether a bank has, or may be switched to, a mode. -/
def bankCan (k : Core) (bank mode : Nat) : Bool := bankMode k.bankcfg bank == mode || !bankHeld k bank

/-- Whether a scratchpad range meets no resident allocation. -/
def rangeFree (k : Core) (base size : Nat) : Bool :=
  !(k.programs.any fun b => 0 < b.hdr.scratch && rangesMeet base size b.pbase b.hdr.scratch)

/-- The banks for `n` FIFO bindings, none of them among some banks: those in FIFO mode first, the lowest first among equals. -/
def pickFifos (k : Core) (taken : List Nat) (n : Nat) : List Nat :=
  let l := (List.range 16).filter fun j =>
    !taken.contains j && !(k.programs.any fun b => b.fifos.any fun f => f.bank == j) && bankCan k j 2
  ((l.filter fun j => bankMode k.bankcfg j == 2) ++ l.filter fun j => bankMode k.bankcfg j != 2).take n

/-- BANKCFG after the switches of a placement (R280). Where they take the last L1 bank, the lowest free bank that they leave
goes back to L1 mode (R276). -/
def placedConfig (k : Core) (scratch fifos : List Nat) : BitVec 32 :=
  let cfg := fifos.foldl (fun c j => setBankMode c j 2) (scratch.foldl (fun c j => setBankMode c j 1) k.bankcfg)
  if (List.range 16).any fun j => bankMode cfg j == 0 then cfg
  else
    match (List.range 16).find? fun j => !scratch.contains j && !fifos.contains j && !bankHeld k j with
    | some j => setBankMode cfg j 0
    | none => cfg

/-- Where a block's scratchpad and banks go: PBASE and the physical banks. -/
structure SramPlan where
  pbase : Nat
  banks : List Nat
  cfg : BitVec 32

/-- The plan at one PBASE, if it serves: at least one bank stays in L1 mode (R276). -/
def sramAt (k : Core) (h : Header) (base : Nat) : Option SramPlan :=
  let touched := banksOf base h.scratch
  let banks := pickFifos k touched h.fifos.length
  let cfg := placedConfig k touched banks
  if base + h.scratch ≤ 1048576 && touched.all (fun j => bankCan k j 1) && rangeFree k base h.scratch &&
      banks.length == h.fifos.length && ((List.range 16).any fun j => bankMode cfg j == 0) then
    some ⟨base, banks, cfg⟩
  else none

/-- The plan of the lowest PBASE, a multiple of 256 (R278). -/
def sramPlan (k : Core) (h : Header) : Option SramPlan :=
  if h.scratch = 0 then sramAt k h 0 else (List.range 4096).findSome? fun j => sramAt k h (256 * j)

/-- Whether a block's SRAM can ever be placed (R280). -/
def sramPossible (h : Header) : Bool := (h.scratch + 65535) / 65536 * 65536 + 65536 * h.fifos.length ≤ 983040

/-- The lowest free range of accumulator rows (R300). -/
def accPlan (k : Core) (rows : Nat) : Option Nat :=
  if rows = 0 then some 0
  else (List.range (513 - rows)).find? fun base =>
    !(k.programs.any fun b => 0 < b.hdr.accRows && rangesMeet base rows b.accBase b.hdr.accRows)

/-! ### Fitting -/

/-- What a block needs beyond its header's resources when it is restored from an image (R376). -/
structure Saved where
  hamper : Nat := 0
  records : Nat := 0
  sb : Nat := 0

/-- Where a block goes on a core. -/
structure Spot where
  handle : Nat
  quadrant : Nat
  sram : SramPlan
  accBase : Nat

/-- Whether and where a block fits on a core now (R376). -/
def fitsCore (k : Core) (h : Header) (bdim : Nat × Nat × Nat) (x : Saved) : Option Spot :=
  let waves := stackWaves h bdim
  let ports := k.programs.foldl (fun n b => n + b.hdr.ports) 0
  let patterns := k.programs.foldl (fun n b => n + b.hdr.patterns.length) 0
  match firstFree (k.blocks.map (·.1)) 64 with
  | none => none
  | some handle =>
    if quadrantsFit k h waves && ports + h.ports ≤ 256 && patterns + h.patterns.length ≤ 64 &&
        hamperFits k waves.length x.hamper && scoreboardFits k x.sb && k.records.length + x.records ≤ Config.storeRecords then
      match sramPlan k h, accPlan k h.accRows with
      | some m, some a => some ⟨handle, k.baseQuadrant, m, a⟩
      | _, _ => none
    else none

/-- The program cores of a group (R365, R19). -/
def groupCores (first log2 : Nat) : List Nat := (List.range (2 * 2 ^ log2)).map (2 * first + ·)

/-- Whether Dibor may place on a core: it is enabled and its partition is in service. -/
def coreInService (s : State) (c : Nat) : Bool := (coreOf s c).enabled && !(partState s (partitionOf c)).out

/-- The spill slot that a new block of a context takes: none where the context has no slots, the lowest that no live block
of it holds (R27). -/
def freeSpillSlot (s : State) (k : Context) : Option (Option Nat) :=
  if k.spillSlots = 0 then some none
  else
    let used := (s.cores.flatMap fun c => (c.2.programs.filter fun b => b.asid == k.asid).filterMap (·.spillSlot)) ++
      (s.images.filter fun x => x.asid == k.asid).filterMap (·.spillSlot)
    (firstFree used (min k.spillSlots.toNat (used.length + 1))).map some

/-- The core that takes a block (R376): of those that fit, the one with the fewest resident blocks, the lowest on a tie. -/
def chooseCore (s : State) (cores : List Nat) (h : Header) (bdim : Nat × Nat × Nat) (x : Saved) : Option (Nat × Spot) :=
  (cores.filter (coreInService s)).foldl (fun best c =>
    match fitsCore (coreOf s c) h bdim x with
    | none => best
    | some p =>
      match best with
      | none => some (c, p)
      | some (d, _) => if (coreOf s c).programs.length < (coreOf s d).programs.length then some (c, p) else best) none

/-! ### The block -/

/-- The set memberships of a block in its slots (R118). -/
def membership (l : Launch) (lin : Nat) : List SetMember :=
  let nums := sortBy (· ≤ ·) ((l.hdr.sets.map (·.num)).eraseDups.filter fun n => inSet l.hdr n lin)
  nums.map fun n =>
    let m := setMembers l n
    { num := n, rank := (m.filter (· < lin)).length, count := m.length }

/-- The lanes of an ordinary wave at its start (R21, R257). -/
def startLanes (d : Nat × Nat × Nat) (wave : Nat) : Lanes := lanesBelow (blockThreads d - 32 * wave)

/-- A wave that has not started. -/
def restingWave (idx quadrant : Nat) (handler : Bool) : Wave :=
  { idx := idx, quadrant := quadrant, handler := handler, st := if handler then .dormant else .running }

/-- A new block's waves: the ordinary ones started, the handler waves dormant. -/
def newWaves (l : Launch) (q : Nat) : List Wave :=
  (List.range (formedWaves l.bdim)).map (fun w =>
    (restingWave w (placedQuadrant q w) false).start (startLanes l.bdim w) l.hdr.defMode l.hdr.entry
      (cellSet {} 0 ⟨l.args, 62⟩ [])) ++
  (List.range l.hdr.handlers).map fun j => restingWave (l.hdr.waves + j) (placedQuadrant q (l.hdr.waves + j)) true

/-- A block's FIFO bindings: descriptor j takes bank j of the plan (R281). -/
def bindFifos (h : Header) (banks : List Nat) : List Fifo := (h.fifos.zip banks).map fun e => { desc := e.1, bank := e.2 }

/-- The block of a launch at a spot. -/
def newBlock (l : Launch) (lin : Nat) (p : Spot) (recs : Cells (BitVec 256)) (spill : Option Nat) (now : Nat) : Block :=
  { launch := l.ident, lin := lin, asid := l.asid, hdr := l.hdr, grid := l.grid, bdim := l.bdim, args := l.args
    recs := recs, home := (l.group, l.groupLog2), pbase := p.sram.pbase, fifos := bindFifos l.hdr p.sram.banks, accBase := p.accBase
    patterns := l.hdr.patterns, sets := membership l lin, spillSlot := spill, waves := newWaves l p.quadrant
    ckpt := { lastCommit := now } }

/-- The bytes from `a` on read as 0 and hold no poison (R278, R282). -/
def clearSram (k : Core) (a n : Nat) : Core :=
  { k with sram := k.sram.filter fun e => !(a ≤ e.1 && e.1 < a + n)
           sramPoison := k.sramPoison.filter fun w => !(a ≤ w * 4 && w * 4 < a + n) }

/-- A core takes a block at a spot: banks are switched, and its bytes and accumulator rows are cleared. -/
def takeBlock (k : Core) (p : Spot) (b : Block) : Core :=
  let k := clearSram { k with bankcfg := p.sram.cfg } p.sram.pbase b.hdr.scratch
  let k := p.sram.banks.foldl (fun k j => clearSram k (j * 65536) 65536) k
  { k with
    acc := k.acc.filter fun e => !(p.accBase * 64 ≤ e.1 && e.1 < (p.accBase + b.hdr.accRows) * 64)
    blocks := tabSet p.handle b k.blocks }

end Sys2Proof.Machine
end

