-- ==== Sys2Proof/Machine/Header.lean ====
section
/-! DEFINITION. The kernel header and its tables: their layout (R113 to R118) and the checks that Dibor makes when it
accepts a launch (R119). -/

namespace Sys2Proof.Machine

/-- The statuses of R119. -/
def hdrMagic : Nat := 0x20
def hdrVer : Nat := 0x21
def hdrRsvd : Nat := 0x22
def hdrEntry : Nat := 0x23
def hdrRegs : Nat := 0x24
def hdrWaves : Nat := 0x25
def hdrScratch : Nat := 0x26
def hdrAcc : Nat := 0x27
def hdrPorts : Nat := 0x28
def hdrMode : Nat := 0x29
def hdrPat : Nat := 0x2A
def hdrRec : Nat := 0x2B
def hdrSet : Nat := 0x2C
def hdrFifo : Nat := 0x2D
def hdrArg : Nat := 0x2E

/-- The resident depth of a REGS field (R26, R119). -/
def depthOf (regs : Nat) : Nat := if regs ≤ 16 then 16 else (regs + 7) / 8 * 8

/-- A two's-complement number of `8 n` bits. -/
def signedBytes (l : List Byte) (o n : Nat) : Int := (BitVec.ofNat (8 * n) (bytesNat l o n)).toInt

/-- The address at an offset from the header's first byte. -/
def headerAddr (a : Nat) (off : Int) : Nat := (((a : Int) + off) % (2 ^ 57 : Nat)).toNat

/-- The header's first failing check before its tables (R119). -/
def headFail (l : List Byte) : Option Nat :=
  let n (o k : Nat) := bytesNat l o k
  let depth := depthOf (n 0x10 2)
  let waves := n 0x12 2
  if n 0 4 ≠ 0x4B534C46 then some hdrMagic
  else if n 4 2 ≠ 1 ∨ n 6 2 ≠ 128 then some hdrVer
  else if n 0x20 4 / 8 ≠ 0 ∨ n 0x58 40 ≠ 0 ∨ 4096 < n 0x50 4 ∨ n 0x50 4 % 8 ≠ 0 then some hdrRsvd
  else if n 8 8 % 4 ≠ 0 then some hdrEntry
  else if n 0x10 2 = 0 ∨ 256 < n 0x10 2 ∨ 1024 < depth * ((waves + n 0x18 1 + 3) / 4) then some hdrRegs
  else if waves = 0 ∨ 64 < waves + n 0x18 1 then some hdrWaves
  else if 1048576 < n 0x14 4 then some hdrScratch
  else if 512 < n 0x1C 2 then some hdrAcc
  else if 32 < n 0x19 1 then some hdrPorts
  else if !modeLegal (BitVec.ofNat 32 (n 0x24 4)) then some hdrMode
  else none

/-- Whether a table's offset is malformed for its count. -/
def badTable (off : Int) (count : Nat) : Bool := off % 8 != 0 || (count == 0 && off != 0)

/-- The pattern at entry k of the pattern table (R116). -/
def patternAt (a : Nat) (t : List Byte) (k : Nat) : Pattern :=
  let ctrl := bytesNat t (16 * k + 4) 4
  { portMask := BitVec.ofNat 32 (bytesNat t (16 * k) 4)
    wake := ctrl % 2 == 1
    priority := ctrl / 2 % 8
    enabled := ctrl / 16 % 2 == 1
    handler := BitVec.ofNat 64 (headerAddr a (signedBytes t (16 * k + 8) 8)) }

/-- Whether entry k of the pattern table is malformed. -/
def patternBad (ports handlers : Nat) (t : List Byte) (k : Nat) : Bool :=
  let mask := bytesNat t (16 * k) 4
  let ctrl := bytesNat t (16 * k + 4) 4
  let off := bytesNat t (16 * k + 8) 8
  mask == 0 || 2 ^ ports ≤ mask || 32 ≤ ctrl ||
    (if ctrl % 2 = 0 then handlers == 0 || off % 4 != 0 else off != 0)

/-- The record initial entry k (R117). -/
def recordAt (t : List Byte) (k : Nat) : RecordInit :=
  { slot := bytesNat t (40 * k) 1
    argBase := bytesNat t (40 * k + 1) 1 % 2 == 1
    argOff := bytesNat t (40 * k + 2) 2
    record := BitVec.ofNat 256 (bytesNat t (40 * k + 8) 32) }

/-- Whether entry k of the record table is malformed. A SLOT of 32 or more is (DESIGN CHOICE, log
entry 123: R117 admits 0 to 31, and R119 names no check for it). -/
def recordBad (argBytes : Nat) (t : List Byte) (k : Nat) : Bool :=
  let r := recordAt t k
  32 ≤ r.slot || 2 ≤ bytesNat t (40 * k + 1) 1 || bytesNat t (40 * k + 4) 4 != 0 ||
    (r.argBase && (recSpace r.record != 0 || r.argOff % 8 != 0 || argBytes < r.argOff + 8)) || (recCheck r.record).isSome

/-- Block-set entry k (R118). -/
def setAt (t : List Byte) (k : Nat) : SetEntry :=
  ⟨bytesNat t (16 * k) 1, bytesNat t (16 * k + 4) 4, bytesNat t (16 * k + 8) 4, bytesNat t (16 * k + 12) 4⟩

/-- Whether entry k of the block-set table is malformed. -/
def setBad (t : List Byte) (k : Nat) : Bool :=
  let e := setAt t k
  e.count == 0 || e.stride == 0 || bytesNat t (16 * k + 1) 3 != 0

/-- Whether a block set entry names a block. -/
def SetEntry.names (e : SetEntry) (lin : Nat) : Bool :=
  e.first ≤ lin && 0 < e.stride && (lin - e.first) % e.stride == 0 && (lin - e.first) / e.stride < e.count

/-- The blocks of a grid that an entry names. -/
def SetEntry.members (e : SetEntry) (blocks : Nat) : List Nat :=
  if e.first < blocks ∧ 0 < e.stride then
    (List.range (min e.count ((blocks - e.first + e.stride - 1) / e.stride))).map fun k => e.first + k * e.stride
  else []

/-- Whether a block of the grid lies in more than four sets. -/
def setsCrowded (l : List SetEntry) (blocks : Nat) : Bool :=
  if (l.map (·.num)).eraseDups.length ≤ 4 then false
  else l.any fun e => (e.members blocks).any fun lin =>
    4 < ((l.filter fun x => x.names lin).map (·.num)).eraseDups.length

/-- The FIFO descriptors of the header (R115): descriptor j, if it is valid. -/
def fifoAt (l : List Byte) (j : Nat) : Option FifoDesc :=
  let d := bytesNat l (0x40 + 4 * j) 4
  if d / 16 % 2 = 1 then
    some { bank := d % 16, slotBytes := d / 65536 % 256 * 32
           counted := if d / 32 % 2 = 1 then some (d / 64 % 32, d / 2 ^ 24) else none }
  else none

/-- Whether descriptor j breaks R115. -/
def fifoBad (l : List Byte) (j : Nat) : Bool :=
  let d := bytesNat l (0x40 + 4 * j) 4
  let port := d / 64 % 32
  let thresh := d / 2 ^ 24
  if d / 16 % 2 = 0 then d != 0
  else
    d / 2048 % 32 != 0 || d / 65536 % 256 == 0 ||
      (if d / 32 % 2 = 1 then bytesNat l 0x19 1 ≤ port || thresh == 0 else port != 0 || thresh != 0)

/-- Whether a list repeats an element. -/
def repeats (l : List Nat) : Bool := l.eraseDups.length != l.length

/-- Whether the FIFO descriptors break R115 together or one by one. -/
def fifosBad (l : List Byte) : Bool :=
  let f := (List.range 4).filterMap (fifoAt l)
  (List.range 4).any (fifoBad l) || repeats (f.map (·.bank)) || repeats ((f.filterMap (·.counted)).map (·.1))

/-- A header with what the 128 bytes say of themselves, without its entry point and tables. -/
def headerResources (l : List Byte) (h : Header) : Header :=
  let n (o k : Nat) := bytesNat l o k
  { h with
    depth := depthOf (n 0x10 2)
    waves := n 0x12 2
    scratch := (n 0x14 4 + 255) / 256 * 256
    handlers := n 0x18 1
    ports := n 0x19 1
    accRows := n 0x1C 2
    coresident := n 0x20 4 % 2 == 1
    resilient := n 0x20 4 / 2 % 2 == 1
    rotate := n 0x20 4 / 4 % 2 == 1
    defMode := BitVec.ofNat 32 (n 0x24 4)
    argBytes := n 0x50 4
    ckInterval := n 0x54 4
    fifos := (List.range 4).filterMap (fifoAt l)
    raw := l }

/-- The header at an address, from its bytes and its tables' bytes. -/
def headerOf (a : Nat) (l pats recs sets : List Byte) : Header :=
  let n (o k : Nat) := bytesNat l o k
  headerResources l
    { entry := BitVec.ofNat 64 (headerAddr a (signedBytes l 8 8))
      patterns := (List.range (n 0x1A 1)).map (patternAt a pats)
      records := (List.range (n 0x1B 1)).map (recordAt recs)
      sets := (List.range (n 0x1E 2)).map (setAt sets)
      depth := 0, waves := 0, scratch := 0, handlers := 0, ports := 0, accRows := 0, coresident := false, resilient := false,
      rotate := false, defMode := 0, argBytes := 0, ckInterval := 0, fifos := [], raw := l }

/-- Whether the reserved fields of a header's 128 bytes are zero (R113, R114, R115). -/
def headerClean (l : List Byte) : Bool :=
  bytesNat l 0x20 4 / 8 == 0 && bytesNat l 0x58 40 == 0 &&
    (List.range 4).all fun j =>
      let d := bytesNat l (0x40 + 4 * j) 4
      if d / 16 % 2 = 0 then d == 0 else d / 2048 % 32 == 0

/-- What reading and checking a header gives. -/
inductive HeaderRead where
  | ok (s : State) (h : Header)
  | wait (s : State)
  | bad (s : State) (status : Nat)

/-- Reads a table of `n` bytes; an empty one is not read. -/
def readTable (s : State) (asid a n : Nat) : DiborRead := if n = 0 then .ok s [] else diborRead s asid a n

/-- ACCEPTANCE of a header (R119): its checks in the order of the table, each table read when its check comes. -/
def readHeader (s : State) (asid a blocks : Nat) : HeaderRead :=
  if a % 128 ≠ 0 then .bad s hdrMagic
  else
    match diborRead s asid a 128 with
    | .wait s => .wait s
    | .fail s => .bad s hdrMagic
    | .ok s l =>
      match headFail l with
      | some st => .bad s st
      | none =>
        let np := bytesNat l 0x1A 1
        let nr := bytesNat l 0x1B 1
        let ns := bytesNat l 0x1E 2
        let po := signedBytes l 0x28 8
        let ro := signedBytes l 0x30 8
        let so := signedBytes l 0x38 8
        if 16 < np ∨ badTable po np then .bad s hdrPat
        else
          match readTable s asid (headerAddr a po) (16 * np) with
          | .wait s => .wait s
          | .fail s => .bad s hdrPat
          | .ok s pats =>
            if (List.range np).any (patternBad (bytesNat l 0x19 1) (bytesNat l 0x18 1) pats) then .bad s hdrPat
            else if 32 < nr ∨ badTable ro nr then .bad s hdrRec
            else
              match readTable s asid (headerAddr a ro) (40 * nr) with
              | .wait s => .wait s
              | .fail s => .bad s hdrRec
              | .ok s recs =>
                let slots := (List.range nr).map fun k => (recordAt recs k).slot
                if ((List.range nr).any (recordBad (bytesNat l 0x50 4) recs)) || repeats slots then .bad s hdrRec
                else if 1024 < ns ∨ badTable so ns then .bad s hdrSet
                else
                  match readTable s asid (headerAddr a so) (16 * ns) with
                  | .wait s => .wait s
                  | .fail s => .bad s hdrSet
                  | .ok s sets =>
                    if (List.range ns).any (setBad sets) || setsCrowded ((List.range ns).map (setAt sets)) blocks then
                      .bad s hdrSet
                    else if fifosBad l then .bad s hdrFifo
                    else .ok s (headerOf a l pats recs sets)

end Sys2Proof.Machine
end

