-- ==== Sys2Proof/Machine/Launch.lean ====
section
/-! DEFINITION. Queues, packets, graphs and stride scheduling (R365 to R376), and the retirement of a block (R259). Dibor's
decisions are steps of their own; the journal of R443 stands before them in Machine/Firmware.lean and Machine/Step.lean. -/

namespace Sys2Proof.Machine

/-! ### Queues (R365, R366) -/

/-- Whether a queue descriptor holds a reserved value (R365). A disabled queue's ring, size and tickets are not judged. -/
def descriptorBad (d : BitVec 256) : Bool :=
  d.extractLsb' 174 82 != 0#82 || d.extractLsb' 166 5 != 0#5 || d.extractLsb' 57 7 != 0#7 || queueGroupLog2 d == 7 ||
    (queueEnabled d &&
      (queueTickets d == 0 || queueSizeLog2 d < 4 || 16 < queueSizeLog2 d || (queueRidxAddr d).toNat % 8 != 0 ||
        (queueRing d).toNat % 4096 != 0))

/-- Whether a partition's queues accept packets: not while its group's interface is locked but not in RUN, or in ERROR
(R396), nor once the partition is out of service (R424). -/
def acceptsPackets (s : State) (p : Nat) : Bool :=
  !(partState s p).out &&
  !(s.groups.any fun g => g.1 ≤ p && p < g.1 + 2 ^ g.2.log2 && (g.2.tdisp == .locked || g.2.tdisp == .error))

/-! ### Packets: checks (R367 to R369) -/

def pkDims (p : BitVec 512) : Nat × Nat × Nat := (pkBits p 16 16, pkBits p 32 16, pkBits p 48 16)
def pkGrid (p : BitVec 512) : Nat × Nat × Nat := (pkBits p 64 32, pkBits p 96 32, pkBits p 128 32)

/-- The addresses that a barrier packet depends on (R367). -/
def pkDeps (p : BitVec 512) : List Nat :=
  [pkBits p 192 64, pkBits p 256 64, pkBits p 384 64, pkBits p 448 64].filter (· != 0)

/-- A legal scope of ACQ and REL (R368). -/
def pkScopeOk (n : Nat) : Bool := n == 0 || n == 4 || n == 5

/-- Whether a reserved field of a packet is non-zero (R367, R368). -/
def pkReserved (p : BitVec 512) : Bool :=
  pkHdr p / 2048 != 0 || !pkScopeOk (pkAcq p) || !pkScopeOk (pkRel p) || pkIrq p / 64 != 0 || pkSignal p % 8 != 0 ||
    (pkType p != 1 && pkBits p 16 144 != 0) ||
    (pkType p == 3 && pkBits p 192 128 != 0) ||
    (pkType p != 4 && pkBits p 384 128 != 0)

/-- The first failing check of a packet before its header (R369). -/
def pkFail (p : BitVec 512) : Option Nat :=
  let d := pkDims p
  if pkType p = 0 ∨ 5 ≤ pkType p then some 0x30
  else if pkReserved p then some 0x31
  else if pkType p = 1 && (d.1 == 0 || d.2.1 == 0 || d.2.2 == 0) then some 0x32
  else none

/-- Whether a grid has a zero dimension. -/
def gridEmpty (g : Nat × Nat × Nat) : Bool := g.1 == 0 || g.2.1 == 0 || g.2.2 == 0

/-- Places every block of a launch on cores that hold nothing, one after another; whether all found room. -/
def placeEmpty (h : Header) (bdim : Nat × Nat × Nat) (b : Block) (cores : List Core) : Nat → Bool
  | 0 => true
  | n + 1 =>
    let best := cores.zipIdx.foldl (fun (m : Option (Nat × Nat × Spot)) e =>
      match fitsCore e.1 h bdim {} with
      | none => m
      | some p =>
        match m with
        | none => some (e.2, e.1.programs.length, p)
        | some (_, k, _) => if e.1.programs.length < k then some (e.2, e.1.programs.length, p) else m) none
    match best with
    | none => false
    | some (j, _, p) =>
      placeEmpty h bdim b (cores.zipIdx.map fun e => if e.2 = j then takeBlock e.1 p
        { b with pbase := p.sram.pbase, fifos := bindFifos h p.sram.banks, accBase := p.accBase,
                 waves := (stackWaves h bdim).map fun w => restingWave w (placedQuadrant p.quadrant w) (h.waves ≤ w) }
        else e.1) n

/-- NOFIT (R369, R280): a block can never be placed, or a co-resident grid exceeds the group's empty cores. -/
def neverFits (h : Header) (grid bdim : Nat × Nat × Nat) (cores : Nat) : Bool :=
  let empty : Core := {}
  let b : Block := { launch := 0, lin := 0, asid := 0, hdr := h, grid := grid, bdim := bdim, args := 0 }
  !sramPossible h || (fitsCore empty h bdim {}).isNone ||
    (h.coresident && (64 * cores < gridBlocks grid || !placeEmpty h bdim b (List.replicate cores empty) (gridBlocks grid)))

/-- What the checks of a kernel packet give. -/
inductive PacketCheck where
  | ok (s : State) (h : Option Header)
  | wait (s : State)
  | bad (s : State) (status : Nat)

/-- Checks 4 to 6 of R369 on a kernel packet, for a group of `cores` cores. -/
def checkKernel (s : State) (asid cores : Nat) (p : BitVec 512) : PacketCheck :=
  let g := pkGrid p
  if gridEmpty g then .ok s none
  else
    match readHeader s asid (pkKernel p) (gridBlocks g) with
    | .wait s => .wait s
    | .bad s st => .bad s st
    | .ok s h =>
      if 32 * h.waves < blockThreads (pkDims p) then .bad s 0x32
      else if neverFits h g (pkDims p) cores then .bad s 0x33
      else .ok s (some h)

/-- The checks of a packet in their order (R369). -/
def checkPacket (s : State) (asid cores : Nat) (p : BitVec 512) : PacketCheck :=
  match pkFail p with
  | some st => .bad s st
  | none => if pkType p = 1 then checkKernel s asid cores p else .ok s none

/-- The bytes of a packet as a number. -/
def packetBits (l : List Byte) : BitVec 512 := BitVec.ofNat 512 (leNat l)

/-- RIDX goes to RIDXADDR; a write that cannot be resolved is dropped and sets ERR. None while its page is awaited. -/
def writeRidx (s : State) (q asid : Nat) (addr : BitVec 64) (ridx : Nat) : Option State × State :=
  match diborBytes s asid accWrite addr.toNat 8 with
  | (s, some l, _) =>
    let x : Store := .phys none
    (some (x.putList (x.touch s l) l (leBytes ridx 8)), s)
  | (s, none, true) => (none, s)
  | (s, none, false) => (some (modQueue s q fun k => { k with err := true }), s)

/-- Whether a queue takes a packet: it is enabled, its partition and its context accept packets, and no packet of an earlier
enabling is still to be DONE. -/
def takesPackets (s : State) (q : Nat) : Bool :=
  let k := queueOf s q
  queueEnabled k.desc && acceptsPackets s (q / 64) && !(contextOf s (queueAsid k.desc)).any Context.ending &&
    !k.packets.any fun p => p.status == stAborted

/-- The packet of a queue that is FETCHED and not yet accepted. -/
def fetchedPacket (s : State) (q : Nat) : Option Packet := (queueOf s q).packets.find? fun p => p.st == .fetched

/-- A fetched packet is accepted (R366, R370): RIDX advances and is written, and the packet is HELD, or on its way to DONE with
its check's status. While RIDXADDR's page is awaited the packet stays FETCHED. -/
def acceptPacket (s : State) (q : Nat) (p : Packet) (h : Option Header) (status : Option Nat) : State :=
  match writeRidx s q (queueAsid (queueOf s q).desc) (queueRidxAddr (queueOf s q).desc) (p.index + 1) with
  | (none, s) => s
  | (some s, _) =>
    modQueue s q fun k =>
      { k with
        ridx := k.ridx + 1
        kick := k.kick && k.ridx + 1 != k.widx
        packets := k.packets.map fun x =>
          if x.index = p.index then
            { x with st := if status.isSome then .completing else .held, status := status.getD 0, hdr := h }
          else x }

/-- The checks of a fetched packet (R369), which wait while a page of theirs is awaited. -/
def checkFetched (s : State) (q : Nat) (p : Packet) : State :=
  let d := (queueOf s q).desc
  match checkPacket s (queueAsid d) (2 * 2 ^ queueGroupLog2 d) p.raw with
  | .wait s => s
  | .bad s st => acceptPacket s q p none (some st)
  | .ok s h => acceptPacket s q p h none

/-- PACKET_FETCH (R366, R369): packet RIDX is read, once, and is FETCHED; then it is checked and accepted. With nothing left to
fetch, the pending kick is over (R444). -/
def fetchPacket (s : State) (q : Nat) : State :=
  let k := queueOf s q
  let d := k.desc
  if !takesPackets s q then s
  else
    match fetchedPacket s q with
    | some p => checkFetched s q p
    | none =>
      if k.widx ≤ k.ridx then modQueue s q fun k => { k with kick := false }
      else
        let n := k.ridx.toNat
        match diborRead s (queueAsid d) ((queueRing d).toNat + 64 * (n % 2 ^ queueSizeLog2 d)) 64 with
        | .wait s => s
        | .fail s => modQueue s q fun k => { k with err := true }
        | .ok s l =>
          let p : Packet := { index := n, st := .fetched, raw := packetBits l }
          checkFetched (modQueue s q fun k => { k with packets := k.packets ++ [p] }) q p

/-- PACKET_FETCH. -/
def execPacketFetch (s : State) : Host.Outcome State Fault Refusal := .next (fetchPacket s s.subject.queue)

/-- A packet of a queue. -/
def packetOf (s : State) (q index : Nat) : Option Packet := (queueOf s q).packets.find? fun p => p.index == index

/-- Whether every earlier packet of the queue satisfies a test. -/
def earlierAll (s : State) (q index : Nat) (f : Packet → Bool) : Bool :=
  (queueOf s q).packets.all fun p => index ≤ p.index || f p

/-- PACKET_ORDERED (R370). -/
def execPacketOrdered (s : State) : Host.Outcome State Fault Refusal :=
  let q := s.subject.queue
  let n := s.subject.index
  .next (match packetOf s q n with
    | none => s
    | some p =>
      if p.st = .held ∧ p.status ≠ stAborted ∧ (!pkBarrier p.raw || earlierAll s q n fun x => x.st == .done) then
        modPacket s q n fun p => { p with st := if pkType p.raw = 3 then .completing else .ordered }
      else s)

/-! ### Graphs (R371, R372) -/

/-- A graph's node table as read: each entry with its successors, or what keeps it from being read. -/
inductive TableRead where
  | ok (s : State) (l : List (List Byte × List Nat))
  | wait (s : State)
  | fail (s : State)

/-- Reads the entries of a node table from entry k on (R371). -/
def readNodes (s : State) (asid a k : Nat) : Nat → TableRead
  | 0 => .ok s []
  | n + 1 =>
    match diborRead s asid (a + 128 * k) 128 with
    | .wait s => .wait s
    | .fail s => .fail s
    | .ok s e =>
      let m := bytesNat e 0x42 2
      let succs (s : State) (l : List Byte) : TableRead :=
        match readNodes s asid a (k + 1) n with
        | .ok s r => .ok s ((e, (List.range m).map fun j => bytesNat l (2 * j) 2) :: r)
        | x => x
      if m = 0 then succs s []
      else
        match diborRead s asid (headerAddr (a + 128 * k) (signedBytes e 0x48 8)) (2 * m) with
        | .wait s => .wait s
        | .fail s => .fail s
        | .ok s l => succs s l

/-- Removes nodes without predecessors, over and over; what remains lies on or behind a cycle. -/
def peelNodes (l : List (Nat × Nat × List Nat)) : Nat → List (Nat × Nat × List Nat)
  | 0 => l
  | n + 1 =>
    match l.find? fun e => e.2.1 == 0 with
    | none => l
    | some e =>
      peelNodes ((l.filter fun x => x.1 != e.1).map fun x => (x.1, x.2.1 - (if e.2.2.contains x.1 then 1 else 0), x.2.2)) n

/-- Whether a node table is malformed (R371). -/
def tableBad (l : List (List Byte × List Nat)) : Bool :=
  let n := l.length
  let named := l.flatMap (·.2)
  (l.zipIdx.any fun e =>
    let b := e.1.1
    let p := packetBits (b.take 64)
    bytesNat b 0x44 4 != 0 || bytesNat b 0x50 48 != 0 || pkType p != 1 || pkBarrier p || 4095 < bytesNat b 0x42 2 ||
      bytesNat b 0x48 8 % 2 != 0 || bytesNat b 0x40 2 != (l.filter fun x => x.2.contains e.2).length) ||
    named.any (n ≤ ·) ||
    !(peelNodes (l.zipIdx.map fun e => (e.2, bytesNat e.1.1 0x40 2, e.1.2)) n).isEmpty

/-- The nodes of a well-formed table, those without predecessors ready. -/
def nodesOf (l : List (List Byte × List Nat)) : List Node :=
  l.map fun e =>
    let pred := bytesNat e.1 0x40 2
    { packet := packetBits (e.1.take 64), succs := e.2, counter := pred, st := if pred = 0 then .ready else .waiting }

/-! ### Dispatch -/

/-- The launch of a kernel packet or of a graph node (R370). -/
def launchFor (q index node : Nat) (d : BitVec 256) (p : BitVec 512) (h : Header) : Launch :=
  { ident := launchIdent q index node, queue := q, index := index, node := node, asid := queueAsid d
    group := queueGroup q d, groupLog2 := queueGroupLog2 d, hdr := h, grid := pkGrid p, bdim := pkDims p
    args := BitVec.ofNat 64 (pkArgs p), acquire := pkAcq p, release := pkRel p }

/-- Whether no block of a launch is left to place. -/
def launchPlaced (l : Launch) : Bool := l.failed.isSome || gridBlocks l.grid ≤ l.nextBlock

/-- Whether no block of a graph is left to place: every node is over, is to be skipped, or has its blocks placed. -/
def graphPlaced (s : State) (q index : Nat) (nodes : List Node) : Bool :=
  !nodes.isEmpty && nodes.zipIdx.all fun e =>
    e.1.st == .done || e.1.st == .skipped || e.1.skip ||
      (e.1.st == .running && (launchOf s (launchIdent q index (e.2 + 1))).all launchPlaced)

/-- A DISPATCHING packet whose last block is placed, or whose placement has failed, is DISPATCHED (R370). -/
def settleDispatch (s : State) (q index : Nat) : State :=
  match (queueOf s q).packets.find? fun p => p.index == index with
  | none => s
  | some p =>
    let placed :=
      if pkType p.raw = 2 then graphPlaced s q index p.nodes
      else (launchOf s (launchIdent q index 0)).any launchPlaced
    if p.st == .dispatching && placed then modPacket s q index fun p => { p with st := .dispatched } else s

/-- A ready node starts (R372): its packet is checked, and its launch made; a zero grid or a failed check leaves it
RUNNING without a launch, to complete at once. -/
def dispatchNode (s : State) (q index n : Nat) (x : Node) : State :=
  let d := (queueOf s q).desc
  match checkPacket s (queueAsid d) (2 * 2 ^ queueGroupLog2 d) x.packet with
  | .wait s => s
  | .bad s st => modPacket s q index fun p => p.modNode n fun y => { y with st := .running, status := st }
  | .ok s none => modPacket s q index fun p => p.modNode n fun y => { y with st := .running }
  | .ok s (some h) =>
    let s := modPacket s q index fun p => p.modNode n fun y => { y with st := .running }
    { s with launches := s.launches ++ [launchFor q index (n + 1) d x.packet h] }

/-- PACKET_DISPATCH (R370, R371, R372): an ordered kernel packet, or graph, enters DISPATCHING; a dispatching graph starts
its lowest ready node. -/
def execPacketDispatch (s : State) : Host.Outcome State Fault Refusal :=
  let q := s.subject.queue
  let n := s.subject.index
  let d := (queueOf s q).desc
  let put (s : State) (f : Packet → Packet) : State := modPacket s q n f
  .next (match packetOf s q n with
    | none => s
    | some p =>
      if p.status = stAborted then s else
      match p.st, pkType p.raw with
      | .ordered, 1 =>
        if earlierAll s q n fun x =>
            pkType x.raw != 1 || x.st == .dispatched || x.st == .completing || x.st == .done then
          match p.hdr with
          | none => put s fun p => { p with st := .dispatched }
          | some h =>
            put { s with launches := s.launches ++ [launchFor q n 0 d p.raw h] } fun p => { p with st := .dispatching }
        else s
      | .ordered, 2 =>
        let count := pkArgs p.raw
        let bad (s : State) := put s fun p => { p with st := .completing, status := 0x37 }
        if count = 0 ∨ 4095 < count then bad s
        else
          (match readNodes s (queueAsid d) (pkKernel p.raw) 0 count with
           | .wait s => s
           | .fail s => bad s
           | .ok s l =>
             if tableBad l then bad s else put s fun p => { p with st := .dispatching, nodes := nodesOf l })
      | .dispatching, 2 =>
        (match (p.nodes.zipIdx.find? fun e => e.1.st == .ready && !e.1.skip) with
         | none => s
         | some (x, j) => settleDispatch (dispatchNode s q n j x) q n)
      | _, _ => s)

/-- BARRIER_DEPENDENCY_CHECK (R370): the packet's words are read again. -/
def execBarrierDependencyCheck (s : State) : Host.Outcome State Fault Refusal :=
  let q := s.subject.queue
  let n := s.subject.index
  let asid := queueAsid (queueOf s q).desc
  let read (x : State × Bool × Bool) (a : Nat) : State × Bool × Bool :=
    match diborRead x.1 asid a 8 with
    | .wait s => (s, true, x.2.2)
    | .fail s => (s, x.2.1, true)
    | .ok s l => (s, x.2.1 || bytesNat l 0 1 == 0xFF, x.2.2)
  .next (match packetOf s q n with
    | none => s
    | some p =>
      if p.st = .ordered ∧ pkType p.raw = 4 ∧ p.status ≠ stAborted then
        let (s, pending, failed) := (pkDeps p.raw).foldl read (s, false, false)
        if failed then modPacket s q n fun p => { p with st := .completing, status := 0x38 }
        else if pending then s
        else modPacket s q n fun p => { p with st := .completing }
      else s)

/-! ### Stride scheduling and placement (R373 to R376) -/

/-- A launch as its queue's descriptor governs the blocks that it has still to place (R365). -/
def governed (s : State) (l : Launch) : Launch :=
  let d := (queueOf s l.queue).desc
  { l with asid := queueAsid d, group := queueGroup l.queue d, groupLog2 := queueGroupLog2 d }

/-- The launches with a block to place of the oldest packet of a queue that is DISPATCHING, in ascending node. -/
def placeable (s : State) (q : Nat) : List Launch :=
  match (queueOf s q).packets.find? fun p => p.st == .dispatching && p.status != stAborted with
  | none => []
  | some p => (sortBy (fun x y => x.node ≤ y.node) ((packetLaunches s q p.index).filter fun l => !launchPlaced l)).map (governed s)

/-- Whether a context is being pre-empted (R407). -/
def preempting (s : State) (l : Launch) : Bool :=
  s.preempts.any fun p =>
    match p.target with
    | .context a => a == l.asid
    | .group g => g == l.group

/-- What the placement of one block comes to. -/
inductive Placed1 where
  | done (s : State)
  | noRoom (s : State)
  | wait (s : State)
  | failed (s : State)

/-- The records of a new block (R117): the header's entries, with the BASE of an ARGBASE entry replaced; or the status of
the check that fails. -/
def placedRecords (l : Launch) (args : List Byte) : Except Nat (Cells (BitVec 256)) :=
  let recs := l.hdr.records.map fun r =>
    (r.slot, if r.argBase then setRecField r.record 0 57 (recBase r.record + bytesNat args r.argOff 8) else r.record)
  if (recs.zip l.hdr.records).any fun e => e.2.argBase && (recCheck e.1.2).isSome then .error hdrRec
  else .ok (cellSetAll 0 recs [])

/-- BLOCK_PLACEMENT of a launch's next block (R376). -/
def placeNext (s : State) (l : Launch) : Placed1 :=
  match contextOf s l.asid with
  | none => .noRoom s
  | some k =>
    match chooseCore s (groupCores l.group l.groupLog2) l.hdr l.bdim {}, freeSpillSlot s k with
    | some (c, p), some spill =>
      let fail (s : State) (st : Nat) : Placed1 := .failed (modLaunch s l.ident fun x => { x with failed := some st })
      (match readTable s l.asid (l.args.toNat % 2 ^ 57) l.hdr.argBytes with
       | .wait s => .wait s
       | .fail s => fail s hdrArg
       | .ok s args =>
         match placedRecords l args with
         | .error st => fail s st
         | .ok recs =>
           let b := newBlock l l.nextBlock p recs spill s.timebase
           let b := { b with ckpt := { b.ckpt with due := l.hdr.resilient, slots := slotPair s c l.ident l.nextBlock l.hdr } }
           let s := modCore (leaveL1 s c p.sram.cfg) c fun k => takeBlock k p b
           .done (modLaunch s l.ident fun x => { x with nextBlock := x.nextBlock + 1 }))
    | _, _ => .noRoom s

/-- Every remaining block of a co-resident launch, in one decision. -/
def placeAll (s : State) (ident : Nat) : Nat → Placed1
  | 0 => .done s
  | n + 1 =>
    match (launchOf s ident).map (governed s) with
    | none => .noRoom s
    | some l =>
      match placeNext s l with
      | .done s => placeAll s ident n
      | x => x

/-- One decision for a launch: its next block, or all of a co-resident launch; nothing is placed unless all fit. -/
def placeDecision (s : State) (l : Launch) : Placed1 :=
  if l.hdr.coresident then
    match placeAll s l.ident (gridBlocks l.grid - l.nextBlock) with
    | .noRoom _ => .noRoom s
    | x => x
  else placeNext s l

/-- Whether a launch's next block, or all of a co-resident launch, finds room now. -/
def fitsNow (s : State) (l : Launch) : Bool :=
  match placeDecision s l with
  | .noRoom _ => false
  | _ => true

/-- The launch whose block a queue places next (R373): the first of those that can, none while its context or group is being
pre-empted. -/
def dispatching (s : State) (q : Nat) : Option Launch :=
  (placeable s q).find? fun l => !preempting s l && fitsNow s l

/-- Whether a queue has a block to place that may be placed but for want of room (R375). -/
def wantsRoom (s : State) (q : Nat) : Bool := (placeable s q).any fun l => !preempting s l

/-- The queues of a group (R365). -/
def groupQueues (s : State) (g : Nat) : List Nat := (s.queues.map (·.1)).filter fun q => queueGroup q (queueOf s q).desc == g

/-- A queue's stride (R373). -/
def queueStride (d : BitVec 256) : Nat := 2 ^ 24 / queueTickets d

/-- A queue's readiness as the scheduler sees it: becoming ready lifts its pass to V, and standing without room is timed. -/
def refreshQueue (s : State) (g q : Nat) : State :=
  if (dispatching s q).isSome then
    let v := (groupOf s g).v
    modQueue s q fun k =>
      { k with wasReady := true, unreadySince := none, pass := if !k.wasReady && k.pass < v then v else k.pass }
  else if wantsRoom s q then
    modQueue s q fun k => { k with wasReady := false, unreadySince := some (k.unreadySince.getD s.timebase) }
  else modQueue s q fun k => { k with wasReady := false, unreadySince := none }

/-- A reservation ends when its queue has no block left to place: the block has been placed, or never will be (R375). -/
def clearReserved (s : State) (g : Nat) : State :=
  modGroup s g fun k => { k with reserved := k.reserved.filter fun q => !(placeable s q).isEmpty }

/-- The queue of lowest pass of a list, the lower number on a tie. -/
def lowestPass (s : State) (l : List Nat) : Option Nat :=
  l.foldl (fun m q =>
    match m with
    | none => some q
    | some x =>
      let a := (queueOf s q).pass
      let b := (queueOf s x).pass
      if a < b || (a == b && q < x) then some q else some x) none

/-- The decision for a queue (R374): it places one block, or a whole co-resident launch. While a page of the block's arguments is
awaited the decision is not yet made. -/
def decide1 (s : State) (g q : Nat) : State :=
  match dispatching s q with
  | none => s
  | some x =>
    match placeDecision s x with
    | .wait s => s
    | .noRoom s => s
    | .failed s => clearReserved (settleDispatch s q x.index) g
    | .done s =>
      let count := if x.hdr.coresident then gridBlocks x.grid else 1
      let pass := (queueOf s q).pass
      let s := modQueue s q fun k => { k with pass := pass + BitVec.ofNat 64 (queueStride k.desc * count) }
      let s := modGroup s g fun k => { k with v := pass, reserved := if k.reserved = some q then none else k.reserved }
      settleDispatch s q x.index

/-- SCHEDULING_DECISION (R374): the ready queue of lowest pass places one block, or a whole co-resident launch. While the
group is reserved, only its queue does. Nothing is placed before the last core group is enabled (R449). -/
def execSchedulingDecision (s : State) : Host.Outcome State Fault Refusal :=
  let g := s.subject.group
  .next (if s.power.groups < 8 then s
    else
      let s := clearReserved s g
      let queues := groupQueues s g
      let s := queues.foldl (fun s q => refreshQueue s g q) s
      let ready := queues.filter fun q => (queueOf s q).wasReady &&
        (match (groupOf s g).reserved with
         | some r => r == q
         | none => true)
      match lowestPass s ready with
      | none => s
      | some q => decide1 s g q)

/-- QUEUE_RESERVATION (R375). -/
def execQueueReservation (s : State) : Host.Outcome State Fault Refusal :=
  let g := s.subject.group
  .next (match lowestPass s ((groupQueues s g).filter fun q => wantsRoom s q) with
    | none => s
    | some q =>
      match (queueOf s q).unreadySince with
      | none => s
      | some t =>
        if t + 100000 ≤ s.timebase && (groupOf s g).reserved.isNone then
          modGroup s g fun k => { k with reserved := some q }
        else s)

/-! ### Completion -/

/-- Whether a launch has nothing left to run: all blocks placed, or placement stopped, and each placed block ended. -/
def launchOver (l : Launch) : Bool :=
  launchPlaced l && l.nextBlock ≤ l.ended.length

/-- The status of a launch that is over (R369). -/
def launchStatus (l : Launch) : Nat := l.failed.getD (if l.killed = 0 then 0 else 0x34)

/-- Whether a node has finished: its launch is over, or it never had one. -/
def nodeOver (s : State) (q index n : Nat) : Bool :=
  match launchOf s (launchIdent q index (n + 1)) with
  | none => true
  | some l => launchOver l

/-- The nodes reachable from some nodes. -/
def reachable (nodes : List Node) (l : List Nat) : Nat → List Nat
  | 0 => l
  | n + 1 => reachable nodes (l ++ l.flatMap fun k => (nodes[k]?).elim [] (·.succs)).eraseDups n

/-- A node is done with (R372): its successors' counters fall, and a failure marks what it reaches. -/
def Packet.finishNode (p : Packet) (n status : Nat) (st : NodeState) : Packet :=
  match p.nodes[n]? with
  | none => p
  | some x =>
    let marked := if status = 0 ∨ st = .skipped then [] else reachable p.nodes x.succs p.nodes.length
    { p with nodes := p.nodes.zipIdx.map fun e =>
        let y := if e.2 = n then { e.1 with st := st, status := status } else e.1
        let y := if marked.contains e.2 then { y with skip := true } else y
        let c := y.counter - 1
        if x.succs.contains e.2 then { y with counter := c, st := if c = 0 ∧ y.st = .waiting then .ready else y.st } else y }

/-- GRAPH_NODE_COMPLETE (R372): the subject's node is over, or is to be skipped; its word is written first. A graph that is to end
ABORTED ends its nodes itself (R370, R371). -/
def execGraphNodeComplete (s : State) : Host.Outcome State Fault Refusal :=
  let q := s.subject.queue
  let n := s.subject.index
  let j := s.subject.node
  let asid := queueAsid (queueOf s q).desc
  .next (match packetOf s q n with
    | none => s
    | some p =>
      match p.nodes[j]? with
      | none => s
      | some x =>
        if p.st = .completing ∨ p.status = stAborted then s else
        let finish (s : State) (status killed : Nat) (st : NodeState) : State :=
          match writeCompletion s q asid x.packet status killed with
          | (none, s) => s
          | (some s, _) => settleDispatch (modPacket s q n fun p => p.finishNode j status st) q n
        if x.st = .ready ∧ x.skip then finish s 0x35 0 .skipped
        else if x.st = .running ∧ nodeOver s q n j then
          match launchOf s (launchIdent q n (j + 1)) with
          | none => finish s x.status x.killed .done
          | some l =>
            let s := countEvent (endLaunch s l.ident) (q / 64 * 2) 14 1
            let s := modPacket s q n fun p =>
              { p.modNode j (fun y => { y with status := launchStatus l, killed := l.killed }) with
                killed := p.killed + l.killed }
            finish s (launchStatus l) l.killed .done
        else s)

/-- Whether a dispatched or dispatching packet's work is over. -/
def packetOver (s : State) (q : Nat) (p : Packet) : Bool :=
  match pkType p.raw with
  | 1 =>
    p.st == .dispatched &&
      (match launchOf s (launchIdent q p.index 0) with
       | none => true
       | some l => launchOver l)
  | 2 => p.st == .dispatched && p.nodes.all fun x => x.st == .done || x.st == .skipped
  | _ => false

/-- The status of a graph (R372). -/
def graphStatus (l : List Node) : Nat :=
  match l.find? fun x => x.status != 0 && x.status != 0x35 with
  | some x => x.status
  | none => 0

/-- A packet whose work is over is COMPLETING, its status decided and its launch ended. -/
def endPacketWork (s : State) (q : Nat) (p : Packet) : State :=
  if packetOver s q p then
    match launchOf s (launchIdent q p.index 0) with
    | some l =>
      let s := countEvent (endLaunch s l.ident) (q / 64 * 2) 14 1
      modPacket s q p.index fun p => { p with st := .completing, status := launchStatus l, killed := l.killed }
    | none => modPacket s q p.index fun p => { p with st := .completing, status := graphStatus p.nodes }
  else s

/-- A packet is DONE; those that no later packet's condition needs any more are forgotten. -/
def forgetDone (s : State) (q : Nat) : State :=
  modQueue s q fun k => { k with packets := k.packets.filter fun p => p.st != .done }

/-- PACKET_COMPLETE (R369, R370): the release, the completion word, then the interrupt. -/
def execPacketComplete (s : State) : Host.Outcome State Fault Refusal :=
  let q := s.subject.queue
  let n := s.subject.index
  .next (match packetOf s q n with
    | none => s
    | some p =>
      if p.status = stAborted then abortPacket s q n else
      let s := endPacketWork s q p
      match packetOf s q n with
      | none => s
      | some p =>
        if p.st = .completing then
            match writeCompletion s q (queueAsid (queueOf s q).desc) p.raw p.status p.killed with
            | (none, s) => s
            | (some s, _) => forgetDone (modPacket s q n fun p => { p with st := .done }) q
        else s)

/-! ### Retirement (R259) -/

/-- Whether a block of a core retires. A resilient block's held effects are released by a commit first (R430). -/
def retires (s : State) (c h : Nat) (b : Block) : Bool :=
  let k := coreOf s c
  (b.waves.all fun w => (if w.handler then w.st == .dormant else w.st == .ended) && w.posted.isEmpty) &&
    b.ops.all (fun o => o.st == .done) &&
    !(s.net.any fun m => !m.confirm && m.senderLaunch == b.launch && m.senderLin == b.lin) &&
    !((k.records ++ k.popped).any fun r => r.block == h) && !(k.hamper.any fun e => e.block == h) &&
    b.ckpt.held.isEmpty && b.ckpt.effects.isEmpty

/-- BLOCK_RETIREMENT (R259). -/
def execBlockRetirement (s : State) : Host.Outcome State Fault Refusal :=
  let c := s.subject.core
  let h := s.subject.block
  .next (match blockOf s c h with
    | none => s
    | some b =>
      if h < supervisorHandle ∧ retires s c h b then endLaunchBlock (removeBlock s c h) c b.launch b.lin false else s)

end Sys2Proof.Machine
end

