-- ==== Sys2Proof/Machine/Images.lean ====
section
/-! DEFINITION. The image of a block (R409 to R411): the quiet state before it is written (R408), its bytes, and reading
them back (R412). Where R410 names a section's contents and not their places, the order named is the order of the bytes. -/

namespace Sys2Proof.Machine

/-! ### The quiet state (R408) -/

/-- Whether a message of a block is still on its way: a SENDP, or a SEND without its confirmation. -/
def sendsOpen (s : State) (b : Block) : Bool :=
  s.net.any fun m => m.senderLaunch == b.launch && m.senderLin == b.lin && !m.held

/-- Whether everything of a fragment's loads has returned; lanes of a parked fragment that failed have only to fault. -/
def Fragment.loadsReturned (f : Fragment) : Bool := f.loads.all fun l => l.vs.isEmpty && l.ss.isEmpty && f.st.isParked

/-- Whether a stopped block is quiet: loads returned, stores accepted or recorded, messages settled. The model's engine
operations stand at a restart point between any two steps. -/
def blockQuiet (s : State) (b : Block) : Bool :=
  (b.waves.all fun w => w.posted.isEmpty && w.frags.all Fragment.loadsReturned) && !sendsOpen s b

/-- An operation at its restart point (R225): what it has fetched behind it from memory is dropped. What it has taken from a
bank is not read there again (R302), and stays with it; a WLOAD starts again in the slots that it keeps (R227, R303). -/
def Op.rewound (x : Op) : Op :=
  if !x.live then x
  else if x.form = .wload then { x with staged := [], inS := { x.inS with pos := 0 } }
  else if recSpace x.da = 2 || recSpace x.irec = 2 then x
  else { x with staged := [] }

/-- Every live operation of a block stands at its restart point. -/
def rewindOps (b : Block) : Block := { b with ops := b.ops.map Op.rewound }

/-! ### Writing the image -/

/-- The waves of a block by index, formed or not. -/
def waveSlots (h : Header) : List Nat := List.range (h.waves + h.handlers)

/-- The fragments of a block in the order of the image. -/
def savedFrags (b : Block) : List (Nat × Fragment) :=
  (waveSlots b.hdr).flatMap fun w => (b.wave? w).elim [] fun x => x.frags.map fun f => (w, f)

/-- BAR and SBAR arrival state (R410): the ordinary waves that have arrived at a BAR, then, in 12 bits for each set slot, the
SBARs that the block has arrived at. -/
def arrivalState (b : Block) : Nat :=
  (b.waves.filter fun w => w.participant && !w.frags.isEmpty && w.atBar).length +
    (List.range 4).foldl (fun n k => n + (b.sets[k]?).elim 0 (·.sbars) % 4096 * 2 ^ (16 + 12 * k)) 0

/-- Section 0 (R410). -/
def sectBlock (b : Block) : List Byte :=
  let enables := b.patterns.zipIdx.foldl (fun n e => n + (if e.1.enabled then 2 ^ e.2 else 0)) 0
  let latched := match b.latched with
    | some x => leBytes 1 1 ++ leBytes x.record.toNat 32 ++ leBytes x.param.toNat 8
    | none => zeros 41
  padTo 1152 (((List.range 32).flatMap fun k => leBytes (cellGet (0 : BitVec 256) k b.recs).toNat 32) ++
    leBytes (b.iron.getD 0xFF) 1 ++ leBytes b.rotate 1 ++ leBytes enables 2 ++
    leBytes (arrivalState b) 8 ++ leBytes b.opSeq 4 ++ latched ++
    leBytes (b.spillSlot.getD 0xFFFFFFFF) 4)

/-- The code of a wave's state (R411). -/
def waveCode : WaveState → Nat
  | .running => 0
  | .dormant => 1
  | .ended => 2

/-- The wave entry of an index (R411); one never formed counts as ended. -/
def sectWave (b : Block) (w : Nat) : List Byte :=
  match b.wave? w with
  | none => leBytes 2 1 ++ leBytes 0xFF 1 ++ zeros 126
  | some x =>
    leBytes (waveCode x.st) 1 ++ leBytes (x.sigpend.elim 0xFF (·.1)) 1 ++ leBytes x.depth 1 ++ zeros 1 ++
      leBytes x.live.toNat 4 ++ leBytes (x.sigpend.elim 0 fun e => e.2.toNat) 8 ++ zeros 16 ++
      (laneList.flatMap fun l => leBytes (x.wbOf l) 2) ++
      laneList.flatMap fun l =>
        leBytes ((List.range 7).foldl (fun n k => n + (if (predOf x k).getLsbD l then 2 ^ k else 0)) 0) 1

/-- The code of a fragment's state, its HAMPER entry and its WAITARG (R411). `saved` gives the saved number of an entry. -/
def stateCode (saved : Nat → Nat) : FragState → Nat × Nat × Nat
  | .run => (0, 0, 0)
  | .waitRcv => (1, 0, 0)
  | .waitColl => (2, 0, 0)
  | .waitSync m _ => (3, 0, m.toNat)
  | .waitBar => (4, 0, 0)
  | .waitSbar => (4, 0, 0)
  | .waitEvent (.jwait k) => (5, 0, k)
  | .waitEvent (.svcReply tag) => (5, 0, tag)
  | .waitEvent _ => (5, 0, 0)
  | .parked e => (6, saved e, 0)

/-- KEPT and KEPTREPLY (R411). -/
def keptBytes : Option Kept → List Byte
  | none => zeros 24
  | some k =>
    leBytes (k.ident % 2 ^ 32 + (if k.full then 2 ^ 60 else 0) + (if k.held then 2 ^ 61 else 0) +
      (if k.isSend then 2 ^ 62 else 0) + 2 ^ 63) 8 ++ leBytes k.payload.toNat 8 ++ leBytes k.status.toNat 8

/-- A fragment entry (R411). -/
def sectFrag (saved : Nat → Nat) (cycle w : Nat) (f : Fragment) : List Byte :=
  let (st, ham, arg) := stateCode saved f.st
  let reg (k : Nat) : SReg := cellGet {} k f.s
  leBytes f.members.toNat 4 ++ leBytes f.exec.toNat 4 ++ leBytes f.mode.toNat 4 ++ leBytes w 1 ++ leBytes st 1 ++
    leBytes (min 255 (f.stallUntil - cycle)) 1 ++ leBytes ham 1 ++ leBytes f.pc.toNat 8 ++ leBytes arg 8 ++
    keptBytes f.kept ++ zeros 8 ++ (laneList.flatMap fun k => leBytes (reg k).val.toNat 8) ++
    (laneList.flatMap fun k => leBytes (reg k).tag.toNat 1) ++ zeros 32

/-- The resident stack indices of a thread, ascending: the first D of them, where a window of D registers off a granule's edge
reaches into one granule more (log entry 86). -/
def residentIndices (h : Header) (w : Wave) (l : Nat) : List Nat :=
  ((sortBy (· ≤ ·) (w.residents h l)).flatMap fun g => (List.range 8).map (8 * g + ·)).take h.depth

/-- The values of a wave's window registers that the image's stacks have no place for, and that no spill area holds. -/
def unplacedCells (h : Header) (w : Wave) : Cells VReg :=
  let placed := laneList.map fun l => residentIndices h w l
  w.regs.filter fun e =>
    let l := e.1 % 32
    let n := e.1 / 32
    !(placed.getD l []).contains n && !(cellGet 0 (n / 8) w.spilled).getLsbD l

/-- Section 3 for one wave: every lane's values, then its tags. -/
def sectStack (b : Block) (w : Nat) : List Byte :=
  match b.wave? w with
  | none => zeros (32 * 5 * b.hdr.depth)
  | some x =>
    laneList.flatMap fun l =>
      let cells := (residentIndices b.hdr x l).map fun n => cellGet ({} : VReg) (n * 32 + l) x.regs
      padTo (4 * b.hdr.depth) (cells.flatMap fun c => leBytes c.val.toNat 4) ++
        padTo b.hdr.depth (cells.flatMap fun c => leBytes c.tag.toNat 1)

/-- Section 5 for one binding. -/
def sectFifo (k : Core) (f : Fifo) : List Byte :=
  readBytes k.sram (f.bank * 65536) 65536 ++ leBytes f.rp 8 ++ leBytes f.cp 8 ++ leBytes f.lp 8 ++ leBytes f.fp 8

/-- Section 6 for one row. -/
def sectAcc (k : Core) (b : Block) (r : Nat) : List Byte :=
  let cells := (List.range 64).map fun c => cellGet ({} : VReg) ((b.accBase + r) * 64 + c) k.acc
  (cells.flatMap fun c => leBytes c.val.toNat 4) ++ cells.flatMap fun c => leBytes c.tag.toNat 1

/-- Section 7 for one entry: a scratchpad hull as offsets, a FIFO hull as its logical number (R292). -/
def sectSb (b : Block) (e : SbEntry) : List Byte :=
  let role := match e.fifo with | none => 0 | some true => 1 | some false => 2
  let bank := ((b.fifos.find? fun f => f.bank * 2048 == e.lo).map (·.desc.bank)).getD 0
  let (lo, hi) := if e.fifo.isSome then (bank, bank) else (e.lo * 32 - b.pbase, e.hi * 32 - 1 - b.pbase)
  padTo 32 (leBytes e.slot 1 ++ leBytes e.role 1 ++ leBytes (if e.write then 1 else 0) 1 ++ leBytes role 1 ++ zeros 4 ++
    leBytes lo 8 ++ leBytes hi 8)

/-- The digits of a number in a mixed radix, the fastest first; the last digit takes what remains. -/
def mixedDigits : List Nat → Nat → List Nat
  | [], n => [n]
  | e :: r, n => if e = 0 then 0 :: mixedDigits r 0 else n % e :: mixedDigits r (n / e)

/-- The index vector of a Mangle operation's next element (R233, R237): its indices in the element order, fastest first. -/
def indexVector (o : Op) : List Nat :=
  match o.form with
  | .copy | .quant => mixedDigits ([recExt0 o.da, recExt1 o.da, recExt2 o.da] ++ o.xdims.map (·.extent)) o.progress
  | .gather | .scat => mixedDigits [gatherLen o.param] o.progress
  | _ => []

/-- Section 8 for one slot. -/
def sectOp (b : Block) (slot : Nat) : List Byte :=
  match b.ops.find? fun o => o.slot == slot with
  | none => zeros 192
  | some o =>
    let st := match o.st with | .queued => 0 | .running => 1 | .stalled => 2 | .done => 3
    let ph := match o.phase with | .staging => 1 | .exchange => 2 | .writing => 3
    padTo 192 (leBytes (opId o.form o.slot o.seq).toNat 8 ++ leBytes st 1 ++ leBytes o.status 1 ++ zeros 2 ++
      leBytes o.progress 4 ++ leBytes o.param.toNat 8 ++ leBytes o.mode.toNat 4 ++ zeros 4 ++ leBytes o.da.toNat 32 ++
      leBytes o.dw.toNat 32 ++ leBytes o.irec.toNat 32 ++ leBytes ph 1 ++ zeros 7 ++
      ((indexVector o).take 14).flatMap fun n => leBytes n 4)

/-- Section 10 for one entry: an entry in service is QUEUED again. -/
def sectHamper (e : HamperEntry) : List Byte :=
  leBytes (if e.st = .hw then 1 else 2) 1 ++ leBytes e.block 1 ++ leBytes e.wave 1 ++ leBytes e.code 1 ++
    leBytes e.mask.toNat 4 ++ leBytes e.active.toNat 4 ++ leBytes e.access 1 ++ zeros 1 ++ leBytes e.age 2 ++
    leBytes e.info.toNat 8 ++ leBytes e.pc.toNat 8

/-- The Hamper entries of a block, by age. -/
def blockEntries (k : Core) (h : Nat) : List HamperEntry :=
  sortBy (fun x y => x.age ≤ y.age) (k.hamper.filter fun e => e.block == h)

/-- The scoreboard entries of a block, in sequence order. -/
def blockSb (k : Core) (h : Nat) : List SbEntry := sortBy (fun x y => x.seq ≤ y.seq) (k.sb.filter fun e => e.block == h)

/-- The store-fault records of a block. -/
def blockRecords (k : Core) (h : Nat) : List StoreRecord := k.records.filter fun r => r.block == h

/-- The twelve sections of a block's image. -/
def sections (s : State) (c h : Nat) (b : Block) : List (List Byte) :=
  let k := coreOf s c
  let entries := blockEntries k h
  let saved (i : Nat) : Nat := (entries.findIdx? fun e => e.idx == i).getD 0
  [sectBlock b,
   (waveSlots b.hdr).flatMap (sectWave b),
   (savedFrags b).flatMap fun e => sectFrag saved s.cycle e.1 e.2,
   (waveSlots b.hdr).flatMap (sectStack b),
   readBytes k.sram b.pbase b.hdr.scratch,
   b.fifos.flatMap (sectFifo k)] ++
  [(List.range b.hdr.accRows).flatMap (sectAcc k b),
   (blockSb k h).flatMap (sectSb b),
   (List.range 28).flatMap (sectOp b),
   (List.range b.hdr.ports).flatMap fun p => portBytes (b.port p),
   entries.flatMap sectHamper,
   (blockRecords k h).flatMap recordBytes]

/-- The header of an image with its DIGEST field (R409). -/
def imageHeader (s : State) (c h : Nat) (b : Block) (bytes : Nat) (offs : List Nat) (digest : List Byte) : List Byte :=
  let k := coreOf s c
  leBytes 0x47534B42 4 ++ leBytes 1 2 ++
    leBytes ((if b.hdr.coresident then 1 else 0) + (if b.hdr.resilient then 2 else 0)) 2 ++ leBytes bytes 4 ++
    leBytes b.asid 2 ++ leBytes (b.hdr.waves + b.hdr.handlers) 1 ++ zeros 1 ++ leBytes b.launch 8 ++ leBytes b.lin 4 ++
    leBytes (blockSb k h).length 1 ++ leBytes (blockEntries k h).length 1 ++ leBytes (blockRecords k h).length 1 ++ zeros 1 ++
    (offs.flatMap fun x => leBytes x 4) ++ leBytes (savedFrags b).length 2 ++ zeros 46 ++ padTo 128 b.hdr.raw ++ digest ++
    zeros 64

/-- THE IMAGE of a block (R409 to R411). -/
def imageBytes (s : State) (c h : Nat) (b : Block) : List Byte :=
  let sects := sections s c h b
  let (offs, size) := sectOffsets 384 (sects.map List.length)
  let body := sects.flatMap fun x => padTo (up64 x.length) x
  let digest := imageDigest (imageHeader s c h b size offs (zeros 64) ++ body)
  imageHeader s c h b size offs digest ++ body

/-- What Dibor and the model keep of a block that is out, beside its bytes. -/
def imageRecord (s : State) (c h : Nat) (b : Block) (pa bytes : Nat) : Image :=
  let k := coreOf s c
  { pa := pa, asid := b.asid, launch := b.launch, lin := b.lin, bytes := bytes, spillSlot := b.spillSlot, home := b.home
    frags := (savedFrags b).map fun e => (e.2.st, e.2.kept)
    late := b.late
    fragLoads := (savedFrags b).map fun e => e.2.loads
    rest := b.waves.map fun w => (w.idx, unplacedCells b.hdr w)
    residency := b.waves.map fun w => (w.idx, w.residency, w.spilled)
    ops := b.ops, opFree := b.opFree
    latchSlots := b.latched.elim {} (·.slots)
    stores := (blockRecords k h).map (·.op)
    events := k.darner.events.filter fun e =>
      match e with
      | .overflow x _ _ _ _ => x == h
      | _ => false
    pairings := b.pairings
    fences := b.waves.map fun w => (w.idx, w.fenceStores, w.fenceLoads)
    barBounds := b.barBounds
    sets := b.sets
    popped := k.popped.filter fun r => r.block == h
    ckpt := b.ckpt }

/-! ### Poison in an image (R423) -/

/-- Where the bytes of the block's SRAM stand in an image: the physical byte of core SRAM, the place in the image, and the
number of bytes. -/
def sramSpans (b : Block) (offs : List Nat) : List (Nat × Nat × Nat) :=
  (b.pbase, offs.getD 4 0, b.hdr.scratch) ::
    b.fifos.zipIdx.map fun x => (x.1.bank * 65536, offs.getD 5 0 + 65568 * x.2, 65536)

/-- Poison that is added to what is there. -/
def addPoison (l units : List Nat) : List Nat := l ++ units.filter fun k => !l.contains k

/-- WRITES the image of a block at an address. The poison of its SRAM travels to the sectors of memory that hold the words. -/
def writeImage (s : State) (core h pa : Nat) (b : Block) : State × Image :=
  let l := imageBytes s core h b
  let offs := (List.range 12).map fun k => bytesNat l (0x20 + 4 * k) 4
  let bad := (sramSpans b offs).flatMap fun x =>
    ((coreOf s core).sramPoison.filter fun w => rangesMeet (4 * w) 4 x.1 x.2.2).map fun w => (pa + x.2.1 + (4 * w - x.1)) / 32
  let s' := memWrite (retireRange s pa l.length) pa l
  ({ s' with poison := addPoison s'.poison bad.eraseDups }, imageRecord s core h b pa l.length)

/-- The places in an image, in steps of 32 bytes, that memory holds poisoned. -/
def imagePoison (s : State) (pa n : Nat) : List Nat :=
  (s.poison.filter fun k => rangesMeet pa n (32 * k) 32).map fun k => 32 * k - pa

/-- Whether an image's poison lies in the bytes of the block's SRAM alone, which carry it back; elsewhere the image cannot be
read. -/
def poisonCarried (offs : List Nat) (h : Header) (poison : List Nat) : Bool :=
  poison.all fun o =>
    (offs.getD 4 0 ≤ o && o < offs.getD 4 0 + h.scratch) ||
      (offs.getD 5 0 ≤ o && o < offs.getD 5 0 + 65568 * h.fifos.length && (o - offs.getD 5 0) % 65568 < 65536)

/-! ### Reading an image back -/

/-- The fields of an image's header. -/
structure ImageHead where
  bytes : Nat
  asid : Nat
  launch : Nat
  lin : Nat
  nsb : Nat
  nham : Nat
  nsfr : Nat
  nfrag : Nat
  offs : List Nat

/-- Reads the header of an image's bytes. -/
def imageHead (l : List Byte) : ImageHead :=
  { bytes := bytesNat l 8 4, asid := bytesNat l 0xC 2, launch := bytesNat l 0x10 8, lin := bytesNat l 0x18 4
    nsb := bytesNat l 0x1C 1, nham := bytesNat l 0x1D 1, nsfr := bytesNat l 0x1E 1, nfrag := bytesNat l 0x50 2
    offs := (List.range 12).map fun k => bytesNat l (0x20 + 4 * k) 4 }

/-- Whether the KEPT and KEPTREPLY of a fragment entry have their reserved bits zero, and are all zero with no request kept
(R411). -/
def keptOk (l : List Byte) (o : Nat) : Bool :=
  let k := bytesNat l o 8
  k / 2 ^ 32 % 2 ^ 28 == 0 && (k / 2 ^ 63 == 1 || (k == 0 && bytesNat l (o + 8) 16 == 0))

/-- A launch with the resources of an image's HEADER (R412); its entry point and tables are the launch's. -/
def imageLaunch (l : List Byte) (la : Launch) : Launch :=
  { la with hdr := headerResources ((l.drop 0x80).take 128) la.hdr }

/-- Whether an image passes its check for a context (R412): its header, its size, its digest, its launch and its reserved
fields. -/
def imageOk (s : State) (asid : Nat) (l : List Byte) : Bool :=
  let x := imageHead l
  match launchOf s x.launch with
  | none => false
  | some la =>
    let h := (imageLaunch l la).hdr
    let (offs, size) := sectOffsets 384 (sectSizes h x.nfrag x.nsb x.nham x.nsfr)
    let zero (o n : Nat) := bytesNat l o n == 0
    bytesNat l 0 4 == 0x47534B42 && bytesNat l 4 2 == 1 && bytesNat l 6 2 < 4 && x.bytes == size && l.length == size &&
      x.offs == offs && x.asid == asid && la.asid == asid && x.lin < gridBlocks la.grid && bytesNat l 0xE 1 == h.waves + h.handlers &&
      headerClean ((l.drop 0x80).take 128) && zero 0xF 1 && zero 0x1F 1 && zero 0x52 46 && zero 0x140 64 &&
      ((List.range (h.waves + h.handlers)).all fun w =>
        let o := offs.getD 1 0 + 128 * w
        zero (o + 3) 1 && zero (o + 0x10) 16 && laneList.all fun j => bytesNat l (o + 0x60 + j) 1 < 128) &&
      zero (384 + 1085) 67 &&
      ((List.range x.nfrag).all fun k =>
        let o := offs.getD 2 0 + 384 * k
        zero (o + 0x38) 8 && zero (o + 0x160) 32 && keptOk l (o + 0x20)) &&
      ((List.range x.nsfr).all fun k =>
        let o := offs.getD 11 0 + 576 * k
        zero (o + 0x13) 13 && bytesNat l (o + 0xB) 1 < 64) &&
      imageDigest l == (l.drop 0x100).take 64

/-- Section k of an image. -/
def sectOf (l : List Byte) (k : Nat) : List Byte := l.drop ((imageHead l).offs.getD k 0)

/-- A wave read back, without its stacks and fragments. -/
def readWave (h : Header) (l : List Byte) (quadrant w : Nat) : Wave :=
  let e := (sectOf l 1).drop (128 * w)
  let sig := bytesNat e 1 1
  { idx := w, quadrant := quadrant, handler := decide (h.waves ≤ w)
    st := match bytesNat e 0 1 with | 0 => .running | 1 => .dormant | _ => .ended
    preds := cellSetAll 0 ((List.range 7).map fun k =>
      (k, lanesWhere (BitVec.allOnes 32) fun l => bytesNat e (0x60 + l) 1 / 2 ^ k % 2 == 1)) []
    wb := cellSetAll 0 (laneList.map fun l => (l, bytesNat e (0x20 + 2 * l) 2)) []
    sigpend := if sig = 0xFF then none else some (sig, BitVec.ofNat 64 (bytesNat e 8 8))
    depth := bytesNat e 2 1 }

/-- An operation read back (R410): what the image holds of it, over what the model keeps beside. -/
def readOp (l : List Byte) (o : Op) : Op :=
  let e := (sectOf l 8).drop (192 * o.slot)
  if BitVec.ofNat 64 (bytesNat e 0 8) != opId o.form o.slot o.seq then o
  else
    { o with
      st := match bytesNat e 8 1 with | 0 => .queued | 1 => .running | 2 => .stalled | _ => .done
      status := bytesNat e 9 1, progress := bytesNat e 12 4
      param := BitVec.ofNat 64 (bytesNat e 16 8), mode := BitVec.ofNat 32 (bytesNat e 24 4)
      da := BitVec.ofNat 256 (bytesNat e 32 32), dw := BitVec.ofNat 256 (bytesNat e 64 32)
      irec := BitVec.ofNat 256 (bytesNat e 96 32)
      phase := match bytesNat e 128 1 with | 1 => .staging | 2 => .exchange | _ => .writing }

/-- A wave's stacks read back: the resident indices of every lane, over what the model keeps beside. -/
def readStack (h : Header) (l : List Byte) (rest : Cells VReg) (w : Wave) : Wave :=
  let e := (sectOf l 3).drop (32 * 5 * h.depth * w.idx)
  { w with regs := cellSetAll {} (laneList.flatMap fun lane =>
      let o := 5 * h.depth * lane
      (residentIndices h w lane).zipIdx.map fun e' =>
        (e'.1 * 32 + lane,
         (⟨BitVec.ofNat 32 (bytesNat e (o + 4 * e'.2) 4), BitVec.ofNat 6 (bytesNat e (o + 4 * h.depth + e'.2) 1)⟩ : VReg))) rest }

/-- The wait that a restored fragment enters (R272, R408), by the STATE and WAITARG of its entry. R411 has one value for every
WAIT_EVENT and one for BAR and SBAR, and no place for the bytes of a WSYNC: there `aux`, what the model keeps beside the image,
tells them apart. A reply and a pattern are waited for again; at every other event the instruction is issued anew. -/
def restoredState (st arg entry : Nat) (aux : Option FragState) : FragState :=
  match st, aux with
  | 1, _ => .waitRcv
  | 2, _ => .waitColl
  | 3, some (.waitSync _ n) => .waitSync (BitVec.ofNat 32 arg) n
  | 3, _ => .waitSync (BitVec.ofNat 32 arg) 4
  | 4, some .waitSbar => .waitSbar
  | 4, _ => .waitBar
  | 5, some (.waitEvent (.svcReply _)) => .waitEvent (.svcReply arg)
  | 5, some (.waitEvent (.jwait _)) => .waitEvent (.jwait arg)
  | 6, _ => .parked entry
  | _, _ => .run

/-- A kept request read back (R411): `aux` gives its number in full, and where its signal handler stands. -/
def readKept (e : List Byte) (pc : BitVec 64) (aux : Option Kept) : Option Kept :=
  let word := bytesNat e 0x20 8
  if word / 2 ^ 63 = 0 then none
  else
    let bare : Kept := { isSend := word / 2 ^ 62 % 2 == 1, pc := pc, ident := word % 2 ^ 32 }
    let k := match aux with | some x => (if x.ident % 2 ^ 32 = word % 2 ^ 32 then x else bare) | none => bare
    some { k with isSend := word / 2 ^ 62 % 2 == 1, held := word / 2 ^ 61 % 2 == 1, full := word / 2 ^ 60 % 2 == 1,
                  payload := BitVec.ofNat 64 (bytesNat e 0x28 8), status := BitVec.ofNat 64 (bytesNat e 0x30 8) }

/-- Fragment k read back with its wave's index. `aux` is what the model keeps beside the image of its wait and kept request;
`entry` gives the new number of a saved Hamper entry. A fragment that waits at a port pattern waits since
the restore (DESIGN CHOICE, log entry 126: the image keeps no order of the waiting). -/
def readFrag (s : State) (l : List Byte) (aux : Option (FragState × Option Kept)) (entry : Nat → Nat) (k : Nat) :
    Nat × Fragment :=
  let e := (sectOf l 2).drop (384 * k)
  let st := restoredState (bytesNat e 0xD 1) (bytesNat e 0x18 8) (entry (bytesNat e 0xF 1)) (aux.map (·.1))
  let event := match st with | .waitEvent (.svcReply _) => true | _ => false
  let pc := BitVec.ofNat 64 (bytesNat e 0x10 8)
  (bytesNat e 0xC 1,
   { id := k, members := BitVec.ofNat 32 (bytesNat e 0 4), exec := BitVec.ofNat 32 (bytesNat e 4 4)
     mode := BitVec.ofNat 32 (bytesNat e 8 4), pc := pc
     s := cellSetAll {} (laneList.map fun j =>
       (j, (⟨BitVec.ofNat 64 (bytesNat e (0x40 + 8 * j) 8), BitVec.ofNat 6 (bytesNat e (0x140 + j) 1)⟩ : SReg))) []
     st := st, stallUntil := s.cycle + bytesNat e 0xE 1, kept := readKept e pc (aux.bind (·.2))
     waitSince := if event then s.timebase else s.cycle })

/-- A binding read back, by its place among the descriptors. -/
def readFifo (l : List Byte) (f : Fifo) (j : Nat) : Fifo :=
  let e := (sectOf l 5).drop (65568 * j + 65536)
  { f with rp := bytesNat e 0 8, cp := bytesNat e 8 8, lp := bytesNat e 16 8, fp := bytesNat e 24 8 }

/-- A scoreboard entry read back for a block's new places (R292). -/
def readSb (l : List Byte) (b : Block) (handle seq k : Nat) : SbEntry :=
  let e := (sectOf l 7).drop (32 * k)
  let role := bytesNat e 3 1
  let lo := bytesNat e 8 8
  let (a, z) :=
    if role = 0 then ((b.pbase + lo) / 32, (b.pbase + bytesNat e 16 8) / 32 + 1)
    else
      let bank := ((b.fifo? lo).map (·.bank)).getD 0
      (bank * 2048, bank * 2048 + 2048)
  { block := handle, slot := bytesNat e 0 1, role := bytesNat e 1 1, lo := a, hi := z, write := bytesNat e 2 1 == 1,
    fifo := if role = 0 then none else some (role == 1), reserved := decide (k < 2), seq := seq, made := 0 }

/-- A store-fault record read back; `aux` is the store behind it, where the model holds it. -/
def readRecord (l : List Byte) (handle k : Nat) (aux : Option StoreOp) : StoreRecord :=
  let e := (sectOf l 11).drop (576 * k)
  let size := bytesNat e 10 1
  let op : StoreOp := aux.getD
    { ident := 0, pc := BitVec.ofNat 64 (bytesNat e 0 8), kind := bytesNat e 9 1, size := size,
      fmt := if size = 8 then tyU64 else tyU32, ord := bytesNat e 11 1 / 2 % 4, scope := bytesNat e 11 1 / 8 % 8,
      lanes := (lanesOf (BitVec.ofNat 32 (bytesNat e 12 4))).map fun j =>
        { lane := j, va := BitVec.ofNat 64 (bytesNat e (0x20 + 8 * j) 8),
          data := BitVec.ofNat 64 (bytesNat e (0x120 + 8 * j) 8), tag := BitVec.ofNat 6 (bytesNat e (0x220 + j) 1),
          tagVa := none } }
  { block := handle, wave := bytesNat e 0x12 1, code := bytesNat e 8 1, op := op }

end Sys2Proof.Machine
end

