-- ==== Sys2Proof/Machine/Restore.lean ====
section
/-! DEFINITION. Bringing a block back from its image (R412, R272). -/

namespace Sys2Proof.Machine

/-! ### Replies to a block (R401, R408) -/

/-- An SVC's reply reaches the fragment of a wave that waits for it or keeps it; whether one took it. -/
def replyToBlock (s : State) (core h tag : Nat) (payload info : BitVec 64) : State × Bool :=
  match blockOf s core h with
  | none => (s, false)
  | some b =>
    let hit := b.waves.findSome? fun w =>
      (w.frags.find? fun f => f.st == .waitEvent (.svcReply tag) || f.keeps false tag).map fun f =>
        ((⟨h, w.idx, f.id⟩ : FragRef), f)
    match hit with
    | none => (s, false)
    | some (r, f) =>
      if f.st == .waitEvent (.svcReply tag) then (modFrag s core r fun f => takeReply f payload info, true)
      else
        (modFrag s core r fun f =>
          { f with kept := f.kept.map fun k => { k with held := true, payload := payload, status := info } }, true)

/-! ### Restoring a block -/

/-- What a saved Hamper entry holds, without its places on the core. -/
structure SavedEntry where
  hw : Bool
  wave : Nat
  code : Nat
  mask : Lanes
  active : Lanes
  access : Nat
  info : BitVec 64
  pc : BitVec 64

/-- Saved Hamper entry k (R410). -/
def readEntry (l : List Byte) (k : Nat) : SavedEntry :=
  let e := (sectOf l 10).drop (32 * k)
  { hw := bytesNat e 0 1 == 1, wave := bytesNat e 2 1, code := bytesNat e 3 1, mask := BitVec.ofNat 32 (bytesNat e 4 4)
    active := BitVec.ofNat 32 (bytesNat e 8 4), access := bytesNat e 12 1, info := BitVec.ofNat 64 (bytesNat e 16 8)
    pc := BitVec.ofNat 64 (bytesNat e 24 8) }

/-- The saved entries come back in their order, with the fragments that they hold; and their new numbers. -/
def restoreEntries (k : Core) (l : List Byte) (h : Nat) (frag : Nat → Nat) (i : Nat) (got : List Nat) : Nat → Core × List Nat
  | 0 => (k, got)
  | n + 1 =>
    let e := readEntry l i
    match hamperSlot k h e.wave with
    | none => restoreEntries k l h frag (i + 1) (got ++ [0]) n
    | some (idx, reserved) =>
      let x : HamperEntry := ⟨idx, if e.hw then .hw else .queued, h, e.wave, frag i, e.code, e.mask, e.active, e.info, e.access,
        e.pc, k.nextAge, reserved⟩
      restoreEntries { k with hamper := k.hamper ++ [x], nextAge := k.nextAge + 1 } l h frag (i + 1) (got ++ [idx]) n

/-- An HW entry walks again (R343, R408): the access may now be served, its kind of fault may have changed, or the page is
asked for. -/
def rewalkEntry (s : State) (core asid launch : Nat) (e : HamperEntry) : State :=
  match translate s core asid e.info e.access 0x9000 with
  | (s, .ok _) => replayEntry s core e
  | (s, .bad code) =>
    if code = 0x09 then
      modCore s core fun k => { k with hamper := k.hamper.map fun (x : HamperEntry) =>
        if x.idx = e.idx then { x with code := 0x09, st := .queued } else x }
    else joinPageRequest s asid (e.info.toNat / 4096) e.access [(core, e.idx)] [] launch (core * 128 + e.idx)

/-- The waves of an image for a spot, stacks and fragments in place. -/
def restoreWaves (s : State) (l : List Byte) (la : Launch) (p : Spot) (aux : Option Image) (entry : Nat → Nat) : List Wave :=
  let h := la.hdr
  let frags := (List.range (imageHead l).nfrag).map fun k =>
    let f := readFrag s l (aux.bind fun x => x.frags[k]?) entry k
    (f.1, { f.2 with loads := aux.elim [] fun x => x.fragLoads.getD k [] })
  ((waveSlots h).filter fun w => h.waves ≤ w || w < formedWaves la.bdim).map fun w =>
    let x : Wave := readWave h l (placedQuadrant p.quadrant w) w
    let res := aux.bind fun a => a.residency.find? fun e => e.1 == w
    let x : Wave := { x with residency := res.elim [] (·.2.1), spilled := res.elim [] (·.2.2) }
    let x : Wave := if x.st = .ended then x
      else readStack h l ((aux.bind fun a => a.rest.find? fun e => e.1 == w).elim [] (·.2)) x
    let fence := aux.bind fun a => a.fences.find? fun e => e.1 == w
    { x with frags := (frags.filter fun f => f.1 == w).map (·.2), nextFrag := frags.length
             fenceStores := fence.any (·.2.1), fenceLoads := fence.any (·.2.2) }

/-- The block of an image for a spot, but for its waves (R412). -/
def restoredBlock (s : State) (l : List Byte) (la : Launch) (p : Spot) (aux : Option Image) : Block :=
  let e := sectOf l 0
  let b := newBlock la (imageHead l).lin p [] none s.timebase
  let iron := bytesNat e 1024 1
  let spill := bytesNat e 1081 4
  let latched := bytesNat e 1040 1 == 1
  { b with
    recs := cellSetAll 0 ((List.range 32).map fun k => (k, BitVec.ofNat 256 (bytesNat e (32 * k) 32))) []
    iron := if iron = 0xFF then none else some iron
    rotate := bytesNat e 1025 1
    patterns := b.patterns.zipIdx.map fun x => { x.1 with enabled := bytesNat e 1026 2 / 2 ^ x.2 % 2 == 1 }
    sets := b.sets.zipIdx.map fun x =>
      let n := bytesNat e 1028 8 / 2 ^ (16 + 12 * x.2) % 4096
      match aux.bind fun a => a.sets.find? fun y => y.num == x.1.num with
      | some y => { x.1 with sbars := if y.sbars % 4096 = n then y.sbars else n, bounds := y.bounds, last := y.last
                             commits := y.commits }
      | none => { x.1 with sbars := n }
    barBounds := aux.elim [] (·.barBounds)
    home := aux.elim b.home (·.home)
    opSeq := bytesNat e 1036 4
    latched := if latched then
        some ⟨BitVec.ofNat 256 (bytesNat e 1041 32), BitVec.ofNat 64 (bytesNat e 1073 8), [], aux.elim {} (·.latchSlots), false⟩
      else none
    spillSlot := if spill = 0xFFFFFFFF then none else some spill
    fifos := b.fifos.zipIdx.map fun x => readFifo l x.1 x.2
    ports := (List.range la.hdr.ports).foldl (fun m q => cellSet {} q (portOf ((sectOf l 9).drop (144 * q))) m) []
    late := aux.elim [] (·.late)
    ops := aux.elim [] fun a => a.ops.map (readOp l), opFree := aux.elim (List.range 28) (·.opFree)
    pairings := aux.elim [] (·.pairings)
    ckpt := { aux.elim { lastCommit := s.timebase } (·.ckpt) with held := [], effects := [] }
    waves := [] }

/-- The bytes of the block's SRAM and accumulator rows come back (R412), poison included: that of an image is a sector's,
and every word of the sector takes it (R423). -/
def restoreMemory (k : Core) (l : List Byte) (b : Block) (poison : List Nat) : Core :=
  let k := (sramSpans b (imageHead l).offs).foldl (fun (k : Core) x =>
    let bad := (poison.filter fun o => x.2.1 ≤ o && o < x.2.1 + x.2.2).flatMap fun o =>
      (List.range 8).map fun j => (x.1 + (o - x.2.1)) / 4 + j
    { k with
      sram := writeBytes k.sram x.1 ((l.drop x.2.1).take x.2.2)
      sramPoison := addPoison (clearPoison 4 k.sramPoison x.1 x.2.2) (bad.filter fun w => 4 * w < x.1 + x.2.2) }) k
  { k with acc := (List.range b.hdr.accRows).foldl (fun m r =>
      let e := (sectOf l 6).drop (320 * r)
      cellSetAll {} ((List.range 64).map fun c =>
        ((b.accBase + r) * 64 + c,
         (⟨BitVec.ofNat 32 (bytesNat e (4 * c) 4), BitVec.ofNat 6 (bytesNat e (256 + c) 1)⟩ : VReg))) m) k.acc }

/-- What reached a block after the checkpoint that it is restored from (R431): messages, drops and replies, in this order. A
message without a free slot awaits one. -/
def applyRecorded (s : State) (core h : Nat) (x : Image) : State :=
  let s := modBlock s core h fun b => { b with late := b.late ++ x.posts }.redeliver s.cycle
  let s := x.dropped.foldl (fun s p => dropAtPort s core h p) s
  x.replies.foldl (fun s e => (replyToBlock s core h e.1 e.2.1 e.2.2).1) s

/-- A pending signal is delivered before any issue, unless every live lane of its wave is parked (R412, R248). -/
def deliverRestored (s : State) (core h : Nat) : State :=
  match blockOf s core h with
  | none => s
  | some b => (b.waves.map (·.idx)).foldl (fun s w => deliverPending s core h w) s

/-- RESTORE of an image at a spot of a core (R412, R272), in the order that the rule gives. -/
def restoreBlock (s : State) (core : Nat) (p : Spot) (la : Launch) (l : List Byte) (aux : Option Image) : State :=
  let la := imageLaunch l la
  let x := imageHead l
  let h := p.handle
  let b := restoredBlock s l la p aux
  let s := modCore (leaveL1 s core p.sram.cfg) core fun k =>
    let k := restoreMemory (takeBlock k p b) l b (aux.elim [] fun a => imagePoison s a.pa l.length)
    { k with sb := k.sb ++ (List.range x.nsb).map fun j => readSb l b h (k.sbSeq + j) j, sbSeq := k.sbSeq + x.nsb
             popped := k.popped ++ aux.elim [] fun a => a.popped.map fun r => { r with block := h } }
  -- the block's waves hold its reserved entries, so they stand before the entries come back
  let s := modBlock s core h fun b => { b with waves := restoreWaves s l la p aux fun _ => 0 }
  let holder (i : Nat) : Nat :=
    ((List.range x.nfrag).find? fun k =>
      let e := (sectOf l 2).drop (384 * k)
      bytesNat e 0xD 1 == 6 && bytesNat e 0xF 1 == i).getD 0
  let (k, got) := restoreEntries (coreOf s core) l h holder 0 [] x.nham
  let s := modCore s core fun _ => k
  let s := modBlock s core h fun b => { b with waves := restoreWaves s l la p aux fun i => got.getD i 0 }
  let s := (List.range x.nsfr).foldl (fun s j =>
    let r := readRecord l h j (aux.bind fun a => a.stores[j]?)
    notifyDarner (modCore s core fun k => { k with records := k.records ++ [r] }) core (.storeFault h r.wave)) s
  let s := aux.elim s fun a => a.events.foldl (fun s e =>
    match e with
    | .overflow _ w q d t => notifyDarner s core (.overflow h w q d t)
    | _ => s) s
  let s := aux.elim s (applyRecorded s core h)
  let s := ((coreOf s core).hamper.filter fun e => e.block == h && e.st == .hw).foldl (fun s e =>
    rewalkEntry s core la.asid la.ident e) s
  deliverRestored s core h

/-- Whether a core's freed resources are held for a queue of its group whose block has long found no room (R375). -/
def coreReserved (s : State) (core : Nat) : Bool :=
  s.groups.any fun g => g.2.reserved.isSome && g.1 ≤ partitionOf core && partitionOf core < g.1 + 2 ^ g.2.log2

/-- Where an image finds room on a core now: none while the core's resources are held for another block. -/
def imageFits (s : State) (core : Nat) (la : Launch) (l : List Byte) (need : Saved) : Option Spot :=
  if coreReserved s core then none else fitsCore (coreOf s core) (imageLaunch l la).hdr la.bdim need

/-- What an image needs beside its header's resources. -/
def imageNeeds (l : List Byte) : Saved :=
  let x := imageHead l
  { hamper := x.nham, records := x.nsfr, sb := x.nsb }

end Sys2Proof.Machine
end

