-- ==== Sys2Proof/Machine/Checkpoints.lean ====
section
/-! DEFINITION. The checkpoints of resilient blocks: interval, commit and rollback (R429 to R431). -/

namespace Sys2Proof.Machine

/-! ### Commit (R429, R430) -/

/-- Held bytes as runs of consecutive addresses. -/
def heldRuns : List (Nat × Option Byte) → List (Nat × List Byte)
  | [] => []
  | (a, v) :: r =>
    match heldRuns r with
    | (b, l) :: t => if b = a + 1 then (a, v.getD 0 :: l) :: t else (a, [v.getD 0]) :: (b, l) :: t
    | [] => [(a, [v.getD 0])]

/-- Bytes of a block that were held enter memory: exact sums bound to them are retired first (R199). Poison goes with the writes
that cover it (R423), not with what they add up to. -/
def commitBytes (s : State) (pa : Nat) (bs : List Byte) : State :=
  let s := retireRange s pa bs.length
  { s with mem := writeBytes s.mem pa bs }

/-- The block's held stores are released, and the poison of the sectors that one of them covers entirely is gone (R423). -/
def releaseHeld (s : State) (core h : Nat) (k : Checkpoint) : State :=
  let s := modBlock s core h fun b => { b with ckpt := { b.ckpt with held := [], cleared := [] } }
  let s := (heldRuns (k.held.filter fun e => paRegion e.1 == 0)).foldl (fun s e => commitBytes s e.1 e.2) s
  { s with poison := s.poison.filter fun u => !k.cleared.contains u }

/-- A device service that was held is served with the commit, so that a rollback finds its reply in the image and does not ask for
it again (R402, R430); supervisor code of the Darner serves it as its next such event. -/
def releaseService (s : State) (core : Nat) (r : FragRef) (k : Nat) : State :=
  let s := modFrag s core r fun f => { f with st := .waitEvent (.service k), waitSince := s.timebase }
  if (coreOf s core).darner.routines then serveService s core r k else notifyDarner s core (.service r k)

/-- One held effect is released (R430). An SVC whose channel is full goes back to waiting for it. -/
def releaseEffect (s : State) (core h : Nat) : HeldEffect → State
  | .message n => modNet s n fun m => { m with held := false }
  | .store _ pa bs => physWrite (retireRange s pa bs.length) none pa bs
  | .sum _ pa size t bits =>
    match blockOf s core h with
    | none => s
    | some b => addToSum s pa size (partitionOf core) b.asid b.launch t bits
  | .contribution x => putContribution s x
  | .endContribution gid pairing =>
    match blockOf s core h with
    | none => s
    | some b => takeContribution s b.asid gid pairing b.launch b.lin
  | .svc r k =>
    match placeCtx s core r with
    | none => s
    | some c =>
      if c.frag.st != .waitEvent .svcHeld then s
      else if 0x3F80 ≤ k then releaseService s core r k
      else
        match svcRequest s core c.blk c.wave.idx c.frag k with
        | .full => modFrag s core r fun f => { f with st := .waitEvent .svcSpace }
        | .fault code info access walk => svcFault c code info access walk s
        | .done s tag => modFrag s core r fun f => { f with st := .waitEvent (.svcReply tag), waitSince := s.timebase }

/-- Held effects are released in program order (R430). -/
def releaseEffects (s : State) (core h : Nat) (l : List HeldEffect) : State :=
  l.foldl (fun s e => releaseEffect s core h e) s

/-- What Dibor keeps of a resilient block's current slot. -/
def putCheckpoint (s : State) (x : Image) : State :=
  { s with checkpoints := (s.checkpoints.filter fun y => !(y.launch == x.launch && y.lin == x.lin)) ++ [x] }

/-- COMMIT of a quiet block's checkpoint: its held stores and effects are released, the image is written into the slot that
is not current, and that slot becomes current. -/
def commitBlock (s : State) (core h : Nat) : State :=
  match blockOf s core h with
  | none => s
  | some b =>
    let s := releaseHeld s core h b.ckpt
    let s := releaseEffects s core h b.ckpt.effects
    let s := modBlock s core h rewindOps
    match blockOf s core h with
    | none => s
    | some b =>
      let pa := if b.ckpt.current then b.ckpt.slots.1 else b.ckpt.slots.2
      let (s, x) := writeImage s core h pa b
      let s := putCheckpoint s x
      modBlock s core h fun b =>
        { b with ckpt := { b.ckpt with
            current := !b.ckpt.current, written := true, generation := b.ckpt.generation + 1, lastCommit := s.timebase,
            due := false, rollbacks := 0, effects := [], locked := [], cleared := [], arrivals := [], replies := [] } }

/-- The supervisor fragments of a core that wait for a block's checkpoint go on (R250). -/
def wakeCheckpoint (s : State) (core h : Nat) : State :=
  match blockOf s core h, blockOf s core supervisorHandle with
  | some b, some k =>
    (k.waves.flatMap fun w => w.frags.map fun f => (w.idx, f)).foldl (fun s e =>
      match e.2.st with
      | .waitEvent (.checkpoint x gen d bytes) =>
        if x = h ∧ gen < b.ckpt.generation then
          let r : FragRef := ⟨supervisorHandle, e.1, e.2.id⟩
          match placeCtx s core r with
          | none => s
          | some c =>
            modWave s core supervisorHandle e.1 fun w =>
              (lateWrites w e.2.id (writeCode c 0 d true tyU64 0 62)).modFrag e.2.id fun f => passWait f bytes
        else s
      | _ => s) s
  | _, _ => s

/-- CHECKPOINT_COMMIT (R429): a resilient block that a checkpoint is due for, and that is quiet, commits. -/
def execCheckpointCommit (s : State) : Host.Outcome State Fault Refusal :=
  let c := s.subject.core
  let h := s.subject.block
  .next (match blockOf s c h with
    | none => s
    | some b =>
      if b.hdr.resilient && b.ckpt.due && blockQuiet s b then wakeCheckpoint (commitBlock s c h) c h else s)

/-- A block's checkpoint interval in ns (R429). -/
def ckptInterval (h : Header) : Nat := (if h.ckInterval = 0 then 500 else h.ckInterval) * 1000

/-- Whether a resilient block's checkpoint is to start: its interval is over, or it has
only its commit left before it retires. -/
def checkpointDue (s : State) (b : Block) : Bool :=
  b.hdr.resilient && !b.ckpt.due &&
    (b.ckpt.lastCommit + ckptInterval b.hdr ≤ s.timebase ||
      ((b.waves.all fun w => w.frags.isEmpty) && !(b.ckpt.held.isEmpty && b.ckpt.effects.isEmpty)))

/-- CHECKPOINT_INTERVAL (R429): the checkpoint starts, and the block's next instruction waits for its commit. -/
def execCheckpointInterval (s : State) : Host.Outcome State Fault Refusal :=
  let c := s.subject.core
  let h := s.subject.block
  .next (match blockOf s c h with
    | none => s
    | some b =>
      if checkpointDue s b then notifyDarner (forceCheckpoint s c h) c (.checkpoint h) else s)

/-! ### Rollback (R431) -/

/-- A block leaves a core without being counted as ended: what it has not committed never happens, and what it has contributed to a
collective with a commit stays there (R430). -/
def dropBlock (s : State) (core h : Nat) (b : Block) : State :=
  let s := removeBlock s core h
  { s with
    net := s.net.filter fun m => !((m.held || m.confirm) && m.senderLaunch == b.launch && m.senderLin == b.lin) }

/-- A rollback or kill counts towards the core's limit (R424): the times of the last second. -/
def countFailure (s : State) (core : Nat) : State :=
  modCore s core fun k => { k with failures := (k.failures.filter fun t => s.timebase < t + 10 ^ 9) ++ [s.timebase] }

/-- ROLLBACK of a block (R431): on its own core unless that has left service, then on another of its group. Without room
a Darner is asked for a restore, which waits for it (log entry 96). A slot that memory holds poisoned cannot be restored, and the block is killed (log entry 90). -/
def rollbackBlock (s : State) (core h : Nat) : State :=
  match blockOf s core h with
  | none => s
  | some b =>
    let s := countFailure s core
    match launchOf s b.launch, s.checkpoints.find? fun x => x.launch == b.launch && x.lin == b.lin with
    | some la, some x =>
      if 8 ≤ b.ckpt.rollbacks + 1 then killBlock s core h
      else
        let s := logEvent s (coreChan core) 5 (partitionOf core) b.asid 0
        let ckpt := { b.ckpt with held := [], locked := [], cleared := [], effects := [], due := false, rollbacks := b.ckpt.rollbacks + 1 }
        let x := { x with posts := b.ckpt.arrivals, dropped := [], replies := b.ckpt.replies, ckpt := ckpt }
        let l := physRead s none x.pa x.bytes
        let h' := (imageLaunch l la).hdr
        if !poisonCarried (imageHead l).offs h' (imagePoison s x.pa x.bytes) then killBlock s core h
        else
        let s := dropBlock s core h b
        let spot := match (if coreInService s core then fitsCore (coreOf s core) h' la.bdim (imageNeeds l) else none) with
          | some p => some (core, p)
          | none =>
            chooseCore s ((groupCores b.home.1 b.home.2).filter fun c => !coreReserved s c) h' la.bdim (imageNeeds l)
        match spot with
        | some (c, p) => restoreBlock s c p la l (some x)
        | none =>
          let home := if coreInService s core then core else (groupCores b.home.1 b.home.2).headD core
          notifyDarner { s with images := s.images ++ [x] } home (.restore b.asid x.pa)
    | _, _ => killBlock s core h

end Sys2Proof.Machine
end

