-- ==== Sys2Proof/Machine/Swap.lean ====
section
/-! DEFINITION. CTXSV, CTXLD and CHKPT (R246, R250, R407, R408), and the end of a fragment's wait for an event (R263). -/

namespace Sys2Proof.Machine

/-! ### CTXSV (R246, R408) -/

/-- SAVING a quiet block: its image is written, and its core resources are freed. The bytes of the image. -/
def saveBlock (s : State) (core h pa : Nat) : State × Nat :=
  match blockOf s core h with
  | none => (s, 0)
  | some _ =>
    let s := modBlock s core h rewindOps
    match blockOf s core h with
    | none => (s, 0)
    | some b =>
      let (s, x) := writeImage s core h pa b
      let s := removeBlock s core h
      ({ s with images := s.images ++ [x] }, x.bytes)

/-- A block that is to be saved stops (R408); a resilient one takes a checkpoint first (R429). -/
def Block.stop (b : Block) : Block :=
  if b.stopped then b else { b with stopped := true, ckpt := { b.ckpt with due := b.ckpt.due || b.hdr.resilient } }

/-- Brings a block towards its save (R408): stopped, quiet, its checkpoint committed, and quiet again, since the commit sends
what was held. Whether it can be saved now. -/
def prepareSave (s : State) (core h : Nat) : State × Bool :=
  let s := modBlock s core h Block.stop
  match blockOf s core h with
  | none => (s, false)
  | some b =>
    if !blockQuiet s b then (s, false)
    else
      let s := if b.ckpt.due then commitBlock s core h else s
      (s, (blockOf s core h).any (blockQuiet s))

/-- CTXSV (R246). A resilient block commits first (R429). Bits [63:6] of a are ignored, and a handle
of no resident block raises 0x01 with FLT.INFO a (DESIGN CHOICE, log entry 129: R246 states neither). -/
def execCtxsv (w : BitVec 3) (d a : Code) (b : Src) (s : State) : Host.Outcome State Fault Refusal :=
  let i : Instr := .ctxsv w d a b
  issueForm i s fun c =>
    let va := readWord s c a
    let vb := readSrcWord s c b
    let h := va.toNat % 64
    match blockOf s c.core h with
    | none => fragmentFault c 0x01 va s
    | some _ =>
      if vb.toNat % 4096 ≠ 0 then fragmentFault c 0x01 vb s
      else
        let (s, quiet) := prepareSave s c.core h
        if !quiet then waitEvent s c (.quiet h)
        else
          let (s', n) := saveBlock s c.core h vb.toNat
          completeLater c i s' (writeCode c 0 d true tyU64 (BitVec.ofNat 64 n) 62)

/-! ### CTXLD (R246, R412) -/

/-- The bytes of an image in memory: none but its first words when they are no image's. -/
def imageAt (s : State) (pa : Nat) : List Byte :=
  let l := physRead s none pa 12
  if bytesNat l 0 4 = 0x47534B42 then physRead s none pa (bytesNat l 8 4) else l

/-- The context that an image loaded by the Darner must name (R412): the restore request's, or its target's, whose block the
same event may have moved out. -/
def restoreAsid (s : State) (core : Nat) : Option Nat :=
  match (coreOf s core).darner.current with
  | some (.restore asid _) => some asid
  | some _ => (coreOf s core).darner.targetAsid
  | none => none

/-- What loading an image comes to. -/
inductive LoadEnd where
  | bad
  | room
  | done (s : State) (handle : Nat)

/-- LOADING an image on a core for a context: the check, the wait for room, and the restore; then the image is freed, so that
it is loaded once (R412). The read retires the exact sums that are bound there (R199). -/
def loadImage (s : State) (core asid pa : Nat) : LoadEnd :=
  let s := retireRange s pa (imageAt s pa).length
  let l := imageAt s pa
  let x := imageHead l
  if !imageOk s asid l || (imageOf s x.launch x.lin).isNone then .bad
  else
    match launchOf s x.launch with
    | none => .bad
    | some la =>
      if !poisonCarried x.offs (imageLaunch l la).hdr (imagePoison s pa l.length) then .bad else
      match imageFits s core la l (imageNeeds l) with
      | none => .room
      | some p =>
        let s' := restoreBlock s core p la l ((imageOf s x.launch x.lin).map fun y => { y with pa := pa })
        .done { s' with images := s'.images.filter fun y => !(y.launch == x.launch && y.lin == x.lin) } p.handle

/-- CTXLD (R246). -/
def execCtxld (w : BitVec 3) (d a : Code) (s : State) : Host.Outcome State Fault Refusal :=
  let i : Instr := .ctxld w d a
  issueForm i s fun c =>
    let va := readWord s c a
    let put (s : State) (v : BitVec 64) := completeLater c i s (writeCode c 0 d true tyU64 v 62)
    match restoreAsid s c.core with
    | none => put s (1#64 <<< 63)
    | some asid =>
      match loadImage s c.core asid va.toNat with
      | .bad => put s (1#64 <<< 63)
      | .room => waitEvent s c .room
      | .done s' h => put s' (BitVec.ofNat 64 h)

/-! ### CHKPT (R250) -/

/-- CHKPT: b names the area that the next checkpoint is written to; the wait ends with the commit. Its handle is read as
CTXSV's is (log entry 129). -/
def execChkpt (w : BitVec 3) (d a : Code) (b : Src) (s : State) : Host.Outcome State Fault Refusal :=
  let i : Instr := .chkpt w d a b
  issueForm i s fun c =>
    let va := readWord s c a
    let vb := readSrcWord s c b
    let h := va.toNat % 64
    match blockOf s c.core h with
    | none => fragmentFault c 0x01 va s
    | some k =>
      if !k.hdr.resilient then completeLater c i s (writeCode c 0 d true tyU64 1 62)
      else
        let s := modBlock s c.core h fun k =>
          { k with ckpt := { k.ckpt with
              due := true
              slots := if k.ckpt.current then (vb.toNat, k.ckpt.slots.2) else (k.ckpt.slots.1, vb.toNat) } }
        enterWait c i s (.waitEvent (.checkpoint h k.ckpt.generation d (instrBytes i)))

/-! ### The end of a wait (R263) -/

/-- A block's place where it is out or not yet in. -/
def BlockPlace.absent : BlockPlace → Bool
  | .swappedOut => true
  | .notPlaced => true
  | _ => false

/-- Whether an event moves exact sums for a fragment. -/
def DarnerEvent.sumFor (e : DarnerEvent) (r : FragRef) : Bool :=
  match e with
  | .exactSum f _ => f == r
  | .sumRequest f _ => f == r
  | _ => false

/-- Whether the condition of a wait that issues its instruction anew holds now. The waits that another step ends (a
message's confirmation, a reply, a firing, an acknowledgement, a commit, the Darner's next event) answer no. -/
def waitOver (s : State) (c : Ctx) : Wait → Bool
  | .sendTarget lin => !(placeOfBlock s c.blk.launch lin).absent
  | .svcSpace => match svcRequest s c.core c.blk c.wave.idx c.frag 0 with | .full => false | _ => true
  | .iron => !(c.blk.iron.any fun w => w != c.wave.idx)
  | .ironPort p => c.blk.hasRoom p
  | .sent p => !sentBefore s c p
  | .engineQueue e => (c.blk.freeSlot e).isSome
  | .enginePort p => c.blk.hasRoom p
  | .scoreboardRoom n => scoreboardRoom (coreOf s c.core) c.ref.block n
  | .scoreboard lo hi write role bound => !scoreboardBlocks (coreOf s c.core) s.cycle lo hi write role (some bound)
  | .opwait id => !(c.blk.opOf id).any Op.live
  | .fifo logical need claim =>
    match c.blk.fifo? logical with
    | none => true
    | some f => need ≤ (if claim then f.filled else f.free)
  | .drains n => drained s c.core c.ref.block c.wave n
  | .granules _ =>
    !((coreOf s c.core).darner.events.contains (.granules c.ref)) && (coreOf s c.core).darner.current != some (.granules c.ref)
  | .postedFull => c.wave.posted.length < 16
  | .overlap ranges => !heldByStores c.wave (waveRecords s c) ranges
  | .settled => storesSettled s c
  | .accumulator =>
    !((coreOf s c.core).darner.events.any (·.sumFor c.ref)) && !((coreOf s c.core).darner.current.any (·.sumFor c.ref))
  | .heldLimit n => !heldOver s c.core c.ref.block n
  | .locked rmw l => !lockedBytes s (some (c.core, c.ref.block)) rmw l
  | .barrier => barrierSettled s c.core c.ref.block c.wave
  | .room =>
    match restoreAsid s c.core with
    | none => true
    | some asid =>
      s.images.any fun x => x.asid == asid &&
        ((launchOf s x.launch).any fun la =>
          let l := physRead s none x.pa x.bytes
          (imageFits s c.core la l (imageNeeds l)).isSome)
  | .quiet h => (blockOf s c.core h).all fun b => blockQuiet s b
  | _ => false

/-- WAIT_EVENT_RESUME (R263): a RECV's message is taken as R211 says, a supervisor service of a Thimble core returns open
values, and at every other wait the instruction is issued anew. -/
def execWaitEventResume (s : State) : Host.Outcome State Fault Refusal :=
  let core := s.subject.core
  let r := subjectFrag s
  .next (match placeCtx s core r with
    | none => s
    | some c =>
      match c.frag.st with
      | .waitEvent (.recv p d _) =>
        (match c.blk.visible s.cycle p with
         | [] => s
         | m :: rest =>
           let s' := modBlock s core r.block fun b => b.modPort p fun x => { x with msgs := rest }
           let done := modWave s' core r.block r.wave fun w =>
             (lateWrites w r.frag (recvWrites d m)).modFrag r.frag fun f => passWait f 4
           if m.failed then
             takeFault c { code := 0x16, lanes := c.frag.members, info := m.payload, whole := true,
                           pc := some (c.frag.pc + 4) } s done
           else done)
      | .waitEvent (.service _) =>
        if c.frag.super then
          modFrag { s with freeCtr := s.freeCtr + 2 } core r fun f =>
            takeReply f (Config.freeWord s.freeCtr) (Config.freeWord (s.freeCtr + 1))
        else s
      | .waitEvent w =>
        if waitOver s c w then
          modFrag s core r fun f =>
            { f with st := .run, drainBound := match w with | .drains n => some n | _ => f.drainBound }
        else s
      | _ => s)

end Sys2Proof.Machine
end

