-- ==== Sys2Proof/Machine/Darner.lean ====
section
/-! DEFINITION. The Darner's events (R242, R345): their order, the moves of granules (R27) and exact sums (R200), and
Dibor's routines on them (R402, R404); the start of supervisor code at its event PC, and the Darner's restart (R242). -/

namespace Sys2Proof.Machine

/-! ### The order of the events (R345) -/

/-- The class of an event. -/
def DarnerEvent.rank : DarnerEvent → Nat
  | .swapOut _ _ => 1
  | .restore _ _ => 1
  | .checkpoint _ => 1
  | .sumRequest _ _ => 1
  | .granules _ => 2
  | .exactSum _ _ => 2
  | .storeFault _ _ => 3
  | .hamper _ => 4
  | .service _ _ => 5
  | .overflow _ _ _ _ _ => 6

/-- The QUEUED entry of least AGE. -/
def oldestQueued (k : Core) : Option HamperEntry :=
  (k.hamper.filter fun e => e.st == .queued).foldl (fun m e =>
    match m with
    | none => some e
    | some x => if e.age < x.age then some e else some x) none

/-- The event that the Darner takes next, the oldest of the first class that has one. -/
def nextDarnerEvent (k : Core) : Option DarnerEvent :=
  let l := k.darner.events ++ (oldestQueued k).toList.map fun e => .hamper e.idx
  l.foldl (fun m e =>
    match m with
    | none => some e
    | some x => if e.rank < x.rank then some e else some x) none

/-- The Darner takes an event: it leaves its queue, and a Hamper entry is in service. -/
def takeEvent (k : Core) (e : DarnerEvent) : Core :=
  let entry := match e with | .hamper i => some i | _ => none
  let k := { k with
    hamper := k.hamper.map fun (x : HamperEntry) => if some x.idx = entry then { x with st := .service } else x
    darner := { k.darner with events := k.darner.events.erase e, current := some e, entry := entry } }
  let asid := (targetOf k).bind fun r => (k.blocks.find? fun b => b.1 == r.block).map (·.2.asid)
  { k with darner := { k.darner with targetAsid := asid } }

/-- The Darner is done with its event. -/
def closeEvent (s : State) (core : Nat) : State :=
  modCore s core fun k => { k with darner := { k.darner with current := none, entry := none, targetAsid := none } }

/-! ### Granules (R27) -/

/-- One granule of a lane moves out to its spill area. Where the area has no place for it, which only a call is held back for
(R27, R151), its values stay with the thread (log entry 24). -/
def granuleOut (s : State) (core : Nat) (r : FragRef) (b : Block) (k : Context) (lane g : Nat) : Option State :=
  if b.spillSlot.isNone || k.spillSize.toNat < 40 * (g + 1) then
    some (modWave s core r.block r.wave fun w => w.setAside b.hdr lane g)
  else
  match b.spillSlot, waveOf s core r.block r.wave with
  | some slot, some w =>
    match ctxWrite s core (some (core, r.block)) b.asid ((spillArea k slot r.wave lane).toNat + 40 * g) (granuleBytes w lane g) with
    | none => none
    | some s =>
      some (modWave s core r.block r.wave fun w =>
        (putGranule w lane g (List.replicate 32 0 ++ List.replicate 8 (62#8))).setResident b.hdr lane g false)
  | _, _ => none

/-- One granule of a lane moves in: from its spill area where its copy lies there. -/
def granuleIn (s : State) (core : Nat) (r : FragRef) (b : Block) (k : Context) (lane g : Nat) : Option State :=
  match waveOf s core r.block r.wave with
  | none => none
  | some w =>
    if (cellGet 0 g w.spilled).getLsbD lane then
      match b.spillSlot with
      | none => none
      | some slot =>
        match ctxRead s core (some (core, r.block)) b.asid ((spillArea k slot r.wave lane).toNat + 40 * g) 40 with
        | (_, .error _) => none
        | (s, .ok l) =>
          some (modWave s core r.block r.wave fun w => (putGranule w lane g l).setResident b.hdr lane g true)
    else some (modWave s core r.block r.wave fun w => w.setResident b.hdr lane g true)

/-- The moves for the window that a lane's slide forms. -/
def granulesFor (s : State) (core : Nat) (r : FragRef) (b : Block) (k : Context) (delta : Int) (lane : Nat) : Option State :=
  match waveOf s core r.block r.wave with
  | none => none
  | some w =>
    let base := slid (w.wbOf lane) delta
    let out (s : Option State) (g : Nat) : Option State := s.bind fun s => granuleOut s core r b k lane g
    let into (s : Option State) (g : Nat) : Option State := s.bind fun s => granuleIn s core r b k lane g
    (w.missing b.hdr lane base).foldl into ((w.victims b.hdr lane base).foldl out (some s))

/-- The MOVE of granules for a waiting fragment. A fault in it is the Darner's own (R242). -/
def moveGranules (s : State) (core : Nat) (r : FragRef) : State :=
  match blockOf s core r.block, fragOf s core r with
  | some b, some f =>
    match f.st, contextOf s b.asid with
    | .waitEvent (.granules delta), some k =>
      (match (lanesOf f.members).foldl (fun st lane => st.bind fun x => granulesFor x core r b k delta lane) (some s) with
       | some s => s
       | none => darnerFault s core 0x07 f.pc (openInfo s))
    | _, _ => s
  | _, _ => s

/-! ### Exact sums (R200) -/

/-- The resident accumulator of a partition that has been used least recently. -/
def oldestSum (s : State) (p : Nat) : Option ExactSum :=
  (residentSums s p).foldl (fun m x =>
    match m with
    | none => some x
    | some y => if x.used < y.used then some x else some y) none

/-- Images by which Dibor extends a backing area, and the most that it may hold, per partition. -/
def backingStep : Nat := 128
def backingMost : Nat := 131072

/-- A FATOM that the store has no room for parks (R200): no lane has an effect, and the lanes of ACTIVE are its entry's. -/
def parkSum (s : State) (core : Nat) (r : FragRef) : State :=
  match placeCtx s core r with
  | none => s
  | some c =>
    takeFault c { code := 0x18, lanes := c.active, info := openInfo s } s (modFrag s core r fun f => passWait f 4)

/-- The SPILL of a partition's least recently used accumulator. For a full backing area the Darner asks Dibor, whose request
brings the spill back once the area is extended (R200, R345); while Dibor's core has failed it waits (R445). -/
def spillSum (s : State) (core : Nat) (r : FragRef) (p : Nat) : State :=
  match oldestSum s p with
  | none => s
  | some x =>
    let size := match contextOf s x.asid with | some k => k.backing | none => backingStep
    if spilledSums s x.asid p < size then putSum s { x with spilled := true }
    else if size + backingStep ≤ backingMost ∧ s.firmware.suspended then notifyDarner s core (.sumRequest r p)
    else if size + backingStep ≤ backingMost then
      let s := emit (modContext s x.asid fun k => { k with backing := k.backing + backingStep }) (.growBacking x.asid)
      notifyDarner s core (.sumRequest r p)
    else parkSum s core r

/-! ### Dibor's routines (R404) -/

/-- The actions of FAULTSIG on an entry in service (R404). -/
def serveEntry (s : State) (core : Nat) (e : HamperEntry) : State :=
  match blockOf s core e.block with
  | none => s
  | some b =>
    match sigTable s core b.asid with
    | none => releaseKill s core e false
    | some t =>
      let n := sigOfFault t e.code
      match (if n = 0xFF then none else sigEntry t n) with
      | none => releaseKill s core e false
      | some x =>
        match x.action with
        | 0 => releaseSignal s core e n
        | 1 => releaseSkip s core e
        | 2 => releaseKill s core e false
        | _ => releaseKill s core e true

/-- The lowest-indexed wave of a block with a live lane, one wave first where it has one itself. -/
def waveForOverflow (b : Block) (first : Option Nat) : Option Nat :=
  let live (w : Wave) : Bool := !w.frags.isEmpty
  match first.bind fun n => (b.wave? n).filter live with
  | some w => some w.idx
  | none => (b.waves.filter live).foldl (fun m w =>
      match m with
      | none => some w.idx
      | some n => if w.idx < n then some w.idx else some n) none

/-- A port-overflow notification (R404). -/
def serveOverflow (s : State) (core block wave : Nat) (retired : Bool) : State :=
  match blockOf s core block with
  | none => s
  | some b =>
    match sigTable s core b.asid with
    | none => killBlock s core block
    | some t =>
      if sigOverflow t = 0xFF then s
      else
        match waveForOverflow b (if retired then some wave else none) with
        | none => s
        | some w => signalAction s core block (some w) (sigOverflow t) (BitVec.ofNat 64 (sigOverflow t))

/-- A store-fault notification (R404): the record stays queued. -/
def serveStoreFault (s : State) (core block wave : Nat) : State :=
  match blockOf s core block with
  | none => s
  | some b =>
    match (sigTable s core b.asid).map fun t => sigOfFault t 0x19 with
    | none => killBlock s core block
    | some n => if n = 0xFF then killBlock s core block else signalAction s core block (some wave) n (BitVec.ofNat 64 n)

/-- A swap request (R407, R408): the block stops, and once it is quiet it is saved; none while it is not quiet. -/
def serveSwap (s : State) (core block pa : Nat) : State × Bool :=
  if (blockOf s core block).isNone then (s, true)
  else
    match prepareSave s core block with
    | (s, false) => (s, false)
    | (s, true) => ((saveBlock s core block pa).1, true)

/-- The notifications that a block had outstanding when it went out are served as it comes back, before any issue of its own
(R408). -/
def serveRestored (s : State) (core block : Nat) : State :=
  (coreOf s core).darner.events.foldl (fun s e =>
    match e with
    | .overflow h w _ _ retired =>
      if h = block then
        serveOverflow (modCore s core fun k => { k with darner := { k.darner with events := k.darner.events.erase e } }) core h w retired
      else s
    | _ => s) s

/-- The service of an event by Dibor's routines, and whether it is over. -/
def serveEvent (s : State) (core : Nat) : DarnerEvent → State × Bool
  | .swapOut b pa => serveSwap s core b pa
  | .restore asid pa =>
    match loadImage s core asid pa with
    | .bad => (s, true)
    | .room => (s, false)
    | .done s h => (serveRestored s core h, true)
  | .checkpoint b => (forceCheckpoint s core b, true)
  | .granules f => (moveGranules s core f, true)
  | .exactSum f p => (spillSum s core f p, true)
  | .sumRequest f p => (spillSum s core f p, true)
  | .storeFault b w => (serveStoreFault s core b w, true)
  | .hamper i => (match entryOf s core i with | some e => serveEntry s core e | none => s, true)
  | .service f k => (serveService s core f k, true)
  | .overflow b w _ _ retired => (serveOverflow s core b w retired, true)

/-! ### Supervisor code -/

/-- The header of the supervisor's own block: the spec gives it none; a stack of 64 and one wave (log entry 18). -/
def supervisorHeader : Header :=
  { entry := 0, depth := 64, waves := 1, scratch := 0, handlers := 0, ports := 0, accRows := 0, coresident := false,
    resilient := false, rotate := false, defMode := 0x37, argBytes := 0, ckInterval := 0, fifos := [], patterns := [],
    records := [], sets := [], raw := [] }

/-- The supervisor's block: one resident wave of quadrant 0 in the address space of physical addresses (log entry 17). -/
def supervisorBlock : Block :=
  { launch := 0, lin := 0, asid := 0, hdr := supervisorHeader, grid := (1, 1, 1), bdim := (32, 1, 1), args := 0
    waves := [restingWave 0 0 false] }

/-- A supervisor fragment. -/
def supervisorFragment (id : Nat) (pc : BitVec 64) : Fragment :=
  { startFragment id (BitVec.allOnes 32) 0x37 pc [] with super := true }

/-- Where a core's Darner has its buffer: 64-byte aligned, as SFQ asks of it (R251), and within the space that a record reaches
(log entry 110). -/
def darnerBase (core : Nat) : Nat := (Config.darnerBuffer core).toNat % (2 ^ 57 - 1024) / 64 * 64

/-- The registers that Dibor's event dispatch sets up (the kernel skid's routines): s2 holds the address of the Darner's buffer
and, for a Hamper event, s0 the number of the entry in service (log entry 110). -/
def dispatchRegs (core : Nat) (e : Option DarnerEvent) : List (Nat × SReg) :=
  (2, ⟨BitVec.ofNat 64 (darnerBase core), 62⟩) ::
    match e with
    | some (.hamper i) => [(0, ⟨BitVec.ofNat 64 i, 62⟩)]
    | _ => []

/-- The Darner's d31: a SPACE 0 U64 record over its buffer's 72 words. -/
def darnerRecord (core : Nat) : Rec :=
  BitVec.ofNat 256 (darnerBase core + 72 * 2 ^ 64 + 2 ^ 88 + 2 ^ 108 + tyU64 * 2 ^ 208)

/-- The Darner starts at an event PC; the supervisor wave's other registers stay as they are. -/
def startDarner (core : Nat) (k : Core) (pc : BitVec 64) (regs : List (Nat × SReg)) : Core :=
  let b := (tabGet supervisorHandle k.blocks).getD supervisorBlock
  let b := { b with recs := cellSet 0 31 (darnerRecord core) b.recs }
  let b := b.modWave 0 fun w =>
    match w.frags with
    | [] =>
      { w with frags := [{ supervisorFragment w.nextFrag pc with s := cellSetAll {} regs [] }], nextFrag := w.nextFrag + 1 }
    | f :: _ =>
      { w with frags := [{ f with pc := pc, st := .run, members := BitVec.allOnes 32, exec := BitVec.allOnes 32,
                                  s := cellSetAll {} regs f.s }] }
  { k with blocks := tabSet supervisorHandle b k.blocks }

/-- The class by which Dibor fixes an event PC: the rank, and 0 for a restart. -/
def eventClass (e : Option DarnerEvent) : Nat := e.elim 0 DarnerEvent.rank

/-- The moves of class 2 are made with the event itself; every other event starts supervisor code. -/
def startEvent (s : State) (core : Nat) (e : DarnerEvent) : State :=
  match e with
  | .granules f => closeEvent (moveGranules s core f) core
  | .exactSum f p => closeEvent (spillSum s core f p) core
  | .sumRequest f p => closeEvent (spillSum s core f p) core
  | _ => modCore s core fun k => startDarner core k (Config.eventPc (eventClass (some e))) (dispatchRegs core (some e))

/-- DARNER_EVENT (R242, R345): the subject's core takes its next event, or, under the routines, goes on with the one that
waits. -/
def darnerStep (s : State) (core : Nat) : State :=
  let k := coreOf s core
  if k.darner.stopped.isSome then s
  else if k.darner.routines then
    match k.darner.current.orElse fun _ => nextDarnerEvent k with
    | none => s
    | some e =>
      let s := if k.darner.current.isSome then s else modCore s core fun k => takeEvent k e
      match serveEvent s core e with
      | (s, true) => closeEvent s core
      | (s, false) => s
  else if k.darner.current.isSome then s
  else
    match nextDarnerEvent k with
    | none => s
    | some e => startEvent (modCore s core fun k => takeEvent k e) core e

/-- DARNER_EVENT. -/
def execDarnerEvent (s : State) : Host.Outcome State Fault Refusal := .next (darnerStep s s.subject.core)

/-- DARNER_RESTART (R242): Dibor restarts a stopped Darner at its event PC, unless its own core has failed (R445). -/
def execDarnerRestart (s : State) : Host.Outcome State Fault Refusal :=
  let c := s.subject.core
  .next (if (coreOf s c).darner.stopped.isSome ∧ !s.firmware.suspended then
      modCore s c fun k =>
        let k := { k with darner := { k.darner with stopped := none } }
        if k.darner.routines then k
        else startDarner c k (Config.eventPc (eventClass k.darner.current)) (dispatchRegs c k.darner.current)
    else s)

end Sys2Proof.Machine
end

