-- ==== Sys2Proof/Machine/Confidential.lean ====
section
/-! DEFINITION. The TDISP interfaces of the partition groups (R396, R397), and Dibor's answers to SPDM (R448). -/

namespace Sys2Proof.Machine

/-! ### What Dibor serves -/

/-- The core whose mailbox keeps a request: an answer's is that of the entry or the operation that waits for it (R388), any
other's Dibor's own. -/
def mailCore : Instr → Nat
  | .faultResolution _ _ _ d =>
    let t := (d.extractLsb' 64 32).toNat
    if t < 2 ^ 20 then t / 128 % 128 else diborCore
  | _ => diborCore

/-- A request that Dibor serves: not before its image has booted (R447), and not while the active core has failed, when a
mailbox keeps it for the takeover (R443, R445). -/
def viaDibor (i : Instr) (s : State) (f : State → State) : State :=
  if !s.firmware.booted then s
  else if s.firmware.suspended then mailTo s (mailCore i) (.request i)
  else f s

/-! ### TDISP (R396) -/

/-- Whether a partition belongs to a group. -/
def inGroup (first log2 p : Nat) : Bool := first ≤ p && p < first + 2 ^ log2

/-- The size of the group of a first partition: that of its queues' descriptors, else what the group has (R365). -/
def groupLog2Of (s : State) (g : Nat) : Nat :=
  match s.queues.find? fun q => queueEnabled q.2.desc && queueGroup q.1 q.2.desc == g with
  | some q => queueGroupLog2 q.2.desc
  | none => (groupOf s g).log2

/-- The configuration that a lock freezes (R397), as numbers: the size, the descriptors of the group's queues, the PASIDs of
its contexts and its access grants. Windows, vectors and pages are fixed in the model. -/
def groupConfig (s : State) (g log2 : Nat) : List Nat :=
  [log2] ++ (s.queues.filter fun q => inGroup g log2 (q.1 / 64)).flatMap (fun q => [q.1, q.2.desc.toNat]) ++
    (s.contexts.filter fun k => inGroup g log2 k.group).flatMap (fun k => [k.asid, k.pasid]) ++ (groupOf s g).peers

/-- The identifiers of a group's contexts. -/
def groupAsids (s : State) (g log2 : Nat) : List Nat :=
  (s.contexts.filter fun k => inGroup g log2 k.group).map (·.asid)

/-- Ends every context of a group. -/
def endGroupContexts (s : State) (g log2 : Nat) : State := (groupAsids s g log2).foldl endContext s

/-- The interface fails (R396): its blocks are killed and its contexts end; it refuses packets from then on. -/
def tdispFail (s : State) (g : Nat) : State :=
  let x := groupOf s g
  if x.tdisp = .locked ∨ x.tdisp = .run then
    let s := modGroup s g fun x => { x with tdisp := .error }
    let s := killBlocks s fun b => inGroup g x.log2 b.home.1
    (groupAsids s g x.log2).foldl (fun s a => askContextEnd s diborCore a) s
  else s

/-- LOCK_INTERFACE_REQUEST (R396): the configuration is frozen and measured. -/
def execLockInterfaceRequest (g : Nat) (s : State) : Host.Outcome State Fault Refusal :=
  .next (viaDibor (.lockInterfaceRequest g) s fun s =>
    if (groupOf s g).tdisp = .unlocked then
      let log2 := groupLog2Of s g
      let m := sha3 (Config.measuredBytes (groupConfig s g log2))
      modGroup s g fun x => { x with tdisp := .locked, log2 := log2, measurement := m }
    else s)

/-- A group grants a peer access to its windows, or takes the grant back (R394); a locked interface's grants are frozen, and a
write to them is its error (R396, R397). -/
def grantPeer (s : State) (g peer : Nat) (granted : Bool) : State :=
  match lockedGroup s g with
  | some x => tdispFail s x
  | none =>
    modGroup s g fun x => { x with peers := if granted then x.peers.filter (· != peer) ++ [peer] else x.peers.filter (· != peer) }

/-- START_INTERFACE_REQUEST (R396). -/
def execStartInterfaceRequest (g : Nat) (s : State) : Host.Outcome State Fault Refusal :=
  .next (viaDibor (.startInterfaceRequest g) s fun s =>
    if (groupOf s g).tdisp = .locked then modGroup s g fun x => { x with tdisp := .run } else s)

/-- Every byte of a group's HBM windows becomes zero, and no poison stays there. -/
def zeroWindows (s : State) (g log2 : Nat) : State :=
  { s with mem := s.mem.filter fun c => !inWindow g log2 c.1
           poison := s.poison.filter fun k => !inWindow g log2 (k * 32) }

/-- The partitions of an interface that is to be stopped. -/
def stopLog2 (s : State) (g : Nat) : Nat :=
  if (groupOf s g).tdisp = .unlocked then groupLog2Of s g else (groupOf s g).log2

/-- Whether a context of a group has ended but for its packets' words. -/
def groupEnding (s : State) (g log2 : Nat) : Bool := s.contexts.any fun k => inGroup g log2 k.group && k.ending

/-- The last step of a STOP (R396), which Dibor takes once the words of the ended contexts' packets are written (R369), the windows are zeroed and
the interface is unlocked (log entry 105). -/
def finishStop (s : State) (g : Nat) : State :=
  let log2 := stopLog2 s g
  if !(groupOf s g).stopping || groupEnding s g log2 then s
  else modGroup (zeroWindows s g log2) g fun x => { x with tdisp := .unlocked, stopping := false, measurement := [] }

/-- STOP_INTERFACE_REQUEST (R396). -/
def execStopInterfaceRequest (g : Nat) (s : State) : Host.Outcome State Fault Refusal :=
  .next (viaDibor (.stopInterfaceRequest g) s fun s =>
    finishStop (modGroup (endGroupContexts s g (stopLog2 s g)) g fun x => { x with stopping := true }) g)

/-- TDISP_ERROR (R396): an IDE failure, or an uncorrectable error in the group's state. -/
def execTdispError (g : Nat) (s : State) : Host.Outcome State Fault Refusal := .next (tdispFail s g)

/-! ### SPDM (R448) -/

/-- The seven requests, by the numbers under which the model reports their answers. -/
def spdmVersion : Nat := 0
def spdmCapabilities : Nat := 1
def spdmAlgorithms : Nat := 2
def spdmDigests : Nat := 3
def spdmCertificate : Nat := 4
def spdmChallenge : Nat := 5
def spdmMeasurements : Nat := 6

/-- An answer of Dibor's. -/
def spdmAnswer (i : Instr) (s : State) (request : Nat) (ok : Bool) (bytes : List Byte) : Host.Outcome State Fault Refusal :=
  .next (viaDibor i s fun s => emit s (.spdm request ok bytes))

/-- GET_VERSION: SPDM 1.3; the answer's bytes are SPDM's own. -/
def execGetVersion (s : State) : Host.Outcome State Fault Refusal := spdmAnswer .getVersion s spdmVersion true []
/-- GET_CAPABILITIES. -/
def execGetCapabilities (s : State) : Host.Outcome State Fault Refusal :=
  spdmAnswer .getCapabilities s spdmCapabilities true []
/-- NEGOTIATE_ALGORITHMS: ML-DSA-87 and SHA3-512 only. -/
def execNegotiateAlgorithms (signs hashes : Bool) (s : State) : Host.Outcome State Fault Refusal :=
  spdmAnswer (.negotiateAlgorithms signs hashes) s spdmAlgorithms (signs && hashes) []
/-- GET_DIGESTS: the SHA3-512 hash of the chain. -/
def execGetDigests (s : State) : Host.Outcome State Fault Refusal :=
  spdmAnswer .getDigests s spdmDigests true (sha3 Config.certificateChain)
/-- GET_CERTIFICATE: a portion of the chain. -/
def execGetCertificate (off size : Nat) (s : State) : Host.Outcome State Fault Refusal :=
  spdmAnswer (.getCertificate off size) s spdmCertificate (off < Config.certificateChain.length)
    ((Config.certificateChain.drop off).take size)
/-- CHALLENGE: signed with the identity key. -/
def execChallenge (nonce : BitVec 256) (s : State) : Host.Outcome State Fault Refusal :=
  spdmAnswer (.challenge nonce) s spdmChallenge true (Config.signature (leBytes nonce.toNat 32))

/-- Whether the repair store holds something of a channel. -/
def Channel.repaired (c : Channel) : Bool := !c.failed.isEmpty || !c.caFailed.isEmpty || c.outOfSpares

/-- The repair store as numbers: the path maps, data paths before command paths, and the spare banks in use (R448, R438,
R440). Requests are not part of it. -/
def repairStore (s : State) : List Nat :=
  (s.hbm.channels.filter fun c => c.2.repaired).flatMap (fun c =>
      [c.1, c.2.failed.length] ++ c.2.failed ++ [c.2.caFailed.length] ++ c.2.caFailed ++ [if c.2.outOfSpares then 1 else 0]) ++
    (s.hbm.spares.filter fun x => x.2.st == 2).flatMap fun x => [x.1, x.2.bank]

/-- The measurements; none where the index names nothing. -/
def measurementOf (s : State) (index : Nat) : Option (List Byte) :=
  if index = 1 then some (sha3 (Config.measuredImage 1))
  else if index = 2 then some (sha3 (Config.measuredImage 2 ++ leBytes s.firmware.fused 8))
  else if index = 3 then
    some (sha3 (Config.measuredBytes ((if Config.largeMemory then 1 else 0) :: repairStore s)))
  else if 16 ≤ index ∧ index < 16 + Config.partitions then
    let g := groupOf s (index - 16)
    some (if g.tdisp = .unlocked ∨ g.measurement = [] then zeros 64 else g.measurement)
  else none

/-- GET_MEASUREMENTS. -/
def execGetMeasurements (index : Nat) (s : State) : Host.Outcome State Fault Refusal :=
  spdmAnswer (.getMeasurements index) s spdmMeasurements (measurementOf s index).isSome ((measurementOf s index).getD [])

end Sys2Proof.Machine
end

