-- ==== Sys2Proof/Machine/Posts.lean ====
section
/-! DEFINITION. What the host writes to the device pages: notify writes and queue descriptors (R365, R366), and post-window
descriptors with their three kinds (R320 to R322, R387, R388, R401, R408). -/

namespace Sys2Proof.Machine

/-! ### Queues -/

/-- Queues of the device (R365). -/
def queueCount : Nat := 4096

/-- NOTIFY_WRITE (R366): every access but an aligned 8-byte write at offset 0 is ignored. A device whose image has not booted has
its management block alone (R447). -/
def execNotifyWrite (queue off size : Nat) (value : BitVec 64) (s : State) : Host.Outcome State Fault Refusal :=
  .next (if s.firmware.booted ∧ queue < queueCount ∧ off = 0 ∧ size = 8 then notifyQueue s queue value else s)

/-- QUEUE_DESCRIPTOR_WRITE (R365): refused with a reserved value, and kept until the next notify write; a write to a locked
interface's descriptors, or one that would take its partitions into another group, is its error (R396, R397). -/
def execQueueDescriptorWrite (queue : Nat) (desc : BitVec 256) (s : State) : Host.Outcome State Fault Refusal :=
  .next (if !s.firmware.booted ∨ queueCount ≤ queue then s
    else
      match lockedBy s queue desc with
      | some g => tdispFail s g
      | none => if descriptorBad desc then s else modQueue s queue fun k => { k with next := some desc })

/-! ### Descriptors (R320, R321) -/

def postLaunch (d : BitVec 256) : Nat := (d.extractLsb' 0 64).toNat
def postTarget (d : BitVec 256) : Nat := (d.extractLsb' 64 32).toNat
def postPort (d : BitVec 256) : Nat := (d.extractLsb' 96 8).toNat
def postStatus (d : BitVec 256) : BitVec 8 := d.extractLsb' 104 8
def postKind (d : BitVec 256) : Nat := (d.extractLsb' 112 8).toNat
def postSender (d : BitVec 256) : BitVec 16 := d.extractLsb' 128 16
def postPayload (d : BitVec 256) : BitVec 64 := d.extractLsb' 192 64

/-- Whether a reserved field is non-zero, or the TKIND is reserved. -/
def postReserved (d : BitVec 256) : Bool :=
  d.extractLsb' 120 8 != 0#8 || d.extractLsb' 144 48 != 0#48 || 3 ≤ postKind d || 32 ≤ postPort d

/-- A post page as a device page. -/
def devicePost : PostPage → DevicePage
  | .context a => .contextPost a
  | .driver p => .driverPost p

/-- The contexts in which a launch has blocks: its own, and that of the blocks placed after its queue changed its context
(R365). -/
def launchContexts (s : State) (l : Launch) : List Nat :=
  (l.asid :: (residentBlocks s fun b => b.launch == l.ident).filterMap (fun e => (blockOf s e.1 e.2).map (·.asid)) ++
    (s.images.filter fun x => x.launch == l.ident).map (·.asid)).eraseDups

/-- The context of the block that a descriptor names. -/
def blockContext (s : State) (l : Launch) (lin : Nat) : Nat :=
  match residentBlock s l.ident lin with
  | some (c, h) => ((blockOf s c h).map (·.asid)).getD l.asid
  | none => ((imageOf s l.ident lin).map (·.asid)).getD l.asid

/-- The live launch that a descriptor names, whose block is of the page's context, or which is of a group that holds the driver
page's partition. -/
def postLaunchOf (s : State) (page : PostPage) (d : BitVec 256) : Option Launch :=
  (launchOf s (postLaunch d)).filter fun l =>
    match page with
    | .context a => blockContext s l (postTarget d) == a
    | .driver p => inGroup l.group l.groupLog2 p

/-- The message of a TKIND 0 descriptor (R310): its consumption acquires at system scope (R315). -/
def postMessage (d : BitVec 256) : Msg := ⟨postPayload d, postSender d, 4, postStatus d, some 5, 0⟩

/-- A TKIND 0 descriptor: the message enters the port, or is dropped; a full port also counts it (R319). -/
def deliverPost (s : State) (l : Launch) (d : BitVec 256) : State × Bool :=
  let lin := postTarget d
  let p := postPort d
  if l.hdr.ports ≤ p then (s, false)
  else
    match placeOfBlock s l.ident lin with
    | .resident c b =>
      if ((blockOf s c b).any fun k => (k.counting p).isSome) then (s, false)
      else
        match offerPort s c b p (postMessage d) true with
        | (s, true) => (s, true)
        | (s, false) => (dropAtPort s c b p, false)
    | .swappedOut =>
      if countingPort s l.ident p then (s, false)
      else offerImage s l.ident lin p (postMessage d)
    | .notPlaced => (s, false)
    | .gone => (s, false)

/-! ### Service replies (R401, R408) -/

/-- The info word of a reply. -/
def replyInfo (d : BitVec 256) : BitVec 64 :=
  BitVec.ofNat 64 ((postStatus d).toNat * 2 ^ 20 + 4 * 2 ^ 16 + (postSender d).toNat)

/-- What a resilient block's checkpoint keeps of a reply that reached it (R431). -/
def keepReply (s : State) (core h tag : Nat) (payload info : BitVec 64) : State :=
  modBlock s core h fun b =>
    if b.hdr.resilient then { b with ckpt := { b.ckpt with replies := b.ckpt.replies ++ [(tag, payload, info)] } } else b

/-- A TKIND 1 descriptor: the reply reaches the fragment of the launch's context that waits with that TAG, in a block that is
resident or swapped out. -/
def deliverReply (s : State) (l : Launch) (d : BitVec 256) : State × Bool :=
  let tag := postTarget d
  let asids := launchContexts s l
  let blocks := residentBlocks s fun b => asids.contains b.asid
  let hit := blocks.findSome? fun e =>
    match replyToBlock s e.1 e.2 tag (postPayload d) (replyInfo d) with
    | (s, true) => some (keepReply s e.1 e.2 tag (postPayload d) (replyInfo d))
    | (_, false) => none
  match hit with
  | some s => (s, true)
  | none =>
    match s.images.find? fun x => asids.contains x.asid && x.awaitsReply tag with
    | none => (s, false)
    | some x => (replyToImage s x tag (postPayload d) (replyInfo d), true)

/-! ### Fault resolutions (R343, R344, R387, R388) -/

/-- An answer reaches one Hamper entry: hardware replay, or the Darner with the answer's code. -/
def answerEntry (s : State) (core idx status : Nat) : State :=
  match entryOf s core idx with
  | none => s
  | some e =>
    if e.st ≠ .hw then s
    else if status = 0 then replayEntry s core e
    else
      modCore s core fun k => { k with hamper := k.hamper.map fun (x : HamperEntry) =>
        if x.idx = idx then { x with code := status, st := .queued } else x }

/-- An answer reaches one stalled operation: it becomes eligible again, or ends with FAULT. -/
def answerOp (s : State) (o : OpRef) (status : Nat) : State :=
  match opAt s o with
  | none => s
  | some (b, op) =>
    match op.stall with
    | .page va _ => if status = 0 then s else failOp s o b op (BitVec.ofNat 64 (status * 2 ^ 57 + va.toNat % 2 ^ 57))
    | _ => s

/-- The broker applies an answer to everything that joined its request (R387), Dibor's own accesses included; then the
request for another kind of access to the page that it held back is sent. -/
def answerRequest (s : State) (r : PageRequest) (status : Nat) : State :=
  let sent := sentRequest s r.asid r.page
  let s := { s with pageRequests := s.pageRequests.erase r }
  let s := r.entries.foldl (fun s e =>
    if e.1 = diborCore then
      if status = 0 then s
      else { s with firmware := { s.firmware with refused := s.firmware.refused ++ [(r.asid, r.page, r.access)] } }
    else answerEntry s e.1 e.2 status) s
  let s := r.ops.foldl (fun s o => answerOp s ⟨o.1, o.2.1, o.2.2⟩ status) s
  match (if sent = some r then sentRequest s r.asid r.page else none) with
  | none => s
  | some x => emit s (.pageRequest (pasidOf s x.asid) x.page x.access x.launch x.target)

/-- The entry or the operation that a TARGET names: its core, then its place. -/
def targetWaits (s : State) (launch target : Nat) (r : PageRequest) : Bool :=
  let core := target / 128 % 128
  let handle := target / 2 ^ 14 % 64
  if 2 ^ 20 ≤ target then false
  else if target / 64 % 2 = 0 then
    handle == 0 && r.entries.contains (core, target % 64) &&
      ((entryOf s core (target % 64)).any fun e =>
        e.st == .hw && (blockOf s core e.block).any fun b => b.launch == launch)
  else
    target / 32 % 2 == 0 && r.ops.contains (core, handle, target % 32) &&
      (blockOf s core handle).any fun b => b.launch == launch

/-- The request that a TKIND 2 descriptor answers. -/
def requestOf (s : State) (launch target : Nat) : Option PageRequest :=
  if launch = 0 ∧ target = diborTarget then s.pageRequests.find? fun r => r.entries.contains (diborCore, 0)
  else s.pageRequests.find? fun r => targetWaits s launch target r

/-- A request that nobody waits for any more is over with its answer, which changes nothing else (R388). -/
def dropUnwaited (s : State) (launch target : Nat) : State :=
  match s.pageRequests.find? fun r => !r.live && r.launch == launch && r.target == target with
  | some r => { s with pageRequests := s.pageRequests.erase r }
  | none => s

/-- A descriptor for a launch of a retired identifier is discarded and counted (R398). -/
def discardPost (s : State) (launch : Nat) : State :=
  match s.quarantine.find? fun q => q.launches.contains launch with
  | some q => countDiscard s q.asid 32
  | none => s

/-- An answer for a retired identifier is discarded and counted (R398). -/
def discardAnswer (s : State) (launch target : Nat) : State :=
  match s.pageRequests.find? fun r =>
      r.launch == launch && r.target == target && s.quarantine.any fun q => q.asid == r.asid with
  | none => dropUnwaited s launch target
  | some r =>
    let s := countDiscard { s with pageRequests := s.pageRequests.erase r } r.asid 32
    { s with quarantine := s.quarantine.map fun (q : Quarantine) =>
        if q.asid = r.asid then { q with outstanding := q.outstanding - 1 } else q }

/-- A TKIND 2 descriptor (R388). -/
def deliverAnswer (s : State) (page : PostPage) (d : BitVec 256) : State × Bool :=
  let n := (postStatus d).toNat
  if postPort d ≠ 0 ∨ postSender d ≠ 0 ∨ postPayload d ≠ 0 ∨ !(n == 0 || n == 8 || n == 9) then (s, false)
  else
    match requestOf s (postLaunch d) (postTarget d) with
    | none => (discardAnswer s (postLaunch d) (postTarget d), false)
    | some r =>
      if (postLaunch d ≠ 0 ∨ postTarget d ≠ diborTarget) ∧ (postLaunchOf s page d).isNone then (s, false)
      else (answerRequest s r n, true)

/-! ### The post pages -/

/-- A descriptor reaches its page: delivered, or dropped. -/
def deliverDescriptor (s : State) (page : PostPage) (d : BitVec 256) : State × Bool :=
  if postReserved d then (s, false)
  else
    match page, postKind d with
    | .context _, 1 => (s, false)
    | .context _, 2 => (s, false)
    | _, 2 => deliverAnswer s page d
    | _, k =>
      match postLaunchOf s page d with
      | none => (discardPost s (postLaunch d), false)
      | some l => if k = 0 then deliverPost s l d else deliverReply s l d

/-- A write to a post page (R320, R321): what touches the descriptor without being its one aligned write is dropped, and the
counts move. A page of a retired identifier discards it (R398). -/
def postWrite (s : State) (page : PostPage) (off size : Nat) (d : BitVec 256) : State :=
  let p := devicePost page
  if !s.firmware.booted ∨ 32 ≤ off then s
  else
    match page with
    | .context a =>
      if (contextOf s a).isNone then countDiscard s a size
      else if off ≠ 0 ∨ size ≠ 32 then dropPost s p
      else
        match deliverDescriptor s page d with
        | (s, true) => acceptPost s p
        | (s, false) => dropPost s p
    | .driver _ =>
      if off ≠ 0 ∨ size ≠ 32 then dropPost s p
      else
        match deliverDescriptor s page d with
        | (s, true) => acceptPost s p
        | (s, false) => dropPost s p

/-- POST_PORT_MESSAGE (R321). -/
def execPostPortMessage (page : PostPage) (off size : Nat) (d : BitVec 256) (s : State) :
    Host.Outcome State Fault Refusal := .next (postWrite s page off size d)

/-- SERVICE_REPLY (R401). -/
def execServiceReply (page : PostPage) (off size : Nat) (d : BitVec 256) (s : State) : Host.Outcome State Fault Refusal :=
  .next (postWrite s page off size d)

/-- FAULT_RESOLUTION (R388): the broker on the active Thimble core applies the answer; while that core is out of service, its
mailbox keeps it for the takeover (R443, R445). -/
def execFaultResolution (page : PostPage) (off size : Nat) (d : BitVec 256) (s : State) : Host.Outcome State Fault Refusal :=
  .next (viaDibor (.faultResolution page off size d) s fun s => postWrite s page off size d)

end Sys2Proof.Machine
end

