-- ==== Sys2Proof/Machine/Links.lean ====
section
/-! DEFINITION. Translation walks on their own, invalidations and their acknowledgement (R344, R383, R389 to R391), snoops
and external accesses (R325, R393 to R395), and failing links (R238, R413, R422). -/

namespace Sys2Proof.Machine

/-! ### Walks -/

/-- The page requests that ask for an access to a page. -/
def requestsFor (s : State) (asid page access : Nat) : List PageRequest :=
  s.pageRequests.filter fun r => r.asid == asid && r.page == page && r.access == access

/-- TRANSLATION_WALK (R383): the walk delivers a translation, which fills the caches and resolves what waits for it (R344), or
ends with a code; 0x09 resolves what waits with that code. -/
def execTranslationWalk (core asid : Nat) (va : BitVec 57) (access : Nat) (s : State) : Host.Outcome State Fault Refusal :=
  let answer (s : State) (status : Nat) : State :=
    (requestsFor s asid (va.toNat / 4096) access).foldl (fun s r => answerRequest s r status) s
  .next (match translate s core asid (va.setWidth 64) access 0xFB00 with
    | (s, .ok _) => answer s 0
    | (s, .bad code) => if code = 0x09 then answer s 0x09 else s)

/-! ### Invalidation -/

/-- ATS_INVALIDATE_REQUEST (R391): the entries of the context bound to the PASID go at once; an unbound PASID completes with
nothing removed. -/
def execAtsInvalidateRequest (pasid : Nat) (va : BitVec 57) (all : Bool) (s : State) : Host.Outcome State Fault Refusal :=
  .next (match s.contexts.find? fun k => k.pasid == pasid with
    | none => emit s (.invalidationDone pasid)
    | some k =>
      let s := dropTranslations s (· == k.asid) (if all then none else some va.toNat)
      { s with invalidations := s.invalidations ++ [⟨s.nextIdent, true, pasid⟩], nextIdent := s.nextIdent + 1 })

/-- Whether a fragment waits for an invalidation: the bytes of its TLBI. -/
def Fragment.awaitsInvalidation (f : Fragment) (n : Nat) : Option Nat :=
  match f.st with
  | .waitEvent (.invalidation m bytes) => if m = n then some bytes else none
  | _ => none

/-- The TLBI that waits for an invalidation is done with. -/
def passTlbi (s : State) (n : Nat) : State :=
  { s with cores := s.cores.map fun c => (c.1, { c.2 with
      blocks := c.2.blocks.map fun b => (b.1, { b.2 with
        waves := b.2.waves.map fun w => { w with
          frags := w.frags.map fun f =>
            match f.awaitsInvalidation n with
            | some bytes => passWait f bytes
            | none => f } }) }) }

/-- INVALIDATION_ACK (R389): the oldest invalidation is acknowledged. An access is performed in the step that translates it, but
for a resilient block's stores to host or peer memory, which reach their point of coherence at its commit. -/
def execInvalidationAck (s : State) : Host.Outcome State Fault Refusal :=
  .next (match s.invalidations with
    | [] => s
    | x :: r =>
      if storesBefore s x.ident then s else
      let s := { s with invalidations := r }
      if x.host then emit s (.invalidationDone x.pasid) else passTlbi s x.ident)

/-! ### Snoops (R393, R395) -/

/-- HOST_SNOOP: answered after the writes to the line that are in progress; the model performs a write in the step that
accepts it. -/
def execHostSnoop (pa : Nat) (s : State) : Host.Outcome State Fault Refusal := .next (emit s (.snoopDone pa))

/-- BACK_INVALIDATE_SNOOP: the host gives the line up before the device's access is performed. -/
def execBackInvalidateSnoop (pa : Nat) (s : State) : Host.Outcome State Fault Refusal := .next (emit s (.backSnoop pa))

/-- DIRECTORY_INVALIDATION: answered once the lines are dropped and the device's writes to them have completed. -/
def execDirectoryInvalidation (pa size : Nat) (s : State) : Host.Outcome State Fault Refusal :=
  .next (emit s (.directoryDone pa size))

/-! ### External accesses (R325, R393, R394) -/

/-- The partition whose HBM window holds an address, if one does. -/
def windowPartition (pa : Nat) : Option Nat :=
  if paRegion pa = 0 ∧ pa < Config.partitions * Config.windowBytes then some (pa / Config.windowBytes) else none

/-- The bytes that an access touches. -/
def extBytes : ExtAccess → Nat
  | .read n => n
  | .write b => b.length
  | .atomic _ n _ => n
  | .cas n _ _ => n

/-- Whether an access writes. -/
def extWrites : ExtAccess → Bool
  | .read _ => false
  | _ => true

/-- Whether a peer's access has a form of R394. -/
def peerForm (pa : Nat) (a : ExtAccess) : Bool :=
  match a with
  | .read n => 1 ≤ n && pa % 256 + n ≤ 256
  | .write b => 1 ≤ b.length && pa % 256 + b.length ≤ 256
  | .atomic _ n _ => (n == 4 || n == 8) && pa % n == 0
  | .cas n _ _ => (n == 4 || n == 8) && pa % n == 0

/-- The group that holds a partition in the state of its interface, if one is known. -/
def groupHolding (s : State) (p : Nat) : Option Group :=
  (s.groups.find? fun g => inGroup g.1 g.2.log2 p).map (·.2)

/-- Whether an access to a partition's window is admitted: a peer writes only where the group has granted it access; the host
reaches a group in RUN only over IDE streams bound to it, which the event does not tell, and a group that is locked or in
ERROR accepts no device-memory access (R396, R397). -/
def admits (s : State) (agent : Agent) (p : Nat) (a : ExtAccess) : Bool :=
  let st := (groupHolding s p).elim Tdisp.unlocked (·.tdisp)
  st != .locked && st != .error &&
    (match agent with
     | .peer e => !extWrites a || (groupHolding s p).any fun g => g.peers.contains e
     | .host _ => st != .run || choose s 0xFA00 2 == 0)

/-- The new value of an atomic of `n` bytes (R394). -/
def linkAtomic (op : LinkAtomic) (n : Nat) (old x : BitVec 64) : BitVec 64 :=
  let w := 8 * n
  let u (v : BitVec 64) : Nat := v.toNat % 2 ^ w
  let r : Nat := match op with
    | .add => (u old + u x) % 2 ^ w
    | .minS => if signedVal w x < signedVal w old then u x else u old
    | .maxS => if signedVal w old < signedVal w x then u x else u old
    | .minU => min (u old) (u x)
    | .maxU => max (u old) (u x)
    | .and => u (old &&& x)
    | .or => u (old ||| x)
    | .xor => u (old ^^^ x)
    | .exch => u x
  BitVec.ofNat 64 r

/-- An admitted access is performed; it retires the exact sums that it meets (R199). -/
def performExternal (s : State) (agent : Agent) (pa : Nat) (a : ExtAccess) : State :=
  let s := retireRange s pa (extBytes a)
  let old := readBytes s.mem pa (extBytes a)
  let put (v : BitVec 64) : State := emit (memWrite s pa (leBytes v.toNat (extBytes a))) (.accessData agent old)
  match a with
  | .read _ => emit s (.accessData agent old)
  | .write b => emit (memWrite s pa b) (.accessDone agent)
  | .atomic op n x => put (linkAtomic op n (BitVec.ofNat 64 (leNat old)) x)
  | .cas n x y =>
    if leNat old = x.toNat % 2 ^ (8 * n) then put y else emit s (.accessData agent old)

/-- EXTERNAL_ACCESS (R325): refused with an error, and without an effect, outside the windows or where it is not admitted;
poisoned data is reported as an error. A write of bytes that a resilient block holds between a read and a write of its own, and
an atomic of bytes that it holds a store to, follow that block's commit (R335): they are taken up again in the next cycle.
Without a booted device there is nothing that answers (R447). -/
def execExternalAccess (agent : Agent) (pa : Nat) (a : ExtAccess) (s : State) : Host.Outcome State Fault Refusal :=
  let refuse := emit s (.accessError agent)
  let formed := match agent with | .peer _ => peerForm pa a | .host _ => true
  .next (if !s.firmware.booted then refuse else match windowPartition pa, windowPartition (pa + extBytes a - 1) with
    | some p, some q =>
      if !formed || !admits s agent p a || !admits s agent q a then { refuse with freeCtr := s.freeCtr + 1 }
      else
        let s := { s with freeCtr := s.freeCtr + 1 }
        let reads : Bool := match a with | .write _ => false | _ => true
        let bytes := (List.range (extBytes a)).map (pa + ·)
        if extWrites a && lockedBytes s none reads bytes then
          let later := Turn.event s.subject (.externalAccess agent pa a)
          { freeLocks s none reads bytes with inputs := (s.inputs.headD [] ++ [later]) :: s.inputs.tail }
        else if reads && poisoned s pa (extBytes a) then emit s (.accessError agent) else performExternal s agent pa a
    | _, _ => refuse)

/-! ### Failing links -/

/-- What of a load's data a port holds. -/
def PendingLoad.heldOn (l : PendingLoad) (port : Nat) : List (Lanes × Nat × BitVec 64) := l.link.filter fun e => e.2.1 == port

/-- A fragment's first load whose data a failed port holds ends with 0x09 (R413). -/
def failLoad (s : State) (core port : Nat) (r : FragRef) : State :=
  match (fragOf s core r).bind fun f => f.loads.find? fun l => !(l.heldOn port).isEmpty with
  | none => s
  | some l =>
    let hit := l.heldOn port
    let lanes := hit.foldl (fun m e => m ||| e.1) (0 : Lanes)
    let rest : PendingLoad := { l.without lanes with link := l.link.filter fun e => e.2.1 != port }
    endLoad s core r l rest 0x09 lanes ((hit.find? fun e => e.1.getLsbD (lowestLane lanes)).elim 0 (·.2.2))

/-- Every load that a failed port holds fails, fragment by fragment. -/
def failLoads (s : State) (port : Nat) : State :=
  let frags := s.cores.flatMap fun k => k.2.blocks.flatMap fun b => b.2.waves.flatMap fun w =>
    w.frags.flatMap fun f => f.loads.map fun _ => (k.1, (⟨b.1, w.idx, f.id⟩ : FragRef))
  frags.foldl (fun s e => failLoad s e.1 port e.2) s

/-- A CXL port fails (R413): the loads that it holds end with 0x09, and from now on the accesses through it, posted stores not
yet accepted included. -/
def failCxl (s : State) (port : Nat) : State :=
  if 2 ≤ port ∨ s.links.cxlDown.contains port then s
  else
    let s := failLoads { s with links := { s.links with
      cxlDown := s.links.cxlDown ++ [port], flights := s.links.flights.filter fun x => x.port != port } } port
    logEvent s (900 + port) 4 0xFF 0 0

/-- CXL_LINK_DOWN (R413). -/
def execCxlLinkDown (port : Nat) (s : State) : Host.Outcome State Fault Refusal := .next (failCxl s port)

/-- CXL_COMPLETION_TIMEOUT (R413): the same as a link that goes down. -/
def execCxlCompletionTimeout (port : Nat) (s : State) : Host.Outcome State Fault Refusal := .next (failCxl s port)

/-- CXL_PORT_REENABLE (R413). -/
def execCxlPortReenable (port : Nat) (s : State) : Host.Outcome State Fault Refusal :=
  .next { s with links := { s.links with cxlDown := s.links.cxlDown.filter (· != port) } }

/-- The groups of contexts with a remote rank whose traffic a station carries. -/
def groupsAcross (s : State) (station : Nat) : List (Nat × Nat) :=
  s.contexts.flatMap fun k =>
    (k.collGroups.filter fun g => g.ranks.any fun e =>
      e.1 != Config.endpoint && Config.ualinkStation (e.1 % 256) % 24 == station).map fun g => (k.asid, g.gid)

/-- UALINK_LINK_FAILURE (R238): every COLL member whose data crossed the link, and whose exchange is not over, ends with
LINK. -/
def execUalinkLinkFailure (station : Nat) (s : State) : Host.Outcome State Fault Refusal :=
  .next (if 24 ≤ station ∨ s.links.ualinkDown.contains station then s
    else
      let s := { s with links := { s.links with ualinkDown := s.links.ualinkDown ++ [station] } }
      let hit := groupsAcross s station
      let s := { s with contributions := s.contributions.map fun (x : Contribution) =>
        if (hit.contains (x.asid, x.gid) && x.result.isNone && x.failed.isNone) then { x with failed := some stLink } else x }
      logEvent s (902 + station) 4 0xFF 0 0)

/-- ETHERNET_LINK_FAILURE (R422): logged on the port's channel. -/
def execEthernetLinkFailure (port : Nat) (s : State) : Host.Outcome State Fault Refusal :=
  .next (if 2 ≤ port then s
    else
      let s := { s with links := { s.links with ethDown := (s.links.ethDown.filter (· != port)) ++ [port] } }
      logEvent s (926 + port) 4 0xFF 0 0)

end Sys2Proof.Machine
end

