-- ==== Sys2Proof/Machine/ContextEvents.lean ====
section
/-! DEFINITION. The life of a context as events: creation and end (R399), pre-emption and resumption (R407), and the end of
an identifier's quarantine (R398). -/

namespace Sys2Proof.Machine

/-! ### Creation and end -/

/-- Whether a group of partitions is one: 2^j of them, aligned (R365). -/
def groupValid (first log2 : Nat) : Bool := log2 ≤ 6 && first % 2 ^ log2 == 0 && first + 2 ^ log2 ≤ Config.partitions

/-- Whether Dibor may create a context: ASID 0 is its own, a live or quarantined identifier is refused, and a PASID is bound
once (R391, R398). -/
def mayCreate (s : State) (x : ContextSpec) : Bool :=
  x.asid != 0 && x.asid < 65536 && (contextOf s x.asid).isNone && !(s.quarantine.any fun q => q.asid == x.asid) &&
    !(s.contexts.any fun k => k.pasid == x.pasid) && groupValid x.group x.groupLog2 &&
    !(s.groups.any fun g => g.2.stopping && inGroup g.1 g.2.log2 x.group)

/-- A new context: watchdog off, comparators disabled, no collective group, a backing area of 128 images (R399, R200). -/
def newContext (x : ContextSpec) : Context :=
  { asid := x.asid, pasid := x.pasid, group := x.group, groupLog2 := x.groupLog2, ptroot := x.ptroot
    spillBase := x.spillBase, spillSize := x.spillSize, spillSlots := x.spillSlots, sigTab := x.sigTab, svcCh := x.svcCh }

/-- CONTEXT_CREATE (R399). -/
def execContextCreate (x : ContextSpec) (s : State) : Host.Outcome State Fault Refusal :=
  .next (viaDibor (.contextCreate x) s fun s =>
    if mayCreate s x then { s with contexts := s.contexts ++ [newContext x] } else s)

/-- CONTEXT_END (R399). -/
def execContextEnd (asid : Nat) (s : State) : Host.Outcome State Fault Refusal :=
  .next (viaDibor (.contextEnd asid) s fun s => endContext s asid)

/-- ASID_QUARANTINE_END (R398): at zero outstanding requests, or after 2 s; the report goes to the driver. -/
def execAsidQuarantineEnd (s : State) : Host.Outcome State Fault Refusal :=
  let asid := s.subject.asid
  .next (match s.quarantine.find? fun q => q.asid == asid with
    | none => s
    | some q =>
      if (contextOf s asid).isSome then s
      else if openRequests s q = 0 ∨ q.since + 2 * 10 ^ 9 ≤ s.timebase then
        emit { s with quarantine := s.quarantine.filter fun x => x.asid != asid
                      pageRequests := s.pageRequests.filter fun r => r.asid != asid }
          (.teardown asid q.completions q.bytes (openRequests s q == 0))
      else s)

/-! ### Pre-emption (R407) -/

/-- Whether a block belongs to what is pre-empted. -/
def targetHolds (b : Block) : PreemptTarget → Bool
  | .context a => b.asid == a
  | .group g => b.home.1 == g

/-- The resident blocks of a target. -/
def targetBlocks (s : State) (t : PreemptTarget) : List (Nat × Nat) := residentBlocks s fun b => targetHolds b t

/-- The drain's deadline in µs: 200 unless the request sets 0 to 10^6. -/
def drainMicros (d : Nat) : Nat := if d ≤ 10 ^ 6 then d else 200

/-- PREEMPT_REQUEST (R407): the drain starts. -/
def execPreemptRequest (t : PreemptTarget) (deadline : Nat) (s : State) : Host.Outcome State Fault Refusal :=
  .next (viaDibor (.preemptRequest t deadline) s fun s =>
    if s.preempts.any fun p => p.target == t then s
    else { s with preempts := s.preempts ++ [⟨t, s.timebase, s.timebase + 1000 * drainMicros deadline, false⟩] })

/-- The pre-emption that an event concerns: that of the subject's context, or else of its group. -/
def subjectPreempt (s : State) : Option Preempt :=
  (s.preempts.find? fun p => p.target == .context s.subject.asid && s.subject.asid != 0).orElse fun _ =>
    s.preempts.find? fun p => p.target == .group s.subject.group && s.subject.asid == 0

/-- The Darner of a block's core is sent a swap request, with the image's address. -/
def requestSwap (s : State) (e : Nat × Nat) : State :=
  match blockOf s e.1 e.2 with
  | none => s
  | some b => notifyDarner s e.1 (.swapOut e.2 (imageAddr s e.1 (imageKey b.launch b.lin 2) (imageBound b.hdr) []))

/-- DRAIN_DEADLINE (R407): swap-out starts for the blocks that have not retired. -/
def execDrainDeadline (s : State) : Host.Outcome State Fault Refusal :=
  .next (match subjectPreempt s with
    | none => s
    | some p =>
      if p.swapping ∨ s.timebase < p.deadline then s
      else
        let s := { s with preempts := s.preempts.map fun (x : Preempt) =>
          if x.target = p.target then { x with swapping := true } else x }
        (targetBlocks s p.target).foldl requestSwap s)

/-- FORCED_RESET (R407): 1 ms after the deadline, with a block still resident, the contexts end. -/
def execForcedReset (s : State) : Host.Outcome State Fault Refusal :=
  .next (match subjectPreempt s with
    | none => s
    | some p =>
      if !p.swapping || s.timebase < p.deadline + 10 ^ 6 || (targetBlocks s p.target).isEmpty then s
      else
        let s := { s with preempts := s.preempts.filter fun x => x.target != p.target }
        match p.target with
        | .context a => endContext s a
        | .group g => ((s.contexts.filter fun k => k.group == g).map (·.asid)).foldl endContext s)

/-! ### Resumption (R407) -/

/-- Whether a core's Darner has been asked to restore an image. -/
def restoreAsked (s : State) (asid pa : Nat) : Bool :=
  s.cores.any fun c => c.2.darner.events.contains (.restore asid pa) || c.2.darner.current == some (.restore asid pa)

/-- The images of a context that no Darner has been asked to restore, in ascending linear block index. -/
def imagesOf (s : State) (asid : Nat) : List Image :=
  sortBy (fun x y => x.lin ≤ y.lin) (s.images.filter fun x => x.asid == asid && !restoreAsked s asid x.pa)

/-- The cores for some images by the placement rule (R376), one after another: `plan` is the state in which the earlier ones
have their room. An image without room goes to the first core of the group, whose CTXLD waits for it. -/
def planRestores (plan : State) : List Image → List (Nat × Image)
  | [] => []
  | x :: r =>
    match launchOf plan x.launch with
    | none => planRestores plan r
    | some la =>
      let cores := groupCores x.home.1 x.home.2
      let l := physRead plan none x.pa x.bytes
      let la := imageLaunch l la
      match chooseCore plan cores la.hdr la.bdim (imageNeeds l) with
      | none => (cores.headD 0, x) :: planRestores plan r
      | some (c, p) =>
        let b := newBlock { la with group := x.home.1, groupLog2 := x.home.2 } x.lin p [] none 0
        (c, x) :: planRestores (modCore plan c fun k => takeBlock k p b) r

/-- CONTEXT_RESUME (R407): the context is no longer pre-empted, and each image's restore request goes to its core. -/
def execContextResume (asid : Nat) (s : State) : Host.Outcome State Fault Refusal :=
  .next (viaDibor (.contextResume asid) s fun s =>
    match contextOf s asid with
    | none => s
    | some k =>
      let s := { s with preempts := s.preempts.filter fun p => p.target != .context asid && p.target != .group k.group }
      (planRestores s (imagesOf s asid)).foldl (fun s e => notifyDarner s e.1 (.restore asid e.2.pa)) s)

end Sys2Proof.Machine
end

