-- ==== Sys2Proof/Machine/Errors.lean ====
section
/-! DEFINITION. Errors: corrected ones (R428), the containment of uncorrectable ones (R422 to R424), and the driver's writes
to the error log's registers (R426). -/

namespace Sys2Proof.Machine

/-! ### Corrected errors -/

/-- The kind of a corrected event: a link's or the network's is a retry (R427). -/
def correctedKind (chan : Nat) : Nat := if 900 ≤ chan then 3 else 0

/-- A corrected event of an HBM pseudo-channel's bank counts for a second (R440). -/
def noteCorrected (s : State) (chan addr : Nat) : State :=
  if 512 ≤ chan then s
  else
    { s with hbm := { s.hbm with
        recent := (s.hbm.recent.filter fun e => s.timebase < e.2.2 + 10 ^ 9) ++
          [(chan, Config.bankOf addr % 32, s.timebase)] } }

/-- CORRECTED_ERROR (R428). -/
def execCorrectedError (chan addr part asid : Nat) (s : State) : Host.Outcome State Fault Refusal :=
  .next (if 929 ≤ chan then s else noteCorrected (logEvent s chan (correctedKind chan) part asid addr) chan addr)

/-! ### Containment (R424) -/

/-- The cores of a group other than one partition's, in service: where a launch's blocks may go. -/
def otherCores (s : State) (home : Nat × Nat) (p : Nat) : List Nat :=
  (groupCores home.1 home.2).filter fun c => partitionOf c != p && coreInService s c

/-- One block is contained: a resilient one rolls back, another is killed and counts towards its core's limit. -/
def containBlock (s : State) (core h : Nat) : State :=
  match blockOf s core h with
  | none => s
  | some b => if b.hdr.resilient then rollbackBlock s core h else countFailure (killBlock s core h) core

/-- The handles of a core's resident blocks. -/
def programHandles (s : State) (core : Nat) : List Nat :=
  ((coreOf s core).blocks.map (·.1)).filter (· < supervisorHandle)

/-- Whether a packet of a partition that leaves service ends: its launches have no other core to run on, or are not resilient. -/
def packetLost (s : State) (q : Nat) (p : Packet) : Bool :=
  let l := packetLaunches s q p.index
  l.isEmpty || l.any fun x => !x.hdr.resilient || (otherCores s (x.group, x.groupLog2) (q / 64)).isEmpty

/-- A PARTITION LEAVES SERVICE with one of its cores: the core's blocks are contained, the partition's packets are to end ABORTED,
and Dibor places nothing there until device reset. -/
def partitionOut (s : State) (core : Nat) : State :=
  let p := partitionOf core
  if (partState s p).out then s
  else
    let s := modPart s p fun x => { x with out := true }
    let s := (programHandles s core).foldl (fun s h =>
      match blockOf s core h with
      | none => s
      | some b =>
        if b.hdr.resilient && !(otherCores s b.home p).isEmpty then rollbackBlock s core h else killBlock s core h) s
    let packets := s.queues.flatMap fun q =>
      if q.1 / 64 = p then (q.2.packets.filter fun x => x.st != .done && packetLost s q.1 x).map fun x => (q.1, x.index)
      else []
    let s := packets.foldl (fun s e => askAbort s e.1 e.2) s
    logEvent s (coreChan core) 6 p 0 0

/-- Rollbacks and kills within a second at which a core fails. -/
def failureLimit : Nat := 16

/-- A core that has reached the limit takes its partition out of service. -/
def checkFailures (s : State) (core : Nat) : State :=
  if failureLimit ≤ ((coreOf s core).failures.filter fun t => s.timebase < t + 10 ^ 9).length then partitionOut s core else s

/-- Dibor restarts a Darner whose own state is lost; while its own core has failed, the Darner stays stopped (R445). -/
def resetDarner (s : State) (core : Nat) : State :=
  modCore s core fun k =>
    let k := { k with darner := { events := k.darner.events, routines := k.darner.routines } }
    if s.firmware.suspended then { k with darner := { k.darner with stopped := some (0, 0, 0) } }
    else if k.darner.routines then k
    else startDarner core k (Config.eventPc 0) (dispatchRegs core none)

/-- Sectors or words, of `unit` bytes, that a range touches. -/
def unitsOf (unit a n : Nat) : List Nat :=
  if n = 0 then [] else (List.range ((a + n - 1) / unit + 1 - a / unit)).map (a / unit + ·)

/-- A stack's EYECTL (R435). -/
def eyeCtlOf (s : State) (stack : Nat) : BitVec 32 := cellGet eyeCtlReset stack s.hbm.eyeCtl

/-- The driver interrupt of a repair or sparing event (R435). -/
def repairIrq (s : State) (stack : Nat) : State :=
  let v := eyeCtlOf s stack
  if v.getLsbD 5 then emit s (.driverInterrupt (v.toNat / 64 % 32)) else s

/-- A spare bank in use is abandoned (R442), which is a sparing event (R435): the old bank serves every row again, and its
trigger has to recur before it is spared anew (log entry 118). -/
def abandonSpare (s : State) (stack pseudo : Nat) : State :=
  let k := 64 * stack + pseudo
  let x := cellGet ({} : Spare) k s.hbm.spares
  if x.st = 0 then s
  else
    repairIrq { s with hbm := { s.hbm with
      spares := cellSet {} k {} s.hbm.spares
      failing := s.hbm.failing.filter fun e => e != (k, x.bank)
      recent := s.hbm.recent.filter fun e => !(e.1 == k && e.2.1 == x.bank) } } stack

/-- A request that completes with poison (R422, R423): a load's lanes fault with 0x17, and so does a fragment whose fetch it
was. -/
def poisonLoad (s : State) (core : Nat) (r : FragRef) (lanes : Lanes) (addr : BitVec 64) : State :=
  match (fragOf s core r).bind fun f => f.loads.find? fun l => !(l.vs.isEmpty && l.ss.isEmpty) with
  | none => s
  | some l => endLoad s core r l (l.without lanes) 0x17 lanes addr

/-- The fetch of a running fragment completes with poison (R99). -/
def poisonFetch (s : State) (core : Nat) (r : FragRef) : State :=
  match placeCtx s core r with
  | none => s
  | some c =>
    if c.frag.st = .run then
      let s := if hamperRoom s c then poisonEvent s core c.blk.asid 0 else s
      takeFault c { code := 0x17, lanes := c.frag.members, info := c.frag.pc, whole := true } s s
    else s

/-- The containment of an uncorrectable error by where it strikes. A failed active Thimble core decides nothing more until a
takeover (R445). R424 and R445 speak of no failure of the standby: the model clears FWSTAT.STANDBY, so that no takeover is
possible before the next reset (DESIGN CHOICE, log entry 91). -/
def contain (s : State) : ErrorSite → State
  | .memory pa size => { s with poison := addPoison s.poison (unitsOf 32 pa size) }
  | .sram core off size =>
    modCore s core fun k => { k with sramPoison := addPoison k.sramPoison (unitsOf 4 off size) }
  | .block core h => checkFailures (containBlock s core h) core
  | .heldLine core h =>
    match blockOf s core h with
    | none => s
    | some b => if b.hdr.resilient then checkFailures (rollbackBlock s core h) core else s
  | .darner core =>
    checkFailures (resetDarner ((programHandles s core).foldl (fun s h => containBlock s core h) s) core) core
  | .coreLogic core =>
    if Config.programCores ≤ core then
      if core = Config.programCores + (if s.firmware.active then 1 else 0) then
        { s with firmware := { s.firmware with suspended := true } }
      else { s with firmware := { s.firmware with standby := false } }
    else partitionOut s core
  | .spare stack pseudo => abandonSpare s stack pseudo
  | .l1Line core pa size => modCore s core fun k => { k with l1Poison := addPoison k.l1Poison (unitsOf 4 pa size) }
  | .loadRequest core b w f lanes addr => poisonLoad s core ⟨b, w, f⟩ lanes addr
  | .storeRequest core b w ident lanes =>
    modWave s core b w fun x =>
      { x with posted := x.posted.map fun o => if o.ident = ident then { o with hit := o.hit ||| lanes } else o }
  | .engineRequest core b slot addr =>
    match opAt s ⟨core, b, slot⟩ with
    | some (k, op) =>
      if (op.st == .running || op.st == .stalled) && !op.ended then
        stopOp (poisonEvent s core k.asid 0) ⟨core, b, slot⟩ k op stUncorr addr
      else s
    | none => s
  | .fetchRequest core b w f => poisonFetch s core ⟨b, w, f⟩

/-- An uncorrectable event of an HBM pseudo-channel marks its bank (R440); one of a spare poisons the sector there (R422). -/
def noteUncorrected (s : State) (chan addr : Nat) (site : ErrorSite) : State :=
  match site with
  | .spare _ _ => { s with poison := addPoison s.poison (unitsOf 32 addr 1) }
  | _ =>
    let bank := (chan, Config.bankOf addr % 32)
    if 512 ≤ chan then s else { s with hbm := { s.hbm with failing := s.hbm.failing.erase bank ++ [bank] } }

/-- UNCORRECTABLE_ERROR (R424): logged, then contained. -/
def execUncorrectableError (chan addr part asid : Nat) (site : ErrorSite) (s : State) : Host.Outcome State Fault Refusal :=
  .next (if 929 ≤ chan then s
    else contain (noteUncorrected (logEvent s chan 1 part asid addr) chan addr site) site)

/-! ### The log's registers (R426) -/

/-- A write of ELOGCTL: with ENABLE the counts start anew; the reserved bits stay zero. -/
def writeElogctl (s : State) (v : BitVec 32) : State :=
  let v := v &&& 0x7FF
  if logEnabled v then { s with log := { s.log with ctl := v, wr := 0, rd := 0, drop := 0 } }
  else { s with log := { s.log with ctl := v } }

/-- A write of ELOGRD: ignored below its value, or above ELOGWR. -/
def writeElogrd (s : State) (v : BitVec 64) : State :=
  if v < s.log.rd || s.log.wr < v then s else { s with log := { s.log with rd := v } }

/-- ELOGCTL_WRITE (R426). -/
def execElogctlWrite (v : BitVec 32) (s : State) : Host.Outcome State Fault Refusal := .next (writeElogctl s v)

/-- ELOGRD_WRITE (R426). -/
def execElogrdWrite (v : BitVec 64) (s : State) : Host.Outcome State Fault Refusal := .next (writeElogrd s v)

end Sys2Proof.Machine
end

