-- ==== Sys2Proof/Machine/Hbm.lean ====
section
/-! DEFINITION. HBM margins and repair (R433 to R442): path maps, eye samples, retraining, lane repair and bank sparing. No
value that any agent observes in memory depends on them. -/

namespace Sys2Proof.Machine

/-! ### Places -/

/-- Keys of the tables of R434, R439 and R441. -/
def eyeKey (stack channel path : Nat) : Nat := stack * 16384 + channel * 512 + path
def channelKey (stack channel : Nat) : Nat := stack * 32 + channel
def spareKey (stack pseudo : Nat) : Nat := 64 * stack + pseudo

/-- Whether a stack and one of its channels exist. -/
def channelExists (stack channel : Nat) : Bool := stack < 8 && channel < 32

/-- A channel's repair state. -/
def channelOf (s : State) (stack channel : Nat) : Channel := cellGet {} (channelKey stack channel) s.hbm.channels

/-- Changes a channel's repair state. -/
def modChannel (s : State) (stack channel : Nat) (f : Channel → Channel) : State :=
  { s with hbm := { s.hbm with
      channels := cellSet {} (channelKey stack channel) (f (channelOf s stack channel)) s.hbm.channels } }

/-- The data paths that carry the logical lanes, lane by lane (R433). -/
def lanePaths (c : Channel) : List Nat := ((List.range 66).filter fun p => !c.failed.contains p).take 64

/-- The command and address paths that carry the logical lines (R433). -/
def linePaths (c : Channel) : List Nat := ((List.range 13).filter fun p => !c.caFailed.contains p).take 12

/-- A stack's EYETHR (R435). -/
def eyeThrOf (s : State) (stack : Nat) : BitVec 32 := cellGet eyeThrReset stack s.hbm.eyeThr

/-- The thresholds of EYETHR. -/
def thrRph (v : BitVec 32) : Nat := v.toNat / 2 ^ 24 % 256
def thrRpw (v : BitVec 32) : Nat := v.toNat / 2 ^ 16 % 256
def thrRth (v : BitVec 32) : Nat := v.toNat / 2 ^ 8 % 256
def thrRtw (v : BitVec 32) : Nat := v.toNat % 256

/-! ### The monitor (R434, R436) -/

/-- Whether a sample is below a pair of thresholds. -/
def belowEye (width height : BitVec 8) (w h : Nat) : Bool := width.toNat < w || height.toNat < h

/-- A stack's sample interval in ns (R435); the reserved interval 0 counts as 1 µs (log entry 117). -/
def sampleInterval (s : State) (stack : Nat) : Nat := 1000 * max 1 ((eyeCtlOf s stack).toNat / 65536)

/-- The monitor starts a round of samples on every stack whose interval is over (R434). -/
def startRounds (s : State) : State :=
  let round (stack : Nat) : Nat := cellGet 0 stack s.hbm.rounds
  let due := (List.range 8).filter fun k => round k + sampleInterval s k ≤ s.timebase
  if due.isEmpty then s
  else { s with hbm := { s.hbm with rounds := due.foldl (fun l k => cellSet 0 k s.timebase l) s.hbm.rounds } }

/-- Whether a path has a sample to come in its stack's round: it is in service, and was last sampled before the round began. -/
def sampleDue (s : State) (stack channel path : Nat) : Bool :=
  channelExists stack channel && (lanePaths (channelOf s stack channel)).contains path &&
    (cellGet ({} : Eye) (eyeKey stack channel path) s.hbm.eyes).sampled < cellGet 0 stack s.hbm.rounds

/-- EYE_SAMPLE (R434, R436): a path that is due is sampled and compared. -/
def execEyeSample (stack channel path : Nat) (width height : BitVec 8) (s : State) : Host.Outcome State Fault Refusal :=
  .next (if !sampleDue s stack channel path then s
    else
      let k := eyeKey stack channel path
      let e := cellGet {} k s.hbm.eyes
      let e : Eye :=
        { valid := true, minw := if width < e.minw then width else e.minw, height := height, width := width
          sampled := s.timebase }
      let s := { s with hbm := { s.hbm with eyes := cellSet {} k e s.hbm.eyes } }
      let t := eyeThrOf s stack
      if belowEye width height (thrRpw t) (thrRph t) then modChannel s stack channel fun c => { c with repReq := true }
      else if belowEye width height (thrRtw t) (thrRth t) then modChannel s stack channel fun c => { c with rtReq := true }
      else s)

/-- The samples of the round of a stack that begins now: of each path that is due, with the eye that it has at this time (log
entry 117). -/
def roundSamples (s : State) (stack : Nat) : List Instr :=
  if cellGet 0 stack s.hbm.rounds ≠ s.timebase ∨ s.timebase = 0 then []
  else
    (List.range 32).flatMap fun c => ((lanePaths (channelOf s stack c)).filter (sampleDue s stack c)).map fun p =>
      let v := Config.eye (eyeKey stack c p) s.timebase
      .eyeSample stack c p (v.extractLsb' 0 8) (v.extractLsb' 8 8)

/-- CA_PARITY_FAILURE (R436): a path has failed its parity on 16 consecutive commands. -/
def execCaParityFailure (stack channel path : Nat) (s : State) : Host.Outcome State Fault Refusal :=
  .next (if !channelExists stack channel || !(linePaths (channelOf s stack channel)).contains path then s
    else
      modChannel s stack channel fun c =>
        { c with repReq := true, caWeak := (c.caWeak.filter (· != path)) ++ [path] })

/-- A write of a path's register clears MINW (R434). -/
def clearMinw (s : State) (stack channel path : Nat) : State :=
  if !channelExists stack channel || 66 ≤ path then s
  else
    let k := eyeKey stack channel path
    { s with hbm := { s.hbm with eyes := cellSet {} k { cellGet {} k s.hbm.eyes with minw := 0xFF } s.hbm.eyes } }

/-- EYE_PATH_WRITE (R434). -/
def execEyePathWrite (stack channel path : Nat) (_value : BitVec 32) (s : State) : Host.Outcome State Fault Refusal :=
  .next (clearMinw s stack channel path)

/-- A write of EYETHR, ignored unless the repair thresholds lie below the retrain thresholds (R435). -/
def writeEyethr (s : State) (stack : Nat) (v : BitVec 32) : State :=
  if 8 ≤ stack ∨ thrRtw v ≤ thrRpw v ∨ thrRth v ≤ thrRph v then s
  else { s with hbm := { s.hbm with eyeThr := cellSet eyeThrReset stack v s.hbm.eyeThr } }

/-- EYETHR_WRITE (R435). -/
def execEyethrWrite (stack : Nat) (v : BitVec 32) (s : State) : Host.Outcome State Fault Refusal :=
  .next (writeEyethr s stack v)

/-- A write of REPAIR: writing 1 clears REPREQ and RTREQ (R439). -/
def writeRepair (s : State) (stack channel : Nat) (v : BitVec 32) : State :=
  if !channelExists stack channel then s
  else
    modChannel s stack channel fun c =>
      { c with repReq := c.repReq && !v.getLsbD 31, rtReq := c.rtReq && !v.getLsbD 30 }

/-- REPAIR_WRITE (R439). -/
def execRepairWrite (stack channel : Nat) (v : BitVec 32) (s : State) : Host.Outcome State Fault Refusal :=
  .next (writeRepair s stack channel v)

/-- What REPAIR reads (R439). -/
def repairWord (c : Channel) : BitVec 32 :=
  let fail (k : Nat) : Nat := (c.failed[k]?).getD 0x7F
  BitVec.ofNat 32 ((if c.repReq then 2 ^ 31 else 0) + (if c.rtReq then 2 ^ 30 else 0) + c.caFailed.length % 4 * 2 ^ 28 +
    (if c.outOfSpares then 3 else c.failed.length) % 4 * 2 ^ 26 + fail 1 % 128 * 2 ^ 14 + fail 0 % 128 * 2 ^ 7)

/-- What a path's register reads (R434). -/
def eyeWord (s : State) (stack channel path : Nat) : BitVec 32 :=
  let e := cellGet ({} : Eye) (eyeKey stack channel path) s.hbm.eyes
  BitVec.ofNat 32 ((if (channelOf s stack channel).failed.contains path then 2 ^ 25 else 0) + (if e.valid then 2 ^ 24 else 0) +
    e.minw.toNat * 2 ^ 16 + e.height.toNat * 2 ^ 8 + e.width.toNat)

/-- What SPARE reads (R441): zero in the standard configuration. -/
def spareWord (s : State) (stack pseudo : Nat) : BitVec 64 :=
  let x := cellGet ({} : Spare) (spareKey stack pseudo) s.hbm.spares
  if Config.largeMemory then BitVec.ofNat 64 (x.bptr * 2 ^ 23 + x.bank % 32 * 2 ^ 18 + x.st % 4) else 0

/-! ### Retraining and repair (R436 to R438) -/

/-- The channel of a stack that Dibor serves next: REPREQ before RTREQ, lower channels first. -/
def nextChannel (s : State) (stack : Nat) : Option (Nat × Bool) :=
  match (List.range 32).find? fun c => (channelOf s stack c).repReq with
  | some c => some (c, true)
  | none => ((List.range 32).find? fun c => (channelOf s stack c).rtReq).map fun c => (c, false)

/-- CHANNEL_RETRAIN (R437): the subject's channel is held, retrained and released in one step. -/
def execChannelRetrain (s : State) : Host.Outcome State Fault Refusal :=
  let k := s.subject.stack
  .next (match nextChannel s k with
    | some (c, false) => if c = s.subject.channel then modChannel s k c fun x => { x with rtReq := false } else s
    | _ => s)

/-- The weakest path in service below a repair threshold: the least width, then the least height, then the lowest number. -/
def weakestPath (s : State) (stack channel : Nat) : Option Nat :=
  let t := eyeThrOf s stack
  let weak := (lanePaths (channelOf s stack channel)).filterMap fun p =>
    let e := cellGet ({} : Eye) (eyeKey stack channel p) s.hbm.eyes
    if e.valid && belowEye e.width e.height (thrRpw t) (thrRph t) then some (p, e) else none
  (weak.foldl (fun m e =>
    match m with
    | none => some e
    | some x =>
      if e.2.width < x.2.width || (e.2.width == x.2.width && e.2.height < x.2.height) then some e else some x)
    none).map (·.1)

/-- The command path that a repair takes out of service. -/
def takeOutCommand (c : Channel) : Channel :=
  match c.caWeak with
  | [] => c
  | p :: r => if c.caFailed.length < 1 then { c with caFailed := c.caFailed ++ [p], caWeak := r } else { c with caWeak := r }

/-- The path that a repair takes out of service: a weak data path, or, where none is weak or no spare is left for it, a command
path that has failed its parity; a channel without a spare runs on. -/
def takeOut (c : Channel) (weak : Option Nat) : Channel :=
  match weak with
  | some p => if c.failed.length < 2 then { c with failed := c.failed ++ [p] } else takeOutCommand { c with outOfSpares := true }
  | none => takeOutCommand c

/-- LANE_REPAIR (R438): the weakest path is marked failed, the lanes are mapped anew, and the channel is retrained, which
clears both requests. -/
def execLaneRepair (s : State) : Host.Outcome State Fault Refusal :=
  let k := s.subject.stack
  .next (match nextChannel s k with
    | some (c, true) =>
      if c = s.subject.channel then
        repairIrq (modChannel s k c fun x =>
          { takeOut x (weakestPath s k c) with repReq := false, rtReq := false }) k
      else s
    | _ => s)

/-! ### Bank sparing (R440 to R442) -/

/-- Rows of a bank. -/
def bankRows : Nat := 65536

/-- Whether a bank's errors call for its sparing. -/
def spareTrigger (s : State) (chan bank : Nat) : Bool :=
  s.hbm.failing.contains (chan, bank) ||
    64 < (s.hbm.recent.filter fun e => e.1 == chan && e.2.1 == bank && s.timebase < e.2.2 + 10 ^ 9).length

/-- BANK_SPARE_START (R440): in the large configuration, while the pseudo-channel's spare is unused. -/
def execBankSpareStart (stack pseudo bank : Nat) (s : State) : Host.Outcome State Fault Refusal :=
  let k := spareKey stack pseudo
  .next (if Config.largeMemory && stack < 8 && pseudo < 64 && bank < 32 && (cellGet ({} : Spare) k s.hbm.spares).st == 0 &&
      spareTrigger s k bank then
      repairIrq { s with hbm := { s.hbm with
          spares := cellSet {} k { bptr := 0, bank := bank, st := 1, since := s.timebase } s.hbm.spares } } stack
    else s)

/-- The copies move on: a row takes 200 ns (R440). -/
def advanceSpares (s : State) : State :=
  { s with hbm := { s.hbm with spares := s.hbm.spares.map fun e =>
      (e.1, if e.2.st = 1 then { e.2 with bptr := min bankRows (max e.2.bptr ((s.timebase - e.2.since) / 200)) } else e.2) } }

/-- BANK_SPARE_COMPLETE (R440): the subject's stack and channel name the pseudo-channel. -/
def execBankSpareComplete (s : State) : Host.Outcome State Fault Refusal :=
  let k := spareKey s.subject.stack s.subject.channel
  let x := cellGet ({} : Spare) k s.hbm.spares
  .next (if x.st = 1 ∧ x.bptr = bankRows then
      repairIrq { s with hbm := { s.hbm with spares := cellSet {} k { x with st := 2 } s.hbm.spares } } s.subject.stack
    else s)

end Sys2Proof.Machine
end

