-- ==== Sys2Proof/Machine/Firmware.lean ====
section
/-! DEFINITION. The firmware cores and power: the journal and the takeover (R443 to R445), reset and boot (R446, R447, R449),
the core clock and the power limit (R451), and the management block's registers (R426). -/

namespace Sys2Proof.Machine

/-! ### The journal (R443) -/

/-- JOURNAL_COMMIT (R443): the standby acknowledges the oldest record, and Dibor performs its decision next. -/
def execJournalCommit (s : State) : Host.Outcome State Fault Refusal :=
  .next (if s.firmware.suspended then s
    else
      match s.firmware.journal with
      | [] => s
      | d :: r =>
        { s with firmware := { s.firmware with journal := r, committed := s.firmware.committed + 1 }
                 agenda := .event d.subject d.step :: s.agenda })

/-- HEARTBEAT (R445). -/
def execHeartbeat (s : State) : Host.Outcome State Fault Refusal :=
  .next (if s.firmware.suspended || !s.firmware.booted then s
    else { s with firmware := { s.firmware with lastBeat := s.timebase } })

/-! ### Takeover (R445) -/

/-- Whether three heartbeats are missed. -/
def beatsMissed (s : State) : Bool := s.firmware.lastBeat + 30000 ≤ s.timebase

/-- Step 3: the completion word of a packet recorded as COMPLETING is written again, and its interrupt raised. -/
def rewriteCompletion (s : State) (q index : Nat) : State :=
  match packetOf s q index with
  | none => s
  | some p =>
    if p.st ≠ .completing then s
    else if p.status = stAborted then abortPacket s q index
    else
      match writeCompletion s q (queueAsid (queueOf s q).desc) p.raw p.status p.killed with
      | (none, s) => s
      | (some s, _) => forgetDone (modPacket s q index fun p => { p with st := .done }) q

/-- Step 4: a request or an answer that a mailbox kept is applied. -/
def applyRequest (s : State) (i : Instr) : State :=
  let next (x : Host.Outcome State Fault Refusal) : State := match x with | .next s => s | _ => s
  match i with
  | .faultResolution page off size d => postWrite s page off size d
  | .contextCreate x => next (execContextCreate x s)
  | .contextEnd a => next (execContextEnd a s)
  | .preemptRequest t d => next (execPreemptRequest t d s)
  | .contextResume a => next (execContextResume a s)
  | .lockInterfaceRequest g => next (execLockInterfaceRequest g s)
  | .startInterfaceRequest g => next (execStartInterfaceRequest g s)
  | .stopInterfaceRequest g => next (execStopInterfaceRequest g s)
  | .getVersion => next (execGetVersion s)
  | .getCapabilities => next (execGetCapabilities s)
  | .negotiateAlgorithms a b => next (execNegotiateAlgorithms a b s)
  | .getDigests => next (execGetDigests s)
  | .getCertificate a b => next (execGetCertificate a b s)
  | .challenge n => next (execChallenge n s)
  | .getMeasurements k => next (execGetMeasurements k s)
  | _ => s

/-- Step 4: what a mailbox kept is applied. -/
def applyMail (s : State) : Mail → State
  | .request i => applyRequest s i
  | .ended launch lin killed => countEnded s launch lin killed
  | .endContext asid => endContext s asid

/-- The mailboxes' contents in core order, each core's oldest first. -/
def inCoreOrder (l : List (Nat × Mail)) : List Mail :=
  (List.range (Config.programCores + 2)).flatMap fun c => (l.filter fun m => m.1 == c).map (·.2)

/-- The TAKEOVER by the standby (R445): uncommitted records are discarded, completion words written again, the mailboxes
drained, FWSTAT updated and the interrupt raised. Queues are scanned anew from their indices. -/
def takeOver (s : State) : State :=
  let mail := inCoreOrder s.firmware.mailboxes
  let s := { s with firmware := { s.firmware with journal := [], mailboxes := [], suspended := false, standby := false } }
  let packets := s.queues.flatMap fun q => (q.2.packets.filter fun p => p.st == .completing).map fun p => (q.1, p.index)
  let s := packets.foldl (fun s e => rewriteCompletion s e.1 e.2) s
  let s := mail.foldl applyMail s
  let f := s.firmware
  let s := { s with firmware := { f with
    takeovers := f.takeovers + 1, active := !f.active, lastBeat := s.timebase } }
  if f.irqEn then emit s (.driverInterrupt f.vector.toNat) else s

/-- TAKEOVER (R445): three heartbeats missed, or a report of the active core's own uncorrectable error. Without a standby a
report leaves the device without firmware until reset. -/
def execTakeover (errorReport : Bool) (s : State) : Host.Outcome State Fault Refusal :=
  .next (if !s.firmware.booted then s
    else if s.firmware.standby then (if errorReport || beatsMissed s then takeOver s else s)
    else if errorReport then { s with firmware := { s.firmware with suspended := true } }
    else s)

/-! ### Reset and power (R447, R449) -/

/-- What outlives a reset: the repair store, whose unfinished copies are gone (R442). -/
def keptHbm (h : Hbm) : Hbm :=
  { channels := (h.channels.map fun e =>
      (e.1, ({ failed := e.2.failed, caFailed := e.2.caFailed, outOfSpares := e.2.outOfSpares } : Channel))).filter
        fun e => e.2 != {}
    spares := h.spares.filter fun e => e.2.st == 2 }

/-- The boot ROM's checks (R447). -/
def imageBoots (x : BootImage) (fused : Nat) : Bool := x.hashOk && x.signatureOk && fused ≤ x.version

/-- The device as power-up leaves it, with the fuses and the repair store that it had. -/
def powerUp (x : BootImage) (s : State) : State :=
  let ok := imageBoots x s.firmware.fused
  let fused := if ok then max s.firmware.fused x.version else s.firmware.fused
  { State.reset with
    hbm := keptHbm s.hbm
    firmware := { booted := ok, standby := ok, fused := fused }
    inputs := s.inputs, freeCtr := s.freeCtr, nextIdent := s.nextIdent, outbox := s.outbox }

/-- DEVICE_RESET (R447, R449): with an image that runs, Dibor reports the memory configuration as the device enumerates
(R18). -/
def execDeviceReset (x : BootImage) (s : State) : Host.Outcome State Fault Refusal :=
  let t := powerUp x s
  .next (if t.firmware.booted then emit t (.configuration Config.largeMemory) else t)

/-- CORE_GROUP_ENABLE (R449): the next 16 program cores, 50 µs after the group before. -/
def execCoreGroupEnable (s : State) : Host.Outcome State Fault Refusal :=
  let g := s.power.groups
  .next (if !s.firmware.booted || 8 ≤ g || (g != 0 && s.timebase < s.power.lastGroup + 50000) then s
    else
      let s := (List.range 16).foldl (fun s j => modCore s (16 * g + j) fun k => { k with enabled := true }) s
      { s with power := { s.power with groups := g + 1, lastGroup := s.timebase } })

/-- POWER_OFF (R449): all state is lost but the fuses and the repair store. -/
def execPowerOff (s : State) : Host.Outcome State Fault Refusal :=
  .next { powerUp ⟨false, false, 0⟩ s with power := { on := false } }

/-! ### Power control (R451) -/

/-- A core clock that Dibor may set. -/
def clockOk (mhz : Nat) : Bool := 1200 ≤ mhz && mhz ≤ 3600 && mhz % 100 == 0

/-- The clock after a millisecond: the one that Dibor asks for, where it is legal; with the power above its limit, only a lower
one, and else the next lower step, down to the lowest (log entry 119). -/
def nextClock (p : Power) (power clkMhz : Nat) : Nat :=
  if power ≤ p.limit.toNat then (if clockOk clkMhz then clkMhz else p.clkMhz)
  else if clockOk clkMhz && clkMhz < p.clkMhz then clkMhz
  else max 1200 (p.clkMhz - 100)

/-- POWER_CONTROL_STEP (R451): the telemetry of the last millisecond, and the clock that Dibor sets, by which it holds the power
at or below its limit. -/
def execPowerControlStep (power temp clkMhz : Nat) (s : State) : Host.Outcome State Fault Refusal :=
  .next (if !s.firmware.booted || s.firmware.suspended then s
    else
      { s with power := { s.power with
          power := BitVec.ofNat 16 power, temp := BitVec.ofNat 16 temp, clkMhz := nextClock s.power power clkMhz } })

/-- A write of PLIMIT, ignored outside 400 to 1,600 W (R451). -/
def writePlimit (s : State) (v : BitVec 32) : State :=
  let n := v.toNat % 65536
  if n < 400 ∨ 1600 < n then s else { s with power := { s.power with limit := BitVec.ofNat 16 n } }

/-- PLIMIT_WRITE (R451). -/
def execPlimitWrite (v : BitVec 32) (s : State) : Host.Outcome State Fault Refusal := .next (writePlimit s v)

/-! ### The management block (R426) -/

/-- A write of FWSTAT: VECTOR and IRQEN (R446). -/
def writeFwstat (s : State) (v : BitVec 32) : State :=
  { s with firmware := { s.firmware with vector := v.extractLsb' 6 5, irqEn := v.getLsbD 5 } }

/-- The fields of EYECTL; its reserved bits read as zero (R4, R435). -/
def eyeCtlMask : BitVec 32 := 0xFFFF07E0

/-- A write to the management block: each register at its offset and width; every other write is ignored. -/
def manageWrite (s : State) (off size : Nat) (v : BitVec 64) : State :=
  let w := v.extractLsb' 0 32
  if size = 8 then
    if off = 0x000 then { s with log := { s.log with base := v } }
    else if off = 0x018 then writeElogrd s v
    else s
  else if size ≠ 4 ∨ off % 4 ≠ 0 then s
  else if off = 0x008 then writeElogctl s w
  else if 0x10000 ≤ off ∧ off < 0x30000 then
    clearMinw s ((off - 0x10000) / 0x4000) (off % 0x4000 / 0x200) (off % 0x200 / 4)
  else if 0x40000 ≤ off ∧ off < 0x40200 then
    let stack := (off - 0x40000) / 0x40
    if off % 0x40 = 0 then { s with hbm := { s.hbm with eyeCtl := cellSet eyeCtlReset stack (w &&& eyeCtlMask) s.hbm.eyeCtl } }
    else if off % 0x40 = 8 then writeEyethr s stack w
    else s
  else if 0x41000 ≤ off ∧ off < 0x41400 then writeRepair s ((off - 0x41000) / 0x80) (off % 0x80 / 4) w
  else if off = 0x50000 then writeFwstat s w
  else if off = 0x50010 then writePlimit s w
  else s

/-- What FWSTAT reads (R446): zero when no image runs (R447). -/
def fwstatWord (f : Firmware) : BitVec 32 :=
  if !f.booted then 0
  else BitVec.ofNat 32 (f.takeovers.toNat * 2 ^ 16 + f.vector.toNat * 2 ^ 6 + (if f.irqEn then 2 ^ 5 else 0) +
    (if f.standby then 2 else 0) + (if f.active then 1 else 0))

/-- What PWR reads (R451). -/
def powerWord (p : Power) : BitVec 64 :=
  BitVec.ofNat 64 (p.temp.toNat * 2 ^ 48 + p.clkMhz % 65536 * 2 ^ 16 + p.power.toNat)

/-- A read of the management block: each register at its offset and width; every other read gives zero (R426). -/
def manageRead (s : State) (off size : Nat) : BitVec 64 :=
  let l := s.log
  if size = 8 then
    if off = 0x000 then l.base
    else if off = 0x010 then l.wr
    else if off = 0x018 then l.rd
    else if off = 0x020 then l.drop
    else if off = 0x028 then l.seq
    else if 0x1000 ≤ off ∧ off < 0x1000 + 8 * 929 ∧ off % 8 = 0 then
      let k := (off - 0x1000) / 8
      cellGet (0 : BitVec 32) k l.ue ++ cellGet (0 : BitVec 32) k l.ce
    else if 0x44000 ≤ off ∧ off < 0x45000 ∧ off % 8 = 0 then spareWord s ((off - 0x44000) / 512) (off % 512 / 8)
    else if off = 0x50008 then powerWord s.power
    else 0
  else if size ≠ 4 ∨ off % 4 ≠ 0 then 0
  else
    let w : BitVec 32 :=
      if off = 0x008 then l.ctl
      else if 0x10000 ≤ off ∧ off < 0x30000 then
        if off % 0x200 / 4 < 66 then eyeWord s ((off - 0x10000) / 0x4000) (off % 0x4000 / 0x200) (off % 0x200 / 4) else 0
      else if 0x40000 ≤ off ∧ off < 0x40200 then
        if off % 0x40 = 0 then eyeCtlOf s ((off - 0x40000) / 0x40)
        else if off % 0x40 = 8 then eyeThrOf s ((off - 0x40000) / 0x40)
        else 0
      else if 0x41000 ≤ off ∧ off < 0x41400 then repairWord (channelOf s ((off - 0x41000) / 0x80) (off % 0x80 / 4))
      else if off = 0x50000 then fwstatWord s.firmware
      else if off = 0x50010 then s.power.limit.setWidth 32
      else 0
    w.setWidth 64

/-- MANAGEMENT_REGISTER_WRITE (R426). -/
def execManagementRegisterWrite (off size : Nat) (v : BitVec 64) (s : State) : Host.Outcome State Fault Refusal :=
  .next (manageWrite s off size v)

end Sys2Proof.Machine
end

