-- ==== Sys2Proof/Machine/Dispatch.lean ====
section
/-! DEFINITION. The dispatch of exec: one arm for every constructor of Instr. -/

namespace Sys2Proof.Machine

/-- What an instruction or event does to the state. -/
def exec (i : Instr) (s : State) : Host.Outcome State Fault Refusal :=
  match i with
  | .nop w => Sys2Proof.Machine.execNop w s
  | .mode w g v => Sys2Proof.Machine.execMode w g v s
  | .modew w a => Sys2Proof.Machine.execModew w a s
  | .bra w o => Sys2Proof.Machine.execBra w o s
  | .brz w x0 o => Sys2Proof.Machine.execBrz w x0 o s
  | .bnz w x0 o => Sys2Proof.Machine.execBnz w x0 o s
  | .brp w o => Sys2Proof.Machine.execBrp w o s
  | .jmpi w a => Sys2Proof.Machine.execJmpi w a s
  | .call w f o => Sys2Proof.Machine.execCall w f o s
  | .calli w a f => Sys2Proof.Machine.execCalli w a f s
  | .ret w => Sys2Proof.Machine.execRet w s
  | .rcv w => Sys2Proof.Machine.execRcv w s
  | .exit w => Sys2Proof.Machine.execExit w s
  | .yield w => Sys2Proof.Machine.execYield w s
  | .sigbr w x o => Sys2Proof.Machine.execSigbr w x o s
  | .loop w x0 o => Sys2Proof.Machine.execLoop w x0 o s
  | .pset w p a => Sys2Proof.Machine.execPset w p a s
  | .pand w d a b => Sys2Proof.Machine.execPand w d a b s
  | .por w d a b => Sys2Proof.Machine.execPor w d a b s
  | .pxor w d a b => Sys2Proof.Machine.execPxor w d a b s
  | .pnot w d a => Sys2Proof.Machine.execPnot w d a s
  | .pmov w d a => Sys2Proof.Machine.execPmov w d a s
  | .mov w d a => Sys2Proof.Machine.execMov w d a s
  | .sel w d a b => Sys2Proof.Machine.execSel w d a b s
  | .lit w d v => Sys2Proof.Machine.execLit w d v s
  | .litWide w d v => Sys2Proof.Machine.execLitWide w d v s
  | .movi w d v => Sys2Proof.Machine.execMovi w d v s
  | .iaddA w d a b => Sys2Proof.Machine.execIaddA w d a b s
  | .iaddB w d a imm => Sys2Proof.Machine.execIaddB w d a imm s
  | .isub w d a b => Sys2Proof.Machine.execIsub w d a b s
  | .imul w d a b => Sys2Proof.Machine.execImul w d a b s
  | .imulh w d a b => Sys2Proof.Machine.execImulh w d a b s
  | .imad w d a b => Sys2Proof.Machine.execImad w d a b s
  | .iaddc w d a b => Sys2Proof.Machine.execIaddc w d a b s
  | .ineg w d a => Sys2Proof.Machine.execIneg w d a s
  | .iabs w d a => Sys2Proof.Machine.execIabs w d a s
  | .imin w d a b => Sys2Proof.Machine.execImin w d a b s
  | .imax w d a b => Sys2Proof.Machine.execImax w d a b s
  | .shlA w d a b => Sys2Proof.Machine.execShlA w d a b s
  | .shlB w d a imm => Sys2Proof.Machine.execShlB w d a imm s
  | .shrA w d a b => Sys2Proof.Machine.execShrA w d a b s
  | .shrB w d a imm => Sys2Proof.Machine.execShrB w d a imm s
  | .sarA w d a b => Sys2Proof.Machine.execSarA w d a b s
  | .sarB w d a imm => Sys2Proof.Machine.execSarB w d a imm s
  | .rot w d a b => Sys2Proof.Machine.execRot w d a b s
  | .andA w d a b => Sys2Proof.Machine.execAndA w d a b s
  | .andB w d a imm => Sys2Proof.Machine.execAndB w d a imm s
  | .or w d a b => Sys2Proof.Machine.execOr w d a b s
  | .xor w d a b => Sys2Proof.Machine.execXor w d a b s
  | .andn w d a b => Sys2Proof.Machine.execAndn w d a b s
  | .clz w d a => Sys2Proof.Machine.execClz w d a s
  | .popc w d a => Sys2Proof.Machine.execPopc w d a s
  | .brev w d a => Sys2Proof.Machine.execBrev w d a s
  | .bfx w d a b => Sys2Proof.Machine.execBfx w d a b s
  | .bfi w d a b => Sys2Proof.Machine.execBfi w d a b s
  | .icmpA w c p a b => Sys2Proof.Machine.execIcmpA w c p a b s
  | .icmpB w c p a imm => Sys2Proof.Machine.execIcmpB w c p a imm s
  | .addr w d a b => Sys2Proof.Machine.execAddr w d a b s
  | .cvti w d a t => Sys2Proof.Machine.execCvti w d a t s
  | .fadd w d a b => Sys2Proof.Machine.execFadd w d a b s
  | .fsub w d a b => Sys2Proof.Machine.execFsub w d a b s
  | .fmul w d a b => Sys2Proof.Machine.execFmul w d a b s
  | .ffma w d a b => Sys2Proof.Machine.execFfma w d a b s
  | .ffms w d a b => Sys2Proof.Machine.execFfms w d a b s
  | .fdiv w d a b => Sys2Proof.Machine.execFdiv w d a b s
  | .fsqrt w d a => Sys2Proof.Machine.execFsqrt w d a s
  | .frcp w d a => Sys2Proof.Machine.execFrcp w d a s
  | .frsq w d a => Sys2Proof.Machine.execFrsq w d a s
  | .fmin w d a b => Sys2Proof.Machine.execFmin w d a b s
  | .fmax w d a b => Sys2Proof.Machine.execFmax w d a b s
  | .fabs w d a => Sys2Proof.Machine.execFabs w d a s
  | .fneg w d a => Sys2Proof.Machine.execFneg w d a s
  | .fcps w d a b => Sys2Proof.Machine.execFcps w d a b s
  | .fcmp w c p a b => Sys2Proof.Machine.execFcmp w c p a b s
  | .fclass w d a => Sys2Proof.Machine.execFclass w d a s
  | .fcvt w d a t => Sys2Proof.Machine.execFcvt w d a t s
  | .icvt w d a t => Sys2Proof.Machine.execIcvt w d a t s
  | .frnd w d a => Sys2Proof.Machine.execFrnd w d a s
  | .fexp2 w d a => Sys2Proof.Machine.execFexp2 w d a s
  | .flog2 w d a => Sys2Proof.Machine.execFlog2 w d a s
  | .fsin w d a => Sys2Proof.Machine.execFsin w d a s
  | .fcos w d a => Sys2Proof.Machine.execFcos w d a s
  | .fscale w d a b => Sys2Proof.Machine.execFscale w d a b s
  | .ftag w d a => Sys2Proof.Machine.execFtag w d a s
  | .ftagw w d b => Sys2Proof.Machine.execFtagw w d b s
  | .shflIdxA w d a b => Sys2Proof.Machine.execShflIdxA w d a b s
  | .shflUpA w d a b => Sys2Proof.Machine.execShflUpA w d a b s
  | .shflDownA w d a b => Sys2Proof.Machine.execShflDownA w d a b s
  | .shflXorA w d a b => Sys2Proof.Machine.execShflXorA w d a b s
  | .shflIdxB w d a imm => Sys2Proof.Machine.execShflIdxB w d a imm s
  | .shflUpB w d a imm => Sys2Proof.Machine.execShflUpB w d a imm s
  | .shflDownB w d a imm => Sys2Proof.Machine.execShflDownB w d a imm s
  | .shflXorB w d a imm => Sys2Proof.Machine.execShflXorB w d a imm s
  | .voteAny w d a => Sys2Proof.Machine.execVoteAny w d a s
  | .voteAll w d a => Sys2Proof.Machine.execVoteAll w d a s
  | .voteBallot w d a => Sys2Proof.Machine.execVoteBallot w d a s
  | .voteEq w d a => Sys2Proof.Machine.execVoteEq w d a s
  | .wsync w a b => Sys2Proof.Machine.execWsync w a b s
  | .wred w d a o => Sys2Proof.Machine.execWred w d a o s
  | .wscan w d a o => Sys2Proof.Machine.execWscan w d a o s
  | .rdlaneA w d a b => Sys2Proof.Machine.execRdlaneA w d a b s
  | .rdlaneB w d a imm => Sys2Proof.Machine.execRdlaneB w d a imm s
  | .wrlaneA w d a b => Sys2Proof.Machine.execWrlaneA w d a b s
  | .wrlaneB w d a imm => Sys2Proof.Machine.execWrlaneB w d a imm s
  | .mask w d a => Sys2Proof.Machine.execMask w d a s
  | .execq w d => Sys2Proof.Machine.execExecq w d s
  | .wperm w d a b => Sys2Proof.Machine.execWperm w d a b s
  | .ldM w d r q a => Sys2Proof.Machine.execLdM w d r q a s
  | .ldMi w d r q imm => Sys2Proof.Machine.execLdMi w d r q imm s
  | .stM w d r q a => Sys2Proof.Machine.execStM w d r q a s
  | .stMi w d r q imm => Sys2Proof.Machine.execStMi w d r q imm s
  | .ldsM w d r q a => Sys2Proof.Machine.execLdsM w d r q a s
  | .ldsMi w d r q imm => Sys2Proof.Machine.execLdsMi w d r q imm s
  | .stsM w d r q a => Sys2Proof.Machine.execStsM w d r q a s
  | .stsMi w d r q imm => Sys2Proof.Machine.execStsMi w d r q imm s
  | .ldu w d r q a => Sys2Proof.Machine.execLdu w d r q a s
  | .stu w d r q a => Sys2Proof.Machine.execStu w d r q a s
  | .ldx w d r q a => Sys2Proof.Machine.execLdx w d r q a s
  | .stx w d r q a => Sys2Proof.Machine.execStx w d r q a s
  | .pref w r a => Sys2Proof.Machine.execPref w r a s
  | .cas w d r q a => Sys2Proof.Machine.execCas w d r q a s
  | .fatom w d r q a => Sys2Proof.Machine.execFatom w d r q a s
  | .fatomq w d r q a => Sys2Proof.Machine.execFatomq w d r q a s
  | .atomAdd w d r q a => Sys2Proof.Machine.execAtomAdd w d r q a s
  | .atomSub w d r q a => Sys2Proof.Machine.execAtomSub w d r q a s
  | .atomMin w d r q a => Sys2Proof.Machine.execAtomMin w d r q a s
  | .atomMax w d r q a => Sys2Proof.Machine.execAtomMax w d r q a s
  | .atomAnd w d r q a => Sys2Proof.Machine.execAtomAnd w d r q a s
  | .atomOr w d r q a => Sys2Proof.Machine.execAtomOr w d r q a s
  | .atomXor w d r q a => Sys2Proof.Machine.execAtomXor w d r q a s
  | .atomExch w d r q a => Sys2Proof.Machine.execAtomExch w d r q a s
  | .fenceAcq w => Sys2Proof.Machine.execFenceAcq w s
  | .fenceRel w => Sys2Proof.Machine.execFenceRel w s
  | .fenceAr w => Sys2Proof.Machine.execFenceAr w s
  | .drains w => Sys2Proof.Machine.execDrains w s
  | .recset w d r => Sys2Proof.Machine.execRecset w d r s
  | .recmod w d r a => Sys2Proof.Machine.execRecmod w d r a s
  | .recget w d r a => Sys2Proof.Machine.execRecget w d r a s
  | .cwb w r a => Sys2Proof.Machine.execCwb w r a s
  | .cinv w r a => Sys2Proof.Machine.execCinv w r a s
  | .fifopReserve w d r a => Sys2Proof.Machine.execFifopReserve w d r a s
  | .fifopCommit w d r a => Sys2Proof.Machine.execFifopCommit w d r a s
  | .fifopClaim w d r a => Sys2Proof.Machine.execFifopClaim w d r a s
  | .fifopFree w d r a => Sys2Proof.Machine.execFifopFree w d r a s
  | .wload w x0 x => Sys2Proof.Machine.execWload w x0 x s
  | .mma w x0 x => Sys2Proof.Machine.execMma w x0 x s
  | .accz w x0 f => Sys2Proof.Machine.execAccz w x0 f s
  | .accrd w x0 y f => Sys2Proof.Machine.execAccrd w x0 y f s
  | .accld w x0 x f => Sys2Proof.Machine.execAccld w x0 x f s
  | .iron w x0 => Sys2Proof.Machine.execIron w x0 s
  | .ironp w x0 => Sys2Proof.Machine.execIronp w x0 s
  | .copy w x0 x y => Sys2Proof.Machine.execCopy w x0 x y s
  | .gather w x0 x y => Sys2Proof.Machine.execGather w x0 x y s
  | .scat w x0 x y => Sys2Proof.Machine.execScat w x0 x y s
  | .quant w x0 x y f => Sys2Proof.Machine.execQuant w x0 x y f s
  | .coll w x0 x y => Sys2Proof.Machine.execColl w x0 x y s
  | .cancel w a => Sys2Proof.Machine.execCancel w a s
  | .opq w d a => Sys2Proof.Machine.execOpq w d a s
  | .opwait w d a => Sys2Proof.Machine.execOpwait w d a s
  | .send w a b => Sys2Proof.Machine.execSend w a b s
  | .sendp w a b => Sys2Proof.Machine.execSendp w a b s
  | .recv w d a => Sys2Proof.Machine.execRecv w d a s
  | .jwait w k => Sys2Proof.Machine.execJwait w k s
  | .patenOn w k => Sys2Proof.Machine.execPatenOn w k s
  | .patenOff w k => Sys2Proof.Machine.execPatenOff w k s
  | .portq w d a => Sys2Proof.Machine.execPortq w d a s
  | .bar w => Sys2Proof.Machine.execBar w s
  | .sbar w => Sys2Proof.Machine.execSbar w s
  | .trap w k => Sys2Proof.Machine.execTrap w k s
  | .rdsys w d n => Sys2Proof.Machine.execRdsys w d n s
  | .wrsys w d n => Sys2Proof.Machine.execWrsys w d n s
  | .eret w => Sys2Proof.Machine.execEret w s
  | .tlbi w a b => Sys2Proof.Machine.execTlbi w a b s
  | .ctxsv w d a b => Sys2Proof.Machine.execCtxsv w d a b s
  | .ctxld w d a => Sys2Proof.Machine.execCtxld w d a s
  | .hrelReplay w a => Sys2Proof.Machine.execHrelReplay w a s
  | .hrelSkip w a => Sys2Proof.Machine.execHrelSkip w a s
  | .hrelSignal w a => Sys2Proof.Machine.execHrelSignal w a s
  | .hrelKill w a => Sys2Proof.Machine.execHrelKill w a s
  | .sigpost w a b => Sys2Proof.Machine.execSigpost w a b s
  | .bankm w d a => Sys2Proof.Machine.execBankm w d a s
  | .chkpt w d a b => Sys2Proof.Machine.execChkpt w d a b s
  | .sfqPeek w d a b => Sys2Proof.Machine.execSfqPeek w d a b s
  | .sfqPop w d a b => Sys2Proof.Machine.execSfqPop w d a b s
  | .sfqReplay w d a b => Sys2Proof.Machine.execSfqReplay w d a b s
  | .sfqDiscard w d a b => Sys2Proof.Machine.execSfqDiscard w d a b s
  | .pmcrd w d a => Sys2Proof.Machine.execPmcrd w d a s
  | .svc w k => Sys2Proof.Machine.execSvc w k s
  | .svcWdog w => Sys2Proof.Machine.execSvcWdog w s
  | .svcDebug w => Sys2Proof.Machine.execSvcDebug w s
  | .svcCollreg w => Sys2Proof.Machine.execSvcCollreg w s
  | .svcSigret w k => Sys2Proof.Machine.execSvcSigret w k s
  | .bkpt w k => Sys2Proof.Machine.execBkpt w k s
  | .notifyWrite queue off size value => Sys2Proof.Machine.execNotifyWrite queue off size value s
  | .queueDescriptorWrite queue desc => Sys2Proof.Machine.execQueueDescriptorWrite queue desc s
  | .postPortMessage page off size desc => Sys2Proof.Machine.execPostPortMessage page off size desc s
  | .serviceReply page off size desc => Sys2Proof.Machine.execServiceReply page off size desc s
  | .faultResolution page off size desc => Sys2Proof.Machine.execFaultResolution page off size desc s
  | .translationWalk core asid va access => Sys2Proof.Machine.execTranslationWalk core asid va access s
  | .atsInvalidateRequest pasid va all => Sys2Proof.Machine.execAtsInvalidateRequest pasid va all s
  | .hostSnoop pa => Sys2Proof.Machine.execHostSnoop pa s
  | .backInvalidateSnoop pa => Sys2Proof.Machine.execBackInvalidateSnoop pa s
  | .directoryInvalidation pa size => Sys2Proof.Machine.execDirectoryInvalidation pa size s
  | .externalAccess agent pa access => Sys2Proof.Machine.execExternalAccess agent pa access s
  | .cxlLinkDown port => Sys2Proof.Machine.execCxlLinkDown port s
  | .cxlCompletionTimeout port => Sys2Proof.Machine.execCxlCompletionTimeout port s
  | .ualinkLinkFailure station => Sys2Proof.Machine.execUalinkLinkFailure station s
  | .contextCreate spec => Sys2Proof.Machine.execContextCreate spec s
  | .contextEnd asid => Sys2Proof.Machine.execContextEnd asid s
  | .preemptRequest target deadline => Sys2Proof.Machine.execPreemptRequest target deadline s
  | .contextResume asid => Sys2Proof.Machine.execContextResume asid s
  | .lockInterfaceRequest group => Sys2Proof.Machine.execLockInterfaceRequest group s
  | .startInterfaceRequest group => Sys2Proof.Machine.execStartInterfaceRequest group s
  | .stopInterfaceRequest group => Sys2Proof.Machine.execStopInterfaceRequest group s
  | .tdispError group => Sys2Proof.Machine.execTdispError group s
  | .negotiateAlgorithms signs hashes => Sys2Proof.Machine.execNegotiateAlgorithms signs hashes s
  | .getCertificate off size => Sys2Proof.Machine.execGetCertificate off size s
  | .challenge nonce => Sys2Proof.Machine.execChallenge nonce s
  | .getMeasurements index => Sys2Proof.Machine.execGetMeasurements index s
  | .correctedError chan addr part asid => Sys2Proof.Machine.execCorrectedError chan addr part asid s
  | .uncorrectableError chan addr part asid site => Sys2Proof.Machine.execUncorrectableError chan addr part asid site s
  | .elogctlWrite value => Sys2Proof.Machine.execElogctlWrite value s
  | .elogrdWrite value => Sys2Proof.Machine.execElogrdWrite value s
  | .eyeSample stack channel path width height => Sys2Proof.Machine.execEyeSample stack channel path width height s
  | .caParityFailure stack channel path => Sys2Proof.Machine.execCaParityFailure stack channel path s
  | .eyePathWrite stack channel path value => Sys2Proof.Machine.execEyePathWrite stack channel path value s
  | .eyethrWrite stack value => Sys2Proof.Machine.execEyethrWrite stack value s
  | .repairWrite stack channel value => Sys2Proof.Machine.execRepairWrite stack channel value s
  | .bankSpareStart stack pseudo bank => Sys2Proof.Machine.execBankSpareStart stack pseudo bank s
  | .takeover errorReport => Sys2Proof.Machine.execTakeover errorReport s
  | .deviceReset image => Sys2Proof.Machine.execDeviceReset image s
  | .powerControlStep power temp clkMhz => Sys2Proof.Machine.execPowerControlStep power temp clkMhz s
  | .plimitWrite value => Sys2Proof.Machine.execPlimitWrite value s
  | .managementRegisterWrite off size value => Sys2Proof.Machine.execManagementRegisterWrite off size value s
  | .unassignedOpcode word => Sys2Proof.Machine.execUnassignedOpcode word s
  | .cxlPortReenable port => Sys2Proof.Machine.execCxlPortReenable port s
  | .ethernetLinkFailure port => Sys2Proof.Machine.execEthernetLinkFailure port s
  | .packetFetch => Sys2Proof.Machine.execPacketFetch s
  | .packetOrdered => Sys2Proof.Machine.execPacketOrdered s
  | .packetDispatch => Sys2Proof.Machine.execPacketDispatch s
  | .barrierDependencyCheck => Sys2Proof.Machine.execBarrierDependencyCheck s
  | .schedulingDecision => Sys2Proof.Machine.execSchedulingDecision s
  | .queueReservation => Sys2Proof.Machine.execQueueReservation s
  | .graphNodeComplete => Sys2Proof.Machine.execGraphNodeComplete s
  | .packetComplete => Sys2Proof.Machine.execPacketComplete s
  | .blockRetirement => Sys2Proof.Machine.execBlockRetirement s
  | .messageDelivery => Sys2Proof.Machine.execMessageDelivery s
  | .sendConfirmation => Sys2Proof.Machine.execSendConfirmation s
  | .joinFiring => Sys2Proof.Machine.execJoinFiring s
  | .rcvRelease => Sys2Proof.Machine.execRcvRelease s
  | .collectiveRelease => Sys2Proof.Machine.execCollectiveRelease s
  | .wsyncRelease => Sys2Proof.Machine.execWsyncRelease s
  | .wsyncMaskMismatch => Sys2Proof.Machine.execWsyncMaskMismatch s
  | .barRelease => Sys2Proof.Machine.execBarRelease s
  | .sbarRelease => Sys2Proof.Machine.execSbarRelease s
  | .collectiveDeadlock => Sys2Proof.Machine.execCollectiveDeadlock s
  | .waitEventResume => Sys2Proof.Machine.execWaitEventResume s
  | .hamperEntryFreed => Sys2Proof.Machine.execHamperEntryFreed s
  | .fragmentExchange => Sys2Proof.Machine.execFragmentExchange s
  | .pendingDisplacement => Sys2Proof.Machine.execPendingDisplacement s
  | .loadDataReturn => Sys2Proof.Machine.execLoadDataReturn s
  | .postedStoreAccept => Sys2Proof.Machine.execPostedStoreAccept s
  | .storeFaultRecord => Sys2Proof.Machine.execStoreFaultRecord s
  | .invalidationAck => Sys2Proof.Machine.execInvalidationAck s
  | .darnerEvent => Sys2Proof.Machine.execDarnerEvent s
  | .darnerRestart => Sys2Proof.Machine.execDarnerRestart s
  | .watchdog => Sys2Proof.Machine.execWatchdog s
  | .pressGrant => Sys2Proof.Machine.execPressGrant s
  | .mangleChannelTake => Sys2Proof.Machine.execMangleChannelTake s
  | .engineResume => Sys2Proof.Machine.execEngineResume s
  | .engineCompletion => Sys2Proof.Machine.execEngineCompletion s
  | .collExchangeComplete => Sys2Proof.Machine.execCollExchangeComplete s
  | .drainDeadline => Sys2Proof.Machine.execDrainDeadline s
  | .forcedReset => Sys2Proof.Machine.execForcedReset s
  | .asidQuarantineEnd => Sys2Proof.Machine.execAsidQuarantineEnd s
  | .getVersion => Sys2Proof.Machine.execGetVersion s
  | .getCapabilities => Sys2Proof.Machine.execGetCapabilities s
  | .getDigests => Sys2Proof.Machine.execGetDigests s
  | .checkpointInterval => Sys2Proof.Machine.execCheckpointInterval s
  | .checkpointCommit => Sys2Proof.Machine.execCheckpointCommit s
  | .channelRetrain => Sys2Proof.Machine.execChannelRetrain s
  | .laneRepair => Sys2Proof.Machine.execLaneRepair s
  | .bankSpareComplete => Sys2Proof.Machine.execBankSpareComplete s
  | .journalCommit => Sys2Proof.Machine.execJournalCommit s
  | .heartbeat => Sys2Proof.Machine.execHeartbeat s
  | .coreGroupEnable => Sys2Proof.Machine.execCoreGroupEnable s
  | .pressIdle => Sys2Proof.Machine.execPressIdle s
  | .powerOff => Sys2Proof.Machine.execPowerOff s

end Sys2Proof.Machine
end

