-- ==== Sys2Proof/Machine/Turns.lean ====
section
/-! DEFINITION. The turns of a cycle: which fragment a quadrant issues (R265 to R271), the issue of one instruction (R92,
R99, R353), and the agenda of a new cycle: the events whose conditions hold, in the order that the rules on events of one
cycle give (R314, R317). Each event judges its condition again when its turn comes, so the agenda may name more than
happen. -/

namespace Sys2Proof.Machine

/-! ### Readiness (R266) -/

/-- Whether an instruction reads two registers of one bank that the forwarding window of the last eight issues does not
serve (R107): a register's bank is its stack index mod 4. -/
def bankConflict (c : Ctx) (i : Instr) : Bool :=
  let base := c.wave.wbOf (lowestLane c.frag.members)
  let served (n : Nat) : Bool := (c.frag.hist.take 8).any fun h => h.vs.any fun e => e.1 / 32 == base + n
  let l := (readCodes i c.frag.mode (coveredByRecord c i)).filter fun n => n < 64 && !served n
  l.any fun n => l.any fun m => n != m && (base + n) % 4 == (base + m) % 4

/-- Whether the banks hold a fragment back in the first cycle that its stall count allows (R107). -/
def bankStall (s : State) (core : Nat) (p : Placed) : Bool :=
  p.frag.stallUntil == s.cycle &&
    (match placeCtx s core p.ref with
     | none => false
     | some c =>
       match fetchInstr s core p.ref.block c.blk c.frag.pc.toNat with
       | .ok _ i _ => bankConflict c i
       | _ => false)

/-- Whether a fragment may issue in this cycle, apart from its place in the quadrant (R103, R107, R266): its block is not being
saved, nor held for a checkpoint (R408, R429), and the core's Darner is not stopped, which stops the core's program blocks
too (R242). -/
def ready (s : State) (core : Nat) (p : Placed) : Bool :=
  let k := coreOf s core
  p.frag.st == .run && p.frag.stallUntil ≤ s.cycle && k.darner.stopped.isNone &&
    (match tabGet p.ref.block k.blocks with
     | none => false
     | some b => !b.stopped && !(b.hdr.resilient && b.ckpt.due)) &&
    !interlocked s core p.ref && !bankStall s core p

/-! ### The slots of a quadrant -/

/-- The cores that issue: enabled program cores and the Thimble cores. -/
def activeCores (s : State) : List (Nat × Core) := s.cores.filter fun e => e.2.enabled || isThimble e.1

/-- The slots of a quadrant at the start of a cycle: fragments that wait, park or ended have left, the pending ones know since when
they are ready, and the slots that the cycle before left free are filled: one that enters now issues from the next cycle on
(R268, R269). -/
def refreshSlots (s : State) (core q : Nat) : State :=
  let k := settleSlots (coreOf s core)
  let pending := (k.quadrantFragments q).filter fun p => !p.frag.slot.active
  let since (p : Placed) : Option Nat := if ready s core p then some (p.frag.slot.readySince.getD s.cycle) else none
  let k := pending.foldl (fun k p => k.modFrag p.ref fun f => { f with slot := { f.slot with readySince := since p } }) k
  let k := fillSlots k s.cycle q 8
  let k := if q = 0 then fillDarnerSlot k s.cycle q else k
  modCore s core fun _ => k

/-- The slots of every core at the start of a cycle. -/
def refreshCores (s : State) : State :=
  (activeCores s).foldl (fun s e => (List.range 4).foldl (fun s q => refreshSlots s e.1 q) s) s

/-- A quadrant's ready active fragments in the order of the recency list. One that entered in this cycle issues from the
next (R268). -/
def readyList (s : State) (core q : Nat) : List Placed :=
  let k := coreOf s core
  let l := (k.quadrantFragments q).filter fun p => p.frag.slot.active && p.frag.slot.entered < s.cycle && ready s core p
  (k.recency q).filterMap fun r => l.find? fun p => p.ref == r

/-- The selection of R267 among the ready fragments. -/
def pickIssue (l : List Placed) : Option Placed :=
  (l.find? fun p => 8 ≤ p.frag.slot.passed).orElse fun _ =>
    (l.find? fun p => p.darner).orElse fun _ => (l.find? fun p => p.handler).orElse fun _ => l.head?

/-- Whether an instruction may be fused under a TYPE (R124, R178, R270). -/
def fusible (i : Instr) (t : Nat) : Bool :=
  !fragmentForm i && !uniformIssue i &&
    (match i with
     | .brp _ _ | .sigbr _ _ _ | .exit _ | .wsync _ _ _ => false
     | .fcvt _ _ _ _ => !isBx t
     | _ => opcodeOf (firstWord i) / 32 ≤ 2)

/-- The fragment that issues with a selected one (R270, R271). -/
def fusionPartner (s : State) (core : Nat) (l : List Placed) (p : Placed) : Option Placed :=
  match placeCtx s core p.ref with
  | none => none
  | some c =>
    let launchOfBlock (h : Nat) : Option Nat := (blockOf s core h).map (·.launch)
    let partner := l.find? fun x =>
      !(x.ref.block == p.ref.block && x.ref.wave == p.ref.wave) && launchOfBlock x.ref.block == some c.blk.launch &&
        !x.darner && !p.darner && x.frag.pc == p.frag.pc && x.frag.mode == p.frag.mode && x.frag.exec &&& p.frag.exec == 0
    match partner with
    | none => none
    | some x =>
      match fetchInstr s core p.ref.block c.blk c.frag.pc.toNat with
      | .ok _ i _ => if fusible i (modeType p.frag.mode) then some x else none
      | _ => none

/-- The accounting of a cycle's selection (R266, R267): those that issue go to the end of the list, the other ready ones are passed
over; all are in the second cycle of an instruction that takes two of them (R17). -/
def accountIssue (s : State) (core q : Nat) (l issued : List Placed) : State :=
  let refs := issued.map (·.ref)
  modCore s core fun k =>
    let k := k.setRecency q ((k.recency q).filter (fun r => !refs.contains r) ++ refs)
    l.foldl (fun k p => k.modFrag p.ref fun f =>
      { f with slot := { f.slot with passed := if refs.contains p.ref then 0 else f.slot.passed + 1 } }) k

/-! ### The issue of one instruction -/

/-- The PC comparator that a fragment about to issue matches (R353). -/
def pcMatch (s : State) (c : Ctx) : Option Nat :=
  if c.frag.noCompare then none
  else
    match contextOf s c.blk.asid with
    | none => none
    | some k =>
      (List.range 8).find? fun j =>
        match k.comparators[j]? with
        | none => false
        | some m =>
          m.getLsbD 64 && (m.extractLsb' 0 57).setWidth 64 == c.frag.pc && m.extractLsb' 96 32 &&& c.frag.exec != 0

/-- Where in memory the word at an address stands that a fetch found poisoned; 0 when its translation is gone. -/
def fetchedAt (s : State) (c : Ctx) (va : BitVec 64) : Nat :=
  match (translate s c.core c.blk.asid va accExec 0x8000).2 with
  | .ok pa => pa
  | .bad _ => 0

/-- A fault that parks the fragment before its instruction (R99, R353), with a record of the poison that it met (R427); it is an access fault when the fetch could not be
made (R341). -/
def fetchFault (s : State) (c : Ctx) (code : Nat) (info : BitVec 64) (walk : Bool) : Host.Outcome State Fault Refusal :=
  let s := if code = 0x17 && hamperRoom s c then poisonEvent s c.core c.blk.asid (fetchedAt s c info) else s
  .next (takeFault c { code := code, lanes := c.frag.members, info := info,
                       access := if 7 ≤ code ∧ code ≤ 9 then accExec else 0, walk := walk, whole := true } s s)

/-- The state in which an instruction issues: it counts (R452), the fragment is in focus, and a collective form of a wave's only
fragment needs no release (R168). -/
def focusOn (s : State) (c : Ctx) (i : Instr) : State :=
  let s := countEvent (countEvent s c.core 2 1) c.core 3 (laneCount c.active)
  let s := { s with focus := some ⟨c.core, c.ref⟩ }
  if collective i (modeType c.frag.mode) && c.wave.frags.length == 1 then
    modFrag s c.core c.ref fun f => { f with released := true }
  else s

/-- Whether the next instruction forms a window of its own (R27, R136, R137): it needs that window's granules and not those
of the window that it leaves. -/
def formsWindow (s : State) (c : Ctx) : Bool :=
  match fetchInstr s c.core c.ref.block c.blk c.frag.pc.toNat with
  | .ok _ (.call _ _ _) _ | .ok _ (.calli _ _ _) _ | .ok _ (.ret _) _ => true
  | _ => false

/-- ISSUE: the window's granules are in place (R27), the instruction is fetched (R92, R99), compared (R353) and executed. -/
def issueAt (s : State) (c : Ctx) : Host.Outcome State Fault Refusal :=
  let lanes := c.frag.members
  if slideMoves c.blk.hdr c.wave lanes 0 && !formsWindow s c then
    .next (notifyDarner (waitEvent s c (.granules 0)) c.core (.granules c.ref))
  else if 2 ^ 57 ≤ c.frag.pc.toNat then fetchFault s c 0x08 c.frag.pc false
  else
    match fetchInstr s c.core c.ref.block c.blk c.frag.pc.toNat with
    | .bad code va => fetchFault s c code (BitVec.ofNat 64 va) (code == 0x07 || code == 0x08)
    | .illegal s w =>
      match pcMatch s c with
      | some j => fetchFault s c 0x13 (BitVec.ofNat 64 (2 ^ 62 + j * 2 ^ 58)) false
      | none => .next (decodeFault c (if privilegedOpcode (opcodeOf w) && !c.frag.super then 0x02 else 0x01) w s)
    | .ok s i _ =>
      match pcMatch s c with
      | some j => fetchFault s c 0x13 (BitVec.ofNat 64 (2 ^ 62 + j * 2 ^ 58)) false
      | none => exec i (focusOn s c i)

/-- The issue of a fragment. -/
def issueOne (s : State) (core : Nat) (r : FragRef) : Host.Outcome State Fault Refusal :=
  match placeCtx s core r with
  | none => .next s
  | some c => issueAt s c

/-- A device event as a turn. -/
def eventOf (core block wave frag slot : Nat) (i : Instr) : Turn :=
  .event { core := core, block := block, wave := wave, frag := frag, slot := slot } i

/-- What an issue leaves: a fragment that waits is exchanged in this cycle (R268), and a scoreboard wait is counted. -/
def noteWait (s : State) (core : Nat) (r : FragRef) : State :=
  match fragOf s core r with
  | none => s
  | some f =>
    let s := match f.st with | .waitEvent (.scoreboard _ _ _ _ _) => countEvent s core 10 1 | _ => s
    if f.slot.active && !f.st.keepsSlot then
      { s with agenda := eventOf core r.block r.wave r.frag 0 .fragmentExchange :: s.agenda }
    else s

/-- The issues of one turn, one after another: a fused pair acts as in two separate issues (R271). -/
def issueAll (s : State) (core : Nat) : List FragRef → Host.Outcome State Fault Refusal
  | [] => .next s
  | r :: rest =>
    match issueOne s core r with
    | .next s => issueAll (noteWait s core r) core rest
    | x => x

/-- Whether a fragment's next instruction is a vector FFMA on F64, which takes two issue cycles of its quadrant (R17). -/
def takesTwo (s : State) (core : Nat) (p : Placed) : Bool :=
  match placeCtx s core p.ref with
  | none => false
  | some c =>
    match fetchInstr s core p.ref.block c.blk c.frag.pc.toNat with
    | .ok _ (.ffma w d a b) _ => modeType c.frag.mode == tyF64 && !uniformIssue (.ffma w d a b)
    | _ => false

/-- A quadrant's turn: at most one issue, which may be a fused pair (R265, R267, R271), and none in the second issue cycle of
the instruction before (R17). -/
def issueTurn (s : State) (core q : Nat) : Host.Outcome State Fault Refusal :=
  let l := readyList s core q
  match if s.cycle < cellGet 0 q (coreOf s core).busy then none else pickIssue l with
  | none => .next (accountIssue s core q l [])
  | some p =>
    let partner := fusionPartner s core l p
    let issued := l.filter fun x => x.ref == p.ref || (partner.map (·.ref)) == some x.ref
    let s := if takesTwo s core p then modCore s core fun k => { k with busy := cellSet 0 q (s.cycle + 2) k.busy } else s
    issueAll (accountIssue s core q l issued) core (issued.map (·.ref))

/-! ### The agenda: the fragments -/

/-- Where a fragment stands in the order of R317: by block, wave, then lowest lane. -/
def Placed.rank (p : Placed) : Nat := (p.ref.block * 64 + p.ref.wave) * 64 + lowestLane p.frag.members

/-- A device event about a fragment. -/
def fragEvent (core : Nat) (i : Instr) (p : Placed) : Turn := eventOf core p.ref.block p.ref.wave p.ref.frag 0 i

/-- Whether a fragment's wait is over. A service of Dibor's own waits while Dibor does not serve (R445). -/
def mayResume (s : State) (core : Nat) (p : Placed) : Bool :=
  match placeCtx s core p.ref with
  | none => false
  | some c =>
    match c.frag.st with
    | .waitEvent (.recv q _ _) => !(c.blk.visible s.cycle q).isEmpty
    | .waitEvent (.service _) => c.frag.super && !s.firmware.suspended && s.firmware.booted
    | .waitEvent w => waitOver s c w
    | _ => false

/-- A core's loads that return; then the order of its waits and issues is found (R317). -/
def coreTurns (s : State) (c : Nat) (k : Core) : List Turn :=
  k.fragments.flatMap (fun p =>
    (p.frag.loads.filter fun x => x.due s.cycle p.frag.st).map fun _ => fragEvent c .loadDataReturn p) ++ [.arrange c]

/-- A core's waits that end and its quadrants' issues, in the order of R317. -/
def arrangedTurns (s : State) (c : Nat) : List Turn :=
  let waits := ((coreOf s c).fragments.filter (mayResume s c)).map fun p => (p.rank, fragEvent c .waitEventResume p)
  let issues := (List.range 4).map fun q =>
    (((pickIssue (readyList s c q)).map Placed.rank).getD (2 ^ 20), Turn.issue c q)
  (sortBy (fun x y => x.1 ≤ y.1) (waits ++ issues)).map (·.2)

/-- Whether a wave's deadlock is detected in this cycle: within 256 cycles of the last wait, with which it arises (R169). -/
def detected (s : State) (w : Wave) : Bool :=
  choose s 0xF000 256 == 0 || w.frags.all fun f => !(f.atColl || f.syncMask.isSome) || f.waitSince + 255 ≤ s.cycle

/-- Whether a fragment's mask mismatch is detected in this cycle: within 256 cycles of its own wait, and at once when the
mismatch arises later (R176). -/
def mismatchSeen (s : State) (f : Fragment) : Bool := choose s (0xF000 + f.id) 256 == 0 || f.waitSince + 255 ≤ s.cycle

/-- The releases of a wave (R132, R168, R169, R176). -/
def waveTurns (s : State) (c h : Nat) (w : Wave) : List Turn :=
  let ev (frag : Nat) (i : Instr) : List Turn := [eventOf c h w.idx frag 0 i]
  (if w.rcvReady then ev 0 .rcvRelease else []) ++ (if w.collReady then ev 0 .collectiveRelease else []) ++
    (w.frags.flatMap fun f =>
      match f.syncMask with
      | none => []
      | some m =>
        if w.syncReady m then ev f.id .wsyncRelease
        else if !(w.mismatched f).isEmpty && mismatchSeen s f then ev f.id .wsyncMaskMismatch
        else []) ++
    (if w.deadlocked && detected s w then ev 0 .collectiveDeadlock else [])

/-- The barrier releases of a block (R215), and of the sets at whose SBAR it waits (R216). -/
def barrierTurns (c h : Nat) (b : Block) : List Turn :=
  (if b.barReady then [eventOf c h 0 0 0 .barRelease] else []) ++
    (b.sets.filter fun m => b.arrivedAt m.num && b.waves.any fun w => w.participant && w.frags.any (b.atSbar m.num)).map fun m =>
      .event { core := c, block := h, ident := b.launch, slot := m.num } .sbarRelease

/-- The slots and waits of a core that no instruction ends (R268, R269, R342, R351). -/
def slotTurns (s : State) (c : Nat) (k : Core) : List Turn :=
  let l := k.fragments
  (l.filter fun p => p.frag.slot.active &&
    (!p.frag.st.keepsSlot || interlockedOn s c p.ref fun x => x.missed s.cycle)).map (fragEvent c .fragmentExchange) ++
  ((List.range 4).flatMap fun q =>
    (sortBy (fun x y => x.frag.slot.readySince.getD 0 ≤ y.frag.slot.readySince.getD 0)
      ((pendingReady k q).filter fun p => p.overdue s.cycle)).map (fragEvent c .pendingDisplacement)) ++
  (l.filter fun p => p.frag.st == .waitEvent .hamper && (hamperSlot k p.ref.block p.ref.wave).isSome).map
    (fragEvent c .hamperEntryFreed) ++
  (l.filter fun p =>
    match p.frag.st with
    | .waitEvent w => w.watched.isSome
    | _ => false).map (fragEvent c .watchdog)

/-- The cycles after which a posted store that may be performed is, at the latest (R273); the spec gives no number (log entry
10). -/
def storeBound : Nat := 4096

/-- A core's posted stores (R192): each is accepted after an open time, and the lanes of a wave's oldest that failed are
recorded. -/
def storeTurns (s : State) (c : Nat) (k : Core) : List Turn :=
  k.blocks.flatMap fun e => e.2.waves.flatMap fun w =>
    (match w.posted with
     | op :: _ => if op.failed.isSome then [eventOf c e.1 w.idx 0 0 .storeFaultRecord] else []
     | [] => []) ++
    (w.posted.filter fun op =>
      op.failed.isNone && (op.since + storeBound ≤ s.cycle || choose s (0xE000 + op.ident) 4 != 0)).map fun op =>
        .event { core := c, block := e.1, wave := w.idx, ident := op.ident } .postedStoreAccept

/-! ### The agenda: the engines, the Darner and the blocks -/

/-- A core's engines (R222 to R225, R295, R305, R307, R450). -/
def engineTurns (c : Nat) (k : Core) : List Turn :=
  let ops := k.blocks.flatMap fun e => (e.2.ops.filter Op.live).map fun o => (e.1, o)
  let ev (l : List (Nat × Op)) (i : Instr) : List Turn := l.map fun e => eventOf c e.1 0 0 e.2.slot i
  (if ops.isEmpty then [] else
    ev (ops.filter fun e => e.2.st == .stalled) .engineResume ++ [eventOf c 0 0 0 0 .pressGrant] ++
    ((List.range 4).map fun ch => eventOf c 0 0 0 ch .mangleChannelTake) ++ [.work c] ++
    ev (ops.filter fun e => e.2.form == .coll && e.2.phase == .exchange) .collExchangeComplete ++
    ev ops .engineCompletion) ++
  (if k.press.idle then [] else [eventOf c 0 0 0 0 .pressIdle])

/-- A core's Darner: its next event, or its restart by Dibor (R242, R345). -/
def darnerTurns (c : Nat) (k : Core) : List Turn :=
  if k.darner.stopped.isSome then [eventOf c 0 0 0 0 .darnerRestart]
  else if (k.darner.current.orElse fun _ => nextDarnerEvent k).isSome then [eventOf c 0 0 0 0 .darnerEvent]
  else []

/-- A block's checkpoints and its retirement (R259, R429). -/
def blockTurns (s : State) (c h : Nat) (b : Block) : List Turn :=
  (if checkpointDue s b then [eventOf c h 0 0 0 .checkpointInterval] else []) ++
    (if b.hdr.resilient && b.ckpt.due then [eventOf c h 0 0 0 .checkpointCommit] else []) ++
    (if h < supervisorHandle && retires s c h b then [eventOf c h 0 0 0 .blockRetirement] else [])

/-! ### The agenda: Dibor -/

/-- The steps that a packet is ready for (R370 to R372). -/
def packetDecisions (s : State) (q : Nat) (p : Packet) : List Decision :=
  let d (node : Nat) (i : Instr) : List Decision := [⟨{ queue := q, index := p.index, node := node }, i⟩]
  let nodes := p.nodes.zipIdx.flatMap fun e =>
    if (e.1.st == .ready && e.1.skip) || (e.1.st == .running && nodeOver s q p.index e.2) then d e.2 .graphNodeComplete else []
  if p.status == stAborted then d 0 .packetComplete else
  (match p.st, pkType p.raw with
   | .held, _ => d 0 .packetOrdered
   | .ordered, 4 => d 0 .barrierDependencyCheck
   | .ordered, _ => d 0 .packetDispatch
   | .dispatching, 2 => (if p.nodes.any fun x => x.st == .ready && !x.skip then d 0 .packetDispatch else []) ++ nodes
   | .dispatched, 2 => nodes
   | _, _ => []) ++
  (if p.st == .completing || packetOver s q p then d 0 .packetComplete else [])

/-- What a pre-emption's events concern. -/
def preemptSubject (p : Preempt) : Subject :=
  match p.target with
  | .context a => { asid := a }
  | .group g => { group := g }

/-- The decisions that Dibor may make now (R366, R370, R374, R375, R396, R407). -/
def decisions (s : State) : List Decision :=
  let groups := (s.queues.map fun q => queueGroup q.1 q.2.desc).eraseDups
  (s.queues.flatMap fun e =>
    (if queueEnabled e.2.desc && (e.2.ridx < e.2.widx || e.2.kick) then [⟨{ queue := e.1 }, .packetFetch⟩] else []) ++
      e.2.packets.flatMap (packetDecisions s e.1)) ++
  (groups.filter fun g => (groupQueues s g).any fun q => !(placeable s q).isEmpty || (queueOf s q).wasReady).flatMap fun g =>
    [⟨{ group := g }, .schedulingDecision⟩] ++
      (if (groupQueues s g).any (fun q => (queueOf s q).unreadySince.any fun t => t + 100000 ≤ s.timebase) then
        [⟨{ group := g }, .queueReservation⟩] else []) ++
  ((s.preempts.filter fun p => p.swapping && p.deadline + 10 ^ 6 ≤ s.timebase).map fun p => ⟨preemptSubject p, .forcedReset⟩) ++
  ((s.groups.filter fun g => g.2.stopping && !groupEnding s g.1 (stopLog2 s g.1)).map fun g =>
    ⟨{ group := g.1 }, .stopInterfaceRequest g.1⟩)

/-- Whether Dibor acts: it has booted, and its core has not failed (R443, R445, R447). -/
def diborActs (s : State) : Bool := s.firmware.booted && !s.firmware.suspended

/-- Dibor's own turns that are no decisions of the journal: pre-emption, quarantine, the heartbeat, the enabling of core
groups, and repair (R398, R407, R436 to R440, R445, R449). -/
def diborTurns (s : State) : List Turn :=
  let one (i : Instr) : List Turn := [.event {} i]
  let repairs := ((s.hbm.channels.map fun e => e.1 / 32).eraseDups).flatMap fun k =>
    match nextChannel s k with
    | some (c, true) => [Turn.event { stack := k, channel := c } .laneRepair]
    | some (c, false) => [Turn.event { stack := k, channel := c } .channelRetrain]
    | none => []
  let banks := (s.hbm.failing ++ s.hbm.recent.map fun e => (e.1, e.2.1)).eraseDups
  ((s.preempts.filter fun p => !p.swapping && p.deadline ≤ s.timebase).map fun p =>
    .event (preemptSubject p) .drainDeadline) ++
  (s.quarantine.filter fun q => (contextOf s q.asid).isNone && (openRequests s q == 0 || q.since + 2 * 10 ^ 9 ≤ s.timebase)).map (fun q =>
    .event { asid := q.asid } .asidQuarantineEnd) ++
  (if s.firmware.lastBeat + 10000 ≤ s.timebase then one .heartbeat else []) ++
  (if s.power.groups < 8 then one .coreGroupEnable else []) ++
  repairs ++
  ((banks.filter fun e => spareTrigger s e.1 e.2 && (cellGet ({} : Spare) e.1 s.hbm.spares).st == 0).map fun e =>
    .event {} (.bankSpareStart (e.1 / 64) (e.1 % 64) e.2)) ++
  ((s.hbm.spares.filter fun e => e.2.st == 1 && e.2.bptr == bankRows).map fun e =>
    .event { stack := e.1 / 64, channel := e.1 % 64 } .bankSpareComplete)

/-- The samples of the monitors' rounds that begin in this cycle (R434). -/
def monitorTurns (s : State) : List Turn :=
  (List.range 8).flatMap fun k => (roundSamples s k).map fun i => .event {} i

/-- All of Dibor's turns of a cycle. Without a standby it performs its decisions at once; with one, a record is committed. -/
def firmwareTurns (s : State) : List Turn :=
  (if s.firmware.booted && s.firmware.standby && beatsMissed s then [.event {} (.takeover false)] else []) ++
  (if !diborActs s then []
   else
    diborTurns s ++
      (if s.firmware.standby then (if s.firmware.journal.isEmpty then [] else [.event {} .journalCommit])
       else (decisions s).map fun d => .event d.subject d.step))

/-! ### The agenda: inputs, the network, and the new cycle -/

/-- Whether a turn may come from outside: an event, and no encoded form, a grant, or a read of the management block or of a post
page. -/
def Turn.isInput : Turn → Bool
  | .grant _ _ _ => true
  | .manageRead _ _ => true
  | .postRead _ _ _ => true
  | .event _ i => (encode i).isEmpty
  | _ => false

/-- Whether a request is a decision that the journal records: a context's creation or end, by itself or with its interface
(R443). -/
def Turn.journaled : Turn → Option Decision
  | .event x (.contextCreate c) => some ⟨x, .contextCreate c⟩
  | .event x (.contextEnd a) => some ⟨x, .contextEnd a⟩
  | .event x (.stopInterfaceRequest g) => some ⟨x, .stopInterfaceRequest g⟩
  | _ => none

/-- What the outside brings in a cycle, in the order in which it takes effect. -/
def inputTurns (l : List Turn) : List Turn := l.filter Turn.isInput

/-- The messages that may arrive, the confirmations on their way back, and the acknowledgement of an invalidation after an
open time (R209, R311, R389). -/
def networkTurns (s : State) : List Turn :=
  (if !s.invalidations.isEmpty && choose s 0xF200 4 != 0 then [.event {} .invalidationAck] else []) ++
  s.net.flatMap fun m =>
    if m.answer.isSome then [.event { ident := m.ident } .sendConfirmation]
    else if mayArrive s m then [.event { ident := m.ident } .messageDelivery]
    else []

/-- The AGENDA of a cycle: inputs and firings first, then the cores' issues, what waits at a barrier or a slot, stores,
engines, the Darners, blocks, Dibor, and the network last. -/
def agendaOf (s : State) (inputs : List Turn) : List Turn :=
  let cores := activeCores s
  let blocks := cores.flatMap fun e => e.2.blocks.map fun b => (e.1, b.1, b.2)
  inputs ++ (blocks.filter fun e => !e.2.2.patterns.isEmpty && !e.2.2.stopped).map (fun e => eventOf e.1 e.2.1 0 0 0 .joinFiring) ++
    cores.flatMap (fun e => coreTurns s e.1 e.2) ++
    blocks.flatMap (fun e => e.2.2.waves.flatMap (waveTurns s e.1 e.2.1) ++ barrierTurns e.1 e.2.1 e.2.2) ++
    cores.flatMap (fun e => slotTurns s e.1 e.2) ++ cores.flatMap (fun e => storeTurns s e.1 e.2) ++
    cores.flatMap (fun e => engineTurns e.1 e.2) ++ cores.flatMap (fun e => darnerTurns e.1 e.2) ++
    blocks.flatMap (fun e => blockTurns s e.1 e.2.1 e.2.2) ++ monitorTurns s ++ firmwareTurns s ++ networkTurns s

/-- The time of a cycle: 1000 / CLKMHZ ns, of which whole ns count (R2, R432, R451). -/
def advanceTime (s : State) : State :=
  let clk := max 1 s.power.clkMhz
  let frac := s.timeFrac + 1000
  { s with cycle := s.cycle + 1, timebase := s.timebase + frac / clk, timeFrac := frac % clk }

/-- The messages that reach blocks anew after a rollback enter their ports as places come free (R431). -/
def redeliverBlocks (s : State) : State :=
  s.cores.foldl (fun s k => k.2.blocks.foldl (fun s e =>
    if e.2.late.isEmpty then s else modBlock s k.1 e.1 fun b => b.redeliver s.cycle) s) s

/-- A NEW CYCLE: the error log takes the events of the cycle that ends (R428), time goes on, the slots are filled, messages that
reach blocks anew enter their ports, the cycle's inputs are taken, Dibor's decisions enter the journal, and the agenda is
made. -/
def newCycle (s : State) : State :=
  let s := redeliverBlocks (refreshCores (startRounds (advanceSpares (landFlights (advanceTime (flushLog s))))))
  let s := (activeCores s).foldl (fun s e => countEvent s e.1 1 1) s
  let now := inputTurns (s.inputs.headD [])
  let s := { s with inputs := s.inputs.tail }
  let record := diborActs s && s.firmware.standby
  let s := if record then journal s (now.filterMap Turn.journaled ++ decisions s) else s
  let now := if record then now.filter fun t => t.journaled.isNone else now
  { s with agenda := agendaOf s now, freeCtr := s.freeCtr + 1 }

/-! ### One turn -/

/-- A device without power takes up nothing but a reset (R449). -/
def stepOff (s : State) : Host.Outcome State Fault Refusal :=
  match s.inputs with
  | [] => .fault .powerOff
  | now :: rest =>
    let image := now.findSome? fun t =>
      match t with
      | .event _ (.deviceReset x) => some x
      | _ => none
    match image with
    | some x => execDeviceReset x { s with inputs := rest, agenda := [] }
    | none => .next { s with inputs := rest, agenda := [] }

/-- One turn of the agenda. -/
def takeTurn (s : State) : Turn → Host.Outcome State Fault Refusal
  | .issue core q => issueTurn s core q
  | .work core => .next (engineWork s core)
  | .arrange core => .next { s with agenda := arrangedTurns s core ++ s.agenda }
  | .event x i => exec i { s with subject := x, focus := none }
  | .grant g peer granted => .next (grantPeer s g peer granted)
  | .manageRead off size => .next (emit s (.registerRead off size (manageRead s off size)))
  | .postRead page off size =>
    .next (if s.firmware.booted then emit s (.postRead page off size (postRead s page off size)) else s)

/-- ONE STEP: the next turn of the agenda, or a new cycle once none is left. -/
def turn (s : State) : Host.Outcome State Fault Refusal :=
  if !s.power.on then stepOff s
  else
    match s.agenda with
    | [] => .next (newCycle s)
    | t :: rest => takeTurn { s with agenda := rest } t

/-! ### Placing an instruction -/

/-- A header for a placed block: one wave, a stack of 64, every port, and all of the accumulator (log entry 14). -/
def placedHeader : Header := { supervisorHeader with ports := 32, accRows := 512, scratch := 32768 }

/-- A MODE without guard under which an instruction is legal, if there is one. -/
def placedMode (h : Header) (i : Instr) : BitVec 32 :=
  match (List.range 14).find? fun t => decodeOk h (BitVec.ofNat 32 (7 + 16 * t)) i with
  | some t => BitVec.ofNat 32 (7 + 16 * t)
  | none => 0x37

/-- A core in which one wave is about to issue the instruction at address 0: a supervisor's for a privileged form, and else
a user's. -/
def placedCore (ws : List Word) : Core :=
  let w := ws.getD 0 0
  let super := privilegedOpcode (opcodeOf w)
  let h := if super then supervisorHandle else 0
  let hdr := if super then supervisorHeader else placedHeader
  let mode :=
    match decodeWords w (ws.getD 1 0) (ws.getD 2 0) with
    | .ok i => placedMode hdr i
    | .error _ => 0x37
  let f : Fragment :=
    { startFragment 0 (BitVec.allOnes 32) mode 0 [] with super := super, slot := { active := true } }
  let b : Block :=
    { supervisorBlock with hdr := hdr, waves := [{ restingWave 0 0 false with st := .running, frags := [f], nextFrag := 1 }] }
  { enabled := true, blocks := [(h, b)], lists := [(0, [⟨h, 0, 0⟩])] }

/-- An instruction's words at address 0, a core about to issue it, and the turn in which it does. -/
def placeWords (s : State) (ws : List Word) : State :=
  { s with
    cycle := s.cycle + 1
    mem := writeBytes s.mem 0 (ws.flatMap wordBytes)
    cores := tabSet 0 (placedCore ws) s.cores
    contexts := s.contexts.filter fun k => k.asid != 0
    power := { s.power with on := true }
    agenda := [.issue 0 0] }

end Sys2Proof.Machine
end

