-- ==== Sys2Proof/Machine/Step.lean ====
section
/-! DEFINITION. The step of the device, and the state in which it is about to run a given instruction. -/

namespace Sys2Proof.Machine

/-- One step: one turn of the current cycle, or the start of the next. -/
def step (s : State) : Host.Outcome State Fault Refusal := turn s

/-- The state with an instruction placed where the next step fetches and issues it (log entry 14). -/
def State.withFetchWord (s : State) (nbits w : Nat) : State := placeWords s (tableWords nbits w)

end Sys2Proof.Machine
end

