-- ==== Sys2Proof/Safety.lean ====
section
/-! DEFINITION. What counts as a safe run: the forms that plain data keeps in every state of a run, and the memory that an
observer sees. -/

namespace Sys2Proof.Machine

/-- Keys of a table of objects rise strictly. -/
def tabWf {α : Type} : List (Nat × α) → Bool
  | [] => true
  | [_] => true
  | a :: b :: r => a.1 < b.1 && tabWf (b :: r)

/-- Memory is in its canonical form: addresses rise, and no listed byte reads as an unlisted one. -/
def State.memOk (s : State) : Prop := memWf s.mem = true

/-- One byte of physical memory. -/
def State.byteAt (s : State) (a : Nat) : Byte := cellGet unwrittenByte a s.mem

/-- A step that goes on: no fault and no refusal. -/
def goesOn (s : State) : Prop := ∃ t, step s = .next t

end Sys2Proof.Machine
end

