-- ==== Sys2Proof/Certificates/Slice0/Obligations.lean ====
section
/-! DEFINITION. The statements for the provers, one definition each, with what they are written in. -/

namespace Sys2Proof.Claims

open Sys2Proof.Machine

/-! ### What the statements are written in -/

/-- The fragment in focus issues `i` in the place `c`: the decode checks of R100 pass, the form is no collective that still
waits (R167), and CHECK finds no early read (R105). -/
def Issues (i : Instr) (s : State) (c : Ctx) : Prop :=
  ctxOf s = some c ∧ decodeCheck c i = none ∧ (collective i (modeType c.frag.mode) && !c.frag.released) = false ∧
    stallCheck s c i = none

/-- IT of the issuing fragment (R120). -/
def itOf (c : Ctx) : Nat := intType (modeType c.frag.mode)

/-- A source in a lane, at a width. -/
def src (s : State) (c : Ctx) (n : Nat) (a : Code) (lane : Nat) : BitVec 64 :=
  (readCode s c (modeType c.frag.mode) n a lane).1

/-- A B operand in a lane, at a width. -/
def srcB (s : State) (c : Ctx) (n : Nat) (b : Src) (lane : Nat) : BitVec 64 :=
  (readSrc s c (modeType c.frag.mode) n b lane).1

/-- A B operand of the integer class in a lane (R120, R121): a literal is one of IT, under a floating TYPE too (the model's
reading, log entry 82). -/
def srcI (s : State) (c : Ctx) (b : Src) (lane : Nat) : BitVec 64 :=
  match b with
  | .reg code => src s c (tyBits (itOf c)) code lane
  | .lit x => (match itOf c with | 2 => x.signExtend 64 | 4 => (x.extractLsb' 0 16).setWidth 64
                                 | 5 => (x.extractLsb' 0 8).setWidth 64 | _ => x.setWidth 64)

/-- A 32-bit B operand of an index or a field, whatever TYPE is: the 32 bits of its register, or the literal word (log entry
84). -/
def index32 (s : State) (c : Ctx) (b : Src) (lane : Nat) : BitVec 64 :=
  match b with
  | .reg code => (readCode s c (modeType c.frag.mode) 32 code lane).1
  | .lit x => x.setWidth 64

/-- The low bits of a B operand of FTAGW, WPERM, RDLANE and WRLANE (R153): its register's 32 bits, or those of the literal as a
value of TYPE, which under F64 is widened (R22; log entry 84). -/
def low32 (s : State) (c : Ctx) (b : Src) (lane : Nat) : BitVec 64 :=
  match b with
  | .reg code => (readCode s c (modeType c.frag.mode) 32 code lane).1
  | .lit x => (literalValue (modeType c.frag.mode) x).extractLsb' 0 32 |>.setWidth 64

/-- A result modulo 2^n. -/
def mod2 (n : Nat) (z : Int) : BitVec 64 := BitVec.ofInt 64 (z % (2 ^ n : Nat))

/-- The value of an n-bit pattern in two's complement. -/
def twos (n : Nat) (x : BitVec 64) : Int :=
  if 2 ^ (n - 1) ≤ x.toNat then (x.toNat : Int) - (2 ^ n : Nat) else x.toNat

/-- The value of a pattern of an integer type. -/
def val (t : Nat) (x : BitVec 64) : Int := if isSigned t then twos (tyBits t) x else x.toNat

/-- The bits of `f`, from bit 0 to bit n − 1. -/
def bitsOf (n : Nat) (f : Nat → Bool) : BitVec 64 :=
  BitVec.ofNat 64 ((List.range n).foldr (fun k r => r + (f k).toNat * 2 ^ k) 0)

/-- What R146 computes from two sources of n bits. -/
inductive IntOp where
  | add | sub | mul | mulh | addc | min | max | shl | shr | sar | rot | and | or | xor | andn
  deriving DecidableEq, Repr

/-- The table of R146, by the form's rule. -/
def IntOp.value (o : IntOp) (t : Nat) (a b : BitVec 64) : BitVec 64 :=
  let n := tyBits t
  let k := b.toNat % n
  match o with
  | .add => mod2 n (val t a + val t b)
  | .sub => mod2 n (val t a - val t b)
  | .mul => mod2 n (val t a * val t b)
  | .mulh => mod2 n (val t a * val t b / (2 ^ n : Nat))
  | .addc => if 2 ^ n ≤ a.toNat + b.toNat then 1 else 0
  | .min => if val t b < val t a then b else a
  | .max => if val t a < val t b then b else a
  | .shl => mod2 n (a.toNat * 2 ^ k)
  | .shr => mod2 n (a.toNat / 2 ^ k)
  | .sar => mod2 n (twos n a / (2 ^ k : Nat))
  | .rot => bitsOf n fun j => a.getLsbD ((j + n - k) % n)
  | .and => a &&& b
  | .or => a ||| b
  | .xor => a ^^^ b
  | .andn => a &&& ~~~ b

/-- The forms of R146 with two sources, format A, and what each computes. -/
def intPairs : List ((BitVec 3 → Code → Code → Src → Instr) × IntOp) :=
  [(.iaddA, .add), (.isub, .sub), (.imul, .mul), (.imulh, .mulh), (.iaddc, .addc), (.imin, .min), (.imax, .max),
   (.shlA, .shl), (.shrA, .shr), (.sarA, .sar), (.rot, .rot), (.andA, .and), (.or, .or), (.xor, .xor), (.andn, .andn)]

/-- The forms of R146 with IMM7. -/
def intImms : List ((BitVec 3 → Code → Code → BitVec 7 → Instr) × IntOp) :=
  [(.iaddB, .add), (.shlB, .shl), (.shrB, .shr), (.sarB, .sar), (.andB, .and)]

/-- The number of leading zeros, from bit n − 1 down. -/
def leadingZeros (n : Nat) (a : BitVec 64) : Nat :=
  ((List.range n).reverse.takeWhile fun k => !a.getLsbD k).length

/-- The forms of R146 with one source. -/
def intSingles : List ((BitVec 3 → Code → Code → Instr) × (Nat → BitVec 64 → BitVec 64)) :=
  [(.ineg, fun t a => mod2 (tyBits t) (-(val t a))),
   (.iabs, fun t a => if val t a < 0 then mod2 (tyBits t) (-(val t a)) else a),
   (.clz, fun t a => BitVec.ofNat 64 (leadingZeros (tyBits t) a)),
   (.popc, fun t a => BitVec.ofNat 64 ((List.range (tyBits t)).countP a.getLsbD)),
   (.brev, fun t a => bitsOf (tyBits t) fun k => a.getLsbD (tyBits t - 1 - k))]

/-- The field that BFX extracts (R147). -/
def fieldOf (t : Nat) (a b : BitVec 64) : BitVec 64 :=
  let n := tyBits t
  let pos := (b.extractLsb' 0 8).toNat
  let len := min (b.extractLsb' 8 8).toNat n
  let bit (k : Nat) : Bool := if k < n then a.getLsbD k else isSigned t && a.getLsbD (n - 1)
  if len = 0 then 0
  else bitsOf n fun k => if k < len then bit (pos + k) else isSigned t && bit (pos + len - 1)

/-- What BFI makes of d (R147). -/
def inserted (t : Nat) (d a b : BitVec 64) : BitVec 64 :=
  let n := tyBits t
  let pos := (b.extractLsb' 0 8).toNat
  let len := min (b.extractLsb' 8 8).toNat n
  bitsOf n fun k => if pos ≤ k ∧ k < pos + len then a.getLsbD (k - pos) else d.getLsbD k

/-- A result in IT with tag 62, per lane of ACTIVE or once. -/
def intDone (c : Ctx) (i : Instr) (s : State) (d : Code) (f : Nat → BitVec 64) : State :=
  complete c i s (resultWrites s c i d (is64 (itOf c)) (itOf c) fun lane => (f lane, 62))

/-- The comparisons of R148. -/
def icmpHolds (k : IntCond) (x y : Int) : Bool :=
  match k with
  | .eq => x == y | .ne => x != y | .lt => x < y | .le => x ≤ y | .gt => x > y | .ge => x ≥ y

/-- Completion with predicate `p` set, in the lanes of ACTIVE, to where `f` holds; the other lanes keep it. -/
def predDone (c : Ctx) (i : Instr) (s : State) (p : BitVec 3) (f : Nat → Bool) : State :=
  complete c i s (writePred c p.toNat (issueActive s c) (lanesWhere (issueActive s c) f))

/-- The predicate logic of R141, bit by bit. -/
def predLogics : List ((BitVec 3 → BitVec 3 → BitVec 3 → BitVec 3 → Instr) × (Bool → Bool → Bool)) :=
  [(.pand, fun a b => a && b), (.por, fun a b => a || b), (.pxor, fun a b => a != b),
   (fun w d a _ => .pnot w d a, fun a _ => !a), (fun w d a _ => .pmov w d a, fun a _ => a)]

/-! Floating point. -/

/-- An operand of TYPE in a lane: its value and its significance. -/
def arg (s : State) (c : Ctx) (a : Code) (lane : Nat) : FIn :=
  finOf (modeType c.frag.mode) c.frag.mode (readCode s c (modeType c.frag.mode) (tyBits (modeType c.frag.mode)) a lane)

/-- A B operand of TYPE in a lane. -/
def argB (s : State) (c : Ctx) (b : Src) (lane : Nat) : FIn :=
  finOf (modeType c.frag.mode) c.frag.mode (readSrc s c (modeType c.frag.mode) (tyBits (modeType c.frag.mode)) b lane)

/-- The operand with its sign inverted. -/
def negated (x : FIn) : FIn := { x with v := x.v.neg }

/-- A result of the Sign class (R159): the bits as they are, no exception, and the tag of the magnitude's operand, capped
by R76. -/
def signResult (t : Nat) (bits : BitVec 64) (tag : Tag) : LaneRes :=
  { bits := bits, tag := BitVec.ofNat 6 (capTag t ⟨decodeF t bits, 0, true⟩ (sigNorm tag (precision t))), exc := 0 }

/-- What a floating-point form of one result delivers in a lane, with its destination (R155 to R165): the value of its
rule, rounded once, the tag of its class, and the exceptions. -/
def floatLane (s : State) (c : Ctx) (i : Instr) : Option (Code × (Nat → LaneRes)) :=
  let m := c.frag.mode
  let t := modeType m
  let p := precision t
  let r := roundTo m
  let x := arg s c
  let y := argB s c
  let done (f : Nat → FRes × Nat) (lane : Nat) : LaneRes := compared t m (f lane).1 (f lane).2
  let pick (isMax : Bool) (a : Code) (b : Src) (lane : Nat) : LaneRes :=
    let v := selectTagged isMax (x a lane) (y b lane)
    uncompared t ⟨v.1, v.2.2, true⟩ v.2.1
  let raw (a : Code) (lane : Nat) := readCode s c t (tyBits t) a lane
  let sign : BitVec 64 := BitVec.ofNat 64 (2 ^ (tyBits t - 1))
  match i with
  | .fadd _ d a b => some (d, done fun l => addTagged r (x a l) (y b l))
  | .fsub _ d a b => some (d, done fun l => addTagged r (x a l) (negated (y b l)))
  | .fmul _ d a b => some (d, done fun l => mulTagged r (x a l) (y b l))
  | .ffma _ d a b => some (d, done fun l => fmaTagged r (x a l) (y b l) (x d l))
  | .ffms _ d a b => some (d, done fun l => fmaTagged r (x a l) (y b l) (negated (x d l)))
  | .fdiv _ d a b => some (d, done fun l => divTagged r (x a l) (y b l))
  | .fsqrt _ d a => some (d, done fun l => (sqrtF r (x a l).v, min p ((x a l).tag + 1)))
  | .frcp _ d a => some (d, done fun l => (frcpF r (x a l).v, min (x a l).tag (p - 1)))
  | .frsq _ d a => some (d, done fun l => (frsqF r (x a l).v, min (p - 1) ((x a l).tag + 1)))
  | .fexp2 _ d a => some (d, done fun l => (fexp2F r (x a l).v, min (x a l).tag p - 2))
  | .flog2 _ d a => some (d, done fun l => (flog2F r (x a l).v, min (x a l).tag p - 2))
  | .fsin _ d a => some (d, done fun l => (trigF r 0 (x a l).v, min (x a l).tag p - 2))
  | .fcos _ d a => some (d, done fun l => (trigF r 1 (x a l).v, min (x a l).tag p - 2))
  | .fmin _ d a b => some (d, pick false a b)
  | .fmax _ d a b => some (d, pick true a b)
  | .fabs _ d a => some (d, fun l => signResult t ((raw a l).1 &&& ~~~ sign) (raw a l).2)
  | .fneg _ d a => some (d, fun l => signResult t ((raw a l).1 ^^^ sign) (raw a l).2)
  | .fcps _ d a b => some (d, fun l =>
      signResult t (((raw a l).1 &&& ~~~ sign) ||| (srcB s c (tyBits t) b l &&& sign)) (raw a l).2)
  | .frnd _ d a => some (d, done fun l => (integralF r (x a l).v, integralTag t (x a l) (integralF r (x a l).v)))
  | .fscale _ d a b => some (d, done fun l => (scaleF r (x a l).v (signedVal 32 (index32 s c b l)), (x a l).tag))
  | .fcvt _ d a k => some (d, fun l =>
      if isBx t then quantiseLanes s c k.toNat a l
      else convertLane m k.toNat (readCode s c t (tyBits k.toNat) a l))
  | .icvt _ d a k => some (d, fun l =>
      let bits := src s c (tyBits k.toNat) a l
      if isInt t then
        let z := floatToInt t (modeRound m) (flushIn k.toNat (modeFtz m) (decodeF k.toNat bits))
        ⟨mod2 (tyBits t) z.1, 62, z.2⟩
      else compared t m (intToFloat r (val k.toNat bits)) p)
  | _ => none

/-- The lanes that fault on an enabled exception (R54): those whose own result raises one, or all of ACTIVE when the form
is uniform (R122). -/
def trapped (s : State) (c : Ctx) (i : Instr) (f : Nat → LaneRes) : Lanes :=
  if uniformIssue i then (if (f 0).exc &&& modeTrapEn c.frag.mode = 0 then 0 else issueActive s c)
  else lanesWhere (issueActive s c) fun lane => (f lane).exc &&& modeTrapEn c.frag.mode != 0

/-- A floating-point result in some lanes, or once. -/
def floatWrites (c : Ctx) (i : Instr) (d : Code) (lanes : Lanes) (f : Nat → LaneRes) : HistStep :=
  let t := modeType c.frag.mode
  if uniformIssue i then writeCode c 0 d (is64 t) t (f 0).bits (f 0).tag
  else laneWrites lanes fun lane => writeCode c lane d (is64 t) t (f lane).bits (f lane).tag

/-- The class bit of R161. -/
def classOf (t : Nat) (v : FVal) : Nat :=
  match v with
  | .inf true => 0
  | .fin true m e => if m = 0 then 3 else if (Nat.log2 m : Int) + e < (formatOf t).emin then 2 else 1
  | .fin false m e => if m = 0 then 4 else if (Nat.log2 m : Int) + e < (formatOf t).emin then 5 else 6
  | .inf false => 7
  | .nan true => 8
  | .nan false => 9

/-- The width of MOV and SEL (R142). -/
def movedBits (t : Nat) : Nat := if is64 t then 64 else if t = tyF16 ∨ t = tyBF16 then 16 else 32

/-- The type under which a moved value is held: I16 and I8 move their whole register. -/
def movedType (t : Nat) : Nat := if t = tyI16 ∨ t = tyI8 then tyI32 else t

/-! Control flow. -/

/-- PC + 4 + 4 × OFF mod 2^64 (R94). -/
def jumpTarget (c : Ctx) (off : Int) : BitVec 64 := c.frag.pc + BitVec.ofInt 64 (4 + 4 * off)

/-- The lanes that SIGBR sends off (R81). -/
def belowSigmin (s : State) (c : Ctx) (x : Code) : Lanes :=
  let t := modeType c.frag.mode
  lanesWhere (issueActive s c) fun lane =>
    sigNorm (readCode s c t (tyBits t) x lane).2 (if isInt t then 62 else precision t) < modeSigMin c.frag.mode

/-- What R129 makes of a fragment whose lanes `take` branch to a target. -/
def Branches (c : Ctx) (i : Instr) (s : State) (take : Lanes) (target : BitVec 64) : Prop :=
  (take = 0 → exec i s = .next (completeAt c i s {} (c.frag.pc + 4))) ∧
  (take ≠ 0 → take = c.frag.members → exec i s = .next (completeAt c i s {} target)) ∧
  (take ≠ 0 → take ≠ c.frag.members → ∃ t w n b,
    exec i s = .next t ∧ waveOf t c.core c.ref.block c.ref.wave = some w ∧ w.frag? c.ref.frag = some n ∧
    w.frags.getLast? = some b ∧ w.frags.length = c.wave.frags.length + 1 ∧
    n.members = c.frag.members &&& ~~~ take ∧ n.exec = c.frag.exec &&& ~~~ take ∧ n.pc = c.frag.pc + 4 ∧
    b.members = take ∧ b.exec = take ∧ b.pc = target ∧
    b.s = c.frag.s ∧ n.s = c.frag.s ∧ b.mode = c.frag.mode ∧ n.mode = c.frag.mode ∧ b.prods = n.prods ∧
    b.stallUntil = s.cycle + 1 + stallCount i ∧ n.stallUntil = b.stallUntil)

/-- The link word F : return address (R135). -/
def linkOf (f : Nat) (ret : BitVec 64) : BitVec 64 := BitVec.ofNat 7 f ++ ret.extractLsb' 0 57

/-- Completion with the windows of all members slid by `delta`; a result on its way is another register's then (R26, R105). A call
that waited for granules is a form of variable latency, whose link is there when it issues (R104). -/
def slidDone (c : Ctx) (i : Instr) (s : State) (x : HistStep) (target : BitVec 64) (delta : Int) : State :=
  modWave (completeAt c i s x target) c.core c.ref.block c.ref.wave fun w =>
    (w.slide c.frag.members delta).modFrag c.ref.frag fun f =>
      let l := f.prods.map (·.slid delta)
      { f with prods := if c.frag.moved then l.filter fun p => p.code != 95 else l }

/-- The fragment waits at its instruction; its stall count runs. -/
def waits (c : Ctx) (i : Instr) (s : State) (st : FragState) : State :=
  modFrag { s with freeCtr := s.freeCtr + 1 } c.core c.ref fun f =>
    { f with st := st, waitSince := s.cycle, stallUntil := s.cycle + 1 + stallCount i, hist := {} :: f.hist.take 7,
             noCompare := false }

/-- MODE's field groups (R125): first bit and width. -/
def groupField (g : Nat) : Nat × Nat := [(0, 4), (4, 4), (8, 2), (10, 3), (13, 2), (15, 6), (21, 5), (26, 3)].getD g (0, 0)

/-! Lanes. -/

/-- The four SHFL modes, by the lane that R171 has lane `i` read for `k`. -/
inductive ShuffleMode where
  | idx | up | down | xor
  deriving DecidableEq, Repr

/-- j of R171. -/
def ShuffleMode.lane (o : ShuffleMode) (i k : Nat) : Int :=
  match o with
  | .idx => (k % 32 : Nat) | .up => (i : Int) - k | .down => (i : Int) + k | .xor => (i ^^^ (k % 32) : Nat)

def shufflesA : List ((BitVec 3 → Code → Code → Src → Instr) × ShuffleMode) :=
  [(.shflIdxA, .idx), (.shflUpA, .up), (.shflDownA, .down), (.shflXorA, .xor)]

def shufflesB : List ((BitVec 3 → Code → Code → BitVec 5 → Instr) × ShuffleMode) :=
  [(.shflIdxB, .idx), (.shflUpB, .up), (.shflDownB, .down), (.shflXorB, .xor)]

/-- A value with its tag as a lane move carries it: 64 bits under a 64-bit type, and else 32. -/
def moved (s : State) (c : Ctx) (a : Code) (lane : Nat) : BitVec 64 × Tag :=
  readCode s c (modeType c.frag.mode) (if is64 (modeType c.frag.mode) then 64 else 32) a lane

/-- The type under which a lane move's value is held: 32 bits of a narrower type go whole. -/
def carriedType (t : Nat) : Nat := if t = tyF16 ∨ t = tyBF16 then tyU32 else movedType t

/-- The write of a lane move. -/
def putMoved (c : Ctx) (d : Code) (lane : Nat) (v : BitVec 64 × Tag) : HistStep :=
  writeCode c lane d (is64 (modeType c.frag.mode)) (carriedType (modeType c.frag.mode)) v.1 v.2

/-- Completion of a SHFL whose index in a lane is `k`. -/
def shuffled (c : Ctx) (i : Instr) (s : State) (d a : Code) (o : ShuffleMode) (k : Nat → Nat) : State :=
  let act := issueActive s c
  complete c i s (laneWrites act fun lane =>
    let j := o.lane lane (k lane)
    putMoved c d lane (moved s c a (if 0 ≤ j ∧ j ≤ 31 ∧ act.getLsbD j.toNat then j.toNat else lane)))

/-- What a VOTE computes from the lanes of ACTIVE (R172). -/
def voted (s : State) (c : Ctx) (a : BitVec 3) (f : List Bool → Bool) : Bool :=
  f ((lanesOf (issueActive s c)).map fun lane => (readP s c a.toNat).getLsbD lane)

def votes : List ((BitVec 3 → BitVec 3 → BitVec 3 → Instr) × (List Bool → Bool)) :=
  [(.voteAny, fun l => l.any id), (.voteAll, fun l => l.all id), (.voteEq, fun l => l.all id || l.all not)]

/-- The node of R65's tree that covers the 2^level lanes from `lo`. -/
def treeNode (f : RedNode → RedNode → RedNode) (leaf : Nat → RedNode) : Nat → Nat → RedNode
  | 0, lo => leaf lo
  | level + 1, lo => f (treeNode f leaf level lo) (treeNode f leaf level (lo + 2 ^ level))

/-- A lane's contribution to WRED and WSCAN (R173). -/
def leafOf (s : State) (c : Ctx) (a : Code) (o : RedOp) (lane : Nat) : RedNode :=
  let t := modeType c.frag.mode
  if (issueActive s c).getLsbD lane then
    let x := readCode s c t (tyBits t) a lane
    { bits := x.1, tag := if isInt t then 62 else x.2 }
  else redIdentity t o

/-- The inclusive prefix of lane `i` by R65: the blocks of the binary digits of i + 1, from the greatest, from left to
right. `level` counts down; `lo` is the first lane not yet covered. -/
def prefixNode (f : RedNode → RedNode → RedNode) (leaf : Nat → RedNode) (i : Nat) :
    Nat → Nat → Option RedNode → Option RedNode
  | 0, _, acc => acc
  | level + 1, lo, acc =>
    if (i + 1).testBit level then
      let b := treeNode f leaf level lo
      prefixNode f leaf i level (lo + 2 ^ level) (some (match acc with | some x => f x b | none => b))
    else prefixNode f leaf i level lo acc

/-- WRED's result (R173). -/
def reduced (s : State) (c : Ctx) (a : Code) (o : RedOp) : RedNode :=
  if issueActive s c = 0 then redIdentity (modeType c.frag.mode) o
  else treeNode (redStep c.frag.mode o) (leafOf s c a o) 5 0

/-- WSCAN's result in a lane (R174). -/
def scanned (s : State) (c : Ctx) (a : Code) (o : RedOp) (lane : Nat) : RedNode :=
  (prefixNode (redStep c.frag.mode o) (leafOf s c a o) lane 6 0 none).getD (redIdentity (modeType c.frag.mode) o)

/-! Memory. -/

/-- Every lane of an access goes through: ACTIVE is not empty, nothing is waited for, and no lane faults in steps 1 to 8 of
R183. -/
def GoesThrough (s : State) (c : Ctx) (f : AccessForm) (r : Rec) (d : Code) (q : Ord) (uniform : Bool) (ix : Nat → Nat) :
    Prop :=
  let p := planAccess s c f r d uniform (issueActive s c) ix
  issueActive s c ≠ 0 ∧ accessWait s c f r q p = none ∧ (locateAll s c f r p).bad = [] ∧
    bytesWait s c f r (locateAll s c f r p).pieces = none

/-- The state after the translations of an access. -/
def afterLocate (s : State) (c : Ctx) (f : AccessForm) (r : Rec) (d : Code) (uniform : Bool) (ix : Nat → Nat) : Located :=
  locateAll s c f r (planAccess s c f r d uniform (issueActive s c) ix)

/-- The lanes of an access that lie out of bounds under BOUNDS 1. -/
def outsideLanes (s : State) (c : Ctx) (f : AccessForm) (r : Rec) (d : Code) (uniform : Bool) (ix : Nat → Nat) : List Nat :=
  (planAccess s c f r d uniform (issueActive s c) ix).outside

/-- A resilient block's irrevocable access forces a checkpoint (R430). -/
def forced (c : Ctx) (f : AccessForm) (r : Rec) (q : Ord) (l : Located) (t : State) : State :=
  if irrevocable c f r q l.pieces then forceCheckpoint t c.core c.ref.block else t

/-- A load form: what it asks of its record, its fields, whether it is uniform, and its index in a lane (R181 to R188). -/
def loadOf (s : State) (c : Ctx) (i : Instr) : Option (AccessForm × Code × BitVec 5 × Ord × Bool × (Nat → Nat)) :=
  match i with
  | .ldM _ d r q a => some (loadAccess, d, r, q, false, recIndex s c a)
  | .ldMi _ d r q m => some (loadAccess, d, r, q, false, fun _ => m.toNat)
  | .ldsM _ d r q a => some (loadAccess, d, r, q, true, recIndex s c a)
  | .ldsMi _ d r q m => some (loadAccess, d, r, q, true, fun _ => m.toNat)
  | .ldu _ d r q a => some (loadTyped (modeType c.frag.mode), d, r, q, false, recIndex s c a)
  | .ldx _ d r q a => some (loadShadow, d, r, q, false, recIndex s c a)
  | _ => none

/-- A store form, with its KIND of R251. -/
def storeOf (s : State) (c : Ctx) (i : Instr) :
    Option (AccessForm × Code × BitVec 5 × Ord × Bool × (Nat → Nat) × Nat) :=
  match i with
  | .stM _ d r q a => some (storeAccess, d, r, q, false, recIndex s c a, 0)
  | .stMi _ d r q m => some (storeAccess, d, r, q, false, fun _ => m.toNat, 0)
  | .stsM _ d r q a => some (storeAccess, d, r, q, true, recIndex s c a, 1)
  | .stsMi _ d r q m => some (storeAccess, d, r, q, true, fun _ => m.toNat, 1)
  | .stu _ d r q a => some (storeTyped (modeType c.frag.mode), d, r, q, false, recIndex s c a, 2)
  | .stx _ d r q a => some (storeShadow, d, r, q, false, recIndex s c a, 3)
  | _ => none

/-- What a load delivers (R185): each lane's element with its tag, zero in a lane out of bounds. -/
def loadWrites (c : Ctx) (f : AccessForm) (r : Rec) (d : Code) (t : State) (pieces : List (Nat × Piece)) (out : List Nat) :
    HistStep :=
  let ty := f.elem r
  let x := accessStore c r
  let put (w : HistStep) (lane : Nat) (v : BitVec 64) (tag : Tag) := w.append (writeCode c lane d (is64 ty) ty v tag)
  out.foldl (fun w lane => put w lane 0 (if f.typed.isSome then 62 else formatTag ty))
    (pieces.foldl (fun w e => put w e.1 (readElem x t ty e.2) (if f.typed.isSome then 62 else readTag x t ty e.2)) {})

/-- The accesses retire the exact sums that their bytes meet (R199). -/
def retired (c : Ctx) (r : Rec) (l : Located) : State :=
  l.pieces.foldl (fun t e => (accessStore c r).touch t e.2.bytes) l.state

/-- A write-back does too, and takes the poison of L1 words out to memory (R422). -/
def writtenBack (c : Ctx) (r : Rec) (l : Located) : State :=
  l.pieces.foldl (fun t e => writeBackPoison ((accessStore c r).touch t e.2.bytes) c.core e.2.bytes) l.state

/-- The bytes that an access's pieces hold. -/
def pieceBytes (l : Located) : List Nat := l.pieces.flatMap fun e => e.2.bytes

/-- The stores of the lanes in ascending order (R186), which clear the poison of the sectors that they cover together (R423). -/
def storedLanes (s : State) (c : Ctx) (f : AccessForm) (r : Rec) (d : Code) (l : Located) : State :=
  let ty := f.elem r
  let x := accessStore c r
  x.cover (l.pieces.foldl (fun t e =>
    writeElem x (x.touch t e.2.bytes) ty e.2 (storeValue s c d ty e.1).1 (storeValue s c d ty e.1).2) l.state) (pieceBytes l)

/-- No register of the wave, no predicate, no s-register, MODE, EXEC or member of the fragment, and no other fragment of the wave
has changed. -/
def KeepsRegisters (c : Ctx) (t : State) : Prop :=
  ∃ w f, waveOf t c.core c.ref.block c.ref.wave = some w ∧ w.frag? c.ref.frag = some f ∧ w.regs = c.wave.regs ∧
    w.preds = c.wave.preds ∧ f.s = c.frag.s ∧ f.mode = c.frag.mode ∧ f.exec = c.frag.exec ∧ f.members = c.frag.members ∧
    ∀ n, n ≠ c.ref.frag → w.frag? n = c.wave.frag? n

/-- No exact-sum accumulator is bound to the byte at `a`. -/
def noSumAt (s : State) (a : Nat) : Prop := ∀ x ∈ s.exactSums, a < x.pa ∨ x.pa + x.size ≤ a

/-- The read-modify-writes of R194 on integers, and EXCH. -/
def atoms : List ((BitVec 3 → Code → BitVec 5 → Ord → Code → Instr) × Bool ×
    (Nat → BitVec 64 → BitVec 64 → BitVec 64)) :=
  [(.atomAdd, false, opIadd), (.atomSub, false, opIsub), (.atomMin, false, opImin), (.atomMax, false, opImax),
   (.atomAnd, false, opAnd), (.atomOr, false, opOr), (.atomXor, false, opXor), (.atomExch, true, fun _ _ x => x)]

/-- A read-modify-write's completion: the lanes one after another, the old values arriving in D. -/
def atomDone (c : Ctx) (i : Instr) (s : State) (f : AccessForm) (r : Rec) (d : Code) (q : Ord) (ix : Nat → Nat)
    (op : Nat → BitVec 64 → Option (BitVec 64)) : State :=
  let ty := recFormat r
  let u := uniformIssue i
  let l := afterLocate s c f r d u ix
  let res := applyLanes (accessStore c r) ty op l.pieces l.state
  let put (w : HistStep) (lane : Nat) (v : BitVec 64) := w.append (writeCode c lane d (is64 ty) ty v 62)
  forced c f r q l (completeLoad c i res.1 r
    ((outsideLanes s c f r d u ix).foldl (fun w lane => put w lane 0) (res.2.foldl (fun w e => put w e.1 e.2) {})))

/-- The FIFO forms and whether they produce (R207). -/
def fifoForms : List ((BitVec 3 → Code → BitVec 5 → Code → Instr) × Bool) :=
  [(.fifopReserve, true), (.fifopCommit, true), (.fifopClaim, false), (.fifopFree, false)]

/-- One row of R207's table: the counters after it, the slot it answers, and the count that `k` may not exceed. -/
structure FifoRow where
  next : Fifo
  slot : Nat
  limit : Nat

/-- The table of R207, with N, FREE and FILLED of R206. -/
def fifoRow (f : Fifo) (produce second : Bool) (k : Nat) : FifoRow :=
  let n := 65536 / f.desc.slotBytes
  match produce, second with
  | true, false => ⟨{ f with rp := f.rp + k }, f.rp % n, n - (f.rp - f.fp)⟩
  | true, true => ⟨{ f with cp := f.cp + k }, (f.cp + k) % n, f.rp - f.cp⟩
  | false, false => ⟨{ f with lp := f.lp + k }, f.lp % n, f.cp - f.lp⟩
  | false, true => ⟨{ f with fp := f.fp + k }, (f.fp + k) % n, f.lp - f.fp⟩

/-! Engines. -/

/-- A queued engine form: its operation, S, the two record fields and the flags (R219). -/
def queuedForm (i : Instr) : Option (OpForm × Code × BitVec 5 × BitVec 5 × Nat) :=
  match i with
  | .wload _ k x => some (.wload, k, x, 0, 0)
  | .mma _ k x => some (.mma, k, x, 0, 0)
  | .accz _ k f => some (.accz, k, 0, 0, f.toNat)
  | .accrd _ k y f => some (.accrd, k, 0, y, f.toNat)
  | .accld _ k x f => some (.accld, k, x, 0, f.toNat)
  | .copy _ k x y => some (.copy, k, x, y, 0)
  | .gather _ k x y => some (.gather, k, x, y, 0)
  | .scat _ k x y => some (.scat, k, x, y, 0)
  | .quant _ k x y f => some (.quant, k, x, y, f.toNat)
  | .coll _ k x y => some (.coll, k, x, y, 0)
  | _ => none

/-- The copies that an operation takes at issue (R220): its parameter word, and the records that the form names. -/
structure IssueCopies where
  p : BitVec 64
  da : Rec
  dw : Rec
  irec : Rec

/-- What a queued form goes by at issue: what it has copied before a wait, or else what it reads (R220). -/
def copiesOf (s : State) (c : Ctx) (f : OpForm) (x : Code) (ra rw : BitVec 5) : IssueCopies :=
  let p := (readS s c (x.toNat - 64)).val
  match c.frag.copied with
  | some k => { p := p, da := k.da, dw := k.dw, irec := k.irec }
  | none =>
    { p := p, da := if readsDa f then c.record ra else 0, dw := if writesDw f then c.record rw else 0,
      irec := if f = .gather ∨ f = .scat then c.record (BitVec.ofNat 5 (gatherRec p)) else 0 }

/-- What an issue keeps while it waits: its copies, and COPY's list once it is read. -/
def IssueCopies.kept (k : IssueCopies) (xs : Option (List XDim)) : EngineCopy :=
  { da := k.da, dw := k.dw, irec := k.irec, xdims := xs }

/-- COPY's list as an issue reads it; every other form reads none. -/
def listAt (s : State) (c : Ctx) (f : OpForm) (k : IssueCopies) : ListRead :=
  readList s c k.da k.dw (copyList k.p * 32) (if f = .copy then copyNx k.p else 0)

/-- What the read of COPY's list waits for, as a load does: a barrier, the wave's stores to its bytes, a fence, or a block that
holds them. -/
def listHeld (s : State) (c : Ctx) (f : OpForm) (k : IssueCopies) : Option Wait :=
  listWait s c (copyList k.p * 32) (16 * if f = .copy then copyNx k.p else 0)

/-- The list is there: it was read before a wait, or it is read now, and `s'` is the state then. -/
def ListReady (s : State) (c : Ctx) (f : OpForm) (k : IssueCopies) (s' : State) (xs : List XDim) : Prop :=
  match c.frag.copied.bind (·.xdims) with
  | some l => s' = s ∧ xs = l
  | none => listHeld s c f k = none ∧ listAt s c f k = .ok s' xs

/-- A message of kind SYSTEM from a wave of the block (R231, R310). -/
def fromSystem (s : State) (c : Ctx) (payload : BitVec 64) (rel : Option Nat) : Msg :=
  { payload := payload, sender := senderId c.wave.idx c.blk.lin, kind := 3, status := 0, rel := rel, seen := s.cycle + 1 }

/-! Messages and the system forms. -/

/-- The message of a SEND or SENDP (R208): kind user, STATUS of DST, the sender's wave and block, and with REL the release
at MODE.SCOPE. -/
def userMsg (c : Ctx) (dst payload : BitVec 64) : Msg :=
  { payload := payload
    sender := BitVec.ofNat 16 (c.wave.idx % 64 + c.blk.lin % 1024 * 64)
    kind := 0
    status := dst.extractLsb' 40 8
    rel := if dst.getLsbD 5 then some (modeScope c.frag.mode) else none }

/-- DST is well formed (R208). -/
abbrev dstLegal (b : Block) (dst : BitVec 64) : Prop :=
  dst.extractLsb' 48 16 = 0 ∧ (dst.extractLsb' 6 2).toNat < 2 ∧ (dst.extractLsb' 0 5).toNat < b.hdr.ports ∧
    ((dst.extractLsb' 6 2).toNat = 1 → (dst.extractLsb' 8 32).toNat < b.grid.1 * b.grid.2.1 * b.grid.2.2)

/-- A release of DST has nothing to wait for (R209). -/
abbrev releaseReady (s : State) (c : Ctx) (dst : BitVec 64) : Prop := dst.getLsbD 5 = true → storesSettled s c = true

/-- No answer to an earlier post of this SEND is kept (R248). -/
abbrev nothingKept (c : Ctx) : Prop := c.frag.kept = none

/-- A wait that starts now, at an instruction that stays the restart point. -/
def StartsWait (t : State) (s : State) (c : Ctx) (w : Wait) : Prop :=
  ∃ f, fragOf t c.core c.ref = some f ∧ f.st = .waitEvent w ∧ f.pc = c.frag.pc ∧ f.waitSince = s.timebase

/-- The whole fragment parks at its instruction with a code and FLT.INFO (R9, R341). -/
def parkAll (c : Ctx) (s : State) (code : Nat) (info : BitVec 64) : State :=
  takeFault c { code := code, lanes := c.frag.members, info := info, whole := true } s s

/-- The info word of RECV (R211). -/
def infoWord (m : Msg) : BitVec 64 := BitVec.ofNat 64 (m.status.toNat * 2 ^ 20 + m.kind.toNat * 2 ^ 16 + m.sender.toNat)

/-- A RECV's operand names a port that it may take from (R211). -/
abbrev recvLegal (b : Block) (v : BitVec 64) : Prop :=
  v &&& ~~~ (0x31F : BitVec 64) = 0 ∧ (v.extractLsb' 0 5).toNat < b.hdr.ports ∧
    (b.counting (v.extractLsb' 0 5).toNat).isNone = true

/-- The 64-bit system operand of a privileged form. -/
def sysArg (s : State) (c : Ctx) (a : Code) : BitVec 64 := readWord s c a

/-- One 64-bit result with tag 62. -/
def sysResult (c : Ctx) (d : Code) (v : BitVec 64) : HistStep := writeCode c 0 d true tyU64 v 62

/-- The HREL actions with the bits of the operand that each uses beside the entry's number (R247), and whether R343 gives the
action to an entry in service alone. -/
def releases : List ((BitVec 3 → Code → Instr) × BitVec 64 × Bool × (State → Nat → HamperEntry → BitVec 64 → State)) :=
  [(.hrelReplay, 0, true, fun s core e _ => releaseReplay s core e),
   (.hrelSkip, 0, true, fun s core e _ => releaseSkip s core e),
   (.hrelSignal, 0xFF00, true, fun s core e v => releaseSignal s core e (v.extractLsb' 8 8).toNat),
   (.hrelKill, 0x10000, false, fun s core e v => releaseKill s core e (v.getLsbD 16))]

/-- The device services of R402 that need no code of the context's table. -/
def services : List ((BitVec 3 → Instr) × Nat) := [(.svcWdog, 0x3F80), (.svcDebug, 0x3F81), (.svcCollreg, 0x3F82)]

/-- The bank of a BANKM has no use that keeps its mode, and another bank stays in L1 mode (R249, R276). -/
def bankFree (k : Core) (bank mode : Nat) : Bool :=
  !bankHeld k bank && (List.range 16).any fun j => (if j = bank then mode else bankMode k.bankcfg j) == 0

/-! What a form changes. -/

/-- A register, or the pair of window registers that a 64-bit result takes (R28). -/
def regsOf (wide : Bool) (d : Code) : List Nat := if wide && decide (d.toNat < 64) then [d.toNat, d.toNat + 1] else [d.toNat]

/-- The forms that write at most one register or predicate, and what each names as its destination: registers by code,
predicate k as 128 + k. -/
def destinations (t : Nat) : Instr → Option (List Nat)
  | .nop _ | .bra _ _ | .brz _ _ _ | .bnz _ _ _ => some []
  | .pset _ p _ | .icmpA _ _ p _ _ | .icmpB _ _ p _ _ | .fcmp _ _ p _ _ | .pand _ p _ _ | .por _ p _ _ | .pxor _ p _ _
  | .pnot _ p _ | .pmov _ p _ | .voteAny _ p _ | .voteAll _ p _ | .voteEq _ p _ => some [128 + p.toNat]
  | .iaddA _ d _ _ | .isub _ d _ _ | .imul _ d _ _ | .imulh _ d _ _ | .iaddc _ d _ _ | .imin _ d _ _ | .imax _ d _ _
  | .shlA _ d _ _ | .shrA _ d _ _ | .sarA _ d _ _ | .rot _ d _ _ | .andA _ d _ _ | .or _ d _ _ | .xor _ d _ _
  | .andn _ d _ _ | .iaddB _ d _ _ | .shlB _ d _ _ | .shrB _ d _ _ | .sarB _ d _ _ | .andB _ d _ _ | .ineg _ d _
  | .iabs _ d _ | .clz _ d _ | .popc _ d _ | .brev _ d _ | .imad _ d _ _ | .bfx _ d _ _ | .bfi _ d _ _ =>
    some (regsOf (is64 (intType t)) d)
  | .addr _ d _ _ | .litWide _ d _ => some (regsOf true d)
  | .mov _ d _ | .sel _ d _ _ | .lit _ d _ | .movi _ d _ | .cvti _ d _ _ | .fcvt _ d _ _ | .icvt _ d _ _ | .fadd _ d _ _
  | .fsub _ d _ _ | .fmul _ d _ _ | .fdiv _ d _ _ | .fmin _ d _ _ | .fmax _ d _ _ | .fcps _ d _ _ | .ffma _ d _ _
  | .ffms _ d _ _ | .fsqrt _ d _ | .frcp _ d _ | .frsq _ d _ | .fabs _ d _ | .fneg _ d _ | .frnd _ d _ | .fexp2 _ d _
  | .flog2 _ d _ | .fsin _ d _ | .fcos _ d _ | .ftag _ d _ | .fscale _ d _ _ | .ftagw _ d _ | .shflIdxA _ d _ _
  | .shflUpA _ d _ _ | .shflDownA _ d _ _ | .shflXorA _ d _ _ | .shflIdxB _ d _ _ | .shflUpB _ d _ _ | .shflDownB _ d _ _
  | .shflXorB _ d _ _ | .wperm _ d _ _ | .wred _ d _ _ | .wscan _ d _ _ | .rdlaneA _ d _ _ | .rdlaneB _ d _ _
  | .wrlaneA _ d _ _ | .wrlaneB _ d _ _ => some (regsOf (is64 t) d)
  | .fclass _ d _ | .voteBallot _ d _ | .execq _ d => some [d.toNat]
  | _ => none

/-- The lanes in which a form writes its destination: those of ACTIVE, but all of EXEC for SEL (R142). -/
def writtenLanes (s : State) (c : Ctx) : Instr → Lanes
  | .sel _ _ _ _ => c.frag.exec
  | _ => issueActive s c

/-! The values that the engines' steps write. -/

/-- From `s` to `t` the operation has worked row `progress` of the accumulators: element n of it holds `v n`, in the 32 or 64 bits of
its type, every other row is as it was, and the operation's exceptions gather those of the 64 elements. -/
def RowWorked (s t : State) (o : OpRef) (b : Block) (op : Op) (type : Nat) (v : Nat → LaneRes) : Prop :=
  let row (u : State) (r n : Nat) : AccStep := accGet (coreOf u o.core) b (accBaseOf op.param) type r n
  (∀ n < 64, row t op.progress n = ⟨if type = tyF64 then (v n).bits else (v n).bits &&& 0xFFFFFFFF, (v n).tag, 0⟩) ∧
  (∀ r n, r ≠ op.progress → n < 64 → row t r n = row s r n) ∧
  ∃ b' op', opAt t o = some (b', op') ∧ op'.progress = op.progress + 1 ∧ op'.staged = [] ∧
    op'.exc = (List.range 64).foldl (fun e n => e ||| (v n).exc) op.exc

/-- The rows of the Press, when their elements of DA are staged: those of an MMA add the products with column n of the tile to
element n (R228), those of an ACCLD are DA's elements converted to ACCT, those of an ACCZ zero with tag 62 (R230). An ACCRD outside a
bank writes the row's elements, converted to DW's FORMAT, where DW places them, and with CLEAR zeroes the row; through a bank it
writes them one after the other as slots become free. A WLOAD latches the tile it has fetched (R227). A grant goes from row to
row; a row that stalls or stops stalls or ends the operation. -/
def PressSteps : Prop :=
  ∀ (s : State) (o : OpRef) (b : Block) (op : Op), opAt s o = some (b, op) → cellsWf {} (coreOf s o.core).acc = true →
    let c := coreOf s o.core
    let type := flagType op.flags
    let acc (t r n : Nat) : AccStep := accGet c b (accBaseOf op.param) t r n
    (∀ x, op.staged.length = 64 → ∃ t, mmaStep x s o op = .ok t () ∧
      RowWorked s t o b op (accType (recFormat op.da)) fun n =>
        let y := mmaElement op.mode (recFormat op.da) (recFormat x.record) (acc (accType (recFormat op.da)) op.progress n) op.staged
          ((x.tile.drop (64 * n)).take 64)
        ⟨y.bits, y.tag, y.exc⟩) ∧
    (op.staged.length = 64 → ∃ t, accldStep s o op = .ok t () ∧
      RowWorked s t o b op type fun n => convertValue op.mode (recFormat op.da) type (op.staged.getD n {})) ∧
    (∃ t, acczStep s o op = .ok t () ∧ RowWorked s t o b op type fun _ => ⟨0, 62, 0⟩) ∧
    (∀ u places, recSpace op.dw ≠ 2 → findAll s o (rowElem op op.dw) 0 [] 64 = .ok u places →
      let got : List LaneRes := (List.range 64).map fun n =>
        let a := accGet (coreOf u o.core) b (accBaseOf op.param) type op.progress n
        convertValue op.mode type (recFormat op.dw) ⟨a.bits, a.tag⟩
      let written := (places.zip got).foldl (fun s e => writeFound s o op.dw e.1 ⟨e.2.bits, e.2.tag⟩) u
      accrdStep s o op = .ok (accrdDone written o b op (got.foldl (fun e x => e ||| x.exc) 0)) ()) ∧
    (∀ e, (4 ≤ op.flags → ∀ n < 64,
        accGet (coreOf (accrdDone s o b op e) o.core) b (accBaseOf op.param) type op.progress n = ⟨0, 62, 0⟩) ∧
      (op.flags < 4 → ∀ n < 64, accGet (coreOf (accrdDone s o b op e) o.core) b (accBaseOf op.param) type op.progress n =
        acc type op.progress n)) ∧
    (∀ k n v rest u place, op.result = v :: rest → findDest s o (rowElem op op.dw k) = .ok u place →
      (∃ b', opAt u o = some b' ∧ b'.2.result = op.result) →
      writeResult s o (rowElem op op.dw) k (n + 1) = writeResult
        (modOp (writeFound u o op.dw place v) o fun x => { x with result := x.result.tail }) o (rowElem op op.dw) (k + 1) n) ∧
    (op.staged.length = 4096 → ∃ b' op', opAt (wloadGrant s o op) o = some (b', op') ∧
      b'.latched = some ⟨op.da, op.param, op.staged, op.inS, true⟩ ∧ op'.ended = true ∧ op'.status = 0) ∧
    (∀ step n,
      (rowsOf op.param ≤ op.progress → pressRows step s o (n + 1) = endDone s o) ∧
      (op.progress < rowsOf op.param →
        (∀ t, step s o op = .ok t () → pressRows step s o (n + 1) = pressRows step t o n) ∧
        (∀ t w, step s o op = .stall t w → pressRows step s o (n + 1) = stallOp t o w) ∧
        (∀ t code info, step s o op = .stop t code info → pressRows step s o (n + 1) = endOp t o code info)))

/-- One element of the Mangle moved: the place of the destination is found and the source read, and DA's element, converted to DW's
FORMAT, is written there with its tag (R233, R235). -/
def Moves (s : State) (o : OpRef) (op : Op) (source dest : ElemAt) (t : State) (exc : Exc) : Prop :=
  ∃ u place v e, findDest s o dest = .ok u place ∧ readElemAt u o source = .ok v e ∧
    let r : LaneRes := if recFormat op.da = recFormat op.dw then ⟨e.bits, e.tag, 0⟩
      else convertValue op.mode (recFormat op.da) (recFormat op.dw) e
    t = writeFound v o op.dw place ⟨r.bits, r.tag⟩ ∧ exc = r.exc

/-- The element steps of the Mangle. COPY moves element q mod N0 with the extension's offsets for q div N0, dimension 3 fastest (R233).
GATHER takes element e of the row that its index element names and writes the next one, SCAT the other way round (R237). A BX
destination takes a block of 32 consecutive elements, quantised as a whole once it is read, and writes its elements one by one
(R235, R236). Each written element counts with the partition's Mangle bytes (R452). -/
def MangleSteps : Prop :=
  ∀ (s : State) (o : OpRef) (b : Block) (op : Op), opAt s o = some (b, op) →
    let q := op.progress
    let n0 := recExt0 op.da * recExt1 op.da * recExt2 op.da
    let quantises := isBx (recFormat op.dw) && !isBx (recFormat op.da)
    let x := extraOffsets op.xdims (q / n0)
    let target : ElemAt := { record := op.dw, index := (q % n0 : Nat), extra := x.2, order := q }
    (∀ (d : XDim) l k, extraOffsets [] k = (0, 0) ∧ extraOffsets (d :: l) k =
      ((k % d.extent : Nat) * d.sStride + (extraOffsets l (k / d.extent)).1,
        (k % d.extent : Nat) * d.dStride + (extraOffsets l (k / d.extent)).2)) ∧
    (∀ t e, (op.form = .copy ∨ op.form = .quant) → quantises = false →
      Moves s o op { record := op.da, index := (q % n0 : Nat), extra := x.1, order := q } target t e →
      mangleStep s o op = .ok (countMangle (workDone t o 1 e) o.core (elemBits (recFormat op.dw))) ()) ∧
    (∀ idx t e, (op.form = .gather ∨ op.form = .scat) → op.staged = [idx] →
      let len := gatherLen op.param
      let picked (r : Rec) : ElemAt :=
        { record := r, index := intVal (recFormat op.irec) idx.bits * (len : Int) + (q % len : Nat), order := q, wide := true }
      let next (r : Rec) : ElemAt := { record := r, index := q, order := q }
      (if op.form = .gather then Moves s o op (picked op.da) (next op.dw) t e
        else Moves s o op (next op.da) (picked op.dw) t e) →
      let done := workDone t o 1 e
      mangleStep s o op = .ok (countMangle
        (if (q + 1) % len = 0 then done else modOp done o fun y => { y with staged := [idx] }) o.core (elemBits (recFormat op.dw))) ()) ∧
    (∀ u idx, op.staged = [] →
      readElemAt s o { record := op.irec, index := (q / gatherLen op.param : Nat), order := q } = .ok u idx →
      gatherStep s o op = gatherStep u o { op with staged := [idx] }) ∧
    (∀ v rest u place, op.form ≠ .gather → op.form ≠ .scat → quantises = true → op.result = v :: rest →
      findDest s o target = .ok u place → (∃ y, opAt u o = some y ∧ y.2.result = op.result) →
      let written := modOp (writeFound u o op.dw place v) o fun y => { y with result := y.result.tail, progress := y.progress + 1 }
      mangleStep s o op = .ok (countMangle
        (if q + 1 = q / 32 * 32 + 32 then modOp written o fun y => { y with staged := [] } else written) o.core
        (elemBits (recFormat op.dw))) ()) ∧
    (quantises = true → op.result = [] → op.staged.length = 32 →
      let fixed := if op.form = .quant ∧ op.flags % 2 = 1 then some (pField op.param 8 8, pField op.param 16 8) else none
      let l := quantiseElems op.mode (recFormat op.da) (recFormat op.dw) fixed op.staged
      let left := (l.map fun e => (⟨e.bits, e.tag⟩ : Elem)).drop (q - q / 32 * 32)
      quantStep s o op = quantStep
        (modOp s o fun y => { y with result := left, exc := y.exc ||| l.foldl (fun z e => z ||| e.exc) 0 }) o
        { op with result := left })

/-! What an image holds comes back. -/

/-- The entries of an image read back as they were written (R410, R411), `l` being any image with the entry at its place: a
fragment with its registers, its wait or its kept request, a wave with its predicates, window bases, depth and pending
signal, its stacks, an operation of the table, a Hamper entry, a bank's counters, and the block's records, iron, rotation, sequence
number, latched weights and pattern enables. What the image has no place for is kept beside it (log entry 86): a fragment's kind
of wait here. A wait for an event other than a reply or a pattern is entered by issuing the instruction anew. -/
def ImageEntries : Prop :=
  ∀ (l rest : List Byte),
    (∀ (s s' : State) saved entry k w f, (sectOf l 2).drop (384 * k) = sectFrag saved s.cycle w f ++ rest → w < 256 →
      (stateCode saved f.st).2.1 < 256 → (stateCode saved f.st).2.2 < 2 ^ 64 →
      let x := readFrag s' l (some (f.st, f.kept)) entry k
      x.1 = w ∧ x.2.members = f.members ∧ x.2.exec = f.exec ∧ x.2.mode = f.mode ∧ x.2.pc = f.pc ∧ x.2.kept = f.kept ∧
      (∀ j < 32, cellGet {} j x.2.s = cellGet {} j f.s) ∧
      x.2.stallUntil = s'.cycle + min 255 (f.stallUntil - s.cycle) ∧
      x.2.st = match f.st with
        | .parked e => .parked (entry (saved e))
        | .waitEvent (.jwait n) => .waitEvent (.jwait n)
        | .waitEvent (.svcReply n) => .waitEvent (.svcReply n)
        | .waitEvent _ => .run
        | other => other) ∧
    (∀ b h quadrant w x, (sectOf l 1).drop (128 * w) = sectWave b w ++ rest → b.wave? w = some x → x.depth < 256 →
      (∀ j < 32, x.wbOf j < 65536) → (∀ n v, x.sigpend = some (n, v) → n < 255) →
      let y := readWave h l quadrant w
      y.st = x.st ∧ y.depth = x.depth ∧ y.sigpend = x.sigpend ∧ (∀ j < 32, y.wbOf j = x.wbOf j) ∧
      ∀ k ≤ 7, predOf y k = predOf x k) ∧
    (∀ (b : Block) regs (x y : Wave), (sectOf l 3).drop (32 * 5 * b.hdr.depth * x.idx) = sectStack b x.idx ++ rest →
      b.wave? x.idx = some x → y.idx = x.idx → cellsWf {} regs = true →
      (∀ j < 32, residentIndices b.hdr y j = residentIndices b.hdr x j) →
      ∀ j < 32, ∀ n ∈ residentIndices b.hdr x j,
        cellGet {} (n * 32 + j) (readStack b.hdr l regs y).regs = cellGet {} (n * 32 + j) x.regs) ∧
    (∀ (b : Block) o, (sectOf l 8).drop (192 * o.slot) = sectOp b o.slot ++ rest →
      b.ops.find? (fun x => x.slot == o.slot) = some o → o.status < 256 → o.progress < 2 ^ 32 → readOp l o = o) ∧
    (∀ e k, (sectOf l 10).drop (32 * k) = sectHamper e ++ rest → e.wave < 256 → e.code < 256 → e.access < 256 →
      readEntry l k = ⟨decide (e.st = .hw), e.wave, e.code, e.mask, e.active, e.access, e.info, e.pc⟩) ∧
    (∀ core f g j, (sectOf l 5).drop (65568 * j) = sectFifo core f ++ rest → f.rp < 2 ^ 64 → f.cp < 2 ^ 64 → f.lp < 2 ^ 64 →
      f.fp < 2 ^ 64 → readFifo l g j = { g with rp := f.rp, cp := f.cp, lp := f.lp, fp := f.fp }) ∧
    (∀ s b la p aux, sectOf l 0 = sectBlock b ++ rest → (∀ n, b.iron = some n → n < 255) → b.rotate < 256 →
      b.opSeq < 2 ^ 32 →
      let y := restoredBlock s l la p aux
      (∀ k < 32, cellGet 0 k y.recs = cellGet 0 k b.recs) ∧ y.iron = b.iron ∧ y.rotate = b.rotate ∧ y.opSeq = b.opSeq ∧
      y.latched.map (fun x => (x.record, x.param)) = b.latched.map (fun x => (x.record, x.param)) ∧
      (∀ k u v, k < 16 → y.patterns[k]? = some u → b.patterns[k]? = some v → u.enabled = v.enabled))

/-- The bytes of a block's scratchpad and banks and its accumulator rows come back from an image, to the places that the block has
now (R410, R412). -/
def ImageMemory : Prop :=
  ∀ (k : Core) (l : List Byte) (b : Block) (poison : List Nat), cellsWf 0 k.sram = true → cellsWf {} k.acc = true →
    let t := restoreMemory k l b poison
    let at' (n : Nat) : Nat := (imageHead l).offs.getD n 0
    ((∀ f ∈ b.fifos, b.pbase + b.hdr.scratch ≤ f.bank * 65536 ∨ f.bank * 65536 + 65536 ≤ b.pbase) →
      at' 4 + b.hdr.scratch ≤ l.length → ∀ i < b.hdr.scratch, cellGet 0 (b.pbase + i) t.sram = l.getD (at' 4 + i) 0) ∧
    (∀ j f, b.fifos[j]? = some f → (∀ j' f', b.fifos[j']? = some f' → f'.bank = f.bank → j' = j) →
      at' 5 + 65568 * (j + 1) ≤ l.length → ∀ i < 65536,
        cellGet 0 (f.bank * 65536 + i) t.sram = l.getD (at' 5 + 65568 * j + i) 0) ∧
    (∀ k' b' r rest, r < b.hdr.accRows → (sectOf l 6).drop (320 * r) = sectAcc k' b' r ++ rest → ∀ n < 64,
      cellGet {} ((b.accBase + r) * 64 + n) t.acc = cellGet {} ((b'.accBase + r) * 64 + n) k'.acc)

/-- An image names its block, and each of its sections stands at the offset that its header gives (R409, R410). -/
def ImageLayout : Prop :=
  ∀ (s : State) (c h : Nat) (b : Block),
    let l := imageBytes s c h b
    l.length < 2 ^ 32 → b.hdr.raw.length ≤ 128 →
    (imageHead l).bytes = l.length ∧ (imageHead l).launch = b.launch % 2 ^ 64 ∧ (imageHead l).lin = b.lin % 2 ^ 32 ∧
    (imageHead l).asid = b.asid % 2 ^ 16 ∧ (imageHead l).nfrag = (savedFrags b).length % 65536 ∧
    ∀ k < 12, ∃ rest, sectOf l k = (sections s c h b).getD k [] ++ rest

/-- Some words written out from the opcode map of R101 and the formats of R92 to R98, and the instructions they stand
for. -/
def knownWords : List (List Word × Instr) :=
  [([0x00000000], .nop 0), ([0x02204103], .pand 0 1 2 3), ([0x00204006], .mode 0 1 6), ([0x03E0FFFE], .movi 0 3 0xFFFE),
   ([0x04C18002], .iaddc 0 6 0 (.reg 2)), ([0x040180FF, 0xDEADBEEF], .iaddA 0 6 1 (.lit 0xDEADBEEF)),
   ([0x08014201], .fadd 0 5 4 (.reg 1)), ([0x0A008086], .fcvt 0 2 1 6), ([0x0CE0C101], .shflXorB 0 3 2 1),
   ([0x10014063], .ldM 0 5 0 .plain 0x63), ([0x13000180], .fenceAr 0), ([0x14310400], .mma 0 68 2),
   ([0x18522480], .recv 0 72 73), ([0x19000005], .trap 0 5), ([0x1C110020], .rdsys 0 68 0x20), ([0x1C400000], .eret 0),
   ([0x1DA00007], .bkpt 0 7), ([0xE0000000], .nop 7)]

end Sys2Proof.Claims

open Sys2Proof Sys2Proof.Machine Sys2Proof.Claims

/-! ### Integer and predicate forms -/

/-- R121 and R146: each integer form of the table writes its entry, modulo 2^n, with tag 62; IMM7 is taken sign-extended
to n bits. A literal B is one of IT under a floating TYPE too, which is the model's reading (log entry 82, DEDUCED). -/
def Obligations.IntegerResults : Prop :=
  (∀ e ∈ intPairs, ∀ w d a b s c, Issues (e.1 w d a b) s c →
      exec (e.1 w d a b) s = .next (intDone c (e.1 w d a b) s d fun lane =>
        e.2.value (itOf c) (src s c (tyBits (itOf c)) a lane) (srcI s c b lane))) ∧
  ((∀ e ∈ intImms, ∀ w d a m s c, Issues (e.1 w d a m) s c →
      exec (e.1 w d a m) s = .next (intDone c (e.1 w d a m) s d fun lane =>
        e.2.value (itOf c) (src s c (tyBits (itOf c)) a lane) (mod2 (tyBits (itOf c)) m.toInt))) ∧
    (∀ e ∈ intSingles, ∀ w d a s c, Issues (e.1 w d a) s c →
      exec (e.1 w d a) s = .next (intDone c (e.1 w d a) s d fun lane =>
        e.2 (itOf c) (src s c (tyBits (itOf c)) a lane))))

/-- R146, R147, R149 and R150: IMAD, the bit fields, ADDR and CVTI. IMAD's literal B is one of IT under a floating TYPE too,
and the literal field or index of BFX, BFI and ADDR is its word whatever TYPE is: the model's readings (log entries 82 and 84,
DEDUCED). -/
def Obligations.FieldAddressAndConversionResults : Prop :=
  ∀ (w : BitVec 3) (d a : Code) (b : Src) (k : BitVec 4) (s : State) (c : Ctx),
    let t := modeType c.frag.mode
    let u := itOf c
    let n := tyBits u
    (Issues (.imad w d a b) s c → exec (.imad w d a b) s = .next (intDone c (.imad w d a b) s d fun lane =>
      mod2 n (val u (src s c n a lane) * val u (srcI s c b lane) + val u (src s c n d lane)))) ∧
    (Issues (.bfx w d a b) s c → exec (.bfx w d a b) s = .next (intDone c (.bfx w d a b) s d fun lane =>
      fieldOf u (src s c n a lane) (index32 s c b lane))) ∧
    (Issues (.bfi w d a b) s c → exec (.bfi w d a b) s = .next (intDone c (.bfi w d a b) s d fun lane =>
      inserted u (src s c n d lane) (src s c n a lane) (index32 s c b lane))) ∧
    (Issues (.addr w d a b) s c → exec (.addr w d a b) s = .next (complete c (.addr w d a b) s
      (resultWrites s c (.addr w d a b) d true tyU64 fun lane =>
        let x := index32 s c b lane
        let step : Int := if t = tyU32 ∨ t = tyU64 then x.toNat else twos 32 x
        (src s c 64 a lane + BitVec.ofInt 64 (step * (tyBits t / 8 : Nat)), 62)))) ∧
    (Issues (.cvti w d a k) s c → exec (.cvti w d a k) s = .next (complete c (.cvti w d a k) s
      (resultWrites s c (.cvti w d a k) d (is64 t) t fun lane =>
        let x := val k.toNat (src s c (tyBits k.toNat) a lane)
        let lo : Int := if isSigned t then -(2 ^ (tyBits t - 1) : Nat) else 0
        let hi : Int := if isSigned t then (2 ^ (tyBits t - 1) : Nat) - 1 else (2 ^ tyBits t : Nat) - 1
        (mod2 (tyBits t) (max lo (min hi x)), 62))))

/-- R140 and R148: PSET and ICMP set their predicate in ACTIVE and nowhere else. ICMP's literal B is one of IT under a floating
TYPE too, which is the model's reading (log entry 82, DEDUCED). -/
def Obligations.PredicateResults : Prop :=
  ∀ (w p : BitVec 3) (k : IntCond) (a : Code) (b : Src) (m : BitVec 7) (s : State) (c : Ctx),
    let t := modeType c.frag.mode
    let u := itOf c
    let n := tyBits u
    (Issues (.pset w p a) s c →
      exec (.pset w p a) s = .next (predDone c (.pset w p a) s p fun lane => src s c (tyBits t) a lane != 0)) ∧
    (Issues (.icmpA w k p a b) s c →
      exec (.icmpA w k p a b) s = .next (predDone c (.icmpA w k p a b) s p fun lane =>
        icmpHolds k (val u (src s c n a lane)) (val u (srcI s c b lane)))) ∧
    (Issues (.icmpB w k p a m) s c →
      exec (.icmpB w k p a m) s = .next (predDone c (.icmpB w k p a m) s p fun lane =>
        icmpHolds k (val u (src s c n a lane)) (val u (mod2 n m.toInt))))

/-- R141: the predicate logic sets its predicate to the table's function of the sources in each lane of ACTIVE, from
values read before the write, and keeps the other lanes; p7 reads true and a write to it is discarded; the words are those
of the table, and a non-zero bit outside the named fields is reserved. -/
def Obligations.PredicateLogicResults : Prop :=
  (∀ e ∈ predLogics, ∀ (w p q r : BitVec 3) (s : State) (c : Ctx), Issues (e.1 w p q r) s c →
    exec (e.1 w p q r) s = .next (predDone c (e.1 w p q r) s p fun lane =>
      e.2 ((readP s c q.toNat).getLsbD lane) ((readP s c r.toNat).getLsbD lane))) ∧
  (∀ (s : State) (c : Ctx) (lanes value : Lanes),
    readP s c 7 = BitVec.allOnes 32 ∧ writePred c 7 lanes value = {} ∧
    ∀ k, k < 7 → (writePred c k lanes value).vs = [] ∧ (writePred c k lanes value).ss = [] ∧
      ∃ l, (writePred c k lanes value).ps = [(k, l)] ∧ ∀ lane, lane < 32 →
        l.getLsbD lane = if lanes.getLsbD lane then value.getLsbD lane else (predOf c.wave k).getLsbD lane) ∧
  (∀ (w p q r : BitVec 3) (x y z : BitVec 4),
    let word (op : BitVec 8) : Word := w ++ op ++ x ++ p ++ y ++ q ++ z ++ r
    let named := x = 0 ∧ y = 0 ∧ z = 0
    decodeWords (word 0x11) 0 0 = (if named then .ok (.pand w p q r) else .error .reservedField) ∧
    decodeWords (word 0x12) 0 0 = (if named then .ok (.por w p q r) else .error .reservedField) ∧
    decodeWords (word 0x13) 0 0 = (if named then .ok (.pxor w p q r) else .error .reservedField) ∧
    decodeWords (word 0x14) 0 0 = (if named ∧ r = 0 then .ok (.pnot w p q) else .error .reservedField) ∧
    decodeWords (word 0x15) 0 0 = (if named ∧ r = 0 then .ok (.pmov w p q) else .error .reservedField)) ∧
  decodeWords 0x02204103 0 0 = .ok (.pand 0 1 2 3)

/-! ### Floating point -/

/-- R155 to R165 and R54: when no enabled exception arises, a floating-point form writes its result and tag. -/
def Obligations.FloatResults : Prop :=
  ∀ i s c d f, Issues i s c → floatLane s c i = some (d, f) → trapped s c i f = 0 →
    exec i s = .next (complete c i s (floatWrites c i d (issueActive s c) f))

/-- R54: the lanes of an enabled exception take the fault of the lowest one's first exception and are not written; the
others complete. FLT.INFO is a free value, for R54 states none (log entry 16). -/
def Obligations.FloatTraps : Prop :=
  ∀ i s c d f, Issues i s c → floatLane s c i = some (d, f) → trapped s c i f ≠ 0 →
    exec i s = .next (takeFault c
      { code := excCode ((f (if uniformIssue i then 0 else lowestLane (trapped s c i f))).exc &&& modeTrapEn c.frag.mode),
        lanes := trapped s c i f, info := Config.freeWord s.freeCtr }
      s (complete c i s (if uniformIssue i then {} else floatWrites c i d (issueActive s c &&& ~~~ trapped s c i f) f)))

/-- R160, R161 and R166: FCMP, FCLASS, FTAG and FTAGW. R54: the lanes of an FCMP with an enabled invalid fault with its code and
keep their predicate, and the others complete; FLT.INFO is a free value (log entry 16). FTAGW's literal is read under TYPE, as
R153 has it (log entry 84). -/
def Obligations.FloatTestResults : Prop :=
  ∀ (w p : BitVec 3) (k : FloatCond) (d a : Code) (b : Src) (s : State) (c : Ctx),
    let t := modeType c.frag.mode
    let act := issueActive s c
    let holds (lane : Nat) : Bool := floatCond k (arg s c a lane).v (argB s c b lane).v
    let raises (lane : Nat) : Bool :=
      ((arg s c a lane).v.isSignalling || (argB s c b lane).v.isSignalling) && (excInvalid &&& modeTrapEn c.frag.mode) != 0
    (Issues (.fcmp w k p a b) s c →
      (lanesWhere act raises = 0 → exec (.fcmp w k p a b) s = .next (predDone c (.fcmp w k p a b) s p holds)) ∧
      (lanesWhere act raises ≠ 0 → exec (.fcmp w k p a b) s = .next (takeFault c
        { code := 0x0A, lanes := lanesWhere act raises, info := Config.freeWord s.freeCtr } s
        (complete c (.fcmp w k p a b) s (writePred c p.toNat (act &&& ~~~ lanesWhere act raises)
          (lanesWhere (act &&& ~~~ lanesWhere act raises) holds)))))) ∧
    (Issues (.fclass w d a) s c →
      exec (.fclass w d a) s = .next (complete c (.fclass w d a) s
        (resultWrites s c (.fclass w d a) d false tyU32 fun lane =>
          (BitVec.ofNat 64 (2 ^ classOf t (decodeF t (src s c (tyBits t) a lane))), 62)))) ∧
    (Issues (.ftag w d a) s c →
      exec (.ftag w d a) s = .next (complete c (.ftag w d a) s
        (resultWrites s c (.ftag w d a) d (is64 t) (if is64 t then tyU64 else tyU32) fun lane =>
          ((readCode s c t (tyBits t) a lane).2.setWidth 64, 62)))) ∧
    (Issues (.ftagw w d b) s c →
      exec (.ftagw w d b) s = .next (complete c (.ftagw w d b) s
        (let tag (lane : Nat) := heldTag ((low32 s c b lane).extractLsb' 0 6)
         if uniformIssue (.ftagw w d b) then retag c 0 d (is64 t) (tag 0)
         else laneWrites (issueActive s c) fun lane => retag c lane d (is64 t) (tag lane))))

/-- R142 to R145: MOV, SEL, MOVI and the two forms of LIT. Under I8 and I16 the 32 bits that MOV and SEL move are held in an
s-register sign-extended, which is the model's reading (log entry 83, DEDUCED); how an s-register holds F16, BF16 and TF32 is
its choice (log entry 121). -/
def Obligations.MoveAndConstantResults : Prop :=
  ∀ (w : BitVec 3) (d a : Code) (b : Src) (v : BitVec 16) (x : BitVec 32) (y : BitVec 64) (s : State) (c : Ctx),
    let t := modeType c.frag.mode
    let put (lane : Nat) (r : BitVec 64 × Tag) := writeCode c lane d (is64 t) (movedType t) r.1 r.2
    let fromA (lane : Nat) := readCode s c t (movedBits t) a lane
    let fromB (lane : Nat) := readSrc s c t (movedBits t) b lane
    let fresh : Tag := if isInt t then 62 else BitVec.ofNat 6 (precision t)
    (Issues (.mov w d a) s c → exec (.mov w d a) s = .next (complete c (.mov w d a) s
      (if uniformIssue (.mov w d a) then put 0 (fromA 0)
       else laneWrites (issueActive s c) fun lane => put lane (fromA lane)))) ∧
    (Issues (.sel w d a b) s c → exec (.sel w d a b) s = .next (complete c (.sel w d a b) s
      (if uniformIssue (.sel w d a b) then
         put 0 (if (issueActive s c).getLsbD (lowestLane c.frag.exec) then fromA 0 else fromB 0)
       else laneWrites c.frag.exec fun lane =>
         put lane (if (issueActive s c).getLsbD lane then fromA lane else fromB lane)))) ∧
    (Issues (.movi w d v) s c → exec (.movi w d v) s = .next (complete c (.movi w d v) s
      (resultWrites s c (.movi w d v) d (is64 t) t fun _ =>
        (if isInt t then mod2 (tyBits t) v.toInt else encodeF t (intToFloat (roundTo c.frag.mode) v.toInt).val, fresh)))) ∧
    (Issues (.lit w d x) s c → exec (.lit w d x) s = .next (complete c (.lit w d x) s
      (resultWrites s c (.lit w d x) d (is64 t) t fun _ => (literalValue t x, fresh)))) ∧
    (Issues (.litWide w d y) s c → exec (.litWide w d y) s = .next (complete c (.litWide w d y) s
      (resultWrites s c (.litWide w d y) d true tyU64 fun _ => (y, if t = tyF64 then 53 else 62))))

/-! ### Control flow -/

/-- R125 to R128 and R139: MODE and MODEW, the uniform branches and LOOP, JMPI, NOP and YIELD. R125: MODE changes the
bits of its group to the immediate's, and no other bit of MODE. -/
def Obligations.UniformControlAndMode : Prop :=
  (∀ (w g : BitVec 3) (v : BitVec 14) (a x : Code) (o21 : BitVec 21) (o : BitVec 14) (s : State) (c : Ctx),
      let sx := (readS s c (x.toNat - 64)).val
      let wide := (readCode s c (modeType c.frag.mode) 64 a 0).1
      let word := (readCode s c (modeType c.frag.mode) 32 a 0).1.extractLsb' 0 32
      (Issues (.nop w) s c → exec (.nop w) s = .next (complete c (.nop w) s {})) ∧
      (Issues (.mode w g v) s c → exec (.mode w g v) s =
        .next (modFrag (complete c (.mode w g v) s {}) c.core c.ref fun f =>
          { f with mode := setModeGroup f.mode g.toNat v.toNat })) ∧
      (Issues (.modew w a) s c → modeLegal word = true → exec (.modew w a) s =
        .next (modFrag (complete c (.modew w a) s {}) c.core c.ref fun f => { f with mode := word })) ∧
      (Issues (.bra w o21) s c → exec (.bra w o21) s = .next (completeAt c (.bra w o21) s {} (jumpTarget c o21.toInt))) ∧
      (Issues (.brz w x o) s c → exec (.brz w x o) s =
        .next (completeAt c (.brz w x o) s {} (if sx = 0 then jumpTarget c o.toInt else c.frag.pc + 4))) ∧
      (Issues (.bnz w x o) s c → exec (.bnz w x o) s =
        .next (completeAt c (.bnz w x o) s {} (if sx = 0 then c.frag.pc + 4 else jumpTarget c o.toInt))) ∧
      (Issues (.loop w x o) s c → exec (.loop w x o) s =
        .next (completeAt c (.loop w x o) s { ss := [(x.toNat - 64, ⟨sx - 1, 62⟩)] }
          (if sx = 1 then c.frag.pc + 4 else jumpTarget c o.toInt))) ∧
      (Issues (.jmpi w a) s c → wide.extractLsb' 0 2 = 0 → exec (.jmpi w a) s = .next (completeAt c (.jmpi w a) s {} wide)) ∧
      (Issues (.yield w) s c → exec (.yield w) s = .next
        (match yieldTo (coreOf (complete c (.yield w) s {}) c.core) c.wave.quadrant (c.ref.block == supervisorHandle) with
         | none => complete c (.yield w) s {}
         | some p => modCore (complete c (.yield w) s {}) c.core fun k =>
             enterActive (leaveActive k c.wave.quadrant c.ref) (s.cycle + 1) c.wave.quadrant p.ref))) ∧
  (∀ (m : BitVec 32) (g : BitVec 3) (v : BitVec 14) (k : Nat), k < 32 → modeValueOk g v = true →
      (setModeGroup m g.toNat v.toNat).getLsbD k =
        if (groupField g.toNat).1 ≤ k ∧ k < (groupField g.toNat).1 + (groupField g.toNat).2 then
          v.getLsbD (k - (groupField g.toNat).1)
        else m.getLsbD k)

/-- R129 to R131 and R81: BRP sends the lanes of ACTIVE, SIGBR those of ACTIVE whose significance is below SIGMIN; no lane,
all members, or a split in which both fragments keep copies. -/
def Obligations.PerThreadBranches : Prop :=
  (∀ w o s c, Issues (.brp w o) s c → Branches c (.brp w o) s (issueActive s c) (jumpTarget c o.toInt)) ∧
  (∀ w x o s c, Issues (.sigbr w x o) s c → Branches c (.sigbr w x o) s (belowSigmin s c x) (jumpTarget c o.toInt))

/-- R136 and R137: where no granule has to move, CALL and CALLI slide the windows up by F, write the link and jump; RET
slides them down and returns. R26: a slide moves the window base of each of its lanes by F and no other lane's, in the
canonical form. -/
def Obligations.CallsAndReturns : Prop :=
  (∀ (w : BitVec 3) (f : BitVec 7) (o : BitVec 14) (a : Code) (s : State) (c : Ctx),
      let link : HistStep := { ss := [(31, ⟨linkOf f.toNat (c.frag.pc + 4), 62⟩)] }
      let target := (readCode s c (modeType c.frag.mode) 64 a 0).1
      let s31 := (readS s c 31).val
      let back := (s31.extractLsb' 57 7).toNat
      let ret : BitVec 64 := (s31.extractLsb' 0 57).setWidth 64
      (Issues (.call w f o) s c → slideMoves c.blk.hdr c.wave c.frag.members f.toNat = false →
        exec (.call w f o) s = .next (slidDone c (.call w f o) s link (jumpTarget c o.toInt) f.toNat)) ∧
      (Issues (.calli w a f) s c → target.extractLsb' 0 2 = 0 →
        slideMoves c.blk.hdr c.wave c.frag.members f.toNat = false →
        exec (.calli w a f) s = .next (slidDone c (.calli w a f) s link target f.toNat)) ∧
      (Issues (.ret w) s c → (∀ lane, c.frag.members.getLsbD lane = true → back ≤ c.wave.wbOf lane) →
        ret.extractLsb' 0 2 = 0 → slideMoves c.blk.hdr c.wave c.frag.members (-(back : Int)) = false →
        exec (.ret w) s = .next (slidDone c (.ret w) s {} ret (-(back : Int))))) ∧
  (∀ (w : Wave) (lanes : Lanes) (delta : Int), cellsWf 0 w.wb = true →
      cellsWf 0 (w.slide lanes delta).wb = true ∧
      ∀ lane, (w.slide lanes delta).wbOf lane =
        if lanes.getLsbD lane then ((w.wbOf lane : Int) + delta).toNat else w.wbOf lane)

/-- R132, R138 and R176: RCV and WSYNC wait at their instruction, a WSYNC under an empty ACTIVE falls through, and EXIT
ends the lanes of ACTIVE. R126, R128, R136 and R137: the fragment faults of the control forms, before any effect. That RET's 0x01
has a free FLT.INFO (log entry 16) and that a WSYNC keeps the length of its words for its release (log entry 28) are the model's. -/
def Obligations.WaitsExitsAndControlFaults : Prop :=
  (∀ (w : BitVec 3) (a : Code) (b : Src) (s : State) (c : Ctx),
      (Issues (.rcv w) s c → exec (.rcv w) s = .next (waits c (.rcv w) s .waitRcv)) ∧
      (Issues (.exit w) s c → exec (.exit w) s =
        .next (modBlock (modWave (complete c (.exit w) s {}) c.core c.ref.block c.ref.wave fun v =>
          v.endLanes c.ref.frag (issueActive s c)) c.core c.ref.block fun b => b.freeIron c.ref.wave)) ∧
      (Issues (.wsync w a b) s c → issueActive s c = 0 → exec (.wsync w a b) s = .next (complete c (.wsync w a b) s {})) ∧
      (Issues (.wsync w a b) s c → issueActive s c ≠ 0 → exec (.wsync w a b) s =
        .next (waits c (.wsync w a b) s (.waitSync
          (match b with | .lit x => x | .reg _ => (src s c 32 a 0).extractLsb' 0 32) (instrBytes (.wsync w a b)))))) ∧
  (∀ (w : BitVec 3) (f : BitVec 7) (a : Code) (s : State) (c : Ctx),
      let wide := (readCode s c (modeType c.frag.mode) 64 a 0).1
      let word := (readCode s c (modeType c.frag.mode) 32 a 0).1.extractLsb' 0 32
      let s31 := (readS s c 31).val
      let back := (s31.extractLsb' 57 7).toNat
      let ret : BitVec 64 := (s31.extractLsb' 0 57).setWidth 64
      let park (code : Nat) (info : BitVec 64) : State :=
        takeFault c { code := code, lanes := c.frag.members, info := info, whole := true } s s
      (Issues (.modew w a) s c → modeLegal word = false → exec (.modew w a) s = .next (park 0x01 (word.setWidth 64))) ∧
      (Issues (.jmpi w a) s c → wide.extractLsb' 0 2 ≠ 0 → exec (.jmpi w a) s = .next (park 0x04 wide)) ∧
      (Issues (.calli w a f) s c → wide.extractLsb' 0 2 ≠ 0 → exec (.calli w a f) s = .next (park 0x04 wide)) ∧
      (Issues (.ret w) s c → (∃ lane, c.frag.members.getLsbD lane = true ∧ c.wave.wbOf lane < back) →
        exec (.ret w) s = .next (park 0x01 (Config.freeWord s.freeCtr))) ∧
      (Issues (.ret w) s c → (∀ lane, c.frag.members.getLsbD lane = true → back ≤ c.wave.wbOf lane) →
        ret.extractLsb' 0 2 ≠ 0 → exec (.ret w) s = .next (park 0x04 ret)))

/-! ### Lane operations -/

/-- R171, R175 and R177: SHFL, RDLANE, WRLANE, WPERM, MASK and EXECQ. R172 to R174 and R65: VOTE, and WRED and WSCAN: the fixed
tree and its prefixes. R54 and R154: a WRED whose result raises an enabled exception or fails the significance comparison
faults in ACTIVE, and a WSCAN in the lanes whose results do, and nothing is written there; FLT.INFO is a free value (log entry
16). The types under which lane moves are held (log entry 83), lane 0's prefix delivered as it is (log entry 25) and the literal
index of SHFL (log entry 84) are the model's readings. -/
def Obligations.LaneResults : Prop :=
  (∀ (w : BitVec 3) (d a : Code) (b : Src) (m : BitVec 5) (s : State) (c : Ctx),
      let act := issueActive s c
      let fromLane (j : Nat) : BitVec 64 × Tag := if c.frag.members.getLsbD j then moved s c a j else (0, 62)
      let j := (low32 s c b 0).toNat % 32
      let read (i : Instr) (j : Nat) : State := complete c i s
        (if uniformIssue i then putMoved c d 0 (fromLane j) else laneWrites act fun lane => putMoved c d lane (fromLane j))
      let write (i : Instr) (j : Nat) : State := complete c i s (if act.getLsbD j then putMoved c d j (moved s c a j) else {})
      (∀ e ∈ shufflesA, Issues (e.1 w d a b) s c →
        exec (e.1 w d a b) s = .next (shuffled c (e.1 w d a b) s d a e.2 fun lane => (index32 s c b lane).toNat % 2 ^ 32)) ∧
      (∀ e ∈ shufflesB, Issues (e.1 w d a m) s c →
        exec (e.1 w d a m) s = .next (shuffled c (e.1 w d a m) s d a e.2 fun _ => m.toNat)) ∧
      (Issues (.rdlaneA w d a b) s c → exec (.rdlaneA w d a b) s = .next (read (.rdlaneA w d a b) j)) ∧
      (Issues (.rdlaneB w d a m) s c → exec (.rdlaneB w d a m) s = .next (read (.rdlaneB w d a m) m.toNat)) ∧
      (Issues (.wrlaneA w d a b) s c → exec (.wrlaneA w d a b) s = .next (write (.wrlaneA w d a b) j)) ∧
      (Issues (.wrlaneB w d a m) s c → exec (.wrlaneB w d a m) s = .next (write (.wrlaneB w d a m) m.toNat)) ∧
      (Issues (.wperm w d a b) s c → exec (.wperm w d a b) s = .next (complete c (.wperm w d a b) s
        (laneWrites act fun lane =>
          match (lanesOf act).find? fun i => (low32 s c b i).toNat % 32 == lane with
          | some i => putMoved c d lane (moved s c a i)
          | none => {}))) ∧
      (Issues (.mask w d a) s c → exec (.mask w d a) s =
        .next (modFrag (complete c (.mask w d a) s (writeCode c 0 d true tyU64 (c.frag.exec.setWidth 64) 62)) c.core c.ref
          fun f => { f with exec := (src s c 32 a 0).extractLsb' 0 32 &&& f.members })) ∧
      (Issues (.execq w d) s c → exec (.execq w d) s =
        .next (complete c (.execq w d) s (writeCode c 0 d true tyU64
          (BitVec.ofNat 64 (c.frag.members.toNat * 2 ^ 32 + c.frag.exec.toNat)) 62)))) ∧
  (∀ (w p q : BitVec 3) (d a : Code) (o : RedOp) (s : State) (c : Ctx),
      let t := modeType c.frag.mode
      let act := issueActive s c
      let raised (x : RedNode) : Exc := (x.exc ||| x.sig) &&& modeTrapEn c.frag.mode
      let quiet (x : RedNode) := raised x = 0
      let free := Config.freeWord s.freeCtr
      let bad := lanesWhere act fun lane => raised (scanned s c a o lane) != 0
      let scan (lanes : Lanes) := laneWrites lanes fun lane =>
        writeCode c lane d (is64 t) t (scanned s c a o lane).bits (scanned s c a o lane).tag
      (∀ e ∈ votes, Issues (e.1 w p q) s c →
        exec (e.1 w p q) s = .next (predDone c (e.1 w p q) s p fun _ => voted s c q e.2)) ∧
      (Issues (.voteBallot w d q) s c → exec (.voteBallot w d q) s = .next (complete c (.voteBallot w d q) s
        (resultWrites s c (.voteBallot w d q) d false tyU32 fun _ => ((readP s c q.toNat &&& act).setWidth 64, 62)))) ∧
      (Issues (.wred w d a o) s c → (act ≠ 0 → quiet (reduced s c a o)) →
        exec (.wred w d a o) s = .next (complete c (.wred w d a o) s
          (resultWrites s c (.wred w d a o) d (is64 t) t fun _ => ((reduced s c a o).bits, (reduced s c a o).tag)))) ∧
      (Issues (.wred w d a o) s c → act ≠ 0 → ¬ quiet (reduced s c a o) →
        exec (.wred w d a o) s = .next (takeFault c
          { code := excCode (raised (reduced s c a o)), lanes := act, info := free } s (complete c (.wred w d a o) s {}))) ∧
      (Issues (.wscan w d a o) s c → bad = 0 →
        exec (.wscan w d a o) s = .next (complete c (.wscan w d a o) s (scan act))) ∧
      (Issues (.wscan w d a o) s c → bad ≠ 0 →
        exec (.wscan w d a o) s = .next (takeFault c
          { code := excCode (raised (scanned s c a o (lowestLane bad))), lanes := bad, info := free } s
          (complete c (.wscan w d a o) s (scan (act &&& ~~~ bad))))))

/-! ### Memory forms -/

/-- R184 and R185: a load whose lanes all go through completes, and its elements arrive later in D. That they are those that
memory holds when it issues is the model's choice (log entry 9): R191 lets a load be performed later. -/
def Obligations.LoadResults : Prop :=
  ∀ i s c f d r q u ix, Issues i s c → loadOf s c i = some (f, d, r, q, u, ix) →
    GoesThrough s c f (c.record r) d q u ix →
    let l := afterLocate s c f (c.record r) d u ix
    let t := retired c (c.record r) l
    exec i s = .next (forced c f (c.record r) q l
      (completeLoad c i t (c.record r) (loadWrites c f (c.record r) d t l.pieces (outsideLanes s c f (c.record r) d u ix))
        (if recSpace (c.record r) = 0 then
          linkLanes c u (planAccess s c f (c.record r) d u (issueActive s c) ix).go l.pieces else [])))

/-- R185 and R186: a store under PSTORE, or to core SRAM, whose lanes all go through, is performed when it issues. -/
def Obligations.PerformedStoreResults : Prop :=
  ∀ i s c f d r q u ix k, Issues i s c → storeOf s c i = some (f, d, r, q, u, ix, k) →
    (recSpace (c.record r) ≠ 0 ∨ modePstore c.frag.mode = true) → GoesThrough s c f (c.record r) d q u ix →
    let l := afterLocate s c f (c.record r) d u ix
    exec i s = .next (forced c f (c.record r) q l (complete c i (storedLanes s c f (c.record r) d l) {}))

/-- R191, R192 and R350: a store to SPACE 0 without PSTORE, whose lanes all pass the checks, is posted, the wave holding at most
15 before it and no store or unresolved record that shares a byte, and, if it is a release, nothing unperformed: it joins the
wave's posted stores, and no memory changes; until then it waits at its instruction. A resilient block's also waits for room
under R430's limits of held lines, which it counts by its virtual bytes, and a release of device or system scope makes its
checkpoint due. That the records do not count among the 16 (log entry 79) and how the lines are counted (log entry 132) are the
model's readings. -/
def Obligations.PostedStoreResults : Prop :=
  ∀ i s c f d r q u ix k, Issues i s c → storeOf s c i = some (f, d, r, q, u, ix, k) →
    recSpace (c.record r) = 0 → modePstore c.frag.mode = false →
    let p := planAccess s c f (c.record r) d u (issueActive s c) ix
    let ranges := p.go.flatMap (·.2.ranges)
    let ready := (Ord.releases q = true → storesSettled s c = true) ∧ c.wave.posted.length < 16 ∧
      heldByStores c.wave (waveRecords s c) ranges = false
    let room := heldOver s c.core c.ref.block (postedLines p) = false
    issueActive s c ≠ 0 → p.bad = [] → p.go ≠ [] →
    (ready → room → ∃ t b w o, exec i s = .next t ∧ t.mem = s.mem ∧ blockOf t c.core c.ref.block = some b ∧
      b.wave? c.ref.wave = some w ∧ w.posted = c.wave.posted ++ [o] ∧ o.pc = c.frag.pc ∧ o.kind = k ∧
      o.lanes = storeLanes s c d (f.elem (c.record r)) p.go ∧ o.failed = none ∧ o.scope = modeScope c.frag.mode ∧
      (c.blk.hdr.resilient = true → Ord.releases q = true → 4 ≤ modeScope c.frag.mode → b.ckpt.due = true) ∧
      KeepsRegisters c t) ∧
    (¬ (ready ∧ room) → ∃ t g w, exec i s = .next t ∧ t.mem = s.mem ∧ fragOf t c.core c.ref = some g ∧ g.pc = c.frag.pc ∧
      g.st = .waitEvent w)

/-- R184: a memory form under an empty ACTIVE completes without effect. R201: a cache form whose lanes do not fault
moves no value; in SPACE 0 a write-back retires the exact sums it meets. R190 and R193: a FENCE completes and, while the
wave's posted stores or records are open, holds back its later stores (fence.rel) or its later accesses (fence.ar); R430: one
that releases at device or system scope makes a resilient block's checkpoint due.
DRAINS completes once none that was issued before it is open and no such SENDP is on its way, and waits until then. -/
def Obligations.CacheFenceAndEmptyForms : Prop :=
  (∀ i s c, Issues i s c → issueActive s c = 0 → ((loadOf s c i).isSome ∨ (storeOf s c i).isSome ∨
      (∃ w r a, i = .pref w r a ∨ i = .cwb w r a ∨ i = .cinv w r a) ∨
      (∃ w d r q a, i = .cas w d r q a ∨ i = .fatom w d r q a ∨ i = .fatomq w d r q a ∨ ∃ e ∈ atoms, i = e.1 w d r q a)) →
      exec i s = .next (complete c i s {})) ∧
  (∀ (w : BitVec 3) (r : BitVec 5) (a : Code) (s : State) (c : Ctx),
      let rc := c.record r
      let p := planAccess s c cacheAccess rc 96 false (issueActive s c) (recIndex s c a)
      let l := locateAll s c cacheAccess rc p
      issueActive s c ≠ 0 →
      (recSpace rc ≠ 0 → p.bad = [] → ∀ i ∈ [Instr.pref w r a, .cwb w r a, .cinv w r a], Issues i s c →
        exec i s = .next (complete c i s {})) ∧
      (recSpace rc = 0 →
      (Issues (.pref w r a) s c → p.bad = [] → exec (.pref w r a) s = .next (complete c (.pref w r a) l.state {})) ∧
      (Issues (.cwb w r a) s c → l.bad = [] → exec (.cwb w r a) s = .next (complete c (.cwb w r a) (writtenBack c rc l) {})) ∧
      (Issues (.cinv w r a) s c → l.bad = [] →
        exec (.cinv w r a) s = .next (complete c (.cinv w r a) (writtenBack c rc l) {})))) ∧
  (∀ (w : BitVec 3) (s : State) (c : Ctx),
      let pending := !storesSettled s c
      let bound := c.frag.drainBound.getD s.nextIdent
      let fenced (i : Instr) (stores loads : Bool) : State :=
        modWave (complete c i s {}) c.core c.ref.block c.ref.wave fun v =>
          { v with fenceStores := v.fenceStores || (stores && pending), fenceLoads := v.fenceLoads || (loads && pending) }
      let ends (t : State) : State := if 4 ≤ modeScope c.frag.mode then forceCheckpoint t c.core c.ref.block else t
      (Issues (.fenceAcq w) s c → exec (.fenceAcq w) s = .next (fenced (.fenceAcq w) false false)) ∧
      (Issues (.fenceRel w) s c → exec (.fenceRel w) s = .next (ends (fenced (.fenceRel w) true false))) ∧
      (Issues (.fenceAr w) s c → exec (.fenceAr w) s = .next (ends (fenced (.fenceAr w) true true))) ∧
      (Issues (.drains w) s c → drained s c.core c.ref.block c.wave bound = true →
        exec (.drains w) s = .next (complete c (.drains w) s {})) ∧
      (Issues (.drains w) s c → drained s c.core c.ref.block c.wave bound = false →
        exec (.drains w) s = .next (waitEvent s c (.drains bound))))

/-- R194: ATOM and CAS whose lanes all go through: each lane in ascending order reads the old value, stores the new one, and
receives the old one in D. CAS stores only where old equals the comparand, bit for bit. -/
def Obligations.AtomicResults : Prop :=
  ∀ (w : BitVec 3) (d : Code) (r : BitVec 5) (q : Ord) (a : Code) (s : State) (c : Ctx),
    let rc := c.record r
    let t := recFormat rc
    let x (code : Code) (lane : Nat) : BitVec 64 := src s c (tyBits t) code lane
    let swap : Code := if d.toNat < 64 ∧ is64 t then d + 2 else d + 1
    (∀ e ∈ atoms, Issues (e.1 w d r q a) s c →
      GoesThrough s c (atomAccess e.2.1) rc d q (uniformIssue (e.1 w d r q a)) (recIndex s c a) →
      exec (e.1 w d r q a) s = .next (atomDone c (e.1 w d r q a) s (atomAccess e.2.1) rc d q (recIndex s c a)
        fun lane old => some (e.2.2 t old (x d lane)))) ∧
    (Issues (.cas w d r q a) s c → GoesThrough s c casAccess rc d q (uniformIssue (.cas w d r q a)) (recIndex s c a) →
      exec (.cas w d r q a) s = .next (atomDone c (.cas w d r q a) s casAccess rc d q (recIndex s c a)
        fun lane old => if old = x d lane then some (x swap lane) else none))

/-- R197 and R198: FATOM adds the lanes' values, in ascending order, to the elements' exact sums, or, in a resilient block, at its
commit (R430), and FATOMQ delivers their rounded values, where the partition's store has room, no lane faults and no enabled
exception arises. -/
def Obligations.ExactSumResults : Prop :=
  ∀ (w : BitVec 3) (d : Code) (r : BitVec 5) (q : Ord) (a : Code) (s : State) (c : Ctx),
    let rc := c.record r
    let t := modeType c.frag.mode
    let size := tySize (recFormat rc)
    let value (lane : Nat) : BitVec 64 := encodeF t (inF t c.frag.mode (src s c (tyBits t) d lane))
    let room (writes : Bool) (l : Located) : Prop :=
      sumsShort s (sumsNeeded s (partitionOf c.core) size writes l.pieces) = none
    let reached (f : AccessForm) (u : Bool) (l : Located) : Prop :=
      issueActive s c ≠ 0 ∧ accessWait s c f rc q (planAccess s c f rc d u (issueActive s c) (recIndex s c a)) = none ∧
        l.bad = [] ∧ physWait s c true false (pieceBytes l) = none
    (Issues (.fatom w d r q a) s c →
      let u := uniformIssue (.fatom w d r q a)
      let l := afterLocate s c (sumAccess true) rc d u (recIndex s c a)
      reached (sumAccess true) u l → (∀ e ∈ l.pieces, paRegion e.2.pa ≠ 2) →
      room true l →
      exec (.fatom w d r q a) s = .next (forceCheckpoint (complete c (.fatom w d r q a)
        (l.pieces.foldl (fun st e => contribute st c size t e.2 (value e.1)) (fillSums l.state size l.pieces)) {})
        c.core c.ref.block)) ∧
    (Issues (.fatomq w d r q a) s c →
      let u := uniformIssue (.fatomq w d r q a)
      let l := afterLocate s c (sumAccess false) rc d u (recIndex s c a)
      let s1 := fillSums l.state size l.pieces
      let s2 := (l.pieces.filter fun e => (boundSum s1 e.2.pa size).isNone).foldl
        (fun st e => (accessStore c rc).touch st e.2.bytes) s1
      let got (e : Nat × Piece) : LaneRes := sumValue s2 c (accessStore c rc) (recFormat rc) e.2
      reached (sumAccess false) u l → room false l →
      let out : List (Nat × LaneRes) :=
        (outsideLanes s c (sumAccess false) rc d u (recIndex s c a)).map fun lane => (lane, ⟨0, freshTag t, 0⟩)
      let all : List (Nat × LaneRes) := l.pieces.map (fun e => (e.1, got e)) ++ out
      (∀ e ∈ l.pieces, (got e).exc &&& modeTrapEn c.frag.mode = 0) →
      exec (.fatomq w d r q a) s = .next (forceCheckpoint (completeLater c (.fatomq w d r q a) s2
        (all.foldl (fun h e => h.append (writeCode c e.1 d (is64 t) t e.2.bits e.2.tag)) {})) c.core c.ref.block))

/-- R202 to R204: a legal record enters its slot; an illegal one faults with the code of R36; RECGET delivers a field.
FLT.INFO of the code for an illegal record is a free value, which the spec leaves open (log entry 16, DESIGN CHOICE). -/
def Obligations.RecordFormResults : Prop :=
  ∀ (w : BitVec 3) (d a : Code) (r : BitVec 5) (v : Rec) (x : BitVec 64) (s : State) (c : Ctx),
    let sel := (src s c 32 a 0).toNat
    let put (i : Instr) : State := modBlock (complete c i s {}) c.core c.ref.block fun b =>
      { b with recs := cellSet 0 r.toNat v b.recs }
    let refuse (code : Nat) : State :=
      takeFault c { code := code, lanes := c.frag.members, info := Config.freeWord s.freeCtr, whole := true } s s
    let k := d.toNat - 64
    (v = (readS s c (k + 3)).val ++ (readS s c (k + 2)).val ++ (readS s c (k + 1)).val ++ (readS s c k).val →
      Issues (.recset w d r) s c →
      (recCheck v = none → exec (.recset w d r) s = .next (put (.recset w d r))) ∧
      (∀ code, recCheck v = some code → exec (.recset w d r) s = .next (refuse code))) ∧
    (recModified (c.record r) sel (src s c 64 d 0) = some v → Issues (.recmod w d r a) s c →
      (recCheck v = none → exec (.recmod w d r a) s = .next (put (.recmod w d r a))) ∧
      (∀ code, recCheck v = some code → exec (.recmod w d r a) s = .next (refuse code))) ∧
    (recModified (c.record r) sel (src s c 64 d 0) = none → Issues (.recmod w d r a) s c →
      exec (.recmod w d r a) s = .next
        (takeFault c { code := 0x01, lanes := c.frag.members, info := src s c 32 a 0, whole := true } s s)) ∧
    (recGot (c.record r) sel = none → Issues (.recget w d r a) s c → exec (.recget w d r a) s = .next (refuse 0x01)) ∧
    (recGot (c.record r) sel = some x → Issues (.recget w d r a) s c →
      exec (.recget w d r a) s = .next (complete c (.recget w d r a) s (writeCode c 0 d true tyU64 x 62)))

/-- R203 and R204: RECGET reads back what RECMOD put into a field, the strides and AUX sign-extended, and every other field
as it was. -/
def Obligations.RecordFieldsReadBack : Prop :=
  ∀ (r r' : Rec) (sel : Nat) (v : BitVec 64), sel ≤ 12 → recModified r sel v = some r' →
    (∀ k, k ≤ 12 → k ≠ sel → recGot r' k = recGot r k) ∧
    ∃ lo n, recField sel = some (lo, n) ∧
      recGot r' sel = some (if sel = 7 ∨ sel = 8 ∨ sel = 12 then (v.extractLsb' 0 40).signExtend 64
        else v &&& BitVec.ofNat 64 (2 ^ n - 1))

/-- R207: a FIFOP within its limits moves its counter by k and answers its slot, in either phase. With an empty ACTIVE it does
nothing (R184). Through a record of another SPACE it raises 0x05, through an unbound number 0x06 (R281), with a k beyond N or
beyond what the phase may move, or with a non-zero a[31:17], 0x05 with FLT.INFO a. It waits for a conflicting operation of the
block (R289), a commit for the wave's earlier stores, a reserve for FREE ≥ k and a claim for FILLED ≥ k, at the instruction.
The R289 check, once passed, is not made again over operations that issue later. FLT.INFO of 0x06 is a free value (log entry
16, DESIGN CHOICE). -/
def Obligations.FifoResults : Prop :=
  ∀ e ∈ fifoForms, ∀ w d r a s c, Issues (e.1 w d r a) s c →
    let i := e.1 w d r a
    let v := src s c 32 a 0
    let k := (v.extractLsb' 0 16).toNat
    let second := v.getLsbD 16
    let logical := recBase (c.record r) % 16
    (issueActive s c = 0 → exec i s = .next (complete c i s {})) ∧
    (issueActive s c ≠ 0 → recSpace (c.record r) ≠ 2 →
      exec i s = .next (takeFault c { code := 0x05, lanes := issueActive s c, info := v } s s)) ∧
    (issueActive s c ≠ 0 → recSpace (c.record r) = 2 → c.blk.fifo? logical = none →
      exec i s = .next (takeFault c { code := 0x06, lanes := issueActive s c, info := openInfo s } s s)) ∧
    (∀ f, issueActive s c ≠ 0 → recSpace (c.record r) = 2 → c.blk.fifo? logical = some f →
      let row := fifoRow f e.2 second k
      let core := coreOf s c.core
      let lo := f.bank * 2048
      let illegal := 65536 / f.desc.slotBytes < k ∨ v.extractLsb' 17 15 ≠ 0 ∨ (second = true ∧ row.limit < k)
      let conflict := scoreboardBlocks core s.cycle lo (lo + 2048) e.2 (some e.2) c.frag.sbBound
      let bound := c.frag.sbBound.getD (sbBoundAt core s.cycle)
      let passed : Fragment → Fragment := fun g => { g with sbBound := if g.sbBound.isSome then g.sbBound else some (sbBoundAt core s.cycle) }
      (illegal → exec i s =
        .next (takeFault c { code := 0x05, lanes := c.frag.members, info := v, whole := true } s s)) ∧
      (¬illegal → conflict = true →
        exec i s = .next (waitEvent s c (.scoreboard lo (lo + 2048) e.2 (some e.2) bound))) ∧
      (¬illegal → conflict = false → (e.2 && second) = true → storesSettled s c = false →
        exec i s = .next (withFrag (waitEvent s c .settled) c passed)) ∧
      (¬illegal → conflict = false → second = false → row.limit < k →
        exec i s = .next (withFrag (waitEvent s c (.fifo logical k (!e.2))) c passed)) ∧
      (¬illegal → conflict = false → ((e.2 && second) = true → storesSettled s c = true) → k ≤ row.limit →
        exec i s = .next (completeLater c i (modBlock s c.core c.ref.block fun b => b.modFifo logical fun _ => row.next)
          (writeCode c 0 d true tyU64 (BitVec.ofNat 64 row.slot) 62))))

/-- R185 and R194: a store that is performed, an ATOM or a CAS changes no byte but those of its elements and those of exact sums;
one to core SRAM changes no byte of memory, and in SRAM only its own. The pieces are those that its translations give, and the
bytes are compared with those after the translations. R185 and R192: a load leaves every byte of memory and of core SRAM as
it was, but for exact sums that it retires; a store that is posted changes none. R197: a FATOM changes at most bytes of its
elements and of exact sums. R104: none of them changes a register when it issues; what it delivers arrives later. R383: a
translation changes at most the byte of the leaf's entry that holds its accessed and dirty bits. -/
def Obligations.MemoryFrames : Prop :=
  (∀ i s c f d r q u ix k t, s.memOk → cellsWf 0 (coreOf s c.core).sram = true → Issues i s c →
      storeOf s c i = some (f, d, r, q, u, ix, k) →
      (recSpace (c.record r) ≠ 0 ∨ modePstore c.frag.mode = true) → GoesThrough s c f (c.record r) d q u ix →
      exec i s = .next t →
      let l := afterLocate s c f (c.record r) d u ix
      (∀ a, noSumAt s a → (recSpace (c.record r) = 0 → a ∉ pieceBytes l) → t.byteAt a = l.state.byteAt a) ∧
      (∀ core a, (core = c.core → recSpace (c.record r) ≠ 0 → a ∉ pieceBytes l) →
        cellGet 0 a (coreOf t core).sram = cellGet 0 a (coreOf s core).sram) ∧ KeepsRegisters c t) ∧
  (∀ i w d r q a s c f t, s.memOk → cellsWf 0 (coreOf s c.core).sram = true → Issues i s c →
      ((∃ e ∈ atoms, i = e.1 w d r q a ∧ f = atomAccess e.2.1) ∨ (i = .cas w d r q a ∧ f = casAccess)) →
      let u := uniformIssue i
      GoesThrough s c f (c.record r) d q u (recIndex s c a) → exec i s = .next t →
      let l := afterLocate s c f (c.record r) d u (recIndex s c a)
      (∀ x, noSumAt s x → (recSpace (c.record r) = 0 → x ∉ pieceBytes l) → t.byteAt x = l.state.byteAt x) ∧
      (∀ core x, (core = c.core → recSpace (c.record r) ≠ 0 → x ∉ pieceBytes l) →
        cellGet 0 x (coreOf t core).sram = cellGet 0 x (coreOf s core).sram) ∧ KeepsRegisters c t) ∧
  (∀ w d r q a s c t, s.memOk → Issues (.fatom w d r q a) s c → issueActive s c ≠ 0 →
      let u := uniformIssue (.fatom w d r q a)
      let l := afterLocate s c (sumAccess true) (c.record r) d u (recIndex s c a)
      accessWait s c (sumAccess true) (c.record r) q
        (planAccess s c (sumAccess true) (c.record r) d u (issueActive s c) (recIndex s c a)) = none → l.bad = [] →
      physWait s c true false (pieceBytes l) = none → (∀ e ∈ l.pieces, paRegion e.2.pa ≠ 2) →
      exec (.fatom w d r q a) s = .next t →
      (∀ x, noSumAt s x → (∀ e ∈ l.pieces, x < e.2.pa ∨ e.2.pa + tySize (recFormat (c.record r)) ≤ x) →
        t.byteAt x = l.state.byteAt x ∨ t.byteAt x = s.byteAt x) ∧
      (∀ core, (coreOf t core).sram = (coreOf s core).sram) ∧ KeepsRegisters c t) ∧
  (∀ i s c f d r q u ix t, s.memOk → Issues i s c → loadOf s c i = some (f, d, r, q, u, ix) →
      GoesThrough s c f (c.record r) d q u ix → exec i s = .next t →
      (∀ a, noSumAt s a → t.byteAt a = (afterLocate s c f (c.record r) d u ix).state.byteAt a) ∧
      (∀ core, (coreOf t core).sram = (coreOf s core).sram) ∧ KeepsRegisters c t) ∧
  (∀ i s c f d r q u ix k t, ctxOf s = some c → storeOf s c i = some (f, d, r, q, u, ix, k) →
      recSpace (c.record r) = 0 → modePstore c.frag.mode = false → exec i s = .next t →
      t.mem = s.mem ∧ ∀ core, (coreOf t core).sram = (coreOf s core).sram) ∧
  (∀ (s : State) (core asid : Nat) (va : BitVec 64) (access salt a : Nat), s.memOk →
      (∀ k, contextOf s asid = some k →
        (∀ addr e pa size, walk s k (memEntry s) (va.toNat % 2 ^ 57) access = .leaf addr e pa size → a ≠ addr) ∧
        (∀ pa addr e, staleWalk s k (va.toNat % 2 ^ 57) access = some (pa, some (addr, e)) → a ≠ addr)) →
      (translate s core asid va access salt).1.byteAt a = s.byteAt a)

/-- R185: what a store writes at some bytes of memory, a load reads back: an element that is no BX element, at distinct
addresses of memory, as an agent without uncommitted stores sees them. -/
def Obligations.StoredElementsReadBack : Prop :=
  ∀ (s : State) (t : Nat) (p : Piece) (v : BitVec 64) (tag : Tag), s.memOk → isBx t = false → p.data.Nodup →
    p.data.length ≤ 8 → p.tag = [] → (∀ a ∈ p.data, paRegion a ≠ 3) →
    readElem (.phys none) (writeElem (.phys none) s t p v tag) t p = BitVec.ofNat 64 (v.toNat % 256 ^ p.data.length)

/-! ### Engine forms -/

/-- R220 and R222: a queued form that passes its checks and need not wait puts its operation, QUEUED with its copies,
last into the block's operation table under the block's next number; its identifier arrives later in S, a port of a
posting form loses a slot, and the fragment goes on; no byte of memory changes but by the read of COPY's list, and no register.
R220 and R221: a queued form that fails a check faults the whole fragment with P in FLT.INFO; one that must wait waits at its
instruction and keeps its copies, and it is not checked again. -/
def Obligations.EngineIssueForms : Prop :=
  (∀ i s c f x ra rw flags s' xs, Issues i s c → queuedForm i = some (f, x, ra, rw, flags) →
      let k := copiesOf s c f x ra rw
      let fs := footprints c.blk f k.da k.dw k.irec xs ra.toNat rw.toNat (gatherRec k.p)
      (c.frag.copied = none → issueCheck s c.blk f flags k.p k.da k.dw k.irec = none) → ListReady s c f k s' xs →
      (issueWait s' c f k.p fs.length = none →
        ∃ t b o fr l, exec i s = .next t ∧ blockOf t c.core c.ref.block = some b ∧ b.ops.getLast? = some o ∧
          c.blk.freeSlot (engineOf f) = some o.slot ∧ o.seq = c.blk.opSeq ∧ b.opSeq = c.blk.opSeq + 1 ∧
          o.form = f ∧ o.st = .queued ∧ o.param = k.p ∧ o.mode = c.frag.mode ∧ o.flags = flags ∧ o.da = k.da ∧ o.dw = k.dw ∧
          o.irec = k.irec ∧ o.xdims = xs ∧ o.wave = c.wave.idx ∧
          (pPost k.p = true → (b.port (pPort k.p)).rsv = (c.blk.port (pPort k.p)).rsv + 1) ∧
          (coreOf t c.core).sb.length = (coreOf s c.core).sb.length + fs.length ∧
          fragOf t c.core c.ref = some fr ∧ fr.pc = c.frag.pc + 4 ∧ fr.st = .run ∧ fr.copied = none ∧
          fr.loads = c.frag.loads ++ [l] ∧ l.vs = [] ∧ l.ss = [(x.toNat - 64, ⟨opId f o.slot o.seq, 62⟩)] ∧ l.fail = [] ∧
          t.mem = s'.mem ∧ KeepsRegisters c t) ∧
      (∀ w, issueWait s' c f k.p fs.length = some w → exec i s = .next (waitCopied s' c w (k.kept (some xs))))) ∧
  (∀ i s c f x ra rw flags, Issues i s c → queuedForm i = some (f, x, ra, rw, flags) →
      let k := copiesOf s c f x ra rw
      let park (code : Nat) (info : BitVec 64) (access : Nat) (walk : Bool) : State := takeFault c
        { code := code, lanes := c.frag.members, info := info, whole := true, access := access, walk := walk } s s
      (c.frag.copied = none → ∀ code, issueCheck s c.blk f flags k.p k.da k.dw k.irec = some code →
        exec i s = .next (park code k.p (if code = 8 then accWrite else 0) false)) ∧
      ((c.frag.copied = none → issueCheck s c.blk f flags k.p k.da k.dw k.irec = none) →
        c.frag.copied.bind (·.xdims) = none →
        (∀ w, listHeld s c f k = some w → exec i s = .next (waitCopied s c w (k.kept none))) ∧
        (listHeld s c f k = none → ∀ code info walk, listAt s c f k = .bad code info walk →
          exec i s = .next (park code (if code = 5 then k.p else info) (if walk then accRead else 0) walk)) ∧
        (listHeld s c f k = none → hamperRoom s c = true → ∀ s' info, listAt s c f k = .poison s' info → exec i s = .next
          (takeFault c { code := 0x17, lanes := c.frag.members, info := info, whole := true } s' s'))))

/-- R231, R232, R298 and R328: IRON takes the iron or waits while another wave holds it; IRONP passes or drops it, once the wave's
stores are performed if it posts, and faults when the wave does not hold it. The pin of the block's tile follows. A reserved bit
or a port that the block has not faults either with 0x01; a posting IRON waits for a free slot of its port, a posting IRONP faults
on a full one with 0x11, and both first wait for the wave's messages to that port that are on their way (R318). -/
def Obligations.IronResults : Prop :=
  ∀ (w : BitVec 3) (k : Code) (s : State) (c : Ctx),
    let p := (readS s c (k.toNat - 64)).val
    let drop := p.getLsbD 14
    let target := pField p 8 6
    let room := pPost p = true → c.blk.hasRoom (pPort p) = true
    let after := pPost p = true → sentBefore s c (pPort p) = false
    let put (i : Instr) (iron : Option Nat) (m : Msg) : State :=
      pinTile (modBlock (complete c i s {}) c.core c.ref.block fun b =>
        let b := { b with iron := iron }
        if pPost p then b.putMsg (pPort p) m else b) c.core c.ref.block
    let legalPass := p &&& 0xFFFFFFFFFFFF80C0 = 0 ∧ (drop = true → target = 0) ∧
      target < c.blk.hdr.waves + c.blk.hdr.handlers ∧ portBad c.blk p = false
    (Issues (.iron w k) s c → p.toNat < 64 → portBad c.blk p = false → (∀ v, c.blk.iron = some v → v = c.wave.idx) → after → room →
      exec (.iron w k) s = .next (put (.iron w k) (some c.wave.idx) (fromSystem s c (BitVec.ofNat 64 c.wave.idx) none))) ∧
    (Issues (.iron w k) s c → p.toNat < 64 → portBad c.blk p = false → (∃ v, c.blk.iron = some v ∧ v ≠ c.wave.idx) →
      exec (.iron w k) s = .next (waitEvent s c .iron)) ∧
    (Issues (.ironp w k) s c → legalPass → c.blk.iron = some c.wave.idx → (pPost p = true → storesSettled s c = true) →
      after → room →
      exec (.ironp w k) s = .next (put (.ironp w k) (if drop then none else some target)
        (fromSystem s c (if drop then 0x8000000000000000 else BitVec.ofNat 64 target) (some 1)))) ∧
    (Issues (.ironp w k) s c → legalPass → c.blk.iron = some c.wave.idx → pPost p = true → storesSettled s c = false →
      exec (.ironp w k) s = .next (waitEvent s c .settled)) ∧
    (Issues (.ironp w k) s c → legalPass → c.blk.iron ≠ some c.wave.idx →
      exec (.ironp w k) s = .next
        (takeFault c { code := 0x0F, lanes := c.frag.members, info := p, whole := true } s s)) ∧
    (Issues (.iron w k) s c → (64 ≤ p.toNat ∨ portBad c.blk p = true) → exec (.iron w k) s = .next (parkAll c s 0x01 p)) ∧
    (Issues (.iron w k) s c → p.toNat < 64 → portBad c.blk p = false → (∀ v, c.blk.iron = some v → v = c.wave.idx) →
      pPost p = true →
      (sentBefore s c (pPort p) = true → exec (.iron w k) s = .next (waitEvent s c (.sent (pPort p)))) ∧
      (sentBefore s c (pPort p) = false → c.blk.hasRoom (pPort p) = false →
        exec (.iron w k) s = .next (waitEvent s c (.ironPort (pPort p))))) ∧
    (Issues (.ironp w k) s c → ¬ legalPass → exec (.ironp w k) s = .next (parkAll c s 0x01 p)) ∧
    (Issues (.ironp w k) s c → legalPass → c.blk.iron = some c.wave.idx → pPost p = true → storesSettled s c = true →
      (sentBefore s c (pPort p) = true → exec (.ironp w k) s = .next (waitEvent s c (.sent (pPort p)))) ∧
      (sentBefore s c (pPort p) = false → c.blk.hasRoom (pPort p) = false →
        exec (.ironp w k) s = .next (parkAll c s 0x11 p)))

/-- R239 and R240: CANCEL marks a live operation whose work is not over; OPQ delivers an operation's two words; OPWAIT
waits for a live one and delivers the state word of every other, and faults the lanes of ACTIVE behind it on a failure
that nothing posts. R240: the state word holds STATE in bits 7 to 0, STATUS in 15 to 8 once the operation is DONE, and
PROGRESS in 47 to 16. -/
def Obligations.OperationQueries : Prop :=
  (∀ (w : BitVec 3) (d a : Code) (s : State) (c : Ctx),
      let id := src s c 64 a 0
      let o := c.blk.opOf id
      let one (v : BitVec 64) : HistStep := writeCode c 0 d true tyU64 v 62
      let failed (o : Op) : Bool := !pPost o.param && o.status != 0 && o.status != 1 && o.status != 7
      (Issues (.cancel w a) s c → exec (.cancel w a) s =
        .next (modBlock (complete c (.cancel w a) s {}) c.core c.ref.block fun b =>
          { b with ops := b.ops.map fun o =>
              if opId o.form o.slot o.seq = id ∧ o.st ≠ .done ∧ o.ended = false then { o with cancel := true } else o })) ∧
      (Issues (.opq w d a) s c → exec (.opq w d a) s =
        .next (completeLater c (.opq w d a) s { ss := [(d.toNat - 64, ⟨stateWord o, 62⟩), (d.toNat - 63,
          ⟨match o with | some o => if o.st = .done then o.info else 0 | none => 0, 62⟩)] })) ∧
      (Issues (.opwait w d a) s c →
        (o = none → exec (.opwait w d a) s = .next (completeLater c (.opwait w d a) s (one 4))) ∧
        (∀ o', o = some o' → o'.st ≠ .done → exec (.opwait w d a) s = .next (waitEvent s c (.opwait id))) ∧
        (∀ o', o = some o' → o'.st = .done → (failed o' = false ∨ issueActive s c = 0) →
          exec (.opwait w d a) s = .next (completeLater c (.opwait w d a) s (one (stateWord (some o'))))) ∧
        (∀ o', o = some o' → o'.st = .done → failed o' = true → issueActive s c ≠ 0 →
          exec (.opwait w d a) s = .next (takeFault c
            { code := 0x16, lanes := issueActive s c, info := id, pc := some (c.frag.pc + 4) } s
            (completeLater c (.opwait w d a) s (one (stateWord (some o'))))))) ) ∧
  (stateWord none = 4 ∧ ∀ o : Op, o.status < 256 →
      (stateWord (some o)).extractLsb' 0 8 =
        (match o.st with | .queued => 0 | .running => 1 | .stalled => 2 | .done => 3) ∧
      (stateWord (some o)).extractLsb' 8 8 = (if o.st = .done then BitVec.ofNat 8 o.status else 0) ∧
      (stateWord (some o)).extractLsb' 16 32 = BitVec.ofNat 32 o.progress)

/-! ### Messages, barriers and traps -/

/-- R208 to R210: a SENDP posts its message to the target's port and completes; a SEND to a resident block posts it and waits
for the reply, one that a resilient block holds until its commit completes; a SEND to a block that has retired faults with
the port overflow, FLT.INFO[63] set, and one to a block that is not resident waits; a malformed DST faults. A posted message
changes no byte of memory and no register. That a resilient block's message to another block waits for its commit, and completes
its SEND when it is held, is read from R430 (log entries 27 and 98, DEDUCED). -/
def Obligations.SendResults : Prop :=
  ∀ (w : BitVec 3) (a : Code) (b : Src) (s : State) (c : Ctx),
    let dst := src s c 64 a 0
    let payload := srcB s c 64 b 0
    let lin := if dst.extractLsb' 6 2 = 1 then (dst.extractLsb' 8 32).toNat else c.blk.lin
    let held : Bool := c.blk.hdr.resilient && lin != c.blk.lin
    let posts (t : State) (confirm : Bool) : Prop := ∃ m, t.net = s.net ++ [m] ∧ m.msg = userMsg c dst payload ∧
      m.launch = c.blk.launch ∧ m.lin = lin ∧ m.port = (dst.extractLsb' 0 5).toNat ∧ m.confirm = confirm ∧ m.held = held ∧
      m.ident = s.nextIdent ∧ m.answer = none ∧ t.mem = s.mem ∧ KeepsRegisters c t
    let passed (t : State) : Prop := ∃ f, fragOf t c.core c.ref = some f ∧ f.st = .run ∧ f.pc = nextPc c (.sendp w a b)
    (¬ dstLegal c.blk dst →
      (Issues (.send w a b) s c → exec (.send w a b) s = .next (parkAll c s 0x01 dst)) ∧
      (Issues (.sendp w a b) s c → exec (.sendp w a b) s = .next (parkAll c s 0x01 dst))) ∧
    (dstLegal c.blk dst → releaseReady s c dst →
      (Issues (.sendp w a b) s c → ∃ t, exec (.sendp w a b) s = .next t ∧ posts t false ∧ passed t) ∧
      (Issues (.send w a b) s c → nothingKept c →
        (∀ core h, placeOfBlock s c.blk.launch lin = .resident core h → held = false →
          ∃ t, exec (.send w a b) s = .next t ∧ posts t true ∧
            StartsWait t s c (.sendReply s.nextIdent dst (instrBytes (.send w a b)))) ∧
        (∀ core h, placeOfBlock s c.blk.launch lin = .resident core h → held = true →
          ∃ t, exec (.send w a b) s = .next t ∧ posts t false ∧ passed t) ∧
        (placeOfBlock s c.blk.launch lin = .gone →
          exec (.send w a b) s = .next (parkAll c s 0x11 (dst ||| 0x8000000000000000))) ∧
        ((placeOfBlock s c.blk.launch lin = .notPlaced ∨ placeOfBlock s c.blk.launch lin = .swappedOut) →
          exec (.send w a b) s = .next (waitEvent s c (.sendTarget lin)))))

/-- R211 and R224: RECV takes the oldest message that its port shows, polls an empty one or waits; a failed completion parks
the fragment behind the RECV. -/
def Obligations.ReceiveResults : Prop :=
  ∀ (w : BitVec 3) (d a : Code) (s : State) (c : Ctx), Issues (.recv w d a) s c →
    let i : Instr := .recv w d a
    let v := src s c 64 a 0
    let p := (v.extractLsb' 0 5).toNat
    let k := d.toNat - 64
    let two (x y : BitVec 64) : HistStep := { ss := [(k, ⟨x, 62⟩), (k + 1, ⟨y, 62⟩)] }
    (¬ recvLegal c.blk v → exec i s = .next (parkAll c s 0x01 v)) ∧
    (recvLegal c.blk v → c.blk.visible s.cycle p = [] →
      exec i s = .next (if v.getLsbD 9 then complete c i s (two 0 0x8000000000000000)
        else waits c i s (.waitEvent (.recv p d (v.getLsbD 8))))) ∧
    (recvLegal c.blk v → ∀ m rest, c.blk.visible s.cycle p = m :: rest →
      let taken := complete c i (modBlock s c.core c.ref.block fun b => b.modPort p fun x => { x with msgs := rest })
        (two m.payload (infoWord m))
      ((m.kind ≠ 1 ∨ m.status = 0 ∨ m.status = 1) → exec i s = .next taken) ∧
      (m.kind = 1 → m.status ≠ 0 → m.status ≠ 1 → exec i s = .next (takeFault c
        { code := 0x16, lanes := c.frag.members, info := m.payload, whole := true, pc := some (c.frag.pc + 4) }
        (modBlock s c.core c.ref.block fun b => b.modPort p fun x => { x with msgs := rest }) taken)))

/-- R213: PATEN sets a pattern's enable and nothing else of the patterns, and raises 0x01 beyond them. FLT.INFO is then
a free value (log entry 16). R212, R215 and R216: JWAIT, BAR and SBAR wait at their instruction; a pattern beyond
PATTERNS or one of a handler raises 0x01, and a handler wave's barrier or an invalid set slot 0x0F. The fault of a
handler wave's SBAR is the model's reading (log entry 41). -/
def Obligations.PatternsAndBarriers : Prop :=
  (∀ e ∈ [((fun w k => .patenOn w k : BitVec 3 → BitVec 4 → Instr), true), (fun w k => .patenOff w k, false)],
      ∀ w k s c, Issues (e.1 w k) s c →
        (k.toNat < c.blk.patterns.length → ∃ t b, exec (e.1 w k) s = .next t ∧ blockOf t c.core c.ref.block = some b ∧
          b.patterns.length = c.blk.patterns.length ∧
          ∀ j, b.patterns[j]? = if j = k.toNat then c.blk.patterns[j]?.map fun p => { p with enabled := e.2 }
            else c.blk.patterns[j]?) ∧
        (c.blk.patterns.length ≤ k.toNat → exec (e.1 w k) s = .next (parkAll c s 0x01 (Config.freeWord s.freeCtr)))) ∧
  (∀ (w : BitVec 3) (k : BitVec 4) (s : State) (c : Ctx),
      let free := Config.freeWord s.freeCtr
      (Issues (.jwait w k) s c →
        (∀ p, c.blk.patterns[k.toNat]? = some p → p.wake = true →
          exec (.jwait w k) s = .next (waits c (.jwait w k) s (.waitEvent (.jwait k.toNat)))) ∧
        ((∀ p, c.blk.patterns[k.toNat]? = some p → p.wake = false) →
          exec (.jwait w k) s = .next (parkAll c s 0x01 free))) ∧
      (Issues (.bar w) s c → exec (.bar w) s =
        .next (if c.wave.handler then parkAll c s 0x0F free else waits c (.bar w) s .waitBar)) ∧
      (Issues (.sbar w) s c → exec (.sbar w) s =
        .next (if c.wave.handler = true ∨ c.blk.sets.length ≤ modeSetSlot c.frag.mode then parkAll c s 0x0F free
          else waits c (.sbar w) s .waitSbar)))

/-- R214: PORTQ delivers the port's word, laid out as the table says, and with CLR clears OVF and DROPS after the read;
an operand with a reserved bit, or a port at or beyond PORTS, faults and nothing is read or cleared. Its words are the fields of the rule,
its destination is an s-register or c0. -/
def Obligations.PortQueries : Prop :=
  (∀ (w : BitVec 3) (d a : Code) (s : State) (c : Ctx), Issues (.portq w d a) s c →
    let v := src s c 64 a 0
    let p := (v.extractLsb' 0 5).toNat
    let x := c.blk.port p
    let legal := v &&& ~~~ (0x11F : BitVec 64) = 0 ∧ p < c.blk.hdr.ports
    (¬ legal → exec (.portq w d a) s = .next (parkAll c s 0x01 v)) ∧
    (legal → ∃ word, exec (.portq w d a) s = .next (completeLater c (.portq w d a)
        (if v.getLsbD 8 then
          modBlock s c.core c.ref.block fun b => b.modPort p fun x => { x with ovf := false, drops := 0 } else s)
        (writeCode c 0 d true tyU64 word 62)) ∧
      word.extractLsb' 32 32 = 0 ∧ word.extractLsb' 16 16 = BitVec.ofNat 16 x.drops ∧ word.extractLsb' 10 6 = 0 ∧
      word.getLsbD 9 = (c.blk.counting p).isSome ∧ word.getLsbD 8 = x.ovf ∧
      word.extractLsb' 4 4 = BitVec.ofNat 4 x.rsv ∧
      (c.blk.counting p = none → word.extractLsb' 0 4 = BitVec.ofNat 4 x.msgs.length) ∧
      (∀ f th, c.blk.counting p = some (f, th) → word.extractLsb' 0 4 = if th ≤ f.filled then 1 else 0))) ∧
  (∀ (w : BitVec 3) (d a : Code) (b : BitVec 7),
    decodeWords (w ++ 0xC5#8 ++ d ++ a ++ b) 0 0 = if b = 0 then .ok (.portq w d a) else .error .reservedField) ∧
  (∀ (h : Header) (m : BitVec 32) (w : BitVec 3) (d a : Code), decodeOk h m (.portq w d a) = true →
    (64 ≤ d.toNat ∧ d.toNat < 96) ∨ d = 0x60)

/-- R217 and R254: TRAP and BKPT fault the lanes of ACTIVE with their number in FLT.INFO, while the others go on; with
an empty ACTIVE they have no effect. That TRAP has none then is read from R341 (log entry 42). R253 and R400 to R402: an
SVC of a user fragment whose wave's stores are settled writes its request and waits for its reply, waits for room, holds
the request in a resilient block, or, as a device service of a context whose channel has a legal size, notifies the Darner and
waits; one of the supervisor asks
Dibor and waits; a service number that is none faults. A resilient block's device service is held until its commit too, but for
SIGRET, which forces the commit (log entry 67); FLT.INFO where no rule states it is a free value (log entry 16), and a channel
whose size cannot be read is no ground for a device service to fault (log entry 101): the model's choices. -/
def Obligations.TrapsAndServiceCalls : Prop :=
  (∀ e ∈ [((fun w k => .trap w k : BitVec 3 → BitVec 14 → Instr), 0x14), (fun w k => .bkpt w k, 0x13)],
      ∀ w k s c, Issues (e.1 w k) s c →
        (issueActive s c = 0 → exec (e.1 w k) s = .next (complete c (e.1 w k) s {})) ∧
        (issueActive s c ≠ 0 → exec (e.1 w k) s = .next
          (takeFault c { code := e.2, lanes := issueActive s c, info := k.setWidth 64 } s (complete c (e.1 w k) s {})))) ∧
  (∀ (w : BitVec 3) (k : BitVec 14) (s : State) (c : Ctx), storesSettled s c = true →
      let free := Config.freeWord s.freeCtr
      let served (i : Instr) (n : Nat) : Prop := ∃ t, exec i s = .next t ∧ StartsWait t s c (.service n) ∧
        (coreOf t c.core).darner.events = (coreOf s c.core).darner.events ++ [.service c.ref n]
      let held (i : Instr) (n : Nat) : Prop := ∃ t b, exec i s = .next t ∧ StartsWait t s c .svcHeld ∧
        blockOf t c.core c.ref.block = some b ∧ b.ckpt.effects = c.blk.ckpt.effects ++ [.svc c.ref n] ∧ b.ckpt.due = true
      (c.frag.super = true → ∀ i n, (i, n) ∈ services.map (fun e => (e.1 w, e.2)) ++ [(.svc w k, k.toNat), (.svcSigret w k, k.toNat)] →
        Issues i s c → exec i s = .next (waits c i (emit s (.diborRequest c.core n)) (.waitEvent (.service n)))) ∧
      (c.frag.super = false → nothingKept c →
        (Issues (.svc w k) s c → 0x3F80 ≤ k.toNat → exec (.svc w k) s = .next (parkAll c s 0x01 free)) ∧
        (Issues (.svc w k) s c → k.toNat < 0x3F80 → c.blk.hdr.resilient = true → held (.svc w k) k.toNat) ∧
        (Issues (.svc w k) s c → k.toNat < 0x3F80 → c.blk.hdr.resilient = false →
          (∀ t tag, svcRequest s c.core c.blk c.wave.idx c.frag k.toNat = .done t tag →
            ∃ u, exec (.svc w k) s = .next u ∧ u.mem = t.mem ∧ u.outbox = t.outbox ∧
              ∀ f, fragOf t c.core c.ref = some f → ∃ g, fragOf u c.core c.ref = some g ∧ g.st = .waitEvent (.svcReply tag) ∧
                g.pc = f.pc ∧ g.waitSince = t.timebase) ∧
          (svcRequest s c.core c.blk c.wave.idx c.frag k.toNat = .full →
            exec (.svc w k) s = .next (waitEvent s c .svcSpace)) ∧
          (∀ code info access walk, svcRequest s c.core c.blk c.wave.idx c.frag k.toNat = .fault code info access walk →
            exec (.svc w k) s = .next (svcFault c code info access walk s))) ∧
        (∀ e ∈ services, Issues (e.1 w) s c →
          (channelSizeOk s c.core c.blk.asid = true → c.blk.hdr.resilient = false → served (e.1 w) e.2) ∧
          (channelSizeOk s c.core c.blk.asid = true → c.blk.hdr.resilient = true → held (e.1 w) e.2) ∧
          (channelSizeOk s c.core c.blk.asid = false → exec (e.1 w) s = .next (parkAll c s 0x01 free))) ∧
        (Issues (.svcSigret w k) s c →
          (∀ t, sigTable s c.core c.blk.asid = some t → sigRetcode t = k.toNat → 0x3F84 ≤ k.toNat →
            channelSizeOk s c.core c.blk.asid = true → served (.svcSigret w k) k.toNat) ∧
          ((∀ t, sigTable s c.core c.blk.asid = some t → sigRetcode t ≠ k.toNat) →
            exec (.svcSigret w k) s = .next (parkAll c s 0x01 free)))))

/-! ### System forms -/

/-- R243: RDSYS delivers a register that can be read, and faults on one without a value; WRSYS writes one, and faults
with the code of its register's rule. R41 and R243: a context register of the target, its ASID among them, and its MODE, PC,
EXEC (cut to the members) and a lane's window base, read back what was written while the target is parked or waits on a service;
so does a program core's PMCSEL. FLT.INFO where no rule states it is a free value (log entry 16, the model's choice). -/
def Obligations.SystemRegisters : Prop :=
  (∀ (w : BitVec 3) (d : Code) (n : BitVec 12) (s : State) (c : Ctx),
      let lane := ((sysArg s c d).extractLsb' 0 5).toNat
      (Issues (.rdsys w d n) s c →
        (∀ v, readSys s c.core n.toNat lane = some v →
          exec (.rdsys w d n) s = .next (completeLater c (.rdsys w d n) s (sysResult c d v))) ∧
        (readSys s c.core n.toNat lane = none → exec (.rdsys w d n) s = .next (parkAll c s 0x01 (Config.freeWord s.freeCtr)))) ∧
      (Issues (.wrsys w d n) s c →
        (∀ t, writeSys s c.core n.toNat (sysArg s c d) = .ok t →
          exec (.wrsys w d n) s = .next (complete c (.wrsys w d n) t {})) ∧
        (∀ code info, writeSys s c.core n.toNat (sysArg s c d) = .bad code info →
          exec (.wrsys w d n) s = .next (parkAll c s code (info.getD (Config.freeWord s.freeCtr)))))) ∧
  (∀ s t core v, (targetPlace s core).isSome →
      (∀ n ∈ [0x011, 0x012, 0x014, 0x015], (targetContext s core).isSome → writeSys s core n v = .ok t →
        readSys t core n 0 = some v) ∧
      (∀ n ∈ [0x013, 0x016], (targetContext s core).isSome → writeSys s core n v = .ok t →
        readSys t core n 0 = some ((v.extractLsb' 0 32).setWidth 64)) ∧
      (writeSys s core 0x000 v = .ok t → readSys t core 0x000 0 = some ((v.extractLsb' 0 32).setWidth 64)) ∧
      (writeSys s core 0x002 v = .ok t → readSys t core 0x002 0 = some v ∧ v.toNat % 4 = 0) ∧
      (∀ r b w f, targetPlace s core = some (r, b, w, f) →
        (writeSys s core 0x001 v = .ok t → readSys t core 0x001 0 = some ((v.extractLsb' 0 32 &&& f.members).setWidth 64)) ∧
        (cellsWf 0 w.wb = true → writeSys s core 0x003 v = .ok t →
          readSys t core 0x003 (v.extractLsb' 32 5).toNat = some ((v.extractLsb' 0 32).setWidth 64))) ∧
      (writeSys s core 0x010 v = .ok t → readSys t core 0x010 0 = some ((v.extractLsb' 0 16).setWidth 64))) ∧
  (∀ s t core v, isThimble core = false → writeSys s core 0x050 v = .ok t →
    readSys t core 0x050 0 = some ((v.extractLsb' 0 32).setWidth 64))

/-- R244 to R247: ERET ends the event and idles; TLBI drops what it names and waits for its acknowledgement; HREL acts on the
entry that its operand names, but for a replay, skip or signal of one that is not in service, which changes nothing (R6, R343);
each faults where its rule says. R247, R346 and R405: a replayed fragment runs again at its PC, a skipped one behind its
instruction, and a signalled one in its handler, with the frame of R405 written, or its block is killed; a killed block leaves its
core, and with PROC every block of its context leaves, which Dibor then ends. FLT.INFO of ERET's 0x01 is a free value (log entry
16), and TLBI's literal B is an address whatever TYPE is (log entry 48): the model's choices. -/
def Obligations.SupervisorForms : Prop :=
  (∀ (w : BitVec 3) (a : Code) (b : Src) (s : State) (c : Ctx),
    let v := sysArg s c a
    let vb := readSrcWord s c b
    let kind := (v.extractLsb' 16 2).toNat
    let part := (v.extractLsb' 18 6).toNat
    let here := if isThimble c.core then part else partitionOf c.core
    let mine (asid : Nat) : Bool :=
      if kind = 2 then
        (match contextOf s asid with | some k => k.group ≤ here && here < k.group + 2 ^ k.groupLog2 | none => false)
      else asid == (v.extractLsb' 0 16).toNat
    let legal := v.toNat < 2 ^ 24 ∧ kind ≠ 3 ∧ (isThimble c.core = true ∨ part = 0)
    let dropped := dropTranslations s mine (if kind = 0 then some (vb.toNat % 2 ^ 57) else none)
    (Issues (.eret w) s c →
      exec (.eret w) s = .next (if (coreOf s c.core).darner.current.isNone then parkAll c s 0x01 (Config.freeWord s.freeCtr)
        else waits c (.eret w) (endEvent s c.core) (.waitEvent .darnerIdle))) ∧
    (Issues (.tlbi w a b) s c →
      (¬ legal → exec (.tlbi w a b) s = .next (parkAll c s 0x01 v)) ∧
      (legal → exec (.tlbi w a b) s = .next (waits c (.tlbi w a b)
        { dropped with invalidations := dropped.invalidations ++ [⟨dropped.nextIdent, false, 0⟩]
                       nextIdent := dropped.nextIdent + 1 }
        (.waitEvent (.invalidation dropped.nextIdent (instrBytes (.tlbi w a b))))))) ∧
    (∀ e ∈ releases, Issues (e.1 w a) s c →
      ((v &&& ~~~ (0x3F ||| e.2.1) ≠ 0 ∨ entryOf s c.core (v.toNat % 64) = none) →
        exec (e.1 w a) s = .next (parkAll c s 0x01 v)) ∧
      (∀ x, v &&& ~~~ (0x3F ||| e.2.1) = 0 → entryOf s c.core (v.toNat % 64) = some x →
        exec (e.1 w a) s = .next (if e.2.2.1 = true ∧ x.st ≠ .service then complete c (e.1 w a) s {}
          else e.2.2.2 (complete c (e.1 w a) s {}) c.core x v)))) ∧
  (∀ (s : State) (core : Nat) (e : HamperEntry) (w : Wave) (f : Fragment),
    waveOf s core e.block e.wave = some w → w.frag? e.frag = some f → w.sigpend = none →
    let place : FragRef := ⟨e.block, e.wave, e.frag⟩
    let resumes (t : State) (pc : BitVec 64) : Prop := t.mem = s.mem ∧ entryOf t core e.idx = none ∧
      ∃ g, fragOf t core place = some g ∧ g.st = .run ∧ g.pc = pc ∧ g.s = f.s ∧ g.mode = f.mode ∧ g.exec = f.exec ∧
        g.members = f.members
    let u := unpark (forgetEntry s core e.idx) core e f.pc false
    resumes (releaseReplay s core e) f.pc ∧
    (∀ b, blockOf s core e.block = some b →
      resumes (releaseSkip s core e) (f.pc + BitVec.ofNat 64 (lengthAt s core e.block b f.pc.toNat))) ∧
    (∀ n, (∀ t, deliverSignal u core place n 0 (entryFlt e) e.info (e.active.setWidth 64) (BitVec.ofNat 64 n) = some t →
        releaseSignal s core e n = t) ∧
      (deliverSignal u core place n 0 (entryFlt e) e.info (e.active.setWidth 64) (BitVec.ofNat 64 n) = none →
        releaseSignal s core e n = killBlock u core e.block))) ∧
  (∀ (s : State) (core : Nat) (e : HamperEntry) (b : Block), blockOf s core e.block = some b →
    releaseKill s core e false = killBlock s core e.block ∧ blockOf (killBlock s core e.block) core e.block = none ∧
    releaseKill s core e true = askContextEnd (killBlocks s fun x => x.asid == b.asid) core b.asid) ∧
  (∀ (s : State) (p : Block → Bool) (core h : Nat) (b : Block), h < 64 → blockOf (killBlocks s p) core h = some b → p b = false)

/-- R346 and R405: the delivery of a signal lands the fragment's loads, writes the frame that R405 lays out at the address that
R405 gives, and enters the handler that the table names, with EXEC := members, its four registers and the wave's DEPTH one
more. -/
def DeliversSignal (s : State) (core : Nat) (r : FragRef) (signo kind : Nat) (x0 x1 x2 x3 : BitVec 64) (t : State) : Prop :=
  let u := modWave s core r.block r.wave fun w => w.landLoads r.frag
  ∃ b w f table e a m, blockOf u core r.block = some b ∧ b.wave? r.wave = some w ∧ w.frag? r.frag = some f ∧
    sigTable u core b.asid = some table ∧ sigEntry table signo = some e ∧ frameAddr table b.lin r.wave w.depth = some a ∧
    w.depth < 4 ∧ ctxWrite u core (some (core, r.block)) b.asid a
      (frameBytes f (f.pc + BitVec.ofNat 64 (lengthAt u core r.block b f.pc.toNat)) x0 x1 x2 signo kind) = some m ∧
    t.mem = m.mem ∧ ∃ v g, waveOf t core r.block r.wave = some v ∧ v.depth = w.depth + 1 ∧ v.frag? r.frag = some g ∧
      g.st = .run ∧ g.pc = e.handler ∧ g.mode = e.hmode ∧ g.exec = f.members ∧ g.members = f.members ∧
      g.s = cellSetAll {} [(0, ⟨x0, 62⟩), (1, ⟨x1, 62⟩), (2, ⟨x2, 62⟩), (3, ⟨x3, 62⟩)] f.s

/-- R248, R249, R252: SIGPOST acts on each wave it names; BANKM sets a free bank's mode and answers 0, and answers 1 of one in
use; PMCRD delivers a counter and with CLR clears it. R404: the action of a signal's entry; a named wave without a live lane is
passed over. R248, R346 and R405: a signal to a wave goes to the fragment with the lowest live lane among those not parked, or is
kept pending; R406: the return restores what the frame holds. SIGPOST's literal B is 64 bits whatever TYPE is (log entry 48), what
the counters of cache misses count is open (log entry 61), and FLT.INFO of a return with no frame is a free value (log entry 16):
the model's choices. -/
def Obligations.SignalBankAndCounterForms : Prop :=
  (∀ (w : BitVec 3) (d a : Code) (b : Src) (s : State) (c : Ctx),
    let v := sysArg s c a
    let vb := readSrcWord s c b
    let k := coreOf s c.core
    let part := if isThimble c.core then (v.extractLsb' 9 6).toNat else partitionOf c.core
    (Issues (.sigpost w a b) s c →
      (∀ x, blockOf s c.core (v.toNat % 64) = some x → v.toNat < 2 ^ 13 →
        (v.getLsbD 12 = true ∨ v.toNat / 64 % 64 < x.hdr.waves + x.hdr.handlers) →
        exec (.sigpost w a b) s = .next ((if v.getLsbD 12 then x.waves.map (·.idx) else [v.toNat / 64 % 64]).foldl
          (fun t n => signalAction t c.core (v.toNat % 64) (some n) (vb.toNat % 256) vb) (complete c (.sigpost w a b) s {}))) ∧
      (blockOf s c.core (v.toNat % 64) = none → exec (.sigpost w a b) s = .next (parkAll c s 0x01 v))) ∧
    (Issues (.bankm w d a) s c → v.toNat < 48 →
      exec (.bankm w d a) s = .next (if bankFree k (v.toNat % 16) (v.toNat / 16) then
        completeLater c (.bankm w d a)
          (modCore (leaveL1 s c.core (setBankMode k.bankcfg (v.toNat % 16) (v.toNat / 16))) c.core fun k =>
            { k with bankcfg := setBankMode k.bankcfg (v.toNat % 16) (v.toNat / 16) })
          (sysResult c d 0)
        else completeLater c (.bankm w d a) s (sysResult c d 1))) ∧
    (Issues (.bankm w d a) s c → 48 ≤ v.toNat → exec (.bankm w d a) s = .next (parkAll c s 0x01 v)) ∧
    (Issues (.pmcrd w d a) s c → v &&& ~~~ (0x7F07 : BitVec 64) = 0 → (isThimble c.core = true ∨ v.extractLsb' 9 6 = 0) →
      exec (.pmcrd w d a) s = .next (completeLater c (.pmcrd w d a)
        (if v.getLsbD 8 then modPart s part fun x => { x with pmc := cellSet 0 (v.toNat % 8) 0 x.pmc } else s)
        (sysResult c d (cellGet 0 (v.toNat % 8) (partState s part).pmc))))) ∧
  (∀ (s : State) (core h n : Nat) (b : Block) (wave : Option Nat) (v : BitVec 64), blockOf s core h = some b →
    let entry := (sigTable s core b.asid).bind fun t => sigEntry t n
    let t := signalAction s core h wave n v
    ((∃ w, wave = some w ∧ ∀ x, b.wave? w = some x → x.frags = []) → t = s) ∧
    ((∀ w, wave = some w → ∃ x, b.wave? w = some x ∧ x.frags ≠ []) →
      (entry = none → t = killBlock s core h) ∧
      (∀ e, entry = some e → (e.action = 1 → t = s) ∧ (e.action = 2 → t = killBlock s core h) ∧
        (e.action = 3 → t = askContextEnd (killBlocks s fun x => x.asid == b.asid) core b.asid) ∧
        (e.action = 0 → ∀ w, wave = some w → t = postToWave s core h w n v)))) ∧
  (∀ (s : State) (core h k n : Nat) (v : BitVec 64) (w : Wave), waveOf s core h k = some w → w.frags ≠ [] →
    ((∀ f ∈ w.frags, f.st.isParked = true) → postToWave s core h k n v =
      modWave s core h k fun w => { w with sigpend := some (n, v) }) ∧
    (∀ f, signalTarget w = some f →
      f ∈ w.frags ∧ f.st.isParked = false ∧
        (∀ g ∈ w.frags, g.st.isParked = false → lowestLane f.members ≤ lowestLane g.members) ∧
      let x0 := BitVec.ofNat 64 (f.members.toNat * 2 ^ 32)
      let x3 := (v &&& ~~~ (0xFF : BitVec 64)) ||| BitVec.ofNat 64 n
      let answer := deliverSignal s core ⟨h, k, f.id⟩ n 1 x0 0 (f.exec.setWidth 64) x3
      (∀ t, answer = some t → postToWave s core h k n v = t) ∧ (answer = none → postToWave s core h k n v = killBlock s core h))) ∧
  (∀ s core r n kind x0 x1 x2 x3 t, deliverSignal s core r n kind x0 x1 x2 x3 = some t →
    DeliversSignal s core r n kind x0 x1 x2 x3 t) ∧
  (∀ (f : Fragment) (next x0 x1 x2 : BitVec 64) (n kind : Nat),
    let l := frameBytes f next x0 x1 x2 n kind
    l.length = 384 ∧ bytesNat l 0 8 = f.pc.toNat ∧ bytesNat l 8 8 = next.toNat ∧ bytesNat l 0x10 8 = x0.toNat ∧
      bytesNat l 0x18 8 = x1.toNat ∧ bytesNat l 0x20 4 = x2.toNat % 2 ^ 32 ∧ bytesNat l 0x24 4 = f.exec.toNat ∧
      bytesNat l 0x28 4 = f.members.toNat ∧ bytesNat l 0x2C 4 = f.mode.toNat ∧ bytesNat l 0x30 1 = n % 256 ∧
      bytesNat l 0x31 1 = kind % 256 ∧ ∀ k, k < 32 → bytesNat l (0x40 + 8 * k) 8 = (cellGet {} k f.s).val.toNat ∧
        bytesNat l (0x140 + k) 1 = (cellGet {} k f.s).tag.toNat) ∧
  (∀ (s : State) (core : Nat) (r : FragRef) (b : Block) (w : Wave) (f : Fragment), blockOf s core r.block = some b →
    b.wave? r.wave = some w → w.frag? r.frag = some f →
    let t := signalReturn s core r
    let frame := (sigTable s core b.asid).bind fun x => frameAddr x b.lin r.wave (w.depth - 1)
    (w.depth = 0 → t = serviceFault s core r 0x01 (Config.freeWord s.freeCtr)) ∧
    (w.depth ≠ 0 → (frame = none → t = killBlock s core r.block) ∧ (∀ a u l, frame = some a →
      ctxRead s core (some (core, r.block)) b.asid a 384 = (u, .ok l) →
      let rpc := BitVec.ofNat 64 (bytesNat l 0 8)
      let mode := BitVec.ofNat 32 (bytesNat l 0x2C 4)
      (rpc.toNat % 4 ≠ 0 → t = serviceFault u core r 0x04 rpc) ∧
      (rpc.toNat % 4 = 0 → modeLegal mode = false → t = serviceFault u core r 0x01 (mode.setWidth 64)) ∧
      (rpc.toNat % 4 = 0 → modeLegal mode = true → t.mem = u.mem ∧ ∃ v g, waveOf t core r.block r.wave = some v ∧
        v.depth = w.depth - 1 ∧ v.frag? r.frag = some g ∧ g.st = .run ∧ g.pc = rpc ∧ g.mode = mode ∧
        g.exec = BitVec.ofNat 32 (bytesNat l 0x24 4) &&& f.members ∧ g.members = f.members ∧
        (cellsWf {} f.s = true → ∀ k, k < 32 → cellGet {} k g.s = ⟨BitVec.ofNat 64 (bytesNat l (0x40 + 8 * k) 8),
          heldTag (BitVec.ofNat 6 (bytesNat l (0x140 + k) 1))⟩)))))

/-! ### Events of waves, fragments, messages and stores -/

/-- R132, R168, R169, R176, R215 and R216: where its condition holds, a wave's or block's release merges or passes its
waiters, and a mismatch faults every fragment that stands in one, and a deadlock those that wait. What a barrier releases
comes behind the stores issued before it (R327). R133: in a merge the fragment with the lowest lane stays, with its own
s-registers, MODE and PC, and its members and EXEC are the unions. R169 and R176: the deadlock's FLT.INFO is where the fragment
with the lowest lane outside it waits, the mismatch's is the mask. R216: an SBAR releases when each live member waits at it or has
passed it. The model's own readings: a WSYNC goes on behind its literal, where R176 has PC + 4 (log entry 28); the fragments of a
mismatch all fault in one step (log entry 53); a barrier does not itself wait for stores, which hold back the accesses behind it
instead (log entry 108); what an SBAR does in a resilient launch (log entry 115). -/
def Obligations.ReleaseEvents : Prop :=
  (∀ (s : State) (w : Wave) (b : Block),
    let c := s.subject.core
    let h := s.subject.block
    waveOf s c h s.subject.wave = some w → blockOf s c h = some b →
    (∀ pc, w.rcvReady = true → w.lowestRcv = some pc → exec .rcvRelease s = .next
      (modWave s c h s.subject.wave fun v => v.merge (fun f => f.st == .waitRcv && f.pc == pc) fun f =>
        { f with st := .run, pc := f.pc + 4 })) ∧
    (w.collReady = true → exec .collectiveRelease s = .next
      (modWave s c h s.subject.wave fun v => v.merge (fun _ => true) fun f => { f with st := .run, released := true })) ∧
    (∀ f m n, w.frag? s.subject.frag = some f → f.st = .waitSync m n → w.syncReady m = true →
      ∃ t v, exec .wsyncRelease s = .next t ∧ waveOf t c h s.subject.wave = some v ∧
        v.frags = w.frags.map fun g => match g.st with
          | .waitSync k bytes => if k = m ∧ g.members &&& m ≠ 0 then { g with st := .run, pc := g.pc + BitVec.ofNat 64 bytes } else g
          | _ => g) ∧
    (∀ f, w.frag? s.subject.frag = some f → w.mismatched f ≠ [] → exec .wsyncMaskMismatch s = .next
      (((w.frags.flatMap fun g => (w.mismatched g).map (·.id)).eraseDups).foldl
        (fun t n => mismatchFault t c ⟨h, s.subject.wave, n⟩) s)) ∧
    (w.deadlocked = true → exec .collectiveDeadlock s = .next
      ((w.frags.filter fun f => f.atColl || f.syncMask.isSome).foldl (fun t f =>
        match placeCtx t c ⟨h, s.subject.wave, f.id⟩ with
        | none => t
        | some x => parkAll x t 0x10 (deadlockInfo s w f)) s)) ∧
    (b.barReady = true → exec .barRelease s = .next (modBlock s c h fun b =>
      { b.passBarrier (fun f => f.st == .waitBar) with
        barBounds := (b.barBounds.filter ((coreOf s c).storesBelow h b)) ++ [s.nextIdent] })) ∧
    (∀ l n, launchOf s s.subject.ident = some l → sbarReady s l s.subject.slot = some n →
      exec .sbarRelease s = .next (((setMembers l s.subject.slot).filterMap fun lin => residentBlock s l.ident lin).foldl
        (fun t e => modBlock t e.1 e.2 fun x => x.passSbar s.subject.slot n s.nextIdent (setHolders s l s.subject.slot)
          (setStoresBelow s x s.subject.slot)) s))) ∧
  (∀ (s : State) (l : Launch) (num n : Nat),
    (sbarReady s l num = some n → ∀ lin ∈ setMembers l num, lin ∉ l.ended →
      ∃ k at', memberSbars s l num lin = some (k, at') ∧ (n < k ∨ (k = n ∧ at' = true))) ∧
    ((∀ lin ∈ setMembers l num, lin ∉ l.ended → memberSbars s l num lin = some (n, true)) →
      (∃ lin ∈ setMembers l num, lin ∉ l.ended) → sbarReady s l num = some n)) ∧
  (∀ (b : Block) (num n i : Nat) (holders : List (Nat × Nat)) (open' : Nat → Bool),
    ((∃ m ∈ b.sets, m.num = num ∧ m.sbars = n) →
      (b.passSbar num n i holders open').waves = (b.passBarrier (b.atSbar num)).waves) ∧
    ((∀ m ∈ b.sets, m.num = num → m.sbars ≠ n) → (b.passSbar num n i holders open').waves = b.waves)) ∧
  (∀ (w : Wave) (p : Fragment → Bool) (done : Fragment → Fragment) (e : Fragment), (w.frags.map (·.id)).Nodup →
    elderOf (w.frags.filter p) = some e →
    let t := w.merge p done
    e ∈ w.frags ∧ p e = true ∧ (∀ f ∈ w.frags, p f = true → lowestLane e.members ≤ lowestLane f.members) ∧
    t.regs = w.regs ∧ t.preds = w.preds ∧ (∀ f ∈ w.frags, p f = false → f ∈ t.frags) ∧
    ∃ m, done m ∈ t.frags ∧ t.frags.length = (w.frags.filter fun f => !p f).length + 1 ∧
      m.id = e.id ∧ m.s = e.s ∧ m.mode = e.mode ∧ m.pc = e.pc ∧ m.st = e.st ∧
      ∀ lane, m.exec.getLsbD lane = ((w.frags.filter p).any fun f => f.exec.getLsbD lane) ∧
        m.members.getLsbD lane = (w.frags.filter p).any fun f => f.members.getLsbD lane) ∧
  (∀ (s : State) (core : Nat) (r : FragRef) (x : Ctx) (m : Lanes) (n : Nat), placeCtx s core r = some x →
    x.frag.st = .waitSync m n → mismatchFault s core r = takeFault x
      { code := 0x0F, lanes := x.active, info := m.setWidth 64, whole := x.active == x.frag.members } s
      (modFrag s core r fun f => { f with st := .run, pc := f.pc + BitVec.ofNat 64 n })) ∧
  (∀ (s : State) (w : Wave) (f g : Fragment), elderOf (w.frags.filter fun x => x.id != f.id) = some g →
    deadlockInfo s w f = g.pc ∧ g.id ≠ f.id ∧ ∀ x ∈ w.frags, x.id ≠ f.id → lowestLane g.members ≤ lowestLane x.members)

/-- R104, R191, R263, R268, R269, R342 and R351: a fragment's exchange and displacement, its load's data, its freed Hamper
entry, the watchdog, and the end of its wait. R413 and R422: lanes whose data came back with poison fault at the load, with the
ACTIVE it issued with; those of a parked fragment once it is released, which is the model's reading (log entry 100). -/
def Obligations.FragmentEvents : Prop :=
  ∀ (s : State) (w : Wave) (f : Fragment),
    let c := s.subject.core
    let r : FragRef := ⟨s.subject.block, s.subject.wave, s.subject.frag⟩
    waveOf s c r.block r.wave = some w → fragOf s c r = some f →
    (f.slot.active = true →
      (f.st.keepsSlot = false ∨ interlockedOn s c r (fun p => p.missed s.cycle) = true) →
      exec .fragmentExchange s = .next
        (countEvent (modCore s c fun k => fillSlots (leaveActive k w.quadrant r) (s.cycle + 1) w.quadrant 8) c 11 1)) ∧
    (∀ p v n, (coreOf s c).fragments.find? (fun x => x.ref == r) = some p →
      oldestActive (coreOf s c) s.cycle p.quadrant = some v → p.darner = false → p.frag.slot.active = false →
      p.frag.slot.readySince = some n → n + 192 ≤ s.cycle → 8 ≤ activeCount (coreOf s c) p.quadrant →
      exec .pendingDisplacement s = .next
        (modCore s c fun k => enterActive (leaveActive k p.quadrant v.ref) (s.cycle + 1) p.quadrant r)) ∧
    (∀ p, (f.loads.find? fun x => x.due s.cycle f.st) = some p → (p.vs ≠ [] ∨ p.ss ≠ []) →
      ∃ t v g, exec .loadDataReturn s = .next t ∧ t.mem = s.mem ∧ waveOf t c r.block r.wave = some v ∧ v.frag? r.frag = some g ∧
        v.regs = cellSetAll {} p.vs w.regs ∧ g.s = cellSetAll {} p.ss f.s ∧ v.preds = w.preds ∧ g.st = f.st ∧ g.pc = f.pc ∧
        g.loads = ((f.loads.map fun x => if x = p then { p with vs := [], ss := [] } else x).filter fun x => !x.spent)) ∧
    (∀ p code lanes info rest, (f.loads.find? fun x => x.due s.cycle f.st) = some p → p.vs = [] → p.ss = [] →
      p.fail = (code, lanes, info) :: rest →
      exec .loadDataReturn s = .next (endLoad s c r p { p with fail := rest } code lanes info)) ∧
    (∀ p q code lanes info x, placeCtx (putLoad s c r p q) c r = some x → x.frag.st.isParked = false →
      lanes &&& x.frag.members ≠ 0 → (hamperSlot (coreOf s c) r.block r.wave).isSome = true → code ≠ 0x17 →
      endLoad s c r p q code lanes info = takeFault x
        { code := code, lanes := lanes, info := info, access := accRead, pc := some p.pc, active := some p.active } (putLoad s c r p q) (putLoad s c r p q)) ∧
    (f.st = .waitEvent .hamper → (hamperSlot (coreOf s c) r.block r.wave).isSome = true →
      exec .hamperEntryFreed s = .next (modFrag s c r fun f => { f with st := .run })) ∧
    (∀ x k n kind, placeCtx s c r = some x → contextOf s x.blk.asid = some k → x.frag.st = .waitEvent n →
      n.watched = some kind → k.wdogUs ≠ 0 → x.frag.waitSince + k.wdogUs * 1000 < s.timebase →
      ∃ kept, exec .watchdog s = .next (parkAll { x with frag := { x.frag with kept := kept } } s 0x1A (BitVec.ofNat 64 kind))) ∧
    (∀ x n, placeCtx s c r = some x → x.frag.st = .waitEvent n →
      (∀ p d a m rest, n = .recv p d a → x.blk.visible s.cycle p = m :: rest → m.kind ≠ 1 →
        exec .waitEventResume s = .next (modWave (modBlock s c r.block fun b => b.modPort p fun y => { y with msgs := rest })
          c r.block r.wave fun v => (lateWrites v r.frag
            { ss := [(d.toNat - 64, ⟨m.payload, 62⟩), (d.toNat - 64 + 1, ⟨infoWord m, 62⟩)] }).modFrag r.frag fun f =>
              { f with st := .run, pc := f.pc + 4 })) ∧
      ((∀ p d a, n ≠ .recv p d a) → (∀ k, n ≠ .service k) → waitOver s x n = true →
        exec .waitEventResume s = .next (modFrag s c r fun f =>
          { f with st := .run, drainBound := match n with | .drains k => some k | _ => f.drainBound })))

/-- R209 to R211, R311, R318, R319 and R322: a message that may arrive joins its port with room and is answered; without room, or at
a retired block, a SEND's answer is FULL and a SENDP is dropped, at a retired block with a notification of the sender's core; the answer reaches the fragment that waits for it, which goes
on behind its SEND, or faults when the port was full. Both events always go on. -/
def Obligations.MessageEvents : Prop :=
  (∀ s : State, (∃ t, exec .messageDelivery s = .next t) ∧ ∃ t, exec .sendConfirmation s = .next t) ∧
  ∀ (s : State) (m : NetMsg), netMsgOf s s.subject.ident = some m →
    let full (x : NetMsg) (retired : Bool) : NetMsg := { x with answer := some (true, retired) }
    let taken : State := { s with net := s.net.filter fun y => y.ident != m.ident }
    (mayArrive s m = true →
      (∀ c h b, placeOfBlock s m.launch m.lin = .resident c h → blockOf s c h = some b → b.hasRoom m.port = true →
        ∃ t b', exec .messageDelivery s = .next t ∧ blockOf t c h = some b' ∧
          (b'.port m.port).msgs = (b.port m.port).msgs ++ [{ m.msg with seen := s.cycle + 1 }] ∧
          t.net = if m.confirm then s.net.map fun x => if x.ident = m.ident then { x with answer := some (false, false) } else x
            else s.net.filter fun x => x.ident != m.ident) ∧
      (∀ c h b, placeOfBlock s m.launch m.lin = .resident c h → blockOf s c h = some b → b.hasRoom m.port = false →
        exec .messageDelivery s = .next
          (if m.confirm then { s with net := s.net.map fun x => if x.ident = m.ident then full x false else x }
           else { dropAtPort s c h m.port with net := (dropAtPort s c h m.port).net.filter fun x => x.ident != m.ident })) ∧
      (placeOfBlock s m.launch m.lin = .gone → m.confirm = true → exec .messageDelivery s = .next
        { s with net := s.net.map fun x => if x.ident = m.ident then full x true else x }) ∧
      (placeOfBlock s m.launch m.lin = .gone → m.confirm = false →
        let told := match residentBlock s m.senderLaunch m.senderLin with
          | some (c, h) => notifyDarner s c (.overflow h m.sender.wave m.port 0 true)
          | none => s
        exec .messageDelivery s = .next { told with net := told.net.filter fun x => x.ident != m.ident })) ∧
    (∀ f r core block w x, m.answer = some (f, r) → residentBlock s m.senderLaunch m.senderLin = some (core, block) →
      waveOf s core block m.sender.wave = some w →
      (w.frags.find? fun g => (g.awaits m.ident).isSome || g.keeps true m.ident) = some x →
      exec .sendConfirmation s = .next (confirmTo taken core ⟨block, m.sender.wave, x.id⟩ m.ident f r) ∧
      ∀ dst bytes, w.frag? x.id = some x → x.st = .waitEvent (.sendReply m.ident dst bytes) →
        (f = false → exec .sendConfirmation s = .next (modFrag taken core ⟨block, m.sender.wave, x.id⟩ fun g =>
          { g with st := .run, pc := g.pc + BitVec.ofNat 64 bytes })) ∧
        (f = true → ∀ c, placeCtx taken core ⟨block, m.sender.wave, x.id⟩ = some c → exec .sendConfirmation s = .next
          (parkAll c taken 0x11 (if r then dst ||| 0x8000000000000000 else dst))))

/-- R314 to R316: a block's join logic fires the eligible pattern that R314 chooses: enabled, with a message at each of its ports
and a waiter or a dormant handler wave; of the highest PRIORITY, then the lowest index, or, with ROTATE, the first at or after RP.
A wake pattern without a failed
completion wakes its longest waiter behind its JWAIT with the messages, and a handler pattern starts a dormant wave. -/
def Obligations.JoinFirings : Prop :=
  (∀ (b : Block) (cycle k : Nat) (p : Pattern), b.eligible cycle k p = true ↔
    p.enabled = true ∧ (∀ q, p.portMask.getLsbD q = true → (b.oldest cycle q).isSome = true) ∧
      if p.wake = true then ∃ w ∈ b.waves, ∃ f ∈ w.frags, f.st = .waitEvent (.jwait k)
      else ∃ w ∈ b.waves, w.handler = true ∧ w.st = .dormant) ∧
  (∀ (b : Block) (cycle : Nat),
    (b.firing cycle = none ↔ ∀ k p, b.patterns[k]? = some p → b.eligible cycle k p = false) ∧
    (∀ k p, b.firing cycle = some (k, p) → b.patterns[k]? = some p ∧ b.eligible cycle k p = true ∧
      ∀ j q, b.patterns[j]? = some q → b.eligible cycle j q = true → q.priority ≤ p.priority ∧
        (q.priority = p.priority → if b.hdr.rotate = true then
            (b.rotate ≤ k ∧ (b.rotate ≤ j → k ≤ j)) ∨ (k < b.rotate ∧ j < b.rotate ∧ k ≤ j)
          else k ≤ j))) ∧
  ∀ (s : State) (b : Block) (k : Nat) (p : Pattern),
    let c := s.subject.core
    let h := s.subject.block
    blockOf s c h = some b → b.firing s.cycle = some (k, p) →
    let l := p.ports.filterMap fun q => b.oldest s.cycle q
    (l.any Msg.failed) = false →
    let taken := countEvent (modBlock s c h fun b =>
      { p.ports.foldl Block.takeOldest b with rotate := if b.hdr.rotate then (k + 1) % 16 else b.rotate }) c 8 1
    (p.wake = true → ∀ n f, b.waiter k = some (n, f) → exec .joinFiring s = .next (modFrag taken c ⟨h, n, f.id⟩ fun g =>
      { ({ g with st := .run, pc := g.pc + 4 } : Fragment).putS (firedRegs l) with
        stallUntil := max g.stallUntil (s.cycle + 1) })) ∧
    (cellsWf {} b.ports = true → ∀ q, (b.counting q).isNone = true → ((p.ports.foldl Block.takeOldest b).port q).msgs =
      if p.portMask.getLsbD q then (b.port q).msgs.tail else (b.port q).msgs) ∧
    (p.wake = false → ∀ w, b.dormant = some w → ∃ t v f, exec .joinFiring s = .next t ∧ waveOf t c h w.idx = some v ∧
      v.st = .running ∧ v.frags = [f] ∧ f.pc = p.handler ∧ f.mode = b.hdr.defMode ∧ f.exec = BitVec.allOnes 32 ∧
      f.members = BitVec.allOnes 32 ∧ f.s = cellSetAll {} (firedRegs l) [])

/-- R192, R327, R348 and R251: the acceptance of a posted store that no earlier store of its wave, no barrier and no fence holds
back performs its lanes that translate and whose requests have not come back with poison, and keeps the others for a record; a
store that shares a byte with an earlier one waits for it, and one behind a barrier for the stores before it; the record joins the
queue while it has room; SFQ peeks, pops, replays and discards the oldest record. The model's own: when a store is accepted (log
entry 10), that records do not count among the 16 (79), the bytes that a resilient block holds (97), the record of a poisoned
request (99), that a popped record stays unresolved (109), and SFQ's literal B (48). -/
def Obligations.StoreEventsAndQueue : Prop :=
  (∀ (s : State) (b : Block) (w : Wave) (o : StoreOp),
    let c := s.subject.core
    let h := s.subject.block
    let n := s.subject.wave
    let l := locateStore s c b.asid o
    let bytes := l.2.1.flatMap fun e => e.2.bytes
    let done := { performLanes l.1 c h o l.2.1 with freeCtr := (performLanes l.1 c h o l.2.1).freeCtr + 1 }
    let put (t : State) (x : List StoreOp) : State := modWave t c h n fun v =>
      { v with posted := v.posted.flatMap fun y => if y.ident = s.subject.ident then x else [y] }
    blockOf s c h = some b → b.wave? n = some w →
    (w.store? s.subject.ident = some o → o.failed = none →
      (mayAccept s c h b w o bytes = true →
        (l.2.2 = [] → exec .postedStoreAccept s = .next (settleFences (put (countEvent done c 12 1) []) c h n)) ∧
        (∀ e, l.2.2.head? = some e → exec .postedStoreAccept s = .next
          (put done [{ o with lanes := l.2.2.map (·.1), failed := some e.2 }]))) ∧
      (mayAccept s c h b w o bytes = false →
        exec .postedStoreAccept s = .next (freeLocks s (some (c, h)) (isBx o.fmt) bytes)) ∧
      (∀ e ∈ o.lanes, o.hit.getLsbD e.lane = true → (e, 0x17) ∈ l.2.2) ∧
      (∀ m ∈ b.barBounds, m ≤ o.ident → w.handler = false → (coreOf s c).storesBelow h b m = true →
        mayAccept s c h b w o bytes = false) ∧
      (∀ x ∈ w.posted.takeWhile (fun y => y.ident != o.ident),
        (o.fenced = true ∨ ∃ e ∈ o.ranges, ∃ y ∈ x.lanes, y.meets x.size e.1 e.2 = true) →
        mayAccept s c h b w o bytes = false)) ∧
    (∀ rest code, w.posted = o :: rest → o.failed = some code → (coreOf s c).records.length < 32 →
      exec .storeFaultRecord s = .next (notifyDarner (modWave
        (modCore s c fun k => { k with records := k.records ++ [⟨h, n, code, { o with failed := none, hit := 0 }⟩] })
        c h n fun v => { v with posted := v.posted.tail }) c (.storeFault h n)))) ∧
  (∀ (w : BitVec 3) (d a : Code) (b : Src) (s : State) (c : Ctx),
    ∀ i ∈ [Instr.sfqPeek w d a b, .sfqPop w d a b, .sfqReplay w d a b, .sfqDiscard w d a b], Issues i s c →
      let va := sysArg s c a
      let vb := readSrcWord s c b
      let empty := (coreOf s c.core).records = []
      (va.toNat % 64 ≠ 0 → exec i s = .next (parkAll c s 0x01 va)) ∧
      (va.toNat % 64 = 0 → 4 ≤ vb.toNat → exec i s = .next (parkAll c s 0x01 vb)) ∧
      (va.toNat % 64 = 0 → vb.toNat < 4 → empty → exec i s = .next (completeLater c i s (sysResult c d 256))) ∧
      (va.toNat % 64 = 0 → vb.toNat = 2 → ∀ rmw l, replayHeld s c.core = some (rmw, l) →
        exec i s = .next (waitForBytes s c (.locked rmw l))) ∧
      (va.toNat % 64 = 0 → vb.toNat < 4 → (vb.toNat = 2 → replayHeld s c.core = none) →
        ∀ r rest, (coreOf s c.core).records = r :: rest →
        exec i s = .next (completeLater c i (sfqOp s c.core vb.toNat va.toNat).1
          (sysResult c d (sfqOp s c.core vb.toNat va.toNat).2)) ∧
        (vb.toNat = 3 → (coreOf (sfqOp s c.core 3 va.toNat).1 c.core).records = rest) ∧
        (vb.toNat = 1 → (coreOf (sfqOp s c.core 1 va.toNat).1 c.core).records = rest ∧
          (coreOf (sfqOp s c.core 1 va.toNat).1 c.core).popped = (coreOf s c.core).popped ++ [r]) ∧
        (vb.toNat = 0 → (coreOf (sfqOp s c.core 0 va.toNat).1 c.core).records = r :: rest) ∧
        (vb.toNat = 2 → ∀ b, blockOf s c.core r.block = some b →
          (∀ t good, locateLanes s c.core b.asid r.op = (t, good, []) →
            (coreOf (sfqOp s c.core 2 va.toNat).1 c.core).records = rest ∧
              (sfqOp s c.core 2 va.toNat).2.getLsbD 16 = false) ∧
          ((locateLanes s c.core b.asid r.op).2.2 ≠ [] → (sfqOp s c.core 2 va.toNat).1 = s ∧
            (sfqOp s c.core 2 va.toNat).2.getLsbD 16 = true))))

/-- R246, R250, R408 to R412 and R429: CTXSV stops its block and, when it is quiet, commits a resilient one; a block that is quiet
then is written to its image and freed, and a busy one is waited for. The image lies in memory at b, its length is the
answer, and the block is known to be out. CTXLD answers the restored block's handle, or 2^63 for no image of its context: an image
that passes its check and finds room is restored there and freed. What an image holds of a block comes back as it was
(`ImageEntries`, `ImageMemory`, `ImageLayout`). CHKPT forces a resilient block's checkpoint and waits for its commit, and answers 1 for
another. Each faults on a handle that names no block. A literal b is read as U64 whatever TYPE is (log entry 48, DEDUCED); bits
[63:6] of a and FLT.INFO of that fault are the model's choice (log entry 129, DESIGN CHOICE), and what of a block the model keeps
beside its image is named by log entry 86. -/
def Obligations.ImageForms : Prop :=
  ImageEntries ∧ ImageMemory ∧ ImageLayout ∧
  (∀ (s : State) (core h pa : Nat) (b : Block), blockOf s core h = some b → s.memOk → s.exactSums = [] →
    let u := modBlock s core h rewindOps
    let l := imageBytes u core h (rewindOps b)
    let t := (saveBlock s core h pa).1
    (saveBlock s core h pa).2 = l.length ∧ blockOf t core h = none ∧
    (∀ i < l.length, t.byteAt (pa + i) = l.getD i 0) ∧
    (∀ a, a < pa ∨ pa + l.length ≤ a → t.byteAt a = s.byteAt a) ∧
    ∃ x, t.images = s.images ++ [x] ∧ x.pa = pa ∧ x.bytes = l.length ∧ x.launch = b.launch ∧ x.lin = b.lin ∧ x.asid = b.asid) ∧
  (∀ (s : State) (core asid pa : Nat) (la : Launch) (y : Image) (p : Spot), s.exactSums = [] →
    let l := imageAt s pa
    let x := imageHead l
    imageOk s asid l = true → imageOf s x.launch x.lin = some y → launchOf s x.launch = some la →
    poisonCarried x.offs (imageLaunch l la).hdr (imagePoison s pa l.length) = true →
    imageFits s core la l (imageNeeds l) = some p →
    ∃ t, loadImage s core asid pa = .done t p.handle ∧ (∀ z ∈ t.images, ¬ (z.launch = x.launch ∧ z.lin = x.lin)) ∧
      t = { restoreBlock s core p la l (some { y with pa := pa }) with images := t.images }) ∧
  ∀ (w : BitVec 3) (d a : Code) (b : Src) (s : State) (c : Ctx),
    let v := sysArg s c a
    let h := v.toNat % 64
    let vb := readSrcWord s c b
    let stopped := modBlock s c.core h Block.stop
    (Issues (.ctxsv w d a b) s c →
      (blockOf s c.core h = none → exec (.ctxsv w d a b) s = .next (parkAll c s 0x01 v)) ∧
      (∀ k, blockOf s c.core h = some k → vb.toNat % 4096 = 0 →
        ((prepareSave s c.core h).2 = false → exec (.ctxsv w d a b) s =
          .next (waitEvent (prepareSave s c.core h).1 c (.quiet h))) ∧
        ((prepareSave s c.core h).2 = true → exec (.ctxsv w d a b) s =
          .next (completeLater c (.ctxsv w d a b) (saveBlock (prepareSave s c.core h).1 c.core h vb.toNat).1
            (sysResult c d (BitVec.ofNat 64 (saveBlock (prepareSave s c.core h).1 c.core h vb.toNat).2)))) ∧
        (k.stop.ckpt.due = false → prepareSave s c.core h = (stopped, blockQuiet stopped k.stop)) ∧
        (k.stop.ckpt.due = true → blockQuiet stopped k.stop = true →
          (prepareSave s c.core h).1 = commitBlock stopped c.core h))) ∧
    (Issues (.ctxld w d a) s c → ∀ asid, restoreAsid s c.core = some asid →
      (loadImage s c.core asid v.toNat = .bad → exec (.ctxld w d a) s =
        .next (completeLater c (.ctxld w d a) s (sysResult c d 0x8000000000000000))) ∧
      (loadImage s c.core asid v.toNat = .room → exec (.ctxld w d a) s = .next (waitEvent s c .room)) ∧
      (∀ t n, loadImage s c.core asid v.toNat = .done t n → exec (.ctxld w d a) s =
        .next (completeLater c (.ctxld w d a) t (sysResult c d (BitVec.ofNat 64 n))))) ∧
    (Issues (.chkpt w d a b) s c →
      (blockOf s c.core h = none → exec (.chkpt w d a b) s = .next (parkAll c s 0x01 v)) ∧
      (∀ k, blockOf s c.core h = some k → k.hdr.resilient = false →
        exec (.chkpt w d a b) s = .next (completeLater c (.chkpt w d a b) s (sysResult c d 1))) ∧
      (∀ k, blockOf s c.core h = some k → k.hdr.resilient = true → h ≠ c.ref.block →
        ∃ t x f, exec (.chkpt w d a b) s = .next t ∧ blockOf t c.core h = some x ∧ x.ckpt.due = true ∧
          fragOf t c.core c.ref = some f ∧ f.pc = c.frag.pc ∧
          f.st = .waitEvent (.checkpoint h k.ckpt.generation d (instrBytes (.chkpt w d a b)))))

/-! ### Events of the engines and the Darner -/

/-- R223, R225, R227 to R230, R233 to R237, R239, R295, R305, R307 and R450: a grant takes the first eligible block after the
pointer and works its head, an MMA without weights or with formats that do not pair ends; an idle Press loses its ramp; a free
channel takes the operation of the first eligible block; a stalled operation of the Press or of a collective whose condition holds
runs, while one of the Mangle stays STALLED until a channel takes it; an exchanged collective takes its result; an operation whose
work is over, or that CANCEL names, takes its final state and posts its message. The rows of the Press and the elements of the
Mangle write the values of their rules (`PressSteps`, `MangleSteps`). That a grant does up to 64 rows, or a WLOAD, in one step is the
model's choice (log entry 33, DESIGN CHOICE), and that the lowest local rank's captured MODE rounds a pairing is another (log
entry 87). -/
def Obligations.EngineEvents : Prop :=
  PressSteps ∧ MangleSteps ∧ ∀ (s : State),
    let c := s.subject.core
    let k := coreOf s c
    (∀ o b op, (handlesAfter k.press.pointer).findSome? (pressHead s c) = some o → opAt s o = some (b, op) →
      let t := modOp (modPress s c fun p => { p with pointer := o.block }) o fun x => { x with st := .running, stall := .none }
      let busy : Op := { op with st := .running, stall := .none }
      (op.form = .wload → exec .pressGrant s = .next (wloadGrant t o busy)) ∧
      (op.form = .accz → exec .pressGrant s = .next (pressRows acczStep t o 64)) ∧
      (op.form = .accld → exec .pressGrant s = .next (pressRows accldStep t o 64)) ∧
      (op.form = .accrd → exec .pressGrant s = .next (pressRows accrdStep t o 64)) ∧
      (op.form = .mma →
        (b.latched = none → exec .pressGrant s = .next (endOp t o 5 0)) ∧
        (∀ x, b.latched = some x → recFormat op.da ≠ recFormat x.record →
          (isBx (recFormat op.da) && isBx (recFormat x.record)) = false →
          exec .pressGrant s = .next (endOp t o 4 (BitVec.ofNat 64 (recFormat op.da + 16 * recFormat x.record)))) ∧
        (∀ x b' y u, b.latched = some x → formatsPair (recFormat op.da) (recFormat x.record) = true →
          opAt t o = some (b', busy) → needTile t o b' x = .ok u y →
          exec .pressGrant s = .next (pressRows (mmaStep y) u o 64)))) ∧
    ((handlesAfter k.press.pointer).findSome? (pressHead s c) = none → exec .pressGrant s = .next s) ∧
    (k.press.idle = false → k.press.lastRow + 1000 ≤ s.timebase →
      exec .pressIdle s = .next (modPress s c fun p => { p with idle := true, ramp := 0 })) ∧
    (∀ o, k.mangle.chans[s.subject.slot]? = some none → (handlesAfter (k.mangle.last.getD s.subject.slot 0)).findSome?
        (mangleChoice s c) = some o →
      ∃ t, exec .mangleChannelTake s = .next t ∧ (coreOf t c).mangle.chans[s.subject.slot]? = some (some (o.block, o.slot)) ∧
        ∀ b op, opAt s o = some (b, op) → ∃ b', opAt t o = some (b', { op with st := .running, stall := .none })) ∧
    (∀ b op, let o : OpRef := ⟨c, s.subject.block, s.subject.slot⟩
      opAt s o = some (b, op) →
      (op.st = .stalled → stallOver s o b op = true → exec .engineResume s =
        .next (if engineOf op.form = 1 then s else modOp s o fun x => { x with st := .running, stall := .none })) ∧
      (∀ g rank x r, op.form = .coll → op.phase = .exchange → op.ended = false → op.cancel = false → op.st ≠ .done →
        b.stopped = false → collGroupOf s b (collGroup op.param) = some (g, rank) →
        ((exchangePairing s g b.asid op.pairing).contributions.find? fun y => y.isOf b op) = some x → x.failed = none →
        x.result = some r → exec .collExchangeComplete s =
          .next (collEnd (modOp (exchangePairing s g b.asid op.pairing) o fun y =>
            { y with phase := .writing, result := r, exc := y.exc ||| x.exc }) o)) ∧
      (op.st ≠ .done → b.stopped = false → (op.ended = true ∨ op.cancel = true) → cellsWf {} b.ports = true →
        let status := if op.ended then op.status else 1
        let info := if op.ended then op.info else 0
        let p := pPort op.param
        ∃ t b' op', exec .engineCompletion s = .next t ∧ opAt t o = some (b', op') ∧ op'.st = .done ∧ op'.status = status ∧
          op'.info = info ∧ op'.ended = true ∧ (∀ e ∈ (coreOf t c).sb, ¬ (e.block = o.block ∧ e.slot = o.slot)) ∧
          b'.opFree.getLast? = some o.slot ∧
          (pPost op.param = true → (b'.port p).rsv = (b.port p).rsv - 1 ∧ (b'.port p).msgs = (b.port p).msgs ++
            [⟨BitVec.ofNat 64 ((opId op.form op.slot op.seq).toNat + if status = 7 then info.toNat % 32 * 2 ^ 32 else 0),
              BitVec.ofNat 16 (op.wave % 64 + b.lin % 1024 * 64), 1, BitVec.ofNat 8 status, none, s.cycle + 1⟩])))

/-- R242, R345, R429, R430 and R445: the Darner takes the events in the order of their classes, and serves one by its routines or
starts supervisor code at the event PC; a restart ends its stop, unless Dibor's core has failed; a checkpoint whose interval is
over starts, and a quiet block's due one commits, and ends the waits for it. Dibor's routines, each done in one step, and which of
the two serves a core are the model's (log entry 18, DESIGN CHOICE), and so are the registers set up at an event PC (log entry 110). -/
def Obligations.DarnerAndCheckpointEvents : Prop :=
  (∀ (k : Core) (e : DarnerEvent), nextDarnerEvent k = some e →
    (∀ x ∈ k.darner.events, e.rank ≤ x.rank) ∧ (∀ x ∈ k.hamper, x.st = .queued → e.rank ≤ 4) ∧
    (∀ i, e = .hamper i → (∃ x ∈ k.hamper, x.idx = i ∧ x.st = .queued) ∨ e ∈ k.darner.events)) ∧
  ∀ (s : State),
    let c := s.subject.core
    let h := s.subject.block
    let d := (coreOf s c).darner
    (d.stopped = none → d.current = none → ∀ e, nextDarnerEvent (coreOf s c) = some e →
      let t := modCore s c fun k => takeEvent k e
      (coreOf t c).darner.current = some e ∧
      (d.routines = true → (serveEvent t c e).2 = true → exec .darnerEvent s = .next (closeEvent (serveEvent t c e).1 c)) ∧
      (d.routines = true → (serveEvent t c e).2 = false → exec .darnerEvent s = .next (serveEvent t c e).1) ∧
      (d.routines = false → e.rank ≠ 2 → (∀ f p, e ≠ .sumRequest f p) → exec .darnerEvent s =
        .next (modCore t c fun k => startDarner c k (Config.eventPc e.rank) (dispatchRegs c (some e)))) ∧
      (d.routines = false → (e.rank = 2 ∨ ∃ f p, e = .sumRequest f p) →
        exec .darnerEvent s = .next (closeEvent (serveEvent t c e).1 c))) ∧
    (s.firmware.suspended = true → exec .darnerRestart s = .next s) ∧
    (∀ x, d.stopped = some x → s.firmware.suspended = false → ∃ t, exec .darnerRestart s = .next t ∧ (coreOf t c).darner = { d with stopped := none } ∧
      (d.routines = true → (coreOf t c).blocks = (coreOf s c).blocks) ∧
      (d.routines = false → ∃ b, blockOf t c 64 = some b ∧ ∀ w ∈ b.waves, w.idx = 0 → ∃ f, w.frags = [f] ∧ f.st = .run ∧
        f.members = BitVec.allOnes 32 ∧ f.pc = Config.eventPc (match d.current with | some e => e.rank | none => 0))) ∧
    (∀ b, blockOf s c h = some b →
      (checkpointDue s b = true → ∃ t b', exec .checkpointInterval s = .next t ∧ blockOf t c h = some b' ∧
        b'.ckpt.due = true ∧ (coreOf t c).darner.events = d.events ++ [.checkpoint h]) ∧
      (b.hdr.resilient = true → b.ckpt.due = true → blockQuiet s b = true →
        exec .checkpointCommit s = .next (wakeCheckpoint (commitBlock s c h) c h) ∧
        (∃ b', blockOf (commitBlock s c h) c h = some b' ∧ b'.ckpt.held = [] ∧ b'.ckpt.effects = [] ∧ b'.ckpt.cleared = [] ∧ b'.ckpt.due = false ∧
          b'.ckpt.generation = b.ckpt.generation + 1 ∧ b'.ckpt.current = !b.ckpt.current ∧ b'.ckpt.rollbacks = 0 ∧
          b'.ckpt.lastCommit = s.timebase)))

/-! ### Events of errors, HBM and firmware -/

/-- R422 to R428: an event waits for the end of its cycle, which takes the cycle's events in ascending channel order, those of a
channel as they happened. Each advances its channel's counter and ELOGSEQ, and enters the ring as the 64-byte record of R427
while the ring has room and the log is enabled, or else counts in ELOGDROP. An uncorrectable error is contained where it
strikes: memory, SRAM and L1 lines are poisoned; a block is rolled back or killed, and counted; so are all blocks of a core whose
Darner has failed; a core whose logic has failed, or with 16 such events within 1 s, takes its partition out of service; the
active Thimble core's failure suspends Dibor. A request that comes back poisoned fails its load's or store's lanes, its operation
or its fetch. ELOGCTL and ELOGRD take the writes that their rule allows. A Thimble standby's failure clears FWSTAT.STANDBY, which is
the model's choice (log entry 91, DESIGN CHOICE). -/
def Obligations.ErrorEvents : Prop :=
  (∀ l : List LogEvent, (eventOrder l).Perm l ∧ (eventOrder l).Pairwise (fun x y => x.chan ≤ y.chan) ∧
    ∀ n, (eventOrder l).filter (fun e => e.chan == n) = l.filter (fun e => e.chan == n)) ∧
  (∀ (s : State) (e : LogEvent),
    let l := s.log
    let on := l.ctl.getLsbD 10
    let full := (l.wr - l.rd).toNat = 2 ^ (l.ctl.toNat % 16)
    let t := recordEvent s e
    let ce := cellGet 0 e.chan t.log.ce
    let ue := cellGet 0 e.chan t.log.ue
    let place := l.base.toNat + 64 * (l.wr.toNat % 2 ^ (l.ctl.toNat % 16))
    let record := leBytes s.timebase 8 ++ leBytes (l.seq + 1).toNat 8 ++ leBytes e.chan 2 ++ leBytes e.kind 1 ++ leBytes e.part 1 ++
      leBytes e.asid 2 ++ leBytes 0 2 ++ leBytes e.addr 8 ++ leBytes ce.toNat 4 ++ leBytes ue.toNat 4 ++ leBytes l.drop.toNat 8 ++
      leBytes 0 16
    flushLog s = (eventOrder l.pending).foldl recordEvent { s with log := { l with pending := [] } } ∧
    t.log.seq = l.seq + 1 ∧ t.log.pending = l.pending ∧
    ((on = false ∨ full) → t.log.drop = l.drop + 1 ∧ t.log.wr = l.wr ∧ t.outbox = s.outbox ∧ t.mem = s.mem) ∧
    (on = true → ¬ full → t.log.drop = l.drop ∧ t.log.wr = l.wr + 1 ∧
      t.outbox = (if l.ctl.getLsbD 9 then [.driverInterrupt (l.ctl.toNat / 16 % 32)] else []) ++ s.outbox ∧
      (s.memOk → s.exactSums = [] → paRegion place ≠ 3 → record.length = 64 ∧ (∀ i < 64, t.byteAt (place + i) = record.getD i 0) ∧
        ∀ a, a < place ∨ place + 64 ≤ a → t.byteAt a = s.byteAt a)) ∧
    (∀ n, n ≠ e.chan → cellGet 0 n t.log.ce = cellGet 0 n l.ce ∧ cellGet 0 n t.log.ue = cellGet 0 n l.ue) ∧
    (cellsWf 0 l.ce = true → cellsWf 0 l.ue = true →
      if e.kind = 0 ∨ e.kind = 3 then ce = cellGet 0 e.chan l.ce + 1 ∧ ue = cellGet 0 e.chan l.ue
      else ue = cellGet 0 e.chan l.ue + 1 ∧ ce = cellGet 0 e.chan l.ce)) ∧
  ∀ (s : State) (chan addr part asid : Nat) (site : ErrorSite) (v : BitVec 32) (x : BitVec 64),
    let l := s.log
    let event (t : State) (e : LogEvent) : State := { t with log := { t.log with pending := t.log.pending ++ [e] } }
    let marked := event s ⟨chan, 1, part, asid, addr⟩
    (chan < 929 → ∃ t, exec (.correctedError chan addr part asid) s = .next t ∧ t.cores = s.cores ∧
      t.log = { l with pending := l.pending ++ [⟨chan, if 900 ≤ chan then 3 else 0, part, asid, addr⟩] }) ∧
    (929 ≤ chan → exec (.correctedError chan addr part asid) s = .next s ∧
      exec (.uncorrectableError chan addr part asid site) s = .next s) ∧
    ((∀ k p, site ≠ .spare k p) → 512 ≤ chan → chan < 929 →
      exec (.uncorrectableError chan addr part asid site) s = .next (contain marked site)) ∧
    ((∀ k p, site ≠ .spare k p) → chan < 512 → exec (.uncorrectableError chan addr part asid site) s = .next (contain
      { marked with hbm := { marked.hbm with
          failing := marked.hbm.failing.erase (chan, Config.bankOf addr % 32) ++ [(chan, Config.bankOf addr % 32)] } } site)) ∧
    (∀ stack pseudo, chan < 929 → cellsWf {} s.hbm.spares = true →
      ∃ t, exec (.uncorrectableError chan addr part asid (.spare stack pseudo)) s = .next t ∧ addr / 32 ∈ t.poison ∧
        ((cellGet ({} : Spare) (64 * stack + pseudo) s.hbm.spares).st ≠ 0 →
          cellGet ({} : Spare) (64 * stack + pseudo) t.hbm.spares = {})) ∧
    (∀ t pa n j, contain t (.memory pa n) = { t with poison := (contain t (.memory pa n)).poison } ∧
      (j < n → (pa + j) / 32 ∈ (contain t (.memory pa n)).poison)) ∧
    (∀ t core off n j, j < n → (off + j) / 4 ∈ (coreOf (contain t (.sram core off n)) core).sramPoison) ∧
    (∀ t core pa n j, j < n → (pa + j) / 4 ∈ (coreOf (contain t (.l1Line core pa n)) core).l1Poison) ∧
    (∀ t core h b, blockOf t core h = some b →
      (b.hdr.resilient = true → contain t (.block core h) = checkFailures (rollbackBlock t core h) core ∧
        contain t (.heldLine core h) = contain t (.block core h)) ∧
      (b.hdr.resilient = false →
        contain t (.block core h) = checkFailures (countFailure (killBlock t core h) core) core ∧
        blockOf (killBlock t core h) core h = none ∧ contain t (.heldLine core h) = t)) ∧
    (∀ t core, contain t (.darner core) =
      let u := ((((coreOf t core).blocks.map (·.1)).filter (· < 64)).foldl (fun s h => match blockOf s core h with
        | none => s
        | some b => if b.hdr.resilient then rollbackBlock s core h else countFailure (killBlock s core h) core) t)
      checkFailures (resetDarner u core) core) ∧
    (∀ t core, (coreOf (resetDarner t core) core).darner.current = none ∧
      (coreOf (resetDarner t core) core).darner.events = (coreOf t core).darner.events) ∧
    (∀ t core, let recent := ((coreOf t core).failures.filter fun m => t.timebase < m + 10 ^ 9).length
      checkFailures t core = if 16 ≤ recent then partitionOut t core else t) ∧
    (∀ t core, core < 128 → contain t (.coreLogic core) = partitionOut t core ∧
      ((partState t (partitionOf core)).out = true → partitionOut t core = t) ∧
      ((partState t (partitionOf core)).out = false → (∀ e ∈ (coreOf t core).blocks, e.2.hdr.resilient = false) →
        (partState (partitionOut t core) (partitionOf core)).out = true ∧
        (⟨768 + core, 6, partitionOf core, 0, 0⟩ : LogEvent) ∈ (partitionOut t core).log.pending ∧
        ∀ h < 64, blockOf (partitionOut t core) core h = none)) ∧
    (∀ t core, 128 ≤ core →
      let active := 128 + (if t.firmware.active then 1 else 0)
      contain t (.coreLogic core) = if core = active then { t with firmware := { t.firmware with suspended := true } }
        else { t with firmware := { t.firmware with standby := false } }) ∧
    (∀ t core b w k lanes p f load, fragOf t core ⟨b, w, k⟩ = some f →
      f.loads.find? (fun y => !(y.vs.isEmpty && y.ss.isEmpty)) = some load →
      contain t (.loadRequest core b w k lanes p) = endLoad t core ⟨b, w, k⟩ load (load.without lanes) 0x17 lanes p) ∧
    (∀ t core b w ident lanes y, waveOf t core b w = some y → ∃ z, waveOf (contain t (.storeRequest core b w ident lanes)) core b w =
      some z ∧ z.posted = y.posted.map fun o => if o.ident = ident then { o with hit := o.hit ||| lanes } else o) ∧
    (∀ t core b slot p k op, opAt t ⟨core, b, slot⟩ = some (k, op) → (op.st = .running ∨ op.st = .stalled) → op.ended = false →
      op.form ≠ .coll → ∃ k' op', opAt (contain t (.engineRequest core b slot p)) ⟨core, b, slot⟩ = some (k', op') ∧
        op'.ended = true ∧ op'.status = 3 ∧ op'.info = p) ∧
    (∀ t core b w k c, placeCtx t core ⟨b, w, k⟩ = some c → c.frag.st = .run → hamperRoom t c = true →
      contain t (.fetchRequest core b w k) =
        let u := event t ⟨768 + core, 2, if core < 128 then partitionOf core else 0xFF, c.blk.asid, 0⟩
        takeFault c { code := 0x17, lanes := c.frag.members, info := c.frag.pc, whole := true } u u) ∧
    (exec (.elogctlWrite v) s = .next (if v.getLsbD 10 then
        { s with log := { l with ctl := v &&& 0x7FF, wr := 0, rd := 0, drop := 0 } }
      else { s with log := { l with ctl := v &&& 0x7FF } })) ∧
    (exec (.elogrdWrite x) s = .next
      (if l.rd.toNat ≤ x.toNat ∧ x.toNat ≤ l.wr.toNat then { s with log := { l with rd := x } } else s))

/-- R433 to R442: every SAMPLE µs a stack's paths in service are due for a sample, which enters the path's register and is compared with
the thresholds; a parity failure and a weak sample ask for a repair; the registers take their writes; a retrain and a repair
clear their requests; a repair takes one path out of service, a command path where no data path is weak or no spare is left for
one; a bank is copied to the spare and then spared, and a spare is abandoned, each with the stack's interrupt where it is
enabled. A SAMPLE of 0 counts as 1 µs, and a round's samples are taken at its start (log entry 117, DESIGN CHOICE); an abandoned
spare's trigger has to recur (log entry 118). -/
def Obligations.HbmEvents : Prop :=
  ∀ (s : State) (stack ch path bank pseudo : Nat) (width height : BitVec 8) (v : BitVec 32), stack < 8 → ch < 32 →
    let x := channelOf s stack ch
    let eye := cellGet ({} : Eye) (eyeKey stack ch path) s.hbm.eyes
    let thr := eyeThrOf s stack
    let weak : Bool := decide (width.toNat < thr.toNat / 2 ^ 16 % 256) || decide (height.toNat < thr.toNat / 2 ^ 24)
    let low : Bool := decide (width.toNat < thr.toNat % 256) || decide (height.toNat < thr.toNat / 2 ^ 8 % 256)
    let key := 64 * stack + pseudo
    let spare := cellGet ({} : Spare) key s.hbm.spares
    let irq : List Output :=
      if (eyeCtlOf s stack).getLsbD 5 then [.driverInterrupt ((eyeCtlOf s stack).toNat / 64 % 32)] else []
    let round := cellGet 0 stack s.hbm.rounds
    (cellsWf 0 s.hbm.rounds = true → cellGet 0 stack (startRounds s).hbm.rounds =
      if round + 1000 * max 1 ((eyeCtlOf s stack).toNat / 65536) ≤ s.timebase then s.timebase else round) ∧
    (path ∈ lanePaths x → eye.sampled < round → cellsWf {} s.hbm.eyes = true → cellsWf {} s.hbm.channels = true →
      ∃ t, exec (.eyeSample stack ch path width height) s = .next t ∧
        cellGet ({} : Eye) (eyeKey stack ch path) t.hbm.eyes =
          { valid := true, minw := if width < eye.minw then width else eye.minw, height := height, width := width,
            sampled := s.timebase } ∧
        channelOf t stack ch =
          { x with repReq := x.repReq || weak, rtReq := x.rtReq || (low && !weak) }) ∧
    ((path ∉ lanePaths x ∨ round ≤ eye.sampled) → exec (.eyeSample stack ch path width height) s = .next s) ∧
    (path ∈ linePaths x → cellsWf {} s.hbm.channels = true →
      ∃ t, exec (.caParityFailure stack ch path) s = .next t ∧ (channelOf t stack ch).repReq = true ∧
        path ∈ (channelOf t stack ch).caWeak ∧ (channelOf t stack ch).caFailed = x.caFailed) ∧
    (path < 66 → cellsWf {} s.hbm.eyes = true → ∃ t, exec (.eyePathWrite stack ch path v) s = .next t ∧
      cellGet ({} : Eye) (eyeKey stack ch path) t.hbm.eyes = { eye with minw := 0xFF } ∧
      ∀ k, k ≠ eyeKey stack ch path → cellGet ({} : Eye) k t.hbm.eyes = cellGet ({} : Eye) k s.hbm.eyes) ∧
    (cellsWf eyeThrReset s.hbm.eyeThr = true → ∃ t, exec (.eyethrWrite stack v) s = .next t ∧ eyeThrOf t stack =
      if v.toNat / 2 ^ 16 % 256 < v.toNat % 256 ∧ v.toNat / 2 ^ 24 < v.toNat / 2 ^ 8 % 256 then v else thr) ∧
    (cellsWf {} s.hbm.channels = true → ∃ t, exec (.repairWrite stack ch v) s = .next t ∧ channelOf t stack ch =
      { x with repReq := x.repReq && !v.getLsbD 31, rtReq := x.rtReq && !v.getLsbD 30 }) ∧
    (s.subject.stack = stack → s.subject.channel = ch → cellsWf {} s.hbm.channels = true →
      (nextChannel s stack = some (ch, false) → ∃ t, exec .channelRetrain s = .next t ∧
        channelOf t stack ch = { x with rtReq := false }) ∧
      (nextChannel s stack = some (ch, true) → ∃ t, exec .laneRepair s = .next t ∧
        (channelOf t stack ch).repReq = false ∧ (channelOf t stack ch).rtReq = false ∧
        (∀ p, weakestPath s stack ch = some p → x.failed.length < 2 → (channelOf t stack ch).failed = x.failed ++ [p] ∧
          (p ∉ lanePaths (channelOf t stack ch))) ∧
        (∀ p, weakestPath s stack ch = some p → 2 ≤ x.failed.length → (channelOf t stack ch).failed = x.failed ∧
          (channelOf t stack ch).outOfSpares = true) ∧
        (∀ p r, (weakestPath s stack ch = none ∨ 2 ≤ x.failed.length) → x.caWeak = p :: r → x.caFailed = [] →
          (channelOf t stack ch).caFailed = [p] ∧ (channelOf t stack ch).caWeak = r ∧ p ∉ linePaths (channelOf t stack ch)) ∧
        t.outbox = irq ++ s.outbox)) ∧
    (pseudo < 64 → bank < 32 → cellsWf {} s.hbm.spares = true →
      (Config.largeMemory = true → spare.st = 0 → spareTrigger s key bank = true →
        ∃ t, exec (.bankSpareStart stack pseudo bank) s = .next t ∧
          cellGet ({} : Spare) key t.hbm.spares = { bptr := 0, bank := bank, st := 1, since := s.timebase } ∧
          t.outbox = irq ++ s.outbox) ∧
      (spare.st ≠ 0 → cellGet ({} : Spare) key (abandonSpare s stack pseudo).hbm.spares = {} ∧
        spareTrigger (abandonSpare s stack pseudo) key spare.bank = false ∧
        (abandonSpare s stack pseudo).outbox = irq ++ s.outbox) ∧
      ((Config.largeMemory = false ∨ spare.st ≠ 0) → exec (.bankSpareStart stack pseudo bank) s = .next s) ∧
      (s.subject.stack = stack → s.subject.channel = pseudo → spare.st = 1 → spare.bptr = 65536 →
        ∃ t, exec .bankSpareComplete s = .next t ∧ cellGet ({} : Spare) key t.hbm.spares = { spare with st := 2 } ∧
          t.outbox = irq ++ s.outbox))

/-- R426, R443 to R447, R449 and R451: the journal's oldest record commits and its decision comes next; a heartbeat is
timed; a takeover follows three missed beats or a report, discards uncommitted records and applies what the mailboxes kept, in core
order; reset and boot, the core groups, the power limit, the clock and power-off leave what their rules say. The journal's order
(log entry 64), the clock kept on an illegal setting (log entry 72), the step by which it falls while the power is above its limit
(log entry 119) and a report without a standby, which leaves the device without firmware until reset (log entry 91), are the
model's own. -/
def Obligations.FirmwareEvents : Prop :=
  ∀ (s : State) (img : BootImage) (power temp clk off size : Nat) (v : BitVec 32) (x : BitVec 64),
    let f := s.firmware
    let boots : Bool := img.hashOk && img.signatureOk && decide (f.fused ≤ img.version)
    let legal : Bool := decide (1200 ≤ clk) && decide (clk ≤ 3600) && decide (clk % 100 = 0)
    let now := s.power.clkMhz
    let limit := v.toNat % 65536
    (∀ d r, f.suspended = false → f.journal = d :: r → exec .journalCommit s = .next
      { s with firmware := { f with journal := r, committed := f.committed + 1 }, agenda := .event d.subject d.step :: s.agenda }) ∧
    (f.suspended = false → f.booted = true →
      exec .heartbeat s = .next { s with firmware := { f with lastBeat := s.timebase } }) ∧
    (∀ e, f.booted = true → f.standby = true → (e = true ∨ f.lastBeat + 30000 ≤ s.timebase) →
      (∀ q ∈ s.queues, ∀ p ∈ q.2.packets, p.st ≠ .completing) →
      let kept := (List.range 130).flatMap fun c => (f.mailboxes.filter fun m => m.1 == c).map (·.2)
      let t := kept.foldl applyMail
        { s with firmware := { f with journal := [], mailboxes := [], suspended := false, standby := false } }
      exec (.takeover e) s = .next { t with
        firmware := { t.firmware with takeovers := t.firmware.takeovers + 1, active := !t.firmware.active, lastBeat := t.timebase }
        outbox := (if t.firmware.irqEn then [.driverInterrupt t.firmware.vector.toNat] else []) ++ t.outbox }) ∧
    (∀ t launch lin killed l, launchOf t launch = some l → lin ∉ l.ended →
      launchOf (applyMail t (.ended launch lin killed)) launch =
        some { l with ended := l.ended ++ [lin], killed := if killed then l.killed + 1 else l.killed }) ∧
    (∀ t asid, applyMail t (.endContext asid) = endContext t asid) ∧
    (∀ t y, exec (.contextCreate y) t = .next (applyMail t (.request (.contextCreate y)))) ∧
    (f.booted = true → f.standby = true → s.timebase < f.lastBeat + 30000 → exec (.takeover false) s = .next s) ∧
    (f.booted = true → f.standby = false →
      exec (.takeover true) s = .next { s with firmware := { f with suspended := true } } ∧
      exec (.takeover false) s = .next s) ∧
    (∃ t, exec (.deviceReset img) s = .next t ∧ t.firmware.booted = boots ∧
      t.firmware.fused = (if boots then img.version else f.fused) ∧ t.mem = [] ∧ t.cores = [] ∧ t.contexts = [] ∧
      t.queues = [] ∧ t.images = [] ∧ t.agenda = [] ∧ t.power = {} ∧ t.links = {} ∧ t.log = {} ∧ t.timebase = 0 ∧
      (∀ n, ∀ c, cellGet ({} : Channel) n t.hbm.channels = c → cellsWf {} s.hbm.channels = true →
        c.failed = (cellGet ({} : Channel) n s.hbm.channels).failed ∧ c.repReq = false ∧ c.rtReq = false)) ∧
    (f.booted = true → s.power.groups < 8 → (s.power.groups = 0 ∨ s.power.lastGroup + 50000 ≤ s.timebase) →
      ∃ t, exec .coreGroupEnable s = .next t ∧
        t.power = { s.power with groups := s.power.groups + 1, lastGroup := s.timebase } ∧
        (∀ n, (coreOf t n) = if n / 16 = s.power.groups then { coreOf s n with enabled := true } else coreOf s n)) ∧
    (f.booted = true → f.suspended = false → exec (.powerControlStep power temp clk) s = .next { s with power :=
      { s.power with power := BitVec.ofNat 16 power, temp := BitVec.ofNat 16 temp,
                     clkMhz :=
          if power ≤ s.power.limit.toNat then (if legal then clk else now)
          else if legal && decide (clk < now) then clk else max 1200 (now - 100) } }) ∧
    (exec (.plimitWrite v) s = .next (if 400 ≤ limit ∧ limit ≤ 1600 then
      { s with power := { s.power with limit := BitVec.ofNat 16 limit } } else s)) ∧
    (∃ t, exec .powerOff s = .next t ∧ t.power.on = false ∧ t.mem = [] ∧ t.cores = [] ∧ t.firmware.fused = f.fused) ∧
    (∃ t, exec (.managementRegisterWrite off size x) s = .next t ∧
      (off = 0x000 → size = 8 → t = { s with log := { s.log with base := x } }) ∧
      (off = 0x018 → size = 8 → exec (.elogrdWrite x) s = .next t) ∧
      (off = 0x008 → size = 4 → exec (.elogctlWrite (x.extractLsb' 0 32)) s = .next t) ∧
      (off = 0x50010 → size = 4 → exec (.plimitWrite (x.extractLsb' 0 32)) s = .next t) ∧
      (off = 0x50000 → size = 4 → t = { s with firmware := { f with vector := x.extractLsb' 6 5, irqEn := x.getLsbD 5 } }) ∧
      (∀ stack, stack < 8 → off = 0x40000 + 0x40 * stack → size = 4 → cellsWf eyeCtlReset s.hbm.eyeCtl = true →
        eyeCtlOf t stack = x.extractLsb' 0 32 &&& 0xFFFF07E0) ∧
      (size ≠ 4 → size ≠ 8 → t = s) ∧ (off % 4 ≠ 0 → t = s))

/-! ### Events of queues, posts, links, contexts and confidentiality -/

/-- R259, R365, R366, R369 to R376 and R444: notify writes and descriptors, and the steps of a packet, a graph node, a barrier, a
placement and a block's retirement, where each one's condition holds, on a device that has booted. A packet's fetch always goes on:
it is read, checked and accepted, or keeps waiting as FETCHED, and with nothing left to fetch the kick is over; so does a node's
completion: its word is written and its successors' counters fall. What of a queue a new descriptor governs, and the packets that a
disabling one aborts (log entry 88), a descriptor that a locked group's configuration forbids (log entry 89) and which queue wants
room (log entry 104) are the model's readings. -/
def Obligations.QueueEvents : Prop :=
  ∀ (s : State) (q off size : Nat) (v : BitVec 64) (d : BitVec 256),
    let k := if (queueOf s q).next.all (fun x => (lockedBy s q x).isSome) then queueOf s q else (queueOf s q).governed
    let sq := s.subject.queue
    let n := s.subject.index
    let j := s.subject.node
    let g := s.subject.group
    let asid := queueAsid (queueOf s sq).desc
    let put (t : State) (f : Packet → Packet) : State := modPacket t sq n f
    (s.firmware.booted = true → q < 4096 → off = 0 → size = 8 → ∃ t, exec (.notifyWrite q off size v) s = .next t ∧ queueOf t q =
      if k.desc.getLsbD 165 = true ∧ k.widx.toNat ≤ v.toNat ∧
          v.toNat ≤ k.ridx.toNat + 2 ^ (k.desc.extractLsb' 160 5).toNat then { k with widx := v, kick := true }
      else { k with err := true }) ∧
    ((s.firmware.booted = false ∨ 4096 ≤ q ∨ off ≠ 0 ∨ size ≠ 8) → exec (.notifyWrite q off size v) s = .next s) ∧
    (∀ y : Queue, y.next = some d →
      (d.getLsbD 165 = true → y.desc.getLsbD 165 = false → y.governed =
        { y with desc := d, next := none, widx := 0, ridx := 0, pass := 0, wasReady := false, unreadySince := none }) ∧
      (d.getLsbD 165 = true → y.desc.getLsbD 165 = true → y.governed = { y with desc := d, next := none }) ∧
      (d.getLsbD 165 = false → y.governed.desc = d ∧ y.governed.widx = 0 ∧ y.governed.kick = false ∧
        y.governed.packets.length = y.packets.length ∧ ∀ p ∈ y.governed.packets, p.st ≠ .done → p.status = 0x36)) ∧
    (∀ x, lockedGroup s (q / 64) = some x → lockedBy s q d = some x) ∧
    (∀ x ∈ s.groups, d.getLsbD 165 = true → (x.2.tdisp = .locked ∨ x.2.tdisp = .run) →
      rangesMeet x.1 (2 ^ x.2.log2) (q / 64 / 2 ^ queueGroupLog2 d * 2 ^ queueGroupLog2 d) (2 ^ queueGroupLog2 d) = true →
      (lockedBy s q d).isSome = true) ∧
    (s.firmware.booted = true → q < 4096 → lockedBy s q d = none →
      exec (.queueDescriptorWrite q d) s =
        .next (if descriptorBad d then s else modQueue s q fun x => { x with next := some d })) ∧
    ((s.firmware.booted = false ∨ 4096 ≤ q) → exec (.queueDescriptorWrite q d) s = .next s) ∧
    (∀ x, s.firmware.booted = true → q < 4096 → lockedBy s q d = some x →
      exec (.queueDescriptorWrite q d) s = .next (tdispFail s x)) ∧
    (takesPackets s sq = true → fetchedPacket s sq = none → (queueOf s sq).widx.toNat ≤ (queueOf s sq).ridx.toNat →
      exec .packetFetch s = .next (modQueue s sq fun x => { x with kick := false })) ∧
    ((∃ t, exec .packetFetch s = .next t) ∧ ∃ t, exec .graphNodeComplete s = .next t) ∧
    (∀ t raw, let k := queueOf s sq
      takesPackets s sq = true → fetchedPacket s sq = none → k.ridx.toNat < k.widx.toNat →
      diborRead s asid ((queueRing k.desc).toNat + 64 * (k.ridx.toNat % 2 ^ queueSizeLog2 k.desc)) 64 = .ok t raw →
      let p : Packet := { index := k.ridx.toNat, st := .fetched, raw := packetBits raw }
      let held := modQueue t sq fun x => { x with packets := x.packets ++ [p] }
      let desc := (queueOf held sq).desc
      let accepts (r : State) (status : Option Nat) (h : Option Header) : Prop :=
        ∀ u w, writeRidx r sq (queueAsid (queueOf r sq).desc) (queueRidxAddr (queueOf r sq).desc) (p.index + 1) = (some u, w) →
          exec .packetFetch s = .next (modQueue u sq fun x =>
            { x with
              ridx := x.ridx + 1
              kick := x.kick && x.ridx + 1 != x.widx
              packets := x.packets.map fun y => if y.index = p.index then
                { y with st := if status.isSome then .completing else .held, status := status.getD 0, hdr := h } else y })
      (∀ n, pkFail p.raw = some n → accepts held (some n) none) ∧
      (pkFail p.raw = none → pkType p.raw ≠ 1 → accepts held none none) ∧
      (pkFail p.raw = none → pkType p.raw = 1 →
        (∀ r h, checkKernel held (queueAsid desc) (2 * 2 ^ queueGroupLog2 desc) p.raw = .ok r h → accepts r none h) ∧
        (∀ r n, checkKernel held (queueAsid desc) (2 * 2 ^ queueGroupLog2 desc) p.raw = .bad r n → accepts r (some n) none) ∧
        (∀ r, checkKernel held (queueAsid desc) (2 * 2 ^ queueGroupLog2 desc) p.raw = .wait r →
          exec .packetFetch s = .next r))) ∧
    (∀ p, packetOf s sq n = some p → p.status ≠ 0x36 →
      (p.st = .held → (pkBarrier p.raw = true → ∀ x ∈ (queueOf s sq).packets, x.index < n → x.st = .done) →
        exec .packetOrdered s =
          .next (put s fun x => { x with st := if pkType x.raw = 3 then .completing else .ordered })) ∧
      (p.st = .ordered → pkType p.raw = 1 →
        (∀ x ∈ (queueOf s sq).packets, x.index < n → pkType x.raw = 1 →
          x.st = .dispatched ∨ x.st = .completing ∨ x.st = .done) →
        (p.hdr = none → exec .packetDispatch s = .next (put s fun x => { x with st := .dispatched })) ∧
        (∀ h, p.hdr = some h → exec .packetDispatch s = .next (put
          { s with launches := s.launches ++ [launchFor sq n 0 (queueOf s sq).desc p.raw h] } fun x =>
            { x with st := .dispatching }))) ∧
      (p.st = .ordered → pkType p.raw = 2 → (pkArgs p.raw = 0 ∨ 4095 < pkArgs p.raw) →
        exec .packetDispatch s = .next (put s fun x => { x with st := .completing, status := 0x37 })) ∧
      (p.st = .ordered → pkType p.raw = 4 → pkDeps p.raw = [] →
        exec .barrierDependencyCheck s = .next (put s fun x => { x with st := .completing })) ∧
      (∀ a t w, p.st = .ordered → pkType p.raw = 4 → pkDeps p.raw = [a] → diborRead s asid a 8 = .ok t w →
        exec .barrierDependencyCheck s =
          .next (if leNat (w.take 1) = 0xFF then t else put t fun x => { x with st := .completing })) ∧
      (∀ x t u, p.nodes[j]? = some x → p.st ≠ .completing → x.st = .ready → x.skip = true →
        writeCompletion s sq asid x.packet 0x35 0 = (some t, u) →
        exec .graphNodeComplete s = .next (settleDispatch (put t fun y => y.finishNode j 0x35 .skipped) sq n)) ∧
      (∀ x t u, p.nodes[j]? = some x → p.st ≠ .completing → x.st = .running →
        (launchOf s (launchIdent sq n (j + 1)) = none → writeCompletion s sq asid x.packet x.status x.killed = (some t, u) →
          exec .graphNodeComplete s = .next (settleDispatch (put t fun y => y.finishNode j x.status .done) sq n)) ∧
        (∀ l, launchOf s (launchIdent sq n (j + 1)) = some l → launchOver l = true →
          let ended := modPacket (countEvent (endLaunch s l.ident) (sq / 64 * 2) 14 1) sq n fun y =>
            { y.modNode j (fun z => { z with status := launchStatus l, killed := l.killed }) with killed := y.killed + l.killed }
          writeCompletion ended sq asid x.packet (launchStatus l) l.killed = (some t, u) →
          exec .graphNodeComplete s = .next (settleDispatch (put t fun y => y.finishNode j (launchStatus l) .done) sq n))) ∧
      (∀ t u, p.st = .completing → packetOver s sq p = false →
        writeCompletion s sq asid p.raw p.status p.killed = (some t, u) →
        exec .packetComplete s = .next (forgetDone (put t fun x => { x with st := .done }) sq))) ∧
    (s.power.groups = 8 → (groupOf s g).reserved = none → ∀ x l t,
      let r := (groupQueues s g).foldl (fun t y => refreshQueue t g y) (clearReserved s g)
      lowestPass r ((groupQueues s g).filter fun y => (queueOf r y).wasReady) = some x → (groupOf r g).reserved = none →
      dispatching r x = some l → placeDecision r l = .done t →
      ∃ u, exec .schedulingDecision s = .next u ∧ (groupOf u g).v = (queueOf t x).pass ∧
        (queueOf u x).pass = (queueOf t x).pass + BitVec.ofNat 64 (2 ^ 24 / queueTickets (queueOf t x).desc *
          if l.hdr.coresident then gridBlocks l.grid else 1)) ∧
    (∀ x t, lowestPass s ((groupQueues s g).filter fun y => wantsRoom s y) = some x →
      (queueOf s x).unreadySince = some t → t + 100000 ≤ s.timebase → (groupOf s g).reserved = none →
      ∃ u, exec .queueReservation s = .next u ∧ (groupOf u g).reserved = some x) ∧
    (∀ b, let c := s.subject.core
      let h := s.subject.block
      blockOf s c h = some b → h < 64 → retires s c h b = true → ∃ t, exec .blockRetirement s = .next t ∧
        blockOf t c h = none ∧ (∀ l ∈ t.launches, l.ident = b.launch → b.lin ∈ l.ended) ∧ t.mem = s.mem)

/-- R319 to R322, R387, R388, R401, R443 and R447: a write to a post page that is no descriptor is dropped and counted, and a read
gives the counts; a message for a resident block of the page's context, at an ordinary port with room, joins it, a reply reaches
the fragment that waits with its TAG, and an answer goes to all that joined its request, or waits in the mailbox of the core that it is
for; a descriptor with a reserved value is dropped. A device that has not booted has no post page. -/
def Obligations.PostEvents : Prop :=
  ∀ (s : State) (a part off size : Nat) (d : BitVec 256) (k : Context), contextOf s a = some k →
    let msg (p : PostPage) := exec (.postPortMessage p off size d) s
    let kind := (d.extractLsb' 112 8).toNat
    let lin := (d.extractLsb' 64 32).toNat
    let port := (d.extractLsb' 96 8).toNat
    let word : Msg := ⟨d.extractLsb' 192 64, d.extractLsb' 128 16, 4, d.extractLsb' 104 8, some 5, s.cycle + 1⟩
    let clean := d.extractLsb' 120 8 = 0#8 ∧ d.extractLsb' 144 48 = 0#48 ∧ port < 32
    ((s.firmware.booted = false ∨ 32 ≤ off) → msg (.context a) = .next s ∧ msg (.driver part) = .next s ∧ exec (.serviceReply (.driver part) off size d) s = .next s) ∧
    (postRead s (.contextPost a) 0x20 8 = k.drops ++ k.accepted ∧
      ∀ page, (off % 4096 + size ≤ 0x20 ∨ 0x28 ≤ off % 4096) → postRead s page off size = 0) ∧
    (s.firmware.booted = true → off < 32 → (off ≠ 0 ∨ size ≠ 32 ∨ ¬ clean ∨ 2 < kind) →
      msg (.context a) = .next (modContext s a fun x => { x with drops := x.drops + 1 }) ∧
      msg (.driver part) = .next (modPart s part fun x => { x with drops := x.drops + 1 })) ∧
    (s.firmware.booted = true → off = 0 → size = 32 → clean → kind = 0 → ∀ l c h b,
      launchOf s (d.extractLsb' 0 64).toNat = some l → port < l.hdr.ports →
      placeOfBlock s l.ident lin = .resident c h → blockOf s c h = some b → b.asid = a →
      (b.counting port).isNone = true →
      (b.hasRoom port = true → ∃ t b', msg (.context a) = .next t ∧ blockOf t c h = some b' ∧
        (b'.port port).msgs = (b.port port).msgs ++ [word] ∧
        (contextOf t a).map Context.accepted = some (k.accepted + 1) ∧ (contextOf t a).map Context.drops = some k.drops) ∧
      (b.hasRoom port = false → ∃ t b', msg (.context a) = .next t ∧ blockOf t c h = some b' ∧
        (b'.port port).msgs = (b.port port).msgs ∧ (b'.port port).ovf = true ∧
        (contextOf t a).map Context.drops = some (k.drops + 1))) ∧
    (s.firmware.booted = true → off = 0 → size = 32 → clean → kind = 1 → ∀ l c h t, launchOf s (d.extractLsb' 0 64).toNat = some l →
      inGroup l.group l.groupLog2 part = true →
      (residentBlocks s fun b => (launchContexts s l).contains b.asid) = [(c, h)] →
      replyToBlock s c h lin (d.extractLsb' 192 64) (replyInfo d) = (t, true) →
      exec (.serviceReply (.driver part) off size d) s = .next (acceptPost
        (keepReply t c h lin (d.extractLsb' 192 64) (replyInfo d)) (.driverPost part))) ∧
    (off = 0 → size = 32 → clean → kind = 2 → port = 0 → d.extractLsb' 128 16 = 0#16 → d.extractLsb' 192 64 = 0#64 →
      s.firmware.booted = true → ∀ l r, let status := (d.extractLsb' 104 8).toNat
      (status = 0 ∨ status = 8 ∨ status = 9) → requestOf s (d.extractLsb' 0 64).toNat lin = some r →
      launchOf s (d.extractLsb' 0 64).toNat = some l → inGroup l.group l.groupLog2 part = true →
      (s.firmware.suspended = false → exec (.faultResolution (.driver part) off size d) s =
        .next (acceptPost (answerRequest s r status) (.driverPost part))) ∧
      (s.firmware.suspended = true → exec (.faultResolution (.driver part) off size d) s =
        .next { s with firmware := { s.firmware with
          mailboxes := s.firmware.mailboxes ++ [(if lin < 2 ^ 20 then lin / 128 % 128 else 128,
            .request (.faultResolution (.driver part) off size d))] } }))

/-- R238, R325, R335, R344, R383, R389 to R395, R413, R422 and R447: a walk's translation resolves the requests for its page; an
invalidation of a bound PASID is queued and acknowledged, behind the stores and sums that a resilient block still holds and the
loads in flight on a CXL link, and one of an unbound PASID completes; snoops are answered; an external access is performed, refused,
or waits for bytes that such a block holds; a link fails once, with a record. Which external accesses are admitted (log entry 69),
snoops answered at once (log entry 73) and the bytes that such a block holds between a read and a write (log entry 97) are the
model's readings. -/
def Obligations.LinkEvents : Prop :=
  ∀ (s : State) (core asid : Nat) (va : BitVec 57) (access pasid pa size port : Nat) (all : Bool) (e : Agent),
    (∀ t p, translate s core asid (va.setWidth 64) access 0xFB00 = (t, .ok p) →
      exec (.translationWalk core asid va access) s = .next
        ((t.pageRequests.filter fun r => r.asid == asid && r.page == va.toNat / 4096 && r.access == access).foldl
          (fun u r => answerRequest u r 0) t)) ∧
    (∀ t, translate s core asid (va.setWidth 64) access 0xFB00 = (t, .bad 9) →
      exec (.translationWalk core asid va access) s = .next
        ((t.pageRequests.filter fun r => r.asid == asid && r.page == va.toNat / 4096 && r.access == access).foldl
          (fun u r => answerRequest u r 9) t)) ∧
    ((∀ k ∈ s.contexts, k.pasid ≠ pasid) →
      exec (.atsInvalidateRequest pasid va all) s = .next (emit s (.invalidationDone pasid))) ∧
    (∀ k, (s.contexts.find? fun x => x.pasid == pasid) = some k →
      let t := dropTranslations s (· == k.asid) (if all then none else some va.toNat)
      exec (.atsInvalidateRequest pasid va all) s = .next
        { t with invalidations := t.invalidations ++ [⟨t.nextIdent, true, pasid⟩], nextIdent := t.nextIdent + 1 }) ∧
    (∀ x r, s.invalidations = x :: r → storesBefore s x.ident = true → exec .invalidationAck s = .next s) ∧
    (∀ x r, s.invalidations = x :: r → storesBefore s x.ident = false →
      (x.host = true → exec .invalidationAck s = .next (emit { s with invalidations := r } (.invalidationDone x.pasid))) ∧
      (x.host = false → ∃ t, exec .invalidationAck s = .next t ∧ t.invalidations = r ∧ t.outbox = s.outbox ∧
        ∀ c f g bytes, fragOf s c f = some g → g.st = .waitEvent (.invalidation x.ident bytes) →
          fragOf t c f = some { g with st := .run, pc := g.pc + BitVec.ofNat 64 bytes })) ∧
    (exec (.hostSnoop pa) s = .next (emit s (.snoopDone pa))) ∧
    (exec (.backInvalidateSnoop pa) s = .next (emit s (.backSnoop pa))) ∧
    (exec (.directoryInvalidation pa size) s = .next (emit s (.directoryDone pa size))) ∧
    (s.firmware.booted = false → ∀ a, exec (.externalAccess e pa a) s = .next (emit s (.accessError e))) ∧
    (∀ a p, s.firmware.booted = true → windowPartition pa = some p → windowPartition (pa + extBytes a - 1) = some p →
      let formed := match e with | .peer _ => peerForm pa a | .host _ => true
      ((formed = false ∨ admits s e p a = false) → ∃ t, exec (.externalAccess e pa a) s = .next t ∧ t.mem = s.mem ∧
        t.outbox = .accessError e :: s.outbox) ∧
      let reads : Bool := match a with | .write _ => false | _ => true
      let held := lockedBytes s none reads ((List.range (extBytes a)).map (pa + ·))
      (formed = true → admits s e p a = true → extWrites a = true → held = true → ∃ t, exec (.externalAccess e pa a) s = .next t ∧
        t.mem = s.mem ∧ t.outbox = s.outbox ∧ .event s.subject (.externalAccess e pa a) ∈ t.inputs.headD []) ∧
      (formed = true → admits s e p a = true → (extWrites a = true → held = false) →
        ((∀ bs, a ≠ .write bs) → poisoned s pa (extBytes a) = false) →
        exec (.externalAccess e pa a) s = .next (performExternal { s with freeCtr := s.freeCtr + 1 } e pa a) ∧
        (∀ bs, a = .write bs → ∀ k, k < bs.length → s.exactSums = [] → s.memOk →
          (performExternal s e pa a).byteAt (pa + k) = bs.getD k 0) ∧
        (∀ n, a = .read n → s.exactSums = [] → performExternal s e pa a =
          emit s (.accessData e ((List.range n).map fun k => s.byteAt (pa + k)))))) ∧
    (∀ a, windowPartition pa = none → exec (.externalAccess e pa a) s = .next (emit s (.accessError e))) ∧
    (port < 2 → port ∉ s.links.cxlDown → ∃ t, exec (.cxlLinkDown port) s = .next t ∧
      exec (.cxlCompletionTimeout port) s = .next t ∧ t.links = { s.links with
        cxlDown := s.links.cxlDown ++ [port], flights := s.links.flights.filter fun x => x.port != port } ∧
      (⟨900 + port, 4, 0xFF, 0, 0⟩ : LogEvent) ∈ t.log.pending ∧ ∀ x, paRegion x = 1 → Config.cxlPort (x / 4096) % 2 = port → linkFailed t x = true) ∧
    ((2 ≤ port ∨ port ∈ s.links.cxlDown) → exec (.cxlLinkDown port) s = .next s ∧ exec (.cxlCompletionTimeout port) s = .next s) ∧
    (∃ t, exec (.cxlPortReenable port) s = .next t ∧ port ∉ t.links.cxlDown ∧
      ∀ x, x ≠ port → (x ∈ t.links.cxlDown ↔ x ∈ s.links.cxlDown)) ∧
    (port < 24 → port ∉ s.links.ualinkDown → ∃ t, exec (.ualinkLinkFailure port) s = .next t ∧
      t.links = { s.links with ualinkDown := s.links.ualinkDown ++ [port] } ∧
      t.log.pending = s.log.pending ++ [⟨902 + port, 4, 0xFF, 0, 0⟩] ∧
      ∀ x ∈ t.contributions, (groupsAcross s port).contains (x.asid, x.gid) = true → x.result.isSome = true ∨ x.failed.isSome = true) ∧
    (port < 2 → ∃ t, exec (.ethernetLinkFailure port) s = .next t ∧ port ∈ t.links.ethDown ∧
      t.log.pending = s.log.pending ++ [⟨926 + port, 4, 0xFF, 0, 0⟩])

/-- R391, R398, R399, R407 and R443: where Dibor acts, a context is created unless its identifier or PASID is taken, and ended once,
its blocks killed, its identifier quarantined and its context gone as soon as no word of its packets is awaited; a pre-emption drains
until its deadline, then swaps out, and ends what is still there 1 ms later; a resumption asks for the restores; a quarantine ends
with no page request and no load outstanding or after 2 s. While Dibor's core has failed, its mailbox keeps the requests. A deadline
beyond 10^6 µs taken as 200 µs is the model's reading (log entry 71, DEDUCED). -/
def Obligations.ContextEvents : Prop :=
  ∀ (s : State) (x : ContextSpec) (asid deadline : Nat) (target : PreemptTarget), s.firmware.booted = true →
    let delay := if deadline ≤ 10 ^ 6 then deadline else 200
    (s.firmware.suspended = true →
      (∀ i ∈ [Instr.contextCreate x, .contextEnd asid, .preemptRequest target deadline, .contextResume asid],
        exec i s = .next { s with firmware := { s.firmware with mailboxes := s.firmware.mailboxes ++ [(128, .request i)] } })) ∧
    (s.firmware.suspended = false →
      (mayCreate s x = true → ∃ t k, exec (.contextCreate x) s = .next t ∧ t.contexts = s.contexts ++ [k] ∧
        k.asid = x.asid ∧ k.pasid = x.pasid ∧ k.group = x.group ∧ k.groupLog2 = x.groupLog2 ∧ k.ptroot = x.ptroot ∧
        k.spillBase = x.spillBase ∧ k.spillSize = x.spillSize ∧ k.spillSlots = x.spillSlots ∧ k.sigTab = x.sigTab ∧
        k.svcCh = x.svcCh ∧ k.wdogUs = 0 ∧ k.comparators = [] ∧ k.collGroups = [] ∧ contextOf t x.asid = some k) ∧
      (mayCreate s x = false → exec (.contextCreate x) s = .next s) ∧
      ((x.asid = 0 ∨ (contextOf s x.asid).isSome = true ∨ (∃ q ∈ s.quarantine, q.asid = x.asid) ∨
        (∃ k ∈ s.contexts, k.pasid = x.pasid)) → mayCreate s x = false) ∧
      (∀ k, contextOf s asid = some k → k.ending = true → exec (.contextEnd asid) s = .next s) ∧
      (∀ k, contextOf s asid = some k → k.ending = false → ∃ t, exec (.contextEnd asid) s = .next t ∧
        (∃ q ∈ t.quarantine, q.asid = asid) ∧ (∀ y ∈ t.images, y.asid ≠ asid) ∧ (∀ y ∈ t.contributions, y.asid ≠ asid) ∧
        (∀ c h b, h < 64 → blockOf t c h = some b → b.asid ≠ asid) ∧
        (awaitsWords t asid = false → contextOf t asid = none) ∧ (∀ k', contextOf t asid = some k' → k'.ending = true) ∧
        ∀ n p, queueAsid (queueOf s n).desc = asid → p ∈ (queueOf s n).packets → ∀ l ∈ t.launches,
          ¬ (l.queue = n ∧ l.index = p.index)) ∧
      ((contextOf s asid) = none → exec (.contextEnd asid) s = .next s) ∧
      ((∀ p ∈ s.preempts, p.target ≠ target) → exec (.preemptRequest target deadline) s = .next
        { s with preempts := s.preempts ++ [⟨target, s.timebase, s.timebase + 1000 * delay, false⟩] }) ∧
      (∀ k, contextOf s asid = some k → ∃ t, exec (.contextResume asid) s = .next t ∧
        (∀ p ∈ t.preempts, p.target ≠ .context asid ∧ p.target ≠ .group k.group) ∧ t.images = s.images ∧ t.mem = s.mem)) ∧
    (∀ p, subjectPreempt s = some p →
      (p.swapping = false → p.deadline ≤ s.timebase → exec .drainDeadline s = .next ((targetBlocks s p.target).foldl requestSwap
        { s with preempts := s.preempts.map fun y => if y.target = p.target then { y with swapping := true } else y })) ∧
      (p.swapping = false → s.timebase < p.deadline → exec .drainDeadline s = .next s) ∧
      (p.swapping = true → p.deadline + 1000000 ≤ s.timebase → targetBlocks s p.target ≠ [] → ∀ a, p.target = .context a →
        exec .forcedReset s = .next (endContext { s with preempts := s.preempts.filter fun y => y.target != p.target } a))) ∧
    (∀ q, (s.quarantine.find? fun y => y.asid == s.subject.asid) = some q →
      ((contextOf s s.subject.asid).isSome = true → exec .asidQuarantineEnd s = .next s) ∧
      let left := q.outstanding + (s.links.flights.filter fun x => x.asid == q.asid).length
      ((contextOf s s.subject.asid) = none → (left = 0 ∨ q.since + 2000000000 ≤ s.timebase) → ∃ t, exec .asidQuarantineEnd s = .next t ∧
        (∀ y ∈ t.quarantine, y.asid ≠ s.subject.asid) ∧
        t.outbox = .teardown q.asid q.completions q.bytes (left == 0) :: s.outbox) ∧
      (left ≠ 0 → s.timebase < q.since + 2000000000 → exec .asidQuarantineEnd s = .next s))

/-- R396, R397, R443, R447 and R448: an interface is locked, started, stopped and fails by its states; a stop, in any state, ends the
group's contexts and, once no word of their packets is awaited, zeroes its windows and unlocks it; a failure kills its blocks and
asks for the end of its contexts; the SPDM requests are answered; all of them wait in a mailbox while Dibor's core has failed. The
certificate, the signatures and the measured bytes are open, and the form of the answers is the model's (log entry 13, DESIGN
CHOICE); that a stop waits for the packets' words is its reading (log entry 105). -/
def Obligations.ConfidentialEvents : Prop :=
  ∀ (s : State) (g : Nat) (signs hashes : Bool) (off size index : Nat) (nonce : BitVec 256), s.firmware.booted = true →
    let st := (groupOf s g).tdisp
    let answers : List (Instr × Nat × Bool × List Byte) :=
      [(.getVersion, 0, true, []), (.getCapabilities, 1, true, []), (.negotiateAlgorithms signs hashes, 2, signs && hashes, []),
       (.getDigests, 3, true, sha3 Config.certificateChain),
       (.getCertificate off size, 4, decide (off < Config.certificateChain.length), (Config.certificateChain.drop off).take size),
       (.challenge nonce, 5, true, Config.signature (leBytes nonce.toNat 32)),
       (.getMeasurements index, 6, (measurementOf s index).isSome, (measurementOf s index).getD [])]
    (s.firmware.suspended = false →
      (st = .unlocked → ∃ t, exec (.lockInterfaceRequest g) s = .next t ∧ (groupOf t g).tdisp = .locked ∧
        (groupOf t g).measurement = sha3 (Config.measuredBytes (groupConfig s g (groupLog2Of s g))) ∧ t.mem = s.mem) ∧
      (st ≠ .unlocked → exec (.lockInterfaceRequest g) s = .next s) ∧
      (st = .locked → exec (.startInterfaceRequest g) s = .next (modGroup s g fun x => { x with tdisp := .run })) ∧
      (st ≠ .locked → exec (.startInterfaceRequest g) s = .next s) ∧
      (let u := modGroup ((groupAsids s g (stopLog2 s g)).foldl endContext s) g fun x => { x with stopping := true }
       (stopLog2 s g = if st = .unlocked then groupLog2Of s g else (groupOf s g).log2) ∧
        ((s.contexts.map (·.asid)).Nodup → ∀ k ∈ u.contexts, inGroup g (stopLog2 s g) k.group = true → k.ending = true) ∧
        ((∃ k ∈ u.contexts, inGroup g (stopLog2 u g) k.group = true ∧ k.ending = true) →
          exec (.stopInterfaceRequest g) s = .next u) ∧
        ((∀ k ∈ u.contexts, inGroup g (stopLog2 u g) k.group = true → k.ending = false) →
          ∃ t, exec (.stopInterfaceRequest g) s = .next t ∧ (groupOf t g).tdisp = .unlocked ∧ (groupOf t g).measurement = [] ∧
            (groupOf t g).stopping = false ∧ ∀ a, inWindow g (stopLog2 u g) a = true → t.byteAt a = 0)) ∧
      (∀ e ∈ answers, exec e.1 s = .next (emit s (.spdm e.2.1 e.2.2.1 e.2.2.2)))) ∧
    (s.firmware.suspended = true →
      ∀ i ∈ [Instr.lockInterfaceRequest g, .startInterfaceRequest g, .stopInterfaceRequest g] ++ answers.map (·.1),
        exec i s = .next { s with firmware := { s.firmware with mailboxes := s.firmware.mailboxes ++ [(128, .request i)] } }) ∧
    ((st = .locked ∨ st = .run) →
      let u := killBlocks (modGroup s g fun x => { x with tdisp := .error }) fun b => inGroup g (groupOf s g).log2 b.home.1
      (∀ c h b, h < 64 → blockOf u c h = some b → inGroup g (groupOf s g).log2 b.home.1 = false) ∧
      exec (.tdispError g) s = .next
        ((groupAsids u g (groupOf s g).log2).foldl (fun t a => askContextEnd t 128 a) u)) ∧
    (∀ a, askContextEnd s 128 a =
      if s.firmware.suspended then
        { s with firmware := { s.firmware with mailboxes := s.firmware.mailboxes ++ [(128, .endContext a)] } }
      else if s.firmware.standby then journal s [⟨{ asid := a }, .contextEnd a⟩] else endContext s a) ∧
    (st ≠ .locked → st ≠ .run → exec (.tdispError g) s = .next s) ∧
    ((measurementOf s index).isSome = true ↔ index = 1 ∨ index = 2 ∨ index = 3 ∨ (16 ≤ index ∧ index < 80))

/-! ### The machine as a whole -/

/-- R92 to R102: an instruction's words decode to it, whatever words follow; the forms that share a word with a sibling
decode to the sibling whose operation an operand selects (R207, R251). -/
def Obligations.DecodeInvertsEncode : Prop :=
  (∀ (i : Instr) (rest : List Word), i.wf = true → i.hasOwnWord = true → decode (encode i ++ rest) = .ok (i, rest)) ∧
  (∀ (w : BitVec 3) (d a : Code) (r : BitVec 5) (b : Src) (rest : List Word),
    decode (encode (.fifopCommit w d r a) ++ rest) = .ok (.fifopReserve w d r a, rest) ∧
    decode (encode (.fifopFree w d r a) ++ rest) = .ok (.fifopClaim w d r a, rest) ∧
    (b.ok = true → ∀ i ∈ [Instr.sfqPop w d a b, .sfqReplay w d a b, .sfqDiscard w d a b],
      decode (encode i ++ rest) = .ok (.sfqPeek w d a b, rest)))

/-- The canonical form of memory, which equal memories share, outlives every step. -/
def Obligations.StepKeepsMemoryCanonical : Prop :=
  ∀ s t : State, s.memOk → step s = .next t → t.memOk

/-- Registers of the management block, by offset and size, and what they read after reset (R434, R435, R439, R441, R446,
R451); the last two accesses meet no register (R426). -/
def resetRegisters : List (Nat × Nat × BitVec 64) :=
  [(0x10000, 4, 0x00FF0000), (0x40000, 4, 0x00640000), (0x40008, 4, 0x12181E28), (0x41000, 4, 0x001FFF80), (0x44000, 8, 0),
   (0x50000, 4, 0x2), (0x50008, 8, 0x0E100000), (0x50010, 4, 0x640), (0x50002, 4, 0), (0x10108, 4, 0)]

/-- R275, R426, R434, R435, R439, R441, R443, R446, R449 and R451: what reset leaves, as far as the spec says it, and what the
management block's registers then read. -/
def Obligations.ResetState : Prop :=
  State.reset.memOk ∧ State.reset.mem = [] ∧ (∀ c, coreOf State.reset c = {}) ∧ (∀ c, (coreOf State.reset c).bankcfg = 0) ∧
  State.reset.contexts = [] ∧ State.reset.launches = [] ∧ State.reset.images = [] ∧
  State.reset.firmware.takeovers = 0 ∧ State.reset.firmware.vector = 0 ∧ State.reset.firmware.irqEn = false ∧
  State.reset.firmware.standby = true ∧ State.reset.firmware.active = false ∧ State.reset.power.groups = 0 ∧
  State.reset.power.clkMhz = 3600 ∧ State.reset.power.limit = 1600 ∧ State.reset.power.temp = 0 ∧ State.reset.power.power = 0 ∧
  State.reset.timebase = 0 ∧ State.reset.log = {} ∧
  (∀ k, eyeCtlOf State.reset k = 0x00640000 ∧ eyeThrOf State.reset k = 0x12181E28) ∧
  (∀ k, (cellGet ({} : Eye) k State.reset.hbm.eyes).minw = 0xFF ∧ (cellGet ({} : Eye) k State.reset.hbm.eyes).valid = false) ∧
  (∀ k, (cellGet ({} : Spare) k State.reset.hbm.spares).st = 0) ∧
  (∀ e ∈ resetRegisters, manageRead State.reset e.1 e.2.1 = e.2.2)

/-- R92, R97 and R101: some words, and the instructions they stand for. -/
def Obligations.WordsDecodeAsTheSpecSays : Prop :=
  (∀ e ∈ knownWords, decode e.1 = .ok (e.2, []) ∧ encode e.2 = e.1) ∧
  decodeTableWord 32 0x10014063 = some (.ldM 0 5 0 .plain 0x63) ∧
  decodeWords 0x02200000 0 0 = .ok (.pand 0 0 0 0) ∧ decodeWords 0x02200008 0 0 = .error .reservedField ∧
  (∀ x : BitVec 32, (x.extractLsb' 21 8).toNat ∈ unassignedOpcodes → decodeWords x 0 0 = .ok (.unassignedOpcode x))

/-- R92, R97, R99, R265, R267, R268 and R353: at a quadrant's turn the selected fragment, where no other issues with it,
runs what decodes from the words at its PC: the step is that instruction's, with the issue accounted for before it and a wait
noted after it; a quadrant in the second issue cycle of the instruction before issues nothing (R17), and passes over its ready
fragments (R266). At an event's turn the step is the event's, a core's turns, a grant and a read of the management block or of a
post page are made as they come, and with no turn left the step begins the next cycle. An address of a literal word beyond the last
canonical one wraps (log entry 124). -/
def Obligations.StepRunsTheDecodedInstruction : Prop :=
  ∀ (s : State) (rest : List Turn), s.power.on = true →
    (s.agenda = [] → step s = .next (newCycle s)) ∧
    (∀ x i, s.agenda = .event x i :: rest → step s = exec i { s with agenda := rest, subject := x, focus := none }) ∧
    (∀ core, (s.agenda = .arrange core :: rest →
        step s = .next { s with agenda := arrangedTurns { s with agenda := rest } core ++ rest }) ∧
      (s.agenda = .work core :: rest → step s = .next (engineWork { s with agenda := rest } core))) ∧
    (∀ g n x, s.agenda = .grant g n x :: rest → step s = .next (grantPeer { s with agenda := rest } g n x)) ∧
    (∀ off size, s.agenda = .manageRead off size :: rest →
      step s = .next (emit { s with agenda := rest } (.registerRead off size (manageRead s off size)))) ∧
    (∀ page off size, s.agenda = .postRead page off size :: rest → step s = .next (if s.firmware.booted then
      emit { s with agenda := rest } (.postRead page off size (postRead s page off size)) else { s with agenda := rest })) ∧
    (∀ core q, let s0 := { s with agenda := rest }
      let l := readyList s0 core q
      s.agenda = .issue core q :: rest → (s0.cycle < cellGet 0 q (coreOf s0 core).busy ∨ pickIssue l = none) →
        step s = .next (accountIssue s0 core q l [])) ∧
    (∀ core q p, s.agenda = .issue core q :: rest →
      let s0 := { s with agenda := rest }
      let l := readyList s0 core q
      let s1 := accountIssue (if takesTwo s0 core p then
        modCore s0 core fun k => { k with busy := cellSet 0 q (s0.cycle + 2) k.busy } else s0) core q l [p]
      cellGet 0 q (coreOf s0 core).busy ≤ s0.cycle → pickIssue l = some p → fusionPartner s0 core l p = none → l.filter (fun x => x.ref == p.ref) = [p] →
      ∀ c, placeCtx s1 core p.ref = some c →
      (slideMoves c.blk.hdr c.wave c.frag.members 0 = false ∨ formsWindow s1 c = true) →
      c.frag.pc.toNat < 2 ^ 57 → ∀ s2 x i, fetchWord s1 core p.ref.block c.blk c.frag.pc.toNat 0x8000 = .ok s2 x →
      (∀ i', (literalCount x = 0 → decodeWords x 0 0 = .ok i' → fetchInstr s1 core p.ref.block c.blk c.frag.pc.toNat = .ok s2 i' x) ∧
        (∀ s3 y, literalCount x = 1 → fetchWord s2 core p.ref.block c.blk (c.frag.pc.toNat + 4) 0x8002 = .ok s3 y →
          decodeWords x y 0 = .ok i' → fetchInstr s1 core p.ref.block c.blk c.frag.pc.toNat = .ok s3 i' x)) ∧
      (∀ s3, fetchInstr s1 core p.ref.block c.blk c.frag.pc.toNat = .ok s3 i x → pcMatch s3 c = none →
        (∀ t, exec i (focusOn s3 c i) = .next t → step s = .next (noteWait t core p.ref)) ∧
        (∀ e, exec i (focusOn s3 c i) = .fault e → step s = .fault e) ∧
        (∀ e, exec i (focusOn s3 c i) = .refused e → step s = .refused e))) ∧
    (∀ core block b va salt t pa, translate s core b.asid (BitVec.ofNat 64 (va % 2 ^ 57)) accExec salt = (t, .ok pa) →
      poisoned t pa 4 = false → cellGet [] (pa / 4) t.overwritten = [] →
      ∃ u, fetchWord s core block b va salt = .ok u (wordOfBytes (physRead t (some (core, block)) pa 4)) ∧ u.mem = t.mem)

/-- R100, R101, R105 and R167: what comes before an encoded form's own rules. A form that its fragment's level or state
forbids parks the whole fragment, a collective that is not released waits, and an early read under CHECK faults ACTIVE; an
unassigned opcode is always illegal. Without a fragment in focus nothing issues: that stop is the model's own. -/
def Obligations.DecodeChecksComeFirst : Prop :=
  (∀ (i : Instr) (s : State), encode i ≠ [] → ctxOf s = none → exec i s = .fault .noFragment) ∧
  (∀ (i : Instr) (s : State) (c : Ctx), encode i ≠ [] → ctxOf s = some c →
    (privilegedOpcode (opcodeOf (firstWord i)) = true → c.frag.super = false →
      exec i s = .next (parkAll c s 0x02 ((firstWord i).setWidth 64))) ∧
    ((privilegedOpcode (opcodeOf (firstWord i)) = false ∨ c.frag.super = true) →
      (decodeOk c.blk.hdr c.frag.mode i = false → exec i s = .next (parkAll c s 0x01 ((firstWord i).setWidth 64))) ∧
      (decodeOk c.blk.hdr c.frag.mode i = true →
        (collective i (modeType c.frag.mode) = true → c.frag.released = false → exec i s = .next (waitCollective s c)) ∧
        ((collective i (modeType c.frag.mode) = false ∨ c.frag.released = true) → ∀ k, modeCheck c.frag.mode = true →
          issueActive s c ≠ 0 → earlyRead s c i = some k → exec i s = .next (takeFault c
            { code := 0x03, lanes := issueActive s c, info := BitVec.ofNat 64 (if k < 128 then k else 0x7F) } s s))))) ∧
  (∀ (x : BitVec 32) (s : State) (c : Ctx), Instr.wf (.unassignedOpcode x) = true → ctxOf s = some c →
    exec (.unassignedOpcode x) s = .next (parkAll c s 0x01 (x.setWidth 64)))

/-- R9, R242, R261 and R341 to R343: taking a fault. The supervisor's stops its core's Darner; without a free Hamper entry the
fragment waits; a fault of every member parks the fragment as it stands, and a lane fault detaches its lanes as a fragment
of their own at the faulting instruction; either has its entry, with the code, the lanes, ACTIVE, FLT.INFO, the access kind
and the PC. No byte of memory changes. -/
def Obligations.TakingAFault : Prop :=
  ∀ (c : Ctx) (fi : FaultInfo) (before after : State), fi.pc = none →
    let place := c.ref
    let k := coreOf before c.core
    let lanes := fi.lanes &&& c.frag.members
    let t := takeFault c fi before after
    let entry (idx frag : Nat) (reserved : Bool) (m : Lanes) : HamperEntry :=
      ⟨idx, if fi.code = 0x07 ∨ (fi.code = 0x08 ∧ fi.walk = true) then .hw else .queued, place.block, place.wave, frag, fi.code, m,
       fi.active.getD (issueActive before c), fi.info, fi.access, c.frag.pc, k.nextAge, reserved⟩
    (place.block = 64 → t.mem = before.mem ∧ (coreOf t c.core).darner.stopped = some (fi.code, c.frag.pc, fi.info) ∧
      t.outbox = .darnerReport c.core fi.code c.frag.pc fi.info :: before.outbox) ∧
    (place.block ≠ 64 → hamperSlot k place.block place.wave = none → t.mem = before.mem ∧
      ∀ f, fragOf before c.core place = some f → fragOf t c.core place =
        some { f with st := .waitEvent .hamper, waitSince := before.timebase, released := false }) ∧
    (place.block ≠ 64 → ∀ idx reserved, hamperSlot k place.block place.wave = some (idx, reserved) →
      ((fi.whole = true ∨ lanes = c.frag.members) → t.mem = before.mem ∧
        (coreOf t c.core).hamper = k.hamper ++ [entry idx place.frag reserved c.frag.members] ∧
        (coreOf t c.core).nextAge = k.nextAge + 1 ∧ (∀ n, n ≠ c.core → coreOf t n = coreOf before n) ∧
        ((fragOf before c.core place = some c.frag) → ∃ g, fragOf t c.core place = some g ∧ g.st = .parked idx ∧
          g.pc = c.frag.pc ∧ g.members = c.frag.members ∧ g.exec = c.frag.exec ∧ g.mode = c.frag.mode ∧ g.s = c.frag.s)) ∧
      (fi.whole = false → lanes ≠ c.frag.members → lanes = 0 → t = after) ∧
      (fi.whole = false → lanes ≠ c.frag.members → lanes ≠ 0 → t.mem = after.mem ∧
        (coreOf t c.core).hamper = (coreOf after c.core).hamper ++ [entry idx c.wave.nextFrag reserved lanes] ∧
        ∀ w f, waveOf after c.core place.block place.wave = some w → w.frag? place.frag = some f → ∃ v g h,
          waveOf t c.core place.block place.wave = some v ∧ v.nextFrag = c.wave.nextFrag + 1 ∧
          v.frag? place.frag = some g ∧ v.frags.getLast? = some h ∧
          g.members = f.members &&& ~~~ lanes ∧ g.exec = f.exec &&& ~~~ lanes ∧ g.pc = f.pc ∧ g.st = f.st ∧
          h.id = c.wave.nextFrag ∧ h.members = lanes ∧ h.exec = lanes ∧ h.st = .parked idx ∧ h.pc = c.frag.pc ∧
          h.mode = c.frag.mode ∧ h.s = c.frag.s))

/-- R31: what a form of one destination leaves unchanged, while no enabled exception can arise: everything but the cells of
its destination in the lanes of ACTIVE, or of EXEC for SEL (R142), or its s-register or predicate, the PC, and the fragment's issue state. -/
def Obligations.RegisterFormsFrame : Prop :=
  ∀ i s c t l, destinations (modeType c.frag.mode) i = some l → Issues i s c → modeTrapEn c.frag.mode = 0 →
    exec i s = .next t →
    t = { s with cores := t.cores, freeCtr := t.freeCtr } ∧ (∀ a, t.byteAt a = s.byteAt a) ∧
    (∀ n, n ≠ c.core → coreOf t n = coreOf s n) ∧
    coreOf t c.core = { coreOf s c.core with blocks := (coreOf t c.core).blocks } ∧
    (∀ h, h ≠ c.ref.block → blockOf t c.core h = blockOf s c.core h) ∧
    ∃ b w f, blockOf t c.core c.ref.block = some b ∧ b = { c.blk with waves := b.waves } ∧
      (∀ n, n ≠ c.ref.wave → b.wave? n = c.blk.wave? n) ∧ b.wave? c.ref.wave = some w ∧
      w = { c.wave with regs := w.regs, preds := w.preds, named := w.named, frags := w.frags } ∧
      (∀ n, n ≠ c.ref.frag → w.frag? n = c.wave.frag? n) ∧ w.frag? c.ref.frag = some f ∧
      f = { c.frag with pc := f.pc, st := .run, s := f.s, stallUntil := s.cycle + 1 + stallCount i, prods := f.prods,
                        hist := f.hist, noCompare := false, sbBound := none, copied := none, drainBound := none, moved := false,
                        released := false } ∧
      (∀ cell, (∀ n ∈ l, n < 64 → ∀ lane, (writtenLanes s c i).getLsbD lane = true → cell ≠ c.wave.cell lane n) →
        cellGet {} cell w.regs = cellGet {} cell c.wave.regs) ∧
      (∀ k, 64 + k ∉ l → cellGet {} k f.s = cellGet {} k c.frag.s) ∧
      (∀ k, 128 + k ∉ l → cellGet 0 k w.preds = cellGet 0 k c.wave.preds) ∧
      (cellsWf 0 c.wave.preds = true → ∀ k lane, (issueActive s c).getLsbD lane = false →
        (cellGet 0 k w.preds).getLsbD lane = (cellGet 0 k c.wave.preds).getLsbD lane)

/-- R28 and R31: a completed result stands in its destination: in a window register, or a pair, of each lane of ACTIVE, in an
s-register for a uniform form; and a predicate holds its new value in ACTIVE. -/
def Obligations.ResultsReadBack : Prop :=
  ∀ (i : Instr) (s : State) (c : Ctx) (d : Code) (wide : Bool) (ty : Nat) (f : Nat → BitVec 64 × Tag) (p : Nat) (v : Lanes),
    ctxOf s = some c →
    let t := complete c i s (resultWrites s c i d wide ty f)
    let u := complete c i s (writePred c p (issueActive s c) v)
    (uniformIssue i = true → 64 ≤ d.toNat → d.toNat < 96 → cellsWf {} c.frag.s = true →
      ∃ g, fragOf t c.core c.ref = some g ∧ cellGet {} (d.toNat - 64) g.s =
        ⟨if wide then (f 0).1 else heldInS ty (f 0).1, (f 0).2⟩) ∧
    (uniformIssue i = false → d.toNat < 64 → cellsWf {} c.wave.regs = true →
      ∃ w, waveOf t c.core c.ref.block c.ref.wave = some w ∧ ∀ lane, (issueActive s c).getLsbD lane = true →
        (wide = false → cellGet {} (c.wave.cell lane d.toNat) w.regs = ⟨heldIn32 ty (f lane).1, (f lane).2⟩) ∧
        (wide = true → cellGet {} (c.wave.cell lane d.toNat) w.regs = ⟨(f lane).1.extractLsb' 0 32, (f lane).2⟩ ∧
          cellGet {} (c.wave.cell lane (d.toNat + 1)) w.regs = ⟨(f lane).1.extractLsb' 32 32, (f lane).2⟩)) ∧
    (p < 7 → cellsWf 0 c.wave.preds = true → ∃ w, waveOf u c.core c.ref.block c.ref.wave = some w ∧
      ∀ lane, (predOf w p).getLsbD lane =
        if (issueActive s c).getLsbD lane then v.getLsbD lane else (predOf c.wave p).getLsbD lane)
end

