-- ==== Sys2Proof/Laws/Cells.lean ====
section
/-! SUPPORT. The sparse tables: reading after writing, and the canonical form, which every write keeps and which makes equal
tables equal lists. -/

namespace Sys2Proof.Machine

variable {α : Type} [DecidableEq α] {d : α}

theorem cellsWfFrom_mono {l : Cells α} {lo hi : Nat} (h : cellsWfFrom d hi l = true) (k : lo ≤ hi) :
    cellsWfFrom d lo l = true := by
  cases l with
  | nil => rfl
  | cons e r =>
    simp only [cellsWfFrom, Bool.and_eq_true, decide_eq_true_eq] at h ⊢
    exact ⟨⟨by omega, h.1.2⟩, h.2⟩

/-- A key below the table's least key is unlisted. -/
theorem cellGet_below {l : Cells α} {lo k : Nat} (h : cellsWfFrom d lo l = true) (hk : k < lo) : cellGet d k l = d := by
  induction l generalizing lo with
  | nil => rfl
  | cons e r ih =>
    simp [cellsWfFrom] at h
    rw [cellGet, if_neg (by omega)]
    exact ih h.2 (by omega)

theorem cellsWfFrom_cellSet {l : Cells α} {lo k : Nat} {v : α} (h : cellsWfFrom d lo l = true) (hk : lo ≤ k) :
    cellsWfFrom d lo (cellSet d k v l) = true := by
  induction l generalizing lo with
  | nil => by_cases hv : v = d <;> simp [cellSet, hv, cellsWfFrom, hk]
  | cons e r ih =>
    obtain ⟨a, x⟩ := e
    simp only [cellsWfFrom, Bool.and_eq_true, bne_iff_ne, decide_eq_true_eq] at h
    rw [cellSet]
    split
    · split
      · simp [cellsWfFrom, h]
      · simp only [cellsWfFrom, Bool.and_eq_true, bne_iff_ne, decide_eq_true_eq]
        exact ⟨⟨hk, ‹_›⟩, ⟨by omega, h.1.2⟩, h.2⟩
    · split
      · subst_vars
        split
        · exact cellsWfFrom_mono h.2 (by omega)
        · simp [cellsWfFrom, *]
      · simp only [cellsWfFrom, Bool.and_eq_true, bne_iff_ne, decide_eq_true_eq]
        exact ⟨h.1, ih h.2 (by omega)⟩

/-- A write keeps the canonical form. -/
theorem cellsWf_cellSet {l : Cells α} {k : Nat} {v : α} (h : cellsWf d l = true) : cellsWf d (cellSet d k v l) = true :=
  cellsWfFrom_cellSet h (Nat.zero_le k)

/-- Several writes keep the canonical form. -/
theorem cellsWf_cellSetAll {l : Cells α} {ws : List (Nat × α)} (h : cellsWf d l = true) :
    cellsWf d (cellSetAll d ws l) = true := by
  induction ws generalizing l with
  | nil => exact h
  | cons w r ih => exact ih (cellsWf_cellSet h)

/-- Leaving out entries keeps the canonical form. -/
theorem cellsWfFrom_filter {l : Cells α} {lo : Nat} (p : Nat × α → Bool) (h : cellsWfFrom d lo l = true) :
    cellsWfFrom d lo (l.filter p) = true := by
  induction l generalizing lo with
  | nil => rfl
  | cons e r ih =>
    simp only [cellsWfFrom, Bool.and_eq_true, bne_iff_ne, decide_eq_true_eq] at h
    rw [List.filter_cons]
    split
    · simp only [cellsWfFrom, Bool.and_eq_true, bne_iff_ne, decide_eq_true_eq]
      exact ⟨h.1, ih h.2⟩
    · exact cellsWfFrom_mono (ih h.2) (by omega)

theorem cellsWf_filter {l : Cells α} (p : Nat × α → Bool) (h : cellsWf d l = true) : cellsWf d (l.filter p) = true :=
  cellsWfFrom_filter p h

theorem cellGet_cellSet_from {l : Cells α} {lo : Nat} (h : cellsWfFrom d lo l = true) (k j : Nat) (v : α) :
    cellGet d j (cellSet d k v l) = if j = k then v else cellGet d j l := by
  induction l generalizing lo with
  | nil =>
    by_cases hv : v = d
    · simp [cellSet, hv, cellGet]
    · simp [cellSet, hv, cellGet, eq_comm]
  | cons e r ih =>
    obtain ⟨a, x⟩ := e
    simp only [cellsWfFrom, Bool.and_eq_true, bne_iff_ne, decide_eq_true_eq] at h
    rw [cellSet]
    split
    · split
      · by_cases hj : j = k
        · subst_vars
          rw [if_pos rfl, cellGet, if_neg (by omega)]
          exact cellGet_below h.2 (by omega)
        · rw [if_neg hj]
      · simp [cellGet, eq_comm]
    · split
      · rename_i hka
        split
        · by_cases hj : j = k
          · rw [if_pos hj, ‹v = d›]
            exact cellGet_below h.2 (by omega)
          · rw [if_neg hj, cellGet, if_neg (by omega)]
        · by_cases hj : j = k
          · simp [cellGet, hj]
          · rw [if_neg hj, cellGet, if_neg (Ne.symm hj), cellGet, if_neg (by omega)]
      · rw [cellGet, ih h.2, cellGet]
        by_cases hj : j = k
        · simp [hj, Ne.symm ‹¬k = a›]
        · simp [hj]

/-- READ AFTER WRITE: the key written reads as the value, every other key as before. -/
theorem cellGet_cellSet {l : Cells α} (h : cellsWf d l = true) (k j : Nat) (v : α) :
    cellGet d j (cellSet d k v l) = if j = k then v else cellGet d j l := cellGet_cellSet_from h k j v

/-- Keys that no write names read as before. -/
theorem cellGet_cellSetAll_of_notMem {l : Cells α} {ws : List (Nat × α)} {j : Nat} (h : cellsWf d l = true)
    (hj : ∀ w ∈ ws, w.1 ≠ j) : cellGet d j (cellSetAll d ws l) = cellGet d j l := by
  induction ws generalizing l with
  | nil => rfl
  | cons w r ih =>
    rw [cellSetAll, List.foldl_cons]
    rw [show (r.foldl (fun m w => cellSet d w.1 w.2 m) (cellSet d w.1 w.2 l)) = cellSetAll d r (cellSet d w.1 w.2 l) from rfl]
    rw [ih (cellsWf_cellSet h) fun x hx => hj x (List.mem_cons_of_mem _ hx), cellGet_cellSet h,
      if_neg (Ne.symm (hj w List.mem_cons_self))]

/-- Two canonical tables that read alike are equal. -/
theorem cells_ext_from {l m : Cells α} {lo : Nat} (hl : cellsWfFrom d lo l = true) (hm : cellsWfFrom d lo m = true)
    (h : ∀ k, cellGet d k l = cellGet d k m) : l = m := by
  induction l generalizing lo m with
  | nil =>
    cases m with
    | nil => rfl
    | cons e r =>
      obtain ⟨b, y⟩ := e
      simp only [cellsWfFrom, Bool.and_eq_true, bne_iff_ne, decide_eq_true_eq] at hm
      have := h b
      simp [cellGet] at this
      exact absurd this.symm hm.1.2
  | cons e r ih =>
    obtain ⟨a, x⟩ := e
    simp only [cellsWfFrom, Bool.and_eq_true, bne_iff_ne, decide_eq_true_eq] at hl
    cases m with
    | nil =>
      have := h a
      simp [cellGet] at this
      exact absurd this hl.1.2
    | cons e' r' =>
      obtain ⟨b, y⟩ := e'
      simp only [cellsWfFrom, Bool.and_eq_true, bne_iff_ne, decide_eq_true_eq] at hm
      have hab : a = b := by
        rcases Nat.lt_trichotomy a b with hlt | heq | hgt
        · have := h a
          rw [cellGet, if_pos rfl, cellGet, if_neg (by omega), cellGet_below hm.2 (by omega)] at this
          exact absurd this hl.1.2
        · exact heq
        · have := h b
          rw [cellGet, if_neg (by omega), cellGet_below hl.2 (by omega), cellGet, if_pos rfl] at this
          exact absurd this.symm hm.1.2
      subst hab
      have hxy : x = y := by simpa [cellGet] using h a
      subst hxy
      rw [ih hl.2 hm.2 fun k => ?_]
      by_cases hk : k = a
      · rw [hk, cellGet_below hl.2 (by omega), cellGet_below hm.2 (by omega)]
      · simpa [cellGet, Ne.symm hk] using h k

theorem cells_ext {l m : Cells α} (hl : cellsWf d l = true) (hm : cellsWf d m = true)
    (h : ∀ k, cellGet d k l = cellGet d k m) : l = m := cells_ext_from hl hm h

/-! ### Bytes -/

/-- Writing bytes keeps the canonical form of memory. -/
theorem memWf_writeBytes {m : Cells Byte} {a : Nat} {bs : List Byte} (h : memWf m = true) :
    memWf (writeBytes m a bs) = true := by
  induction bs generalizing m a with
  | nil => exact h
  | cons b r ih => exact ih (cellsWf_cellSet h)

/-- READ AFTER WRITE of bytes: each address within them reads its byte, every other address as before. -/
theorem cellGet_writeBytes {m : Cells Byte} (h : memWf m = true) (a j : Nat) (bs : List Byte) :
    cellGet unwrittenByte j (writeBytes m a bs) =
      if a ≤ j then (bs[j - a]?).getD (cellGet unwrittenByte j m) else cellGet unwrittenByte j m := by
  induction bs generalizing m a with
  | nil => simp [writeBytes]
  | cons b r ih =>
    rw [writeBytes, ih (cellsWf_cellSet h), cellGet_cellSet h]
    rcases Nat.lt_trichotomy j a with hlt | heq | hgt
    · rw [if_neg (by omega), if_neg (by omega), if_neg (by omega)]
    · subst heq
      rw [if_neg (by omega), if_pos rfl, if_pos (Nat.le_refl _), Nat.sub_self]
      rfl
    · have hne : j ≠ a := by omega
      rw [if_pos (by omega : a + 1 ≤ j), if_pos (by omega : a ≤ j), if_neg hne,
        show j - a = (j - (a + 1)) + 1 by omega, List.getElem?_cons_succ]

/-- Every address outside the bytes written reads as before. -/
theorem cellGet_writeBytes_outside {m : Cells Byte} (h : memWf m = true) {a j : Nat} {bs : List Byte}
    (hj : j < a ∨ a + bs.length ≤ j) : cellGet unwrittenByte j (writeBytes m a bs) = cellGet unwrittenByte j m := by
  rw [cellGet_writeBytes h]
  split
  · rw [List.getElem?_eq_none (by omega)]; rfl
  · rfl

theorem readBytes_length (m : Cells Byte) (a n : Nat) : (readBytes m a n).length = n := by
  induction n generalizing a with
  | zero => rfl
  | succ n ih => simp [readBytes, ih]

theorem readBytes_getElem? (m : Cells Byte) (a n k : Nat) :
    (readBytes m a n)[k]? = if k < n then some (cellGet unwrittenByte (a + k) m) else none := by
  induction n generalizing a k with
  | zero => simp [readBytes]
  | succ n ih =>
    cases k with
    | zero => simp [readBytes]
    | succ k => simp [readBytes, ih, Nat.add_left_comm, Nat.add_comm]

/-- READ AFTER WRITE of a run of bytes. -/
theorem readBytes_writeBytes {m : Cells Byte} (h : memWf m = true) (a : Nat) (bs : List Byte) :
    readBytes (writeBytes m a bs) a bs.length = bs := by
  apply List.ext_getElem?
  intro k
  rw [readBytes_getElem?]
  split
  · rw [cellGet_writeBytes h, if_pos (by omega), show a + k - a = k by omega, List.getElem?_eq_getElem ‹_›]
    rfl
  · rw [List.getElem?_eq_none (by omega)]

theorem leBytes_length (v n : Nat) : (leBytes v n).length = n := by
  induction n generalizing v with
  | zero => rfl
  | succ n ih => simp [leBytes, ih]

/-- A number read from its own bytes, lowest address first (R3). -/
theorem leNat_leBytes (v n : Nat) : leNat (leBytes v n) = v % 256 ^ n := by
  induction n generalizing v with
  | zero => simp [leBytes, leNat, Nat.mod_one]
  | succ n ih =>
    have h256 : (BitVec.ofNat 8 v).toNat = v % 256 := by simp
    rw [leBytes, leNat, ih, h256, Nat.pow_succ, Nat.mul_comm (256 ^ n) 256, Nat.mod_mul]

end Sys2Proof.Machine
end

