-- ==== Sys2Proof/Laws/State.lean ====
section
/-! SUPPORT. What each named update of the state, of a core, a block and a wave leaves in every field: one lemma per field
per update. -/

set_option Elab.async false

namespace Sys2Proof.Machine

section
variable (s : State)
/-! `modCore`. -/
@[simp] theorem modCore_cycle (c : Nat) (f : Core → Core) : (modCore s c f).cycle = s.cycle := rfl
@[simp] theorem modCore_timebase (c : Nat) (f : Core → Core) : (modCore s c f).timebase = s.timebase := rfl
@[simp] theorem modCore_timeFrac (c : Nat) (f : Core → Core) : (modCore s c f).timeFrac = s.timeFrac := rfl
@[simp] theorem modCore_cores (c : Nat) (f : Core → Core) : (modCore s c f).cores = tabSet c (f (coreOf s c)) s.cores := rfl
@[simp] theorem modCore_mem (c : Nat) (f : Core → Core) : (modCore s c f).mem = s.mem := rfl
@[simp] theorem modCore_poison (c : Nat) (f : Core → Core) : (modCore s c f).poison = s.poison := rfl
@[simp] theorem modCore_overwritten (c : Nat) (f : Core → Core) : (modCore s c f).overwritten = s.overwritten := rfl
@[simp] theorem modCore_contexts (c : Nat) (f : Core → Core) : (modCore s c f).contexts = s.contexts := rfl
@[simp] theorem modCore_launches (c : Nat) (f : Core → Core) : (modCore s c f).launches = s.launches := rfl
@[simp] theorem modCore_queues (c : Nat) (f : Core → Core) : (modCore s c f).queues = s.queues := rfl
@[simp] theorem modCore_groups (c : Nat) (f : Core → Core) : (modCore s c f).groups = s.groups := rfl
@[simp] theorem modCore_partitions (c : Nat) (f : Core → Core) : (modCore s c f).partitions = s.partitions := rfl
@[simp] theorem modCore_exactSums (c : Nat) (f : Core → Core) : (modCore s c f).exactSums = s.exactSums := rfl
@[simp] theorem modCore_contributions (c : Nat) (f : Core → Core) : (modCore s c f).contributions = s.contributions := rfl
@[simp] theorem modCore_net (c : Nat) (f : Core → Core) : (modCore s c f).net = s.net := rfl
@[simp] theorem modCore_pageRequests (c : Nat) (f : Core → Core) : (modCore s c f).pageRequests = s.pageRequests := rfl
@[simp] theorem modCore_invalidations (c : Nat) (f : Core → Core) : (modCore s c f).invalidations = s.invalidations := rfl
@[simp] theorem modCore_images (c : Nat) (f : Core → Core) : (modCore s c f).images = s.images := rfl
@[simp] theorem modCore_checkpoints (c : Nat) (f : Core → Core) : (modCore s c f).checkpoints = s.checkpoints := rfl
@[simp] theorem modCore_walkCache (c : Nat) (f : Core → Core) : (modCore s c f).walkCache = s.walkCache := rfl
@[simp] theorem modCore_preempts (c : Nat) (f : Core → Core) : (modCore s c f).preempts = s.preempts := rfl
@[simp] theorem modCore_quarantine (c : Nat) (f : Core → Core) : (modCore s c f).quarantine = s.quarantine := rfl
@[simp] theorem modCore_log (c : Nat) (f : Core → Core) : (modCore s c f).log = s.log := rfl
@[simp] theorem modCore_hbm (c : Nat) (f : Core → Core) : (modCore s c f).hbm = s.hbm := rfl
@[simp] theorem modCore_firmware (c : Nat) (f : Core → Core) : (modCore s c f).firmware = s.firmware := rfl
@[simp] theorem modCore_power (c : Nat) (f : Core → Core) : (modCore s c f).power = s.power := rfl
@[simp] theorem modCore_links (c : Nat) (f : Core → Core) : (modCore s c f).links = s.links := rfl
@[simp] theorem modCore_nextIdent (c : Nat) (f : Core → Core) : (modCore s c f).nextIdent = s.nextIdent := rfl
@[simp] theorem modCore_freeCtr (c : Nat) (f : Core → Core) : (modCore s c f).freeCtr = s.freeCtr := rfl
@[simp] theorem modCore_inputs (c : Nat) (f : Core → Core) : (modCore s c f).inputs = s.inputs := rfl
@[simp] theorem modCore_agenda (c : Nat) (f : Core → Core) : (modCore s c f).agenda = s.agenda := rfl
@[simp] theorem modCore_focus (c : Nat) (f : Core → Core) : (modCore s c f).focus = s.focus := rfl
@[simp] theorem modCore_subject (c : Nat) (f : Core → Core) : (modCore s c f).subject = s.subject := rfl
@[simp] theorem modCore_outbox (c : Nat) (f : Core → Core) : (modCore s c f).outbox = s.outbox := rfl

/-! `modPart`. -/
@[simp] theorem modPart_cycle (c : Nat) (f : Partition → Partition) : (modPart s c f).cycle = s.cycle := rfl
@[simp] theorem modPart_timebase (c : Nat) (f : Partition → Partition) : (modPart s c f).timebase = s.timebase := rfl
@[simp] theorem modPart_timeFrac (c : Nat) (f : Partition → Partition) : (modPart s c f).timeFrac = s.timeFrac := rfl
@[simp] theorem modPart_cores (c : Nat) (f : Partition → Partition) : (modPart s c f).cores = s.cores := rfl
@[simp] theorem modPart_mem (c : Nat) (f : Partition → Partition) : (modPart s c f).mem = s.mem := rfl
@[simp] theorem modPart_poison (c : Nat) (f : Partition → Partition) : (modPart s c f).poison = s.poison := rfl
@[simp] theorem modPart_overwritten (c : Nat) (f : Partition → Partition) : (modPart s c f).overwritten = s.overwritten := rfl
@[simp] theorem modPart_contexts (c : Nat) (f : Partition → Partition) : (modPart s c f).contexts = s.contexts := rfl
@[simp] theorem modPart_launches (c : Nat) (f : Partition → Partition) : (modPart s c f).launches = s.launches := rfl
@[simp] theorem modPart_queues (c : Nat) (f : Partition → Partition) : (modPart s c f).queues = s.queues := rfl
@[simp] theorem modPart_groups (c : Nat) (f : Partition → Partition) : (modPart s c f).groups = s.groups := rfl
@[simp] theorem modPart_partitions (c : Nat) (f : Partition → Partition) : (modPart s c f).partitions = tabSet c (f (partState s c)) s.partitions := rfl
@[simp] theorem modPart_exactSums (c : Nat) (f : Partition → Partition) : (modPart s c f).exactSums = s.exactSums := rfl
@[simp] theorem modPart_contributions (c : Nat) (f : Partition → Partition) : (modPart s c f).contributions = s.contributions := rfl
@[simp] theorem modPart_net (c : Nat) (f : Partition → Partition) : (modPart s c f).net = s.net := rfl
@[simp] theorem modPart_pageRequests (c : Nat) (f : Partition → Partition) : (modPart s c f).pageRequests = s.pageRequests := rfl
@[simp] theorem modPart_invalidations (c : Nat) (f : Partition → Partition) : (modPart s c f).invalidations = s.invalidations := rfl
@[simp] theorem modPart_images (c : Nat) (f : Partition → Partition) : (modPart s c f).images = s.images := rfl
@[simp] theorem modPart_checkpoints (c : Nat) (f : Partition → Partition) : (modPart s c f).checkpoints = s.checkpoints := rfl
@[simp] theorem modPart_walkCache (c : Nat) (f : Partition → Partition) : (modPart s c f).walkCache = s.walkCache := rfl
@[simp] theorem modPart_preempts (c : Nat) (f : Partition → Partition) : (modPart s c f).preempts = s.preempts := rfl
@[simp] theorem modPart_quarantine (c : Nat) (f : Partition → Partition) : (modPart s c f).quarantine = s.quarantine := rfl
@[simp] theorem modPart_log (c : Nat) (f : Partition → Partition) : (modPart s c f).log = s.log := rfl
@[simp] theorem modPart_hbm (c : Nat) (f : Partition → Partition) : (modPart s c f).hbm = s.hbm := rfl
@[simp] theorem modPart_firmware (c : Nat) (f : Partition → Partition) : (modPart s c f).firmware = s.firmware := rfl
@[simp] theorem modPart_power (c : Nat) (f : Partition → Partition) : (modPart s c f).power = s.power := rfl
@[simp] theorem modPart_links (c : Nat) (f : Partition → Partition) : (modPart s c f).links = s.links := rfl
@[simp] theorem modPart_nextIdent (c : Nat) (f : Partition → Partition) : (modPart s c f).nextIdent = s.nextIdent := rfl
@[simp] theorem modPart_freeCtr (c : Nat) (f : Partition → Partition) : (modPart s c f).freeCtr = s.freeCtr := rfl
@[simp] theorem modPart_inputs (c : Nat) (f : Partition → Partition) : (modPart s c f).inputs = s.inputs := rfl
@[simp] theorem modPart_agenda (c : Nat) (f : Partition → Partition) : (modPart s c f).agenda = s.agenda := rfl
@[simp] theorem modPart_focus (c : Nat) (f : Partition → Partition) : (modPart s c f).focus = s.focus := rfl
@[simp] theorem modPart_subject (c : Nat) (f : Partition → Partition) : (modPart s c f).subject = s.subject := rfl
@[simp] theorem modPart_outbox (c : Nat) (f : Partition → Partition) : (modPart s c f).outbox = s.outbox := rfl

/-! `modQueue`. -/
@[simp] theorem modQueue_cycle (c : Nat) (f : Queue → Queue) : (modQueue s c f).cycle = s.cycle := rfl
@[simp] theorem modQueue_timebase (c : Nat) (f : Queue → Queue) : (modQueue s c f).timebase = s.timebase := rfl
@[simp] theorem modQueue_timeFrac (c : Nat) (f : Queue → Queue) : (modQueue s c f).timeFrac = s.timeFrac := rfl
@[simp] theorem modQueue_cores (c : Nat) (f : Queue → Queue) : (modQueue s c f).cores = s.cores := rfl
@[simp] theorem modQueue_mem (c : Nat) (f : Queue → Queue) : (modQueue s c f).mem = s.mem := rfl
@[simp] theorem modQueue_poison (c : Nat) (f : Queue → Queue) : (modQueue s c f).poison = s.poison := rfl
@[simp] theorem modQueue_overwritten (c : Nat) (f : Queue → Queue) : (modQueue s c f).overwritten = s.overwritten := rfl
@[simp] theorem modQueue_contexts (c : Nat) (f : Queue → Queue) : (modQueue s c f).contexts = s.contexts := rfl
@[simp] theorem modQueue_launches (c : Nat) (f : Queue → Queue) : (modQueue s c f).launches = s.launches := rfl
@[simp] theorem modQueue_queues (c : Nat) (f : Queue → Queue) : (modQueue s c f).queues = tabSet c (f (queueOf s c)) s.queues := rfl
@[simp] theorem modQueue_groups (c : Nat) (f : Queue → Queue) : (modQueue s c f).groups = s.groups := rfl
@[simp] theorem modQueue_partitions (c : Nat) (f : Queue → Queue) : (modQueue s c f).partitions = s.partitions := rfl
@[simp] theorem modQueue_exactSums (c : Nat) (f : Queue → Queue) : (modQueue s c f).exactSums = s.exactSums := rfl
@[simp] theorem modQueue_contributions (c : Nat) (f : Queue → Queue) : (modQueue s c f).contributions = s.contributions := rfl
@[simp] theorem modQueue_net (c : Nat) (f : Queue → Queue) : (modQueue s c f).net = s.net := rfl
@[simp] theorem modQueue_pageRequests (c : Nat) (f : Queue → Queue) : (modQueue s c f).pageRequests = s.pageRequests := rfl
@[simp] theorem modQueue_invalidations (c : Nat) (f : Queue → Queue) : (modQueue s c f).invalidations = s.invalidations := rfl
@[simp] theorem modQueue_images (c : Nat) (f : Queue → Queue) : (modQueue s c f).images = s.images := rfl
@[simp] theorem modQueue_checkpoints (c : Nat) (f : Queue → Queue) : (modQueue s c f).checkpoints = s.checkpoints := rfl
@[simp] theorem modQueue_walkCache (c : Nat) (f : Queue → Queue) : (modQueue s c f).walkCache = s.walkCache := rfl
@[simp] theorem modQueue_preempts (c : Nat) (f : Queue → Queue) : (modQueue s c f).preempts = s.preempts := rfl
@[simp] theorem modQueue_quarantine (c : Nat) (f : Queue → Queue) : (modQueue s c f).quarantine = s.quarantine := rfl
@[simp] theorem modQueue_log (c : Nat) (f : Queue → Queue) : (modQueue s c f).log = s.log := rfl
@[simp] theorem modQueue_hbm (c : Nat) (f : Queue → Queue) : (modQueue s c f).hbm = s.hbm := rfl
@[simp] theorem modQueue_firmware (c : Nat) (f : Queue → Queue) : (modQueue s c f).firmware = s.firmware := rfl
@[simp] theorem modQueue_power (c : Nat) (f : Queue → Queue) : (modQueue s c f).power = s.power := rfl
@[simp] theorem modQueue_links (c : Nat) (f : Queue → Queue) : (modQueue s c f).links = s.links := rfl
@[simp] theorem modQueue_nextIdent (c : Nat) (f : Queue → Queue) : (modQueue s c f).nextIdent = s.nextIdent := rfl
@[simp] theorem modQueue_freeCtr (c : Nat) (f : Queue → Queue) : (modQueue s c f).freeCtr = s.freeCtr := rfl
@[simp] theorem modQueue_inputs (c : Nat) (f : Queue → Queue) : (modQueue s c f).inputs = s.inputs := rfl
@[simp] theorem modQueue_agenda (c : Nat) (f : Queue → Queue) : (modQueue s c f).agenda = s.agenda := rfl
@[simp] theorem modQueue_focus (c : Nat) (f : Queue → Queue) : (modQueue s c f).focus = s.focus := rfl
@[simp] theorem modQueue_subject (c : Nat) (f : Queue → Queue) : (modQueue s c f).subject = s.subject := rfl
@[simp] theorem modQueue_outbox (c : Nat) (f : Queue → Queue) : (modQueue s c f).outbox = s.outbox := rfl

/-! `modGroup`. -/
@[simp] theorem modGroup_cycle (c : Nat) (f : Group → Group) : (modGroup s c f).cycle = s.cycle := rfl
@[simp] theorem modGroup_timebase (c : Nat) (f : Group → Group) : (modGroup s c f).timebase = s.timebase := rfl
@[simp] theorem modGroup_timeFrac (c : Nat) (f : Group → Group) : (modGroup s c f).timeFrac = s.timeFrac := rfl
@[simp] theorem modGroup_cores (c : Nat) (f : Group → Group) : (modGroup s c f).cores = s.cores := rfl
@[simp] theorem modGroup_mem (c : Nat) (f : Group → Group) : (modGroup s c f).mem = s.mem := rfl
@[simp] theorem modGroup_poison (c : Nat) (f : Group → Group) : (modGroup s c f).poison = s.poison := rfl
@[simp] theorem modGroup_overwritten (c : Nat) (f : Group → Group) : (modGroup s c f).overwritten = s.overwritten := rfl
@[simp] theorem modGroup_contexts (c : Nat) (f : Group → Group) : (modGroup s c f).contexts = s.contexts := rfl
@[simp] theorem modGroup_launches (c : Nat) (f : Group → Group) : (modGroup s c f).launches = s.launches := rfl
@[simp] theorem modGroup_queues (c : Nat) (f : Group → Group) : (modGroup s c f).queues = s.queues := rfl
@[simp] theorem modGroup_groups (c : Nat) (f : Group → Group) : (modGroup s c f).groups = tabSet c (f (groupOf s c)) s.groups := rfl
@[simp] theorem modGroup_partitions (c : Nat) (f : Group → Group) : (modGroup s c f).partitions = s.partitions := rfl
@[simp] theorem modGroup_exactSums (c : Nat) (f : Group → Group) : (modGroup s c f).exactSums = s.exactSums := rfl
@[simp] theorem modGroup_contributions (c : Nat) (f : Group → Group) : (modGroup s c f).contributions = s.contributions := rfl
@[simp] theorem modGroup_net (c : Nat) (f : Group → Group) : (modGroup s c f).net = s.net := rfl
@[simp] theorem modGroup_pageRequests (c : Nat) (f : Group → Group) : (modGroup s c f).pageRequests = s.pageRequests := rfl
@[simp] theorem modGroup_invalidations (c : Nat) (f : Group → Group) : (modGroup s c f).invalidations = s.invalidations := rfl
@[simp] theorem modGroup_images (c : Nat) (f : Group → Group) : (modGroup s c f).images = s.images := rfl
@[simp] theorem modGroup_checkpoints (c : Nat) (f : Group → Group) : (modGroup s c f).checkpoints = s.checkpoints := rfl
@[simp] theorem modGroup_walkCache (c : Nat) (f : Group → Group) : (modGroup s c f).walkCache = s.walkCache := rfl
@[simp] theorem modGroup_preempts (c : Nat) (f : Group → Group) : (modGroup s c f).preempts = s.preempts := rfl
@[simp] theorem modGroup_quarantine (c : Nat) (f : Group → Group) : (modGroup s c f).quarantine = s.quarantine := rfl
@[simp] theorem modGroup_log (c : Nat) (f : Group → Group) : (modGroup s c f).log = s.log := rfl
@[simp] theorem modGroup_hbm (c : Nat) (f : Group → Group) : (modGroup s c f).hbm = s.hbm := rfl
@[simp] theorem modGroup_firmware (c : Nat) (f : Group → Group) : (modGroup s c f).firmware = s.firmware := rfl
@[simp] theorem modGroup_power (c : Nat) (f : Group → Group) : (modGroup s c f).power = s.power := rfl
@[simp] theorem modGroup_links (c : Nat) (f : Group → Group) : (modGroup s c f).links = s.links := rfl
@[simp] theorem modGroup_nextIdent (c : Nat) (f : Group → Group) : (modGroup s c f).nextIdent = s.nextIdent := rfl
@[simp] theorem modGroup_freeCtr (c : Nat) (f : Group → Group) : (modGroup s c f).freeCtr = s.freeCtr := rfl
@[simp] theorem modGroup_inputs (c : Nat) (f : Group → Group) : (modGroup s c f).inputs = s.inputs := rfl
@[simp] theorem modGroup_agenda (c : Nat) (f : Group → Group) : (modGroup s c f).agenda = s.agenda := rfl
@[simp] theorem modGroup_focus (c : Nat) (f : Group → Group) : (modGroup s c f).focus = s.focus := rfl
@[simp] theorem modGroup_subject (c : Nat) (f : Group → Group) : (modGroup s c f).subject = s.subject := rfl
@[simp] theorem modGroup_outbox (c : Nat) (f : Group → Group) : (modGroup s c f).outbox = s.outbox := rfl

/-! `modContext`. -/
@[simp] theorem modContext_cycle (c : Nat) (f : Context → Context) : (modContext s c f).cycle = s.cycle := rfl
@[simp] theorem modContext_timebase (c : Nat) (f : Context → Context) : (modContext s c f).timebase = s.timebase := rfl
@[simp] theorem modContext_timeFrac (c : Nat) (f : Context → Context) : (modContext s c f).timeFrac = s.timeFrac := rfl
@[simp] theorem modContext_cores (c : Nat) (f : Context → Context) : (modContext s c f).cores = s.cores := rfl
@[simp] theorem modContext_mem (c : Nat) (f : Context → Context) : (modContext s c f).mem = s.mem := rfl
@[simp] theorem modContext_poison (c : Nat) (f : Context → Context) : (modContext s c f).poison = s.poison := rfl
@[simp] theorem modContext_overwritten (c : Nat) (f : Context → Context) : (modContext s c f).overwritten = s.overwritten := rfl
@[simp] theorem modContext_contexts (c : Nat) (f : Context → Context) : (modContext s c f).contexts = s.contexts.map fun x => if x.asid = c then f x else x := rfl
@[simp] theorem modContext_launches (c : Nat) (f : Context → Context) : (modContext s c f).launches = s.launches := rfl
@[simp] theorem modContext_queues (c : Nat) (f : Context → Context) : (modContext s c f).queues = s.queues := rfl
@[simp] theorem modContext_groups (c : Nat) (f : Context → Context) : (modContext s c f).groups = s.groups := rfl
@[simp] theorem modContext_partitions (c : Nat) (f : Context → Context) : (modContext s c f).partitions = s.partitions := rfl
@[simp] theorem modContext_exactSums (c : Nat) (f : Context → Context) : (modContext s c f).exactSums = s.exactSums := rfl
@[simp] theorem modContext_contributions (c : Nat) (f : Context → Context) : (modContext s c f).contributions = s.contributions := rfl
@[simp] theorem modContext_net (c : Nat) (f : Context → Context) : (modContext s c f).net = s.net := rfl
@[simp] theorem modContext_pageRequests (c : Nat) (f : Context → Context) : (modContext s c f).pageRequests = s.pageRequests := rfl
@[simp] theorem modContext_invalidations (c : Nat) (f : Context → Context) : (modContext s c f).invalidations = s.invalidations := rfl
@[simp] theorem modContext_images (c : Nat) (f : Context → Context) : (modContext s c f).images = s.images := rfl
@[simp] theorem modContext_checkpoints (c : Nat) (f : Context → Context) : (modContext s c f).checkpoints = s.checkpoints := rfl
@[simp] theorem modContext_walkCache (c : Nat) (f : Context → Context) : (modContext s c f).walkCache = s.walkCache := rfl
@[simp] theorem modContext_preempts (c : Nat) (f : Context → Context) : (modContext s c f).preempts = s.preempts := rfl
@[simp] theorem modContext_quarantine (c : Nat) (f : Context → Context) : (modContext s c f).quarantine = s.quarantine := rfl
@[simp] theorem modContext_log (c : Nat) (f : Context → Context) : (modContext s c f).log = s.log := rfl
@[simp] theorem modContext_hbm (c : Nat) (f : Context → Context) : (modContext s c f).hbm = s.hbm := rfl
@[simp] theorem modContext_firmware (c : Nat) (f : Context → Context) : (modContext s c f).firmware = s.firmware := rfl
@[simp] theorem modContext_power (c : Nat) (f : Context → Context) : (modContext s c f).power = s.power := rfl
@[simp] theorem modContext_links (c : Nat) (f : Context → Context) : (modContext s c f).links = s.links := rfl
@[simp] theorem modContext_nextIdent (c : Nat) (f : Context → Context) : (modContext s c f).nextIdent = s.nextIdent := rfl
@[simp] theorem modContext_freeCtr (c : Nat) (f : Context → Context) : (modContext s c f).freeCtr = s.freeCtr := rfl
@[simp] theorem modContext_inputs (c : Nat) (f : Context → Context) : (modContext s c f).inputs = s.inputs := rfl
@[simp] theorem modContext_agenda (c : Nat) (f : Context → Context) : (modContext s c f).agenda = s.agenda := rfl
@[simp] theorem modContext_focus (c : Nat) (f : Context → Context) : (modContext s c f).focus = s.focus := rfl
@[simp] theorem modContext_subject (c : Nat) (f : Context → Context) : (modContext s c f).subject = s.subject := rfl
@[simp] theorem modContext_outbox (c : Nat) (f : Context → Context) : (modContext s c f).outbox = s.outbox := rfl

/-! `modLaunch`. -/
@[simp] theorem modLaunch_cycle (c : Nat) (f : Launch → Launch) : (modLaunch s c f).cycle = s.cycle := rfl
@[simp] theorem modLaunch_timebase (c : Nat) (f : Launch → Launch) : (modLaunch s c f).timebase = s.timebase := rfl
@[simp] theorem modLaunch_timeFrac (c : Nat) (f : Launch → Launch) : (modLaunch s c f).timeFrac = s.timeFrac := rfl
@[simp] theorem modLaunch_cores (c : Nat) (f : Launch → Launch) : (modLaunch s c f).cores = s.cores := rfl
@[simp] theorem modLaunch_mem (c : Nat) (f : Launch → Launch) : (modLaunch s c f).mem = s.mem := rfl
@[simp] theorem modLaunch_poison (c : Nat) (f : Launch → Launch) : (modLaunch s c f).poison = s.poison := rfl
@[simp] theorem modLaunch_overwritten (c : Nat) (f : Launch → Launch) : (modLaunch s c f).overwritten = s.overwritten := rfl
@[simp] theorem modLaunch_contexts (c : Nat) (f : Launch → Launch) : (modLaunch s c f).contexts = s.contexts := rfl
@[simp] theorem modLaunch_launches (c : Nat) (f : Launch → Launch) : (modLaunch s c f).launches = s.launches.map fun x => if x.ident = c then f x else x := rfl
@[simp] theorem modLaunch_queues (c : Nat) (f : Launch → Launch) : (modLaunch s c f).queues = s.queues := rfl
@[simp] theorem modLaunch_groups (c : Nat) (f : Launch → Launch) : (modLaunch s c f).groups = s.groups := rfl
@[simp] theorem modLaunch_partitions (c : Nat) (f : Launch → Launch) : (modLaunch s c f).partitions = s.partitions := rfl
@[simp] theorem modLaunch_exactSums (c : Nat) (f : Launch → Launch) : (modLaunch s c f).exactSums = s.exactSums := rfl
@[simp] theorem modLaunch_contributions (c : Nat) (f : Launch → Launch) : (modLaunch s c f).contributions = s.contributions := rfl
@[simp] theorem modLaunch_net (c : Nat) (f : Launch → Launch) : (modLaunch s c f).net = s.net := rfl
@[simp] theorem modLaunch_pageRequests (c : Nat) (f : Launch → Launch) : (modLaunch s c f).pageRequests = s.pageRequests := rfl
@[simp] theorem modLaunch_invalidations (c : Nat) (f : Launch → Launch) : (modLaunch s c f).invalidations = s.invalidations := rfl
@[simp] theorem modLaunch_images (c : Nat) (f : Launch → Launch) : (modLaunch s c f).images = s.images := rfl
@[simp] theorem modLaunch_checkpoints (c : Nat) (f : Launch → Launch) : (modLaunch s c f).checkpoints = s.checkpoints := rfl
@[simp] theorem modLaunch_walkCache (c : Nat) (f : Launch → Launch) : (modLaunch s c f).walkCache = s.walkCache := rfl
@[simp] theorem modLaunch_preempts (c : Nat) (f : Launch → Launch) : (modLaunch s c f).preempts = s.preempts := rfl
@[simp] theorem modLaunch_quarantine (c : Nat) (f : Launch → Launch) : (modLaunch s c f).quarantine = s.quarantine := rfl
@[simp] theorem modLaunch_log (c : Nat) (f : Launch → Launch) : (modLaunch s c f).log = s.log := rfl
@[simp] theorem modLaunch_hbm (c : Nat) (f : Launch → Launch) : (modLaunch s c f).hbm = s.hbm := rfl
@[simp] theorem modLaunch_firmware (c : Nat) (f : Launch → Launch) : (modLaunch s c f).firmware = s.firmware := rfl
@[simp] theorem modLaunch_power (c : Nat) (f : Launch → Launch) : (modLaunch s c f).power = s.power := rfl
@[simp] theorem modLaunch_links (c : Nat) (f : Launch → Launch) : (modLaunch s c f).links = s.links := rfl
@[simp] theorem modLaunch_nextIdent (c : Nat) (f : Launch → Launch) : (modLaunch s c f).nextIdent = s.nextIdent := rfl
@[simp] theorem modLaunch_freeCtr (c : Nat) (f : Launch → Launch) : (modLaunch s c f).freeCtr = s.freeCtr := rfl
@[simp] theorem modLaunch_inputs (c : Nat) (f : Launch → Launch) : (modLaunch s c f).inputs = s.inputs := rfl
@[simp] theorem modLaunch_agenda (c : Nat) (f : Launch → Launch) : (modLaunch s c f).agenda = s.agenda := rfl
@[simp] theorem modLaunch_focus (c : Nat) (f : Launch → Launch) : (modLaunch s c f).focus = s.focus := rfl
@[simp] theorem modLaunch_subject (c : Nat) (f : Launch → Launch) : (modLaunch s c f).subject = s.subject := rfl
@[simp] theorem modLaunch_outbox (c : Nat) (f : Launch → Launch) : (modLaunch s c f).outbox = s.outbox := rfl

/-! `emit`. -/
@[simp] theorem emit_cycle (o : Output) : (emit s o).cycle = s.cycle := rfl
@[simp] theorem emit_timebase (o : Output) : (emit s o).timebase = s.timebase := rfl
@[simp] theorem emit_timeFrac (o : Output) : (emit s o).timeFrac = s.timeFrac := rfl
@[simp] theorem emit_cores (o : Output) : (emit s o).cores = s.cores := rfl
@[simp] theorem emit_mem (o : Output) : (emit s o).mem = s.mem := rfl
@[simp] theorem emit_poison (o : Output) : (emit s o).poison = s.poison := rfl
@[simp] theorem emit_overwritten (o : Output) : (emit s o).overwritten = s.overwritten := rfl
@[simp] theorem emit_contexts (o : Output) : (emit s o).contexts = s.contexts := rfl
@[simp] theorem emit_launches (o : Output) : (emit s o).launches = s.launches := rfl
@[simp] theorem emit_queues (o : Output) : (emit s o).queues = s.queues := rfl
@[simp] theorem emit_groups (o : Output) : (emit s o).groups = s.groups := rfl
@[simp] theorem emit_partitions (o : Output) : (emit s o).partitions = s.partitions := rfl
@[simp] theorem emit_exactSums (o : Output) : (emit s o).exactSums = s.exactSums := rfl
@[simp] theorem emit_contributions (o : Output) : (emit s o).contributions = s.contributions := rfl
@[simp] theorem emit_net (o : Output) : (emit s o).net = s.net := rfl
@[simp] theorem emit_pageRequests (o : Output) : (emit s o).pageRequests = s.pageRequests := rfl
@[simp] theorem emit_invalidations (o : Output) : (emit s o).invalidations = s.invalidations := rfl
@[simp] theorem emit_images (o : Output) : (emit s o).images = s.images := rfl
@[simp] theorem emit_checkpoints (o : Output) : (emit s o).checkpoints = s.checkpoints := rfl
@[simp] theorem emit_walkCache (o : Output) : (emit s o).walkCache = s.walkCache := rfl
@[simp] theorem emit_preempts (o : Output) : (emit s o).preempts = s.preempts := rfl
@[simp] theorem emit_quarantine (o : Output) : (emit s o).quarantine = s.quarantine := rfl
@[simp] theorem emit_log (o : Output) : (emit s o).log = s.log := rfl
@[simp] theorem emit_hbm (o : Output) : (emit s o).hbm = s.hbm := rfl
@[simp] theorem emit_firmware (o : Output) : (emit s o).firmware = s.firmware := rfl
@[simp] theorem emit_power (o : Output) : (emit s o).power = s.power := rfl
@[simp] theorem emit_links (o : Output) : (emit s o).links = s.links := rfl
@[simp] theorem emit_nextIdent (o : Output) : (emit s o).nextIdent = s.nextIdent := rfl
@[simp] theorem emit_freeCtr (o : Output) : (emit s o).freeCtr = s.freeCtr := rfl
@[simp] theorem emit_inputs (o : Output) : (emit s o).inputs = s.inputs := rfl
@[simp] theorem emit_agenda (o : Output) : (emit s o).agenda = s.agenda := rfl
@[simp] theorem emit_focus (o : Output) : (emit s o).focus = s.focus := rfl
@[simp] theorem emit_subject (o : Output) : (emit s o).subject = s.subject := rfl
@[simp] theorem emit_outbox (o : Output) : (emit s o).outbox = o :: s.outbox := rfl

end

section
variable (s : State)

/-! `modBlock` changes the cores alone. -/
@[simp] theorem modBlock_cycle (c b : Nat) (f : Block → Block) : (modBlock s c b f).cycle = s.cycle := rfl
@[simp] theorem modBlock_timebase (c b : Nat) (f : Block → Block) : (modBlock s c b f).timebase = s.timebase := rfl
@[simp] theorem modBlock_timeFrac (c b : Nat) (f : Block → Block) : (modBlock s c b f).timeFrac = s.timeFrac := rfl
@[simp] theorem modBlock_mem (c b : Nat) (f : Block → Block) : (modBlock s c b f).mem = s.mem := rfl
@[simp] theorem modBlock_poison (c b : Nat) (f : Block → Block) : (modBlock s c b f).poison = s.poison := rfl
@[simp] theorem modBlock_overwritten (c b : Nat) (f : Block → Block) : (modBlock s c b f).overwritten = s.overwritten := rfl
@[simp] theorem modBlock_contexts (c b : Nat) (f : Block → Block) : (modBlock s c b f).contexts = s.contexts := rfl
@[simp] theorem modBlock_launches (c b : Nat) (f : Block → Block) : (modBlock s c b f).launches = s.launches := rfl
@[simp] theorem modBlock_queues (c b : Nat) (f : Block → Block) : (modBlock s c b f).queues = s.queues := rfl
@[simp] theorem modBlock_groups (c b : Nat) (f : Block → Block) : (modBlock s c b f).groups = s.groups := rfl
@[simp] theorem modBlock_partitions (c b : Nat) (f : Block → Block) : (modBlock s c b f).partitions = s.partitions := rfl
@[simp] theorem modBlock_exactSums (c b : Nat) (f : Block → Block) : (modBlock s c b f).exactSums = s.exactSums := rfl
@[simp] theorem modBlock_contributions (c b : Nat) (f : Block → Block) : (modBlock s c b f).contributions = s.contributions := rfl
@[simp] theorem modBlock_net (c b : Nat) (f : Block → Block) : (modBlock s c b f).net = s.net := rfl
@[simp] theorem modBlock_pageRequests (c b : Nat) (f : Block → Block) : (modBlock s c b f).pageRequests = s.pageRequests := rfl
@[simp] theorem modBlock_invalidations (c b : Nat) (f : Block → Block) : (modBlock s c b f).invalidations = s.invalidations := rfl
@[simp] theorem modBlock_images (c b : Nat) (f : Block → Block) : (modBlock s c b f).images = s.images := rfl
@[simp] theorem modBlock_checkpoints (c b : Nat) (f : Block → Block) : (modBlock s c b f).checkpoints = s.checkpoints := rfl
@[simp] theorem modBlock_walkCache (c b : Nat) (f : Block → Block) : (modBlock s c b f).walkCache = s.walkCache := rfl
@[simp] theorem modBlock_preempts (c b : Nat) (f : Block → Block) : (modBlock s c b f).preempts = s.preempts := rfl
@[simp] theorem modBlock_quarantine (c b : Nat) (f : Block → Block) : (modBlock s c b f).quarantine = s.quarantine := rfl
@[simp] theorem modBlock_log (c b : Nat) (f : Block → Block) : (modBlock s c b f).log = s.log := rfl
@[simp] theorem modBlock_hbm (c b : Nat) (f : Block → Block) : (modBlock s c b f).hbm = s.hbm := rfl
@[simp] theorem modBlock_firmware (c b : Nat) (f : Block → Block) : (modBlock s c b f).firmware = s.firmware := rfl
@[simp] theorem modBlock_power (c b : Nat) (f : Block → Block) : (modBlock s c b f).power = s.power := rfl
@[simp] theorem modBlock_links (c b : Nat) (f : Block → Block) : (modBlock s c b f).links = s.links := rfl
@[simp] theorem modBlock_nextIdent (c b : Nat) (f : Block → Block) : (modBlock s c b f).nextIdent = s.nextIdent := rfl
@[simp] theorem modBlock_freeCtr (c b : Nat) (f : Block → Block) : (modBlock s c b f).freeCtr = s.freeCtr := rfl
@[simp] theorem modBlock_inputs (c b : Nat) (f : Block → Block) : (modBlock s c b f).inputs = s.inputs := rfl
@[simp] theorem modBlock_agenda (c b : Nat) (f : Block → Block) : (modBlock s c b f).agenda = s.agenda := rfl
@[simp] theorem modBlock_focus (c b : Nat) (f : Block → Block) : (modBlock s c b f).focus = s.focus := rfl
@[simp] theorem modBlock_subject (c b : Nat) (f : Block → Block) : (modBlock s c b f).subject = s.subject := rfl
@[simp] theorem modBlock_outbox (c b : Nat) (f : Block → Block) : (modBlock s c b f).outbox = s.outbox := rfl

/-! `modWave` changes the cores alone. -/
@[simp] theorem modWave_cycle (c b w : Nat) (f : Wave → Wave) : (modWave s c b w f).cycle = s.cycle := rfl
@[simp] theorem modWave_timebase (c b w : Nat) (f : Wave → Wave) : (modWave s c b w f).timebase = s.timebase := rfl
@[simp] theorem modWave_timeFrac (c b w : Nat) (f : Wave → Wave) : (modWave s c b w f).timeFrac = s.timeFrac := rfl
@[simp] theorem modWave_mem (c b w : Nat) (f : Wave → Wave) : (modWave s c b w f).mem = s.mem := rfl
@[simp] theorem modWave_poison (c b w : Nat) (f : Wave → Wave) : (modWave s c b w f).poison = s.poison := rfl
@[simp] theorem modWave_overwritten (c b w : Nat) (f : Wave → Wave) : (modWave s c b w f).overwritten = s.overwritten := rfl
@[simp] theorem modWave_contexts (c b w : Nat) (f : Wave → Wave) : (modWave s c b w f).contexts = s.contexts := rfl
@[simp] theorem modWave_launches (c b w : Nat) (f : Wave → Wave) : (modWave s c b w f).launches = s.launches := rfl
@[simp] theorem modWave_queues (c b w : Nat) (f : Wave → Wave) : (modWave s c b w f).queues = s.queues := rfl
@[simp] theorem modWave_groups (c b w : Nat) (f : Wave → Wave) : (modWave s c b w f).groups = s.groups := rfl
@[simp] theorem modWave_partitions (c b w : Nat) (f : Wave → Wave) : (modWave s c b w f).partitions = s.partitions := rfl
@[simp] theorem modWave_exactSums (c b w : Nat) (f : Wave → Wave) : (modWave s c b w f).exactSums = s.exactSums := rfl
@[simp] theorem modWave_contributions (c b w : Nat) (f : Wave → Wave) : (modWave s c b w f).contributions = s.contributions := rfl
@[simp] theorem modWave_net (c b w : Nat) (f : Wave → Wave) : (modWave s c b w f).net = s.net := rfl
@[simp] theorem modWave_pageRequests (c b w : Nat) (f : Wave → Wave) : (modWave s c b w f).pageRequests = s.pageRequests := rfl
@[simp] theorem modWave_invalidations (c b w : Nat) (f : Wave → Wave) : (modWave s c b w f).invalidations = s.invalidations := rfl
@[simp] theorem modWave_images (c b w : Nat) (f : Wave → Wave) : (modWave s c b w f).images = s.images := rfl
@[simp] theorem modWave_checkpoints (c b w : Nat) (f : Wave → Wave) : (modWave s c b w f).checkpoints = s.checkpoints := rfl
@[simp] theorem modWave_walkCache (c b w : Nat) (f : Wave → Wave) : (modWave s c b w f).walkCache = s.walkCache := rfl
@[simp] theorem modWave_preempts (c b w : Nat) (f : Wave → Wave) : (modWave s c b w f).preempts = s.preempts := rfl
@[simp] theorem modWave_quarantine (c b w : Nat) (f : Wave → Wave) : (modWave s c b w f).quarantine = s.quarantine := rfl
@[simp] theorem modWave_log (c b w : Nat) (f : Wave → Wave) : (modWave s c b w f).log = s.log := rfl
@[simp] theorem modWave_hbm (c b w : Nat) (f : Wave → Wave) : (modWave s c b w f).hbm = s.hbm := rfl
@[simp] theorem modWave_firmware (c b w : Nat) (f : Wave → Wave) : (modWave s c b w f).firmware = s.firmware := rfl
@[simp] theorem modWave_power (c b w : Nat) (f : Wave → Wave) : (modWave s c b w f).power = s.power := rfl
@[simp] theorem modWave_links (c b w : Nat) (f : Wave → Wave) : (modWave s c b w f).links = s.links := rfl
@[simp] theorem modWave_nextIdent (c b w : Nat) (f : Wave → Wave) : (modWave s c b w f).nextIdent = s.nextIdent := rfl
@[simp] theorem modWave_freeCtr (c b w : Nat) (f : Wave → Wave) : (modWave s c b w f).freeCtr = s.freeCtr := rfl
@[simp] theorem modWave_inputs (c b w : Nat) (f : Wave → Wave) : (modWave s c b w f).inputs = s.inputs := rfl
@[simp] theorem modWave_agenda (c b w : Nat) (f : Wave → Wave) : (modWave s c b w f).agenda = s.agenda := rfl
@[simp] theorem modWave_focus (c b w : Nat) (f : Wave → Wave) : (modWave s c b w f).focus = s.focus := rfl
@[simp] theorem modWave_subject (c b w : Nat) (f : Wave → Wave) : (modWave s c b w f).subject = s.subject := rfl
@[simp] theorem modWave_outbox (c b w : Nat) (f : Wave → Wave) : (modWave s c b w f).outbox = s.outbox := rfl

/-! `modFrag` changes the cores alone. -/
@[simp] theorem modFrag_cycle (c : Nat) (r : FragRef) (f : Fragment → Fragment) : (modFrag s c r f).cycle = s.cycle := rfl
@[simp] theorem modFrag_timebase (c : Nat) (r : FragRef) (f : Fragment → Fragment) : (modFrag s c r f).timebase = s.timebase := rfl
@[simp] theorem modFrag_timeFrac (c : Nat) (r : FragRef) (f : Fragment → Fragment) : (modFrag s c r f).timeFrac = s.timeFrac := rfl
@[simp] theorem modFrag_mem (c : Nat) (r : FragRef) (f : Fragment → Fragment) : (modFrag s c r f).mem = s.mem := rfl
@[simp] theorem modFrag_poison (c : Nat) (r : FragRef) (f : Fragment → Fragment) : (modFrag s c r f).poison = s.poison := rfl
@[simp] theorem modFrag_overwritten (c : Nat) (r : FragRef) (f : Fragment → Fragment) : (modFrag s c r f).overwritten = s.overwritten := rfl
@[simp] theorem modFrag_contexts (c : Nat) (r : FragRef) (f : Fragment → Fragment) : (modFrag s c r f).contexts = s.contexts := rfl
@[simp] theorem modFrag_launches (c : Nat) (r : FragRef) (f : Fragment → Fragment) : (modFrag s c r f).launches = s.launches := rfl
@[simp] theorem modFrag_queues (c : Nat) (r : FragRef) (f : Fragment → Fragment) : (modFrag s c r f).queues = s.queues := rfl
@[simp] theorem modFrag_groups (c : Nat) (r : FragRef) (f : Fragment → Fragment) : (modFrag s c r f).groups = s.groups := rfl
@[simp] theorem modFrag_partitions (c : Nat) (r : FragRef) (f : Fragment → Fragment) : (modFrag s c r f).partitions = s.partitions := rfl
@[simp] theorem modFrag_exactSums (c : Nat) (r : FragRef) (f : Fragment → Fragment) : (modFrag s c r f).exactSums = s.exactSums := rfl
@[simp] theorem modFrag_contributions (c : Nat) (r : FragRef) (f : Fragment → Fragment) : (modFrag s c r f).contributions = s.contributions := rfl
@[simp] theorem modFrag_net (c : Nat) (r : FragRef) (f : Fragment → Fragment) : (modFrag s c r f).net = s.net := rfl
@[simp] theorem modFrag_pageRequests (c : Nat) (r : FragRef) (f : Fragment → Fragment) : (modFrag s c r f).pageRequests = s.pageRequests := rfl
@[simp] theorem modFrag_invalidations (c : Nat) (r : FragRef) (f : Fragment → Fragment) : (modFrag s c r f).invalidations = s.invalidations := rfl
@[simp] theorem modFrag_images (c : Nat) (r : FragRef) (f : Fragment → Fragment) : (modFrag s c r f).images = s.images := rfl
@[simp] theorem modFrag_checkpoints (c : Nat) (r : FragRef) (f : Fragment → Fragment) : (modFrag s c r f).checkpoints = s.checkpoints := rfl
@[simp] theorem modFrag_walkCache (c : Nat) (r : FragRef) (f : Fragment → Fragment) : (modFrag s c r f).walkCache = s.walkCache := rfl
@[simp] theorem modFrag_preempts (c : Nat) (r : FragRef) (f : Fragment → Fragment) : (modFrag s c r f).preempts = s.preempts := rfl
@[simp] theorem modFrag_quarantine (c : Nat) (r : FragRef) (f : Fragment → Fragment) : (modFrag s c r f).quarantine = s.quarantine := rfl
@[simp] theorem modFrag_log (c : Nat) (r : FragRef) (f : Fragment → Fragment) : (modFrag s c r f).log = s.log := rfl
@[simp] theorem modFrag_hbm (c : Nat) (r : FragRef) (f : Fragment → Fragment) : (modFrag s c r f).hbm = s.hbm := rfl
@[simp] theorem modFrag_firmware (c : Nat) (r : FragRef) (f : Fragment → Fragment) : (modFrag s c r f).firmware = s.firmware := rfl
@[simp] theorem modFrag_power (c : Nat) (r : FragRef) (f : Fragment → Fragment) : (modFrag s c r f).power = s.power := rfl
@[simp] theorem modFrag_links (c : Nat) (r : FragRef) (f : Fragment → Fragment) : (modFrag s c r f).links = s.links := rfl
@[simp] theorem modFrag_nextIdent (c : Nat) (r : FragRef) (f : Fragment → Fragment) : (modFrag s c r f).nextIdent = s.nextIdent := rfl
@[simp] theorem modFrag_freeCtr (c : Nat) (r : FragRef) (f : Fragment → Fragment) : (modFrag s c r f).freeCtr = s.freeCtr := rfl
@[simp] theorem modFrag_inputs (c : Nat) (r : FragRef) (f : Fragment → Fragment) : (modFrag s c r f).inputs = s.inputs := rfl
@[simp] theorem modFrag_agenda (c : Nat) (r : FragRef) (f : Fragment → Fragment) : (modFrag s c r f).agenda = s.agenda := rfl
@[simp] theorem modFrag_focus (c : Nat) (r : FragRef) (f : Fragment → Fragment) : (modFrag s c r f).focus = s.focus := rfl
@[simp] theorem modFrag_subject (c : Nat) (r : FragRef) (f : Fragment → Fragment) : (modFrag s c r f).subject = s.subject := rfl
@[simp] theorem modFrag_outbox (c : Nat) (r : FragRef) (f : Fragment → Fragment) : (modFrag s c r f).outbox = s.outbox := rfl

/-! `notifyDarner` changes the cores alone. -/
@[simp] theorem notifyDarner_cycle (c : Nat) (e : DarnerEvent) : (notifyDarner s c e).cycle = s.cycle := rfl
@[simp] theorem notifyDarner_timebase (c : Nat) (e : DarnerEvent) : (notifyDarner s c e).timebase = s.timebase := rfl
@[simp] theorem notifyDarner_timeFrac (c : Nat) (e : DarnerEvent) : (notifyDarner s c e).timeFrac = s.timeFrac := rfl
@[simp] theorem notifyDarner_mem (c : Nat) (e : DarnerEvent) : (notifyDarner s c e).mem = s.mem := rfl
@[simp] theorem notifyDarner_poison (c : Nat) (e : DarnerEvent) : (notifyDarner s c e).poison = s.poison := rfl
@[simp] theorem notifyDarner_overwritten (c : Nat) (e : DarnerEvent) : (notifyDarner s c e).overwritten = s.overwritten := rfl
@[simp] theorem notifyDarner_contexts (c : Nat) (e : DarnerEvent) : (notifyDarner s c e).contexts = s.contexts := rfl
@[simp] theorem notifyDarner_launches (c : Nat) (e : DarnerEvent) : (notifyDarner s c e).launches = s.launches := rfl
@[simp] theorem notifyDarner_queues (c : Nat) (e : DarnerEvent) : (notifyDarner s c e).queues = s.queues := rfl
@[simp] theorem notifyDarner_groups (c : Nat) (e : DarnerEvent) : (notifyDarner s c e).groups = s.groups := rfl
@[simp] theorem notifyDarner_partitions (c : Nat) (e : DarnerEvent) : (notifyDarner s c e).partitions = s.partitions := rfl
@[simp] theorem notifyDarner_exactSums (c : Nat) (e : DarnerEvent) : (notifyDarner s c e).exactSums = s.exactSums := rfl
@[simp] theorem notifyDarner_contributions (c : Nat) (e : DarnerEvent) : (notifyDarner s c e).contributions = s.contributions := rfl
@[simp] theorem notifyDarner_net (c : Nat) (e : DarnerEvent) : (notifyDarner s c e).net = s.net := rfl
@[simp] theorem notifyDarner_pageRequests (c : Nat) (e : DarnerEvent) : (notifyDarner s c e).pageRequests = s.pageRequests := rfl
@[simp] theorem notifyDarner_invalidations (c : Nat) (e : DarnerEvent) : (notifyDarner s c e).invalidations = s.invalidations := rfl
@[simp] theorem notifyDarner_images (c : Nat) (e : DarnerEvent) : (notifyDarner s c e).images = s.images := rfl
@[simp] theorem notifyDarner_checkpoints (c : Nat) (e : DarnerEvent) : (notifyDarner s c e).checkpoints = s.checkpoints := rfl
@[simp] theorem notifyDarner_walkCache (c : Nat) (e : DarnerEvent) : (notifyDarner s c e).walkCache = s.walkCache := rfl
@[simp] theorem notifyDarner_preempts (c : Nat) (e : DarnerEvent) : (notifyDarner s c e).preempts = s.preempts := rfl
@[simp] theorem notifyDarner_quarantine (c : Nat) (e : DarnerEvent) : (notifyDarner s c e).quarantine = s.quarantine := rfl
@[simp] theorem notifyDarner_log (c : Nat) (e : DarnerEvent) : (notifyDarner s c e).log = s.log := rfl
@[simp] theorem notifyDarner_hbm (c : Nat) (e : DarnerEvent) : (notifyDarner s c e).hbm = s.hbm := rfl
@[simp] theorem notifyDarner_firmware (c : Nat) (e : DarnerEvent) : (notifyDarner s c e).firmware = s.firmware := rfl
@[simp] theorem notifyDarner_power (c : Nat) (e : DarnerEvent) : (notifyDarner s c e).power = s.power := rfl
@[simp] theorem notifyDarner_links (c : Nat) (e : DarnerEvent) : (notifyDarner s c e).links = s.links := rfl
@[simp] theorem notifyDarner_nextIdent (c : Nat) (e : DarnerEvent) : (notifyDarner s c e).nextIdent = s.nextIdent := rfl
@[simp] theorem notifyDarner_freeCtr (c : Nat) (e : DarnerEvent) : (notifyDarner s c e).freeCtr = s.freeCtr := rfl
@[simp] theorem notifyDarner_inputs (c : Nat) (e : DarnerEvent) : (notifyDarner s c e).inputs = s.inputs := rfl
@[simp] theorem notifyDarner_agenda (c : Nat) (e : DarnerEvent) : (notifyDarner s c e).agenda = s.agenda := rfl
@[simp] theorem notifyDarner_focus (c : Nat) (e : DarnerEvent) : (notifyDarner s c e).focus = s.focus := rfl
@[simp] theorem notifyDarner_subject (c : Nat) (e : DarnerEvent) : (notifyDarner s c e).subject = s.subject := rfl
@[simp] theorem notifyDarner_outbox (c : Nat) (e : DarnerEvent) : (notifyDarner s c e).outbox = s.outbox := rfl

end

/-! `Core.modBlock`. -/
@[simp] theorem Core.modBlock_enabled (k : Core) (b : Nat) (f : Block → Block) : (k.modBlock b f).enabled = k.enabled := rfl
@[simp] theorem Core.modBlock_blocks (k : Core) (b : Nat) (f : Block → Block) : (k.modBlock b f).blocks = k.blocks.map fun e => if e.1 = b then (e.1, f e.2) else e := rfl
@[simp] theorem Core.modBlock_bankcfg (k : Core) (b : Nat) (f : Block → Block) : (k.modBlock b f).bankcfg = k.bankcfg := rfl
@[simp] theorem Core.modBlock_sram (k : Core) (b : Nat) (f : Block → Block) : (k.modBlock b f).sram = k.sram := rfl
@[simp] theorem Core.modBlock_sramPoison (k : Core) (b : Nat) (f : Block → Block) : (k.modBlock b f).sramPoison = k.sramPoison := rfl
@[simp] theorem Core.modBlock_acc (k : Core) (b : Nat) (f : Block → Block) : (k.modBlock b f).acc = k.acc := rfl
@[simp] theorem Core.modBlock_sb (k : Core) (b : Nat) (f : Block → Block) : (k.modBlock b f).sb = k.sb := rfl
@[simp] theorem Core.modBlock_sbSeq (k : Core) (b : Nat) (f : Block → Block) : (k.modBlock b f).sbSeq = k.sbSeq := rfl
@[simp] theorem Core.modBlock_hamper (k : Core) (b : Nat) (f : Block → Block) : (k.modBlock b f).hamper = k.hamper := rfl
@[simp] theorem Core.modBlock_nextAge (k : Core) (b : Nat) (f : Block → Block) : (k.modBlock b f).nextAge = k.nextAge := rfl
@[simp] theorem Core.modBlock_records (k : Core) (b : Nat) (f : Block → Block) : (k.modBlock b f).records = k.records := rfl
@[simp] theorem Core.modBlock_popped (k : Core) (b : Nat) (f : Block → Block) : (k.modBlock b f).popped = k.popped := rfl
@[simp] theorem Core.modBlock_press (k : Core) (b : Nat) (f : Block → Block) : (k.modBlock b f).press = k.press := rfl
@[simp] theorem Core.modBlock_mangle (k : Core) (b : Nat) (f : Block → Block) : (k.modBlock b f).mangle = k.mangle := rfl
@[simp] theorem Core.modBlock_darner (k : Core) (b : Nat) (f : Block → Block) : (k.modBlock b f).darner = k.darner := rfl
@[simp] theorem Core.modBlock_tlb (k : Core) (b : Nat) (f : Block → Block) : (k.modBlock b f).tlb = k.tlb := rfl
@[simp] theorem Core.modBlock_l1Poison (k : Core) (b : Nat) (f : Block → Block) : (k.modBlock b f).l1Poison = k.l1Poison := rfl
@[simp] theorem Core.modBlock_busy (k : Core) (b : Nat) (f : Block → Block) : (k.modBlock b f).busy = k.busy := rfl
@[simp] theorem Core.modBlock_lists (k : Core) (b : Nat) (f : Block → Block) : (k.modBlock b f).lists = k.lists := rfl
@[simp] theorem Core.modBlock_failures (k : Core) (b : Nat) (f : Block → Block) : (k.modBlock b f).failures = k.failures := rfl

/-! `Block.modWave`. -/
@[simp] theorem Block.modWave_launch (b : Block) (w : Nat) (f : Wave → Wave) : (b.modWave w f).launch = b.launch := rfl
@[simp] theorem Block.modWave_lin (b : Block) (w : Nat) (f : Wave → Wave) : (b.modWave w f).lin = b.lin := rfl
@[simp] theorem Block.modWave_asid (b : Block) (w : Nat) (f : Wave → Wave) : (b.modWave w f).asid = b.asid := rfl
@[simp] theorem Block.modWave_hdr (b : Block) (w : Nat) (f : Wave → Wave) : (b.modWave w f).hdr = b.hdr := rfl
@[simp] theorem Block.modWave_grid (b : Block) (w : Nat) (f : Wave → Wave) : (b.modWave w f).grid = b.grid := rfl
@[simp] theorem Block.modWave_bdim (b : Block) (w : Nat) (f : Wave → Wave) : (b.modWave w f).bdim = b.bdim := rfl
@[simp] theorem Block.modWave_args (b : Block) (w : Nat) (f : Wave → Wave) : (b.modWave w f).args = b.args := rfl
@[simp] theorem Block.modWave_recs (b : Block) (w : Nat) (f : Wave → Wave) : (b.modWave w f).recs = b.recs := rfl
@[simp] theorem Block.modWave_pbase (b : Block) (w : Nat) (f : Wave → Wave) : (b.modWave w f).pbase = b.pbase := rfl
@[simp] theorem Block.modWave_fifos (b : Block) (w : Nat) (f : Wave → Wave) : (b.modWave w f).fifos = b.fifos := rfl
@[simp] theorem Block.modWave_accBase (b : Block) (w : Nat) (f : Wave → Wave) : (b.modWave w f).accBase = b.accBase := rfl
@[simp] theorem Block.modWave_iron (b : Block) (w : Nat) (f : Wave → Wave) : (b.modWave w f).iron = b.iron := rfl
@[simp] theorem Block.modWave_latched (b : Block) (w : Nat) (f : Wave → Wave) : (b.modWave w f).latched = b.latched := rfl
@[simp] theorem Block.modWave_ops (b : Block) (w : Nat) (f : Wave → Wave) : (b.modWave w f).ops = b.ops := rfl
@[simp] theorem Block.modWave_opSeq (b : Block) (w : Nat) (f : Wave → Wave) : (b.modWave w f).opSeq = b.opSeq := rfl
@[simp] theorem Block.modWave_opFree (b : Block) (w : Nat) (f : Wave → Wave) : (b.modWave w f).opFree = b.opFree := rfl
@[simp] theorem Block.modWave_ports (b : Block) (w : Nat) (f : Wave → Wave) : (b.modWave w f).ports = b.ports := rfl
@[simp] theorem Block.modWave_late (b : Block) (w : Nat) (f : Wave → Wave) : (b.modWave w f).late = b.late := rfl
@[simp] theorem Block.modWave_patterns (b : Block) (w : Nat) (f : Wave → Wave) : (b.modWave w f).patterns = b.patterns := rfl
@[simp] theorem Block.modWave_rotate (b : Block) (w : Nat) (f : Wave → Wave) : (b.modWave w f).rotate = b.rotate := rfl
@[simp] theorem Block.modWave_sets (b : Block) (w : Nat) (f : Wave → Wave) : (b.modWave w f).sets = b.sets := rfl
@[simp] theorem Block.modWave_pairings (b : Block) (w : Nat) (f : Wave → Wave) : (b.modWave w f).pairings = b.pairings := rfl
@[simp] theorem Block.modWave_barBounds (b : Block) (w : Nat) (f : Wave → Wave) : (b.modWave w f).barBounds = b.barBounds := rfl
@[simp] theorem Block.modWave_spillSlot (b : Block) (w : Nat) (f : Wave → Wave) : (b.modWave w f).spillSlot = b.spillSlot := rfl
@[simp] theorem Block.modWave_home (b : Block) (w : Nat) (f : Wave → Wave) : (b.modWave w f).home = b.home := rfl
@[simp] theorem Block.modWave_waves (b : Block) (w : Nat) (f : Wave → Wave) : (b.modWave w f).waves = b.waves.map fun x => if x.idx = w then f x else x := rfl
@[simp] theorem Block.modWave_ckpt (b : Block) (w : Nat) (f : Wave → Wave) : (b.modWave w f).ckpt = b.ckpt := rfl
@[simp] theorem Block.modWave_stopped (b : Block) (w : Nat) (f : Wave → Wave) : (b.modWave w f).stopped = b.stopped := rfl

/-! `Wave.modFrag`. -/
@[simp] theorem Wave.modFrag_idx (w : Wave) (i : Nat) (f : Fragment → Fragment) : (w.modFrag i f).idx = w.idx := rfl
@[simp] theorem Wave.modFrag_quadrant (w : Wave) (i : Nat) (f : Fragment → Fragment) : (w.modFrag i f).quadrant = w.quadrant := rfl
@[simp] theorem Wave.modFrag_handler (w : Wave) (i : Nat) (f : Fragment → Fragment) : (w.modFrag i f).handler = w.handler := rfl
@[simp] theorem Wave.modFrag_st (w : Wave) (i : Nat) (f : Fragment → Fragment) : (w.modFrag i f).st = w.st := rfl
@[simp] theorem Wave.modFrag_regs (w : Wave) (i : Nat) (f : Fragment → Fragment) : (w.modFrag i f).regs = w.regs := rfl
@[simp] theorem Wave.modFrag_preds (w : Wave) (i : Nat) (f : Fragment → Fragment) : (w.modFrag i f).preds = w.preds := rfl
@[simp] theorem Wave.modFrag_wb (w : Wave) (i : Nat) (f : Fragment → Fragment) : (w.modFrag i f).wb = w.wb := rfl
@[simp] theorem Wave.modFrag_residency (w : Wave) (i : Nat) (f : Fragment → Fragment) : (w.modFrag i f).residency = w.residency := rfl
@[simp] theorem Wave.modFrag_spilled (w : Wave) (i : Nat) (f : Fragment → Fragment) : (w.modFrag i f).spilled = w.spilled := rfl
@[simp] theorem Wave.modFrag_named (w : Wave) (i : Nat) (f : Fragment → Fragment) : (w.modFrag i f).named = w.named := rfl
@[simp] theorem Wave.modFrag_frags (w : Wave) (i : Nat) (f : Fragment → Fragment) : (w.modFrag i f).frags = w.frags.map fun x => if x.id = i then f x else x := rfl
@[simp] theorem Wave.modFrag_nextFrag (w : Wave) (i : Nat) (f : Fragment → Fragment) : (w.modFrag i f).nextFrag = w.nextFrag := rfl
@[simp] theorem Wave.modFrag_posted (w : Wave) (i : Nat) (f : Fragment → Fragment) : (w.modFrag i f).posted = w.posted := rfl
@[simp] theorem Wave.modFrag_fenceStores (w : Wave) (i : Nat) (f : Fragment → Fragment) : (w.modFrag i f).fenceStores = w.fenceStores := rfl
@[simp] theorem Wave.modFrag_fenceLoads (w : Wave) (i : Nat) (f : Fragment → Fragment) : (w.modFrag i f).fenceLoads = w.fenceLoads := rfl
@[simp] theorem Wave.modFrag_sigpend (w : Wave) (i : Nat) (f : Fragment → Fragment) : (w.modFrag i f).sigpend = w.sigpend := rfl
@[simp] theorem Wave.modFrag_depth (w : Wave) (i : Nat) (f : Fragment → Fragment) : (w.modFrag i f).depth = w.depth := rfl

end Sys2Proof.Machine
end

