-- ==== Sys2Proof/Laws/Places.lean ====
section
/-! SUPPORT. The tables of objects, and what the update of a core, a block, a wave or a fragment makes every core, block, wave
and fragment read as. -/

namespace Sys2Proof.Machine

/-! ### Tables -/

/-- READ AFTER WRITE in a table of objects. -/
theorem tabGet_tabSet {α : Type} (k j : Nat) (v : α) (l : List (Nat × α)) :
    tabGet j (tabSet k v l) = if j = k then some v else tabGet j l := by
  induction l with
  | nil => by_cases h : j = k <;> simp [tabSet, tabGet, h, Ne.symm]
  | cons e r ih =>
    obtain ⟨a, x⟩ := e
    rw [tabSet]
    split
    · simp only [tabGet, eq_comm]
    · split
      · rename_i hka
        by_cases h : j = k
        · simp [tabGet, h]
        · rw [if_neg h, tabGet, if_neg (Ne.symm h), tabGet, if_neg (by omega)]
      · rename_i hak
        rw [tabGet, ih, tabGet]
        by_cases h : j = k
        · subst h; simp [Ne.symm hak]
        · simp [h]

theorem tabGet_map {α : Type} (k j : Nat) (f : α → α) (l : List (Nat × α)) :
    tabGet j (l.map fun e => if e.1 = k then (e.1, f e.2) else e) = if j = k then (tabGet j l).map f else tabGet j l := by
  induction l with
  | nil => simp [tabGet]
  | cons e r ih =>
    obtain ⟨a, x⟩ := e
    rw [List.map_cons]
    by_cases hak : a = k
    · subst hak
      by_cases hj : j = a
      · subst hj; simp [tabGet]
      · simp [tabGet, hj, Ne.symm hj] at ih ⊢; exact ih
    · by_cases hj : a = j
      · subst hj; simp [tabGet, hak]
      · simp [tabGet, hak, hj] at ih ⊢; exact ih

theorem find?_map_key {α : Type} (key : α → Nat) (k j : Nat) (f : α → α) (hf : ∀ x, key x = k → key (f x) = k)
    (l : List α) :
    (l.map fun x => if key x = k then f x else x).find? (fun x => key x == j) =
      if j = k then (l.find? fun x => key x == j).map f else l.find? fun x => key x == j := by
  induction l with
  | nil => simp
  | cons x r ih =>
    rw [List.map_cons, List.find?_cons, List.find?_cons, ih]
    by_cases hx : key x = k
    · rw [if_pos hx]
      by_cases hj : j = k
      · subst hj; simp [hf x hx, hx]
      · have h1 : (key (f x) == j) = false := by simp [hf x hx, Ne.symm hj]
        have h2 : (key x == j) = false := by simp [hx, Ne.symm hj]
        simp [h1, h2, hj]
    · rw [if_neg hx]
      by_cases hj : key x = j
      · have hk : j ≠ k := fun e => hx (hj.trans e)
        simp [hj, hk]
      · have h1 : (key x == j) = false := by simp [hj]
        simp [h1]

/-! ### Cores and blocks -/

/-- What a core is after an update of one. -/
@[simp] theorem coreOf_modCore (s : State) (c k : Nat) (f : Core → Core) :
    coreOf (modCore s c f) k = if k = c then f (coreOf s c) else coreOf s k := by
  simp only [coreOf, modCore_cores, tabGet_tabSet]
  split <;> simp

theorem blockOf_modCore (s : State) (c k b : Nat) (f : Core → Core) :
    blockOf (modCore s c f) k b = if k = c then tabGet b (f (coreOf s c)).blocks else blockOf s k b := by
  simp only [blockOf, coreOf_modCore]; split <;> rfl

/-- What a resident block is after an update of one. -/
@[simp] theorem blockOf_modBlock (s : State) (c b k j : Nat) (f : Block → Block) :
    blockOf (modBlock s c b f) k j = if k = c ∧ j = b then (blockOf s k j).map f else blockOf s k j := by
  rw [modBlock, blockOf_modCore]
  by_cases hk : k = c
  · subst hk
    rw [if_pos rfl, Core.modBlock_blocks, tabGet_map]
    simp [blockOf]
  · simp [hk]

/-! ### Waves and fragments -/

/-- What a wave is after an update of one that keeps its index. -/
theorem Block.wave?_modWave (b : Block) (w j : Nat) (f : Wave → Wave) (hf : ∀ x, (f x).idx = x.idx) :
    (b.modWave w f).wave? j = if j = w then (b.wave? j).map f else b.wave? j := by
  simpa [Block.wave?] using find?_map_key Wave.idx w j f (fun x h => (hf x).trans h) b.waves

/-- What a fragment is after an update of one that keeps its identity. -/
theorem Wave.frag?_modFrag (w : Wave) (i j : Nat) (f : Fragment → Fragment) (hf : ∀ x, (f x).id = x.id) :
    (w.modFrag i f).frag? j = if j = i then (w.frag? j).map f else w.frag? j := by
  simpa [Wave.frag?] using find?_map_key Fragment.id i j f (fun x h => (hf x).trans h) w.frags

theorem waveOf_modWave (s : State) (c b w k j v : Nat) (f : Wave → Wave) (hf : ∀ x, (f x).idx = x.idx) :
    waveOf (modWave s c b w f) k j v =
      if k = c ∧ j = b ∧ v = w then (waveOf s k j v).map f else waveOf s k j v := by
  rw [waveOf, waveOf, modWave, blockOf_modBlock]
  by_cases h : k = c ∧ j = b
  · rw [if_pos h]
    cases blockOf s k j with
    | none => simp
    | some x => simp [Block.wave?_modWave x w v f hf, h]
  · rw [if_neg h, if_neg (fun e => h ⟨e.1, e.2.1⟩)]

theorem fragOf_modFrag (s : State) (c k : Nat) (r q : FragRef) (f : Fragment → Fragment) (hf : ∀ x, (f x).id = x.id) :
    fragOf (modFrag s c r f) k q = if k = c ∧ q = r then (fragOf s k q).map f else fragOf s k q := by
  rw [fragOf, fragOf, modFrag, waveOf_modWave _ _ _ _ _ _ _ _ fun x => by simp]
  obtain ⟨rb, rw', rf⟩ := r
  obtain ⟨qb, qw, qf⟩ := q
  by_cases h : k = c ∧ qb = rb ∧ qw = rw'
  · rw [if_pos h]
    cases waveOf s k qb qw with
    | none => simp
    | some x => simp [Wave.frag?_modFrag x rf qf f hf, h]
  · rw [if_neg h, if_neg fun e => h (by simp at e; exact ⟨e.1, e.2.1, e.2.2.1⟩)]

/-! ### The other tables -/

@[simp] theorem partState_modPart (s : State) (p k : Nat) (f : Partition → Partition) :
    partState (modPart s p f) k = if k = p then f (partState s p) else partState s k := by
  simp only [partState, modPart_partitions, tabGet_tabSet]; split <;> simp

@[simp] theorem queueOf_modQueue (s : State) (p k : Nat) (f : Queue → Queue) :
    queueOf (modQueue s p f) k = if k = p then f (queueOf s p) else queueOf s k := by
  simp only [queueOf, modQueue_queues, tabGet_tabSet]; split <;> simp

@[simp] theorem groupOf_modGroup (s : State) (p k : Nat) (f : Group → Group) :
    groupOf (modGroup s p f) k = if k = p then f (groupOf s p) else groupOf s k := by
  simp only [groupOf, modGroup_groups, tabGet_tabSet]; split <;> simp

theorem contextOf_modContext (s : State) (a k : Nat) (f : Context → Context) (hf : ∀ x, (f x).asid = x.asid) :
    contextOf (modContext s a f) k = if k = a then (contextOf s k).map f else contextOf s k := by
  simpa [contextOf] using find?_map_key Context.asid a k f (fun x h => (hf x).trans h) s.contexts

theorem launchOf_modLaunch (s : State) (a k : Nat) (f : Launch → Launch) (hf : ∀ x, (f x).ident = x.ident) :
    launchOf (modLaunch s a f) k = if k = a then (launchOf s k).map f else launchOf s k := by
  simpa [launchOf] using find?_map_key Launch.ident a k f (fun x h => (hf x).trans h) s.launches

end Sys2Proof.Machine
end

