-- ==== Sys2Proof/Laws/Issue.lean ====
section
/-! SUPPORT. What an issue can end in, what a completion and a wait change, and what taking a fault can do: one lemma for
each shared operation. -/

namespace Sys2Proof.Machine

/-! ### The issuing fragment -/

/-- The issuing fragment's place, spelled out. -/
theorem ctxOf_eq_some {s : State} {c : Ctx} (h : ctxOf s = some c) :
    s.focus = some ⟨c.core, c.ref⟩ ∧ blockOf s c.core c.ref.block = some c.blk ∧
      c.blk.wave? c.ref.wave = some c.wave ∧ c.wave.frag? c.ref.frag = some c.frag := by
  unfold ctxOf at h
  split at h
  · cases h
  · split at h
    · cases h
    · split at h
      · cases h
      · split at h
        · cases h
        · cases h; exact ⟨‹_›, ‹_›, ‹_›, ‹_›⟩

theorem fragOf_ctx {s : State} {c : Ctx} (h : ctxOf s = some c) : fragOf s c.core c.ref = some c.frag := by
  obtain ⟨-, hb, hw, hf⟩ := ctxOf_eq_some h
  simp [fragOf, waveOf, hb, hw, hf]

theorem waveOf_ctx {s : State} {c : Ctx} (h : ctxOf s = some c) :
    waveOf s c.core c.ref.block c.ref.wave = some c.wave := by
  obtain ⟨-, hb, hw, -⟩ := ctxOf_eq_some h
  simp [waveOf, hb, hw]

/-! ### Issue -/

/-- WHAT AN ISSUE CAN END IN: nothing issues, or the next state is a decode fault's, a collective wait's, an early read's,
or the meaning's own. -/
theorem issueForm_cases (i : Instr) (s : State) (body : Ctx → State) :
    (ctxOf s = none ∧ issueForm i s body = .fault .noFragment) ∨
    ∃ c, ctxOf s = some c ∧
      ((∃ k, decodeCheck c i = some k ∧ issueForm i s body = .next (decodeFault c k (firstWord i) s)) ∨
       (decodeCheck c i = none ∧
         (((collective i (modeType c.frag.mode) && !c.frag.released) = true ∧
            issueForm i s body = .next (waitCollective s c)) ∨
          ((collective i (modeType c.frag.mode) && !c.frag.released) = false ∧
            ((∃ k, stallCheck s c i = some k ∧ issueForm i s body = .next (takeFault c
                { code := 0x03, lanes := issueActive s c, info := BitVec.ofNat 64 (if k < 128 then k else 0x7F) } s s)) ∨
             (stallCheck s c i = none ∧ issueForm i s body = .next (body c))))))) := by
  cases hc : ctxOf s with
  | none => exact .inl ⟨rfl, by simp only [issueForm, hc]⟩
  | some c =>
    refine .inr ⟨c, rfl, ?_⟩
    cases hd : decodeCheck c i with
    | some k => exact .inl ⟨k, rfl, by simp only [issueForm, hc, hd]⟩
    | none =>
      refine .inr ⟨rfl, ?_⟩
      cases hw : collective i (modeType c.frag.mode) && !c.frag.released with
      | true => exact .inl ⟨rfl, by simp only [issueForm, hc, hd, hw, if_true]⟩
      | false =>
        refine .inr ⟨rfl, ?_⟩
        cases hk : stallCheck s c i with
        | some k => exact .inl ⟨k, rfl, by simp [issueForm, hc, hd, hw, hk]⟩
        | none => exact .inr ⟨rfl, by simp [issueForm, hc, hd, hw, hk]⟩

/-- A form that passes everything before its own rules has its meaning. -/
theorem issueForm_eq {i : Instr} {s : State} {c : Ctx} (h1 : ctxOf s = some c) (h2 : decodeCheck c i = none)
    (h3 : (collective i (modeType c.frag.mode) && !c.frag.released) = false) (h4 : stallCheck s c i = none)
    (body : Ctx → State) : issueForm i s body = .next (body c) := by
  simp [issueForm, h1, h2, h3, h4]

/-- An encoded form never refuses. -/
theorem issueForm_ne_refused (i : Instr) (s : State) (body : Ctx → State) (e : Refusal) :
    issueForm i s body ≠ .refused e := by
  intro he
  rcases issueForm_cases i s body with ⟨-, h⟩ | ⟨c, -, ⟨k, -, h⟩ | ⟨-, ⟨-, h⟩ | ⟨-, ⟨k, -, h⟩ | ⟨-, h⟩⟩⟩⟩ <;>
    rw [h] at he <;> cases he

/-! ### Completion -/

@[simp] theorem nameGranules_idx (w : Wave) (m : Lanes) (l : List Nat) (n : Nat) : (nameGranules w m l n).idx = w.idx := by
  have h1 : ∀ (l : List Nat) (w : Wave) (f : Wave → Nat → Wave), (∀ w k, (f w k).idx = w.idx) →
      (l.foldl f w).idx = w.idx := by
    intro l
    induction l with
    | nil => intros; rfl
    | cons a r ih => intro w f hf; rw [List.foldl_cons, ih _ _ hf, hf]
  unfold nameGranules
  split
  · exact h1 _ _ _ fun _ _ => rfl
  · refine h1 _ _ _ fun w k => h1 _ _ _ fun _ _ => rfl

@[simp] theorem applyWrites_idx (w : Wave) (f : Nat) (x : HistStep) : (applyWrites w f x).idx = w.idx := rfl

/-- A completion changes the cores and the counter of free values, and nothing else of the state. -/
theorem completeWith_frame (c : Ctx) (i : Instr) (s : State) (x : HistStep) (pc : BitVec 64) (l : Option PendingLoad) :
    ∃ k, completeWith c i s x pc l = { s with cores := k, freeCtr := s.freeCtr + 1 } := ⟨_, rfl⟩

@[simp] theorem completeWith_mem (c : Ctx) (i : Instr) (s : State) (x : HistStep) (pc : BitVec 64) (l : Option PendingLoad) :
    (completeWith c i s x pc l).mem = s.mem := rfl

@[simp] theorem complete_mem (c : Ctx) (i : Instr) (s : State) (x : HistStep) : (complete c i s x).mem = s.mem := rfl

@[simp] theorem completeAt_mem (c : Ctx) (i : Instr) (s : State) (x : HistStep) (pc : BitVec 64) :
    (completeAt c i s x pc).mem = s.mem := rfl

@[simp] theorem waitEvent_mem (s : State) (c : Ctx) (w : Wait) : (waitEvent s c w).mem = s.mem := rfl

@[simp] theorem waitCollective_mem (s : State) (c : Ctx) : (waitCollective s c).mem = s.mem := rfl

@[simp] theorem waitAt_mem (s : State) (c : Ctx) (w : Wait) : (waitAt s c w).mem = s.mem := rfl

/-! ### Writes -/

/-- A write to a destination touches one window register or pair of the lane, or one s-register, or nothing. -/
theorem writeCode_cases (c : Ctx) (lane : Nat) (d : Code) (wide : Bool) (t : Nat) (x : BitVec 64) (tag : Tag) :
    (d.toNat < 64 ∧ writeCode c lane d wide t x tag = { vs := writeV c lane d.toNat wide t x tag }) ∨
    (64 ≤ d.toNat ∧ d.toNat < 96 ∧
      writeCode c lane d wide t x tag = { ss := [(d.toNat - 64, ⟨if wide then x else heldInS t x, tag⟩)] }) ∨
    (96 ≤ d.toNat ∧ writeCode c lane d wide t x tag = {}) := by
  unfold writeCode
  rcases Nat.lt_or_ge d.toNat 64 with h | h
  · exact .inl ⟨h, by simp [h]⟩
  · rcases Nat.lt_or_ge d.toNat 96 with h' | h'
    · exact .inr (.inl ⟨h, h', by simp [Nat.not_lt.mpr h, h']⟩)
    · exact .inr (.inr ⟨h', by simp [Nat.not_lt.mpr h, Nat.not_lt.mpr h']⟩)

/-- No result writes a predicate. -/
@[simp] theorem writeCode_ps (c : Ctx) (lane : Nat) (d : Code) (wide : Bool) (t : Nat) (x : BitVec 64) (tag : Tag) :
    (writeCode c lane d wide t x tag).ps = [] := by
  rcases writeCode_cases c lane d wide t x tag with ⟨-, h⟩ | ⟨-, -, h⟩ | ⟨-, h⟩ <;> rw [h]

/-! ### Faults -/

@[simp] theorem countEvent_mem (s : State) (c k n : Nat) : (countEvent s c k n).mem = s.mem := by
  unfold countEvent
  split
  · rfl
  · dsimp only
    split <;> simp

@[simp] theorem joinPageRequest_mem (s : State) (a p k : Nat) (e : List (Nat × Nat)) (o : List (Nat × Nat × Nat))
    (l t : Nat) : (joinPageRequest s a p k e o l t).mem = s.mem := by
  unfold joinPageRequest
  split
  · rfl
  · dsimp only
    split <;> rfl

@[simp] theorem makeEntry_mem (s : State) (c a l : Nat) (e : HamperEntry) : (makeEntry s c a l e).mem = s.mem := by
  unfold makeEntry
  dsimp only
  split <;> simp

@[simp] theorem darnerFault_mem (s : State) (c k : Nat) (pc i : BitVec 64) : (darnerFault s c k pc i).mem = s.mem := rfl

/-- Taking a fault moves no byte of memory: what the completing lanes stored stands, or nothing has been stored. -/
theorem takeFault_mem (c : Ctx) (fi : FaultInfo) (before after : State) :
    (takeFault c fi before after).mem = before.mem ∨ (takeFault c fi before after).mem = after.mem := by
  unfold takeFault
  split
  · exact .inl (darnerFault_mem _ _ _ _ _)
  · split
    · exact .inl (waitAt_mem _ _ _)
    · dsimp only
      split
      · rw [makeEntry_mem, modFrag_mem]
        split
        · exact .inr rfl
        · exact .inl rfl
      · split
        · exact .inr rfl
        · rw [makeEntry_mem, modWave_mem]
          exact .inr rfl

/-- A fault that nothing has completed before moves no byte of memory. -/
@[simp] theorem takeFault_mem_self (c : Ctx) (fi : FaultInfo) (s : State) : (takeFault c fi s s).mem = s.mem := by
  rcases takeFault_mem c fi s s with h | h <;> exact h

@[simp] theorem decodeFault_mem (c : Ctx) (k : Nat) (w : Word) (s : State) : (decodeFault c k w s).mem = s.mem :=
  takeFault_mem_self c _ s

@[simp] theorem fragmentFault_mem (c : Ctx) (k : Nat) (i : BitVec 64) (s : State) : (fragmentFault c k i s).mem = s.mem :=
  takeFault_mem_self c _ s

end Sys2Proof.Machine
end

