-- ==== Sys2Proof/Laws/Memory.lean ====
section
/-! SUPPORT. Physical memory: every operation that writes it keeps its canonical form, and a write changes the bytes that it
names and no other. -/

namespace Sys2Proof.Machine

/-- A state with the same memory has it in the same form. -/
theorem memOk_of_mem_eq {s t : State} (h : t.mem = s.mem) (hs : s.memOk) : t.memOk := by
  unfold State.memOk at *
  rw [h]
  exact hs

/-- A fold whose every step keeps the canonical form keeps it. -/
theorem memOk_foldl {α : Type} {f : State → α → State} (h : ∀ s a, s.memOk → (f s a).memOk) (l : List α) {s : State}
    (hs : s.memOk) : (l.foldl f s).memOk := by
  induction l generalizing s with
  | nil => exact hs
  | cons a r ih => exact ih (h s a hs)

theorem reset_memOk : State.reset.memOk := rfl

/-! ### Bytes of memory -/

theorem memWrite_memOk {s : State} (pa : Nat) (bs : List Byte) (h : s.memOk) : (memWrite s pa bs).memOk :=
  memWf_writeBytes h

/-- READ AFTER WRITE: each byte written reads as it was written, and every other byte as before. -/
theorem byteAt_memWrite {s : State} (h : s.memOk) (pa a : Nat) (bs : List Byte) :
    (memWrite s pa bs).byteAt a = if pa ≤ a then (bs[a - pa]?).getD (s.byteAt a) else s.byteAt a :=
  cellGet_writeBytes h pa a bs

theorem byteAt_memWrite_outside {s : State} (h : s.memOk) {pa a : Nat} {bs : List Byte} (ha : a < pa ∨ pa + bs.length ≤ a) :
    (memWrite s pa bs).byteAt a = s.byteAt a :=
  cellGet_writeBytes_outside h ha

/-- Equal bytes everywhere are equal memories. -/
theorem mem_ext {s t : State} (hs : s.memOk) (ht : t.memOk) (h : ∀ a, s.byteAt a = t.byteAt a) : s.mem = t.mem :=
  cells_ext hs ht h

/-! ### Exact sums -/

theorem retireSum_memOk {s : State} (x : ExactSum) (h : s.memOk) : (retireSum s x).memOk :=
  memWrite_memOk _ _ (memOk_of_mem_eq rfl h)

theorem retireRange_memOk {s : State} (pa n : Nat) (h : s.memOk) : (retireRange s pa n).memOk :=
  memOk_foldl (fun _ _ => retireSum_memOk _) _ h

/-- Retiring an accumulator changes the bytes of its element alone. -/
theorem byteAt_retireSum_outside {s : State} (h : s.memOk) {x : ExactSum} {a : Nat} (ha : a < x.pa ∨ x.pa + x.size ≤ a) :
    (retireSum s x).byteAt a = s.byteAt a := by
  unfold retireSum
  refine (byteAt_memWrite_outside (memOk_of_mem_eq (s := s) rfl h) ?_).trans rfl
  rw [leBytes_length]
  exact ha

theorem byteAt_retireRange {s : State} (h : s.memOk) {pa n a : Nat}
    (ha : ∀ x ∈ s.exactSums, a < x.pa ∨ x.pa + x.size ≤ a) : (retireRange s pa n).byteAt a = s.byteAt a := by
  unfold retireRange
  have key : ∀ (l : List ExactSum) (s : State), s.memOk → (∀ x ∈ l, a < x.pa ∨ x.pa + x.size ≤ a) →
      (l.foldl retireSum s).byteAt a = s.byteAt a := by
    intro l
    induction l with
    | nil => intros; rfl
    | cons x r ih =>
      intro s hs hl
      rw [List.foldl_cons, ih _ (retireSum_memOk x hs) fun y hy => hl y (List.mem_cons_of_mem _ hy)]
      exact byteAt_retireSum_outside hs (hl x List.mem_cons_self)
  exact key _ s h fun x hx => ha x (List.mem_of_mem_filter hx)

/-! ### Device pages and physical writes -/

@[simp] theorem regroup_mem (s : State) (q : Nat) (d : BitVec 256) : (regroup s q d).mem = s.mem := by
  unfold regroup
  split
  · rfl
  · dsimp only
    split <;> rfl

@[simp] theorem governQueue_mem (s : State) (q : Nat) : (governQueue s q).mem = s.mem := by
  unfold governQueue
  split
  · rfl
  · exact (regroup_mem _ _ _).trans (modQueue_mem _ _ _)

@[simp] theorem notifyQueue_mem (s : State) (q : Nat) (v : BitVec 64) : (notifyQueue s q v).mem = s.mem :=
  (modQueue_mem _ _ _).trans (governQueue_mem s q)

@[simp] theorem dropPost_mem (s : State) (p : DevicePage) : (dropPost s p).mem = s.mem := by
  cases p <;> simp [dropPost]

@[simp] theorem acceptPost_mem (s : State) (p : DevicePage) : (acceptPost s p).mem = s.mem := by
  cases p <;> simp [acceptPost]

/-- A device page holds no byte of memory. -/
@[simp] theorem deviceWrite_mem (s : State) (pa : Nat) (bs : List Byte) : (deviceWrite s pa bs).mem = s.mem := by
  unfold deviceWrite
  repeat' split
  all_goals simp

@[simp] theorem noteWords_mem (s : State) (l : Nat) (o : Option Block) (pa : Nat) (bs : List Byte) :
    (noteWords s l o pa bs).mem = s.mem := rfl

@[simp] theorem noteWrite_mem (s : State) (o : Owner) (pa : Nat) (bs : List Byte) : (noteWrite s o pa bs).mem = s.mem := by
  unfold noteWrite
  split
  · rfl
  · dsimp only
    repeat' split
    all_goals rfl

@[simp] theorem noteWrite_exactSums (s : State) (o : Owner) (pa : Nat) (bs : List Byte) :
    (noteWrite s o pa bs).exactSums = s.exactSums := by
  unfold noteWrite
  split
  · rfl
  · dsimp only
    repeat' split
    all_goals rfl

/-- A WRITE of an agent to physical memory: it is held by a resilient block, goes to a device page, or enters memory after the
exact sums that it meets are retired. -/
theorem physPut_mem (s : State) (o : Owner) (pa : Nat) (bs : List Byte) :
    (physPut s o pa bs).mem = s.mem ∨ physPut s o pa bs = memWrite (retireRange s pa bs.length) pa bs := by
  unfold physPut
  split
  · exact .inl (modBlock_mem _ _ _ _)
  · split
    · exact .inl (deviceWrite_mem _ _ _)
    · exact .inr rfl

theorem physWrite_memOk {s : State} (o : Owner) (pa : Nat) (bs : List Byte) (h : s.memOk) : (physWrite s o pa bs).memOk := by
  have h0 : (if paRegion pa = 3 then s else noteWrite s o pa bs).mem = s.mem := by split <;> simp
  have h1 := memOk_of_mem_eq h0 h
  unfold physWrite
  rcases physPut_mem (if paRegion pa = 3 then s else noteWrite s o pa bs) o pa bs with h' | h'
  · exact memOk_of_mem_eq h' h1
  · exact h' ▸ memWrite_memOk pa bs (retireRange_memOk pa bs.length h1)

/-- An agent's write changes its own bytes alone, and those of exact sums that it retires. -/
theorem byteAt_physWrite_outside {s : State} (h : s.memOk) (o : Owner) {pa a : Nat} {bs : List Byte}
    (ha : a < pa ∨ pa + bs.length ≤ a) (hx : ∀ x ∈ s.exactSums, a < x.pa ∨ x.pa + x.size ≤ a) :
    (physWrite s o pa bs).byteAt a = s.byteAt a := by
  have h0 : (if paRegion pa = 3 then s else noteWrite s o pa bs).mem = s.mem := by split <;> simp
  have h2 : (if paRegion pa = 3 then s else noteWrite s o pa bs).exactSums = s.exactSums := by split <;> simp
  have h1 := memOk_of_mem_eq h0 h
  have hb : (if paRegion pa = 3 then s else noteWrite s o pa bs).byteAt a = s.byteAt a := by unfold State.byteAt; rw [h0]
  unfold physWrite
  rcases physPut_mem (if paRegion pa = 3 then s else noteWrite s o pa bs) o pa bs with h' | h'
  · exact (show _ = State.byteAt _ a by unfold State.byteAt; rw [h']).trans hb
  · rw [h', byteAt_memWrite_outside (retireRange_memOk pa bs.length h1) ha,
      byteAt_retireRange h1 (by rw [h2]; exact hx), hb]

@[simp] theorem sramWrite_mem (s : State) (c a : Nat) (bs : List Byte) : (sramWrite s c a bs).mem = s.mem :=
  modCore_mem _ _ _

/-! ### Whole memories -/

theorem zeroWindows_memOk {s : State} (g log2 : Nat) (h : s.memOk) : (zeroWindows s g log2).memOk :=
  cellsWf_filter _ h

theorem powerUp_memOk (x : BootImage) (s : State) : (powerUp x s).memOk := rfl

theorem placeWords_memOk {s : State} (ws : List Word) (h : s.memOk) : (placeWords s ws).memOk :=
  memWf_writeBytes h

end Sys2Proof.Machine
end

