-- ==== Sys2Proof/Laws/PerInstr.lean ====
section
/-! SUPPORT. One law for every instruction as syntax: how many words it has. -/

set_option Elab.async false

namespace Sys2Proof.Laws.Sized

/-- The words of an instruction (R92, R97): at most a first word and two literal words; an instruction with a word of its own
has a first one, and what has no word is an event. -/
def Statement (i : Instr) : Prop :=
  (encode i).length ≤ 3 ∧ (i.hasOwnWord = true → encode i ≠ [])

theorem nop : ∀ w, Statement (.nop w) :=
  fun _ => ⟨Nat.le_of_ble_eq_true rfl, fun _ => List.cons_ne_nil _ _⟩
theorem mode : ∀ w g v, Statement (.mode w g v) :=
  fun _ _ _ => ⟨Nat.le_of_ble_eq_true rfl, fun _ => List.cons_ne_nil _ _⟩
theorem modew : ∀ w a, Statement (.modew w a) :=
  fun _ _ => ⟨Nat.le_of_ble_eq_true rfl, fun _ => List.cons_ne_nil _ _⟩
theorem bra : ∀ w o, Statement (.bra w o) :=
  fun _ _ => ⟨Nat.le_of_ble_eq_true rfl, fun _ => List.cons_ne_nil _ _⟩
theorem brz : ∀ w x0 o, Statement (.brz w x0 o) :=
  fun _ _ _ => ⟨Nat.le_of_ble_eq_true rfl, fun _ => List.cons_ne_nil _ _⟩
theorem bnz : ∀ w x0 o, Statement (.bnz w x0 o) :=
  fun _ _ _ => ⟨Nat.le_of_ble_eq_true rfl, fun _ => List.cons_ne_nil _ _⟩
theorem brp : ∀ w o, Statement (.brp w o) :=
  fun _ _ => ⟨Nat.le_of_ble_eq_true rfl, fun _ => List.cons_ne_nil _ _⟩
theorem jmpi : ∀ w a, Statement (.jmpi w a) :=
  fun _ _ => ⟨Nat.le_of_ble_eq_true rfl, fun _ => List.cons_ne_nil _ _⟩
theorem call : ∀ w f o, Statement (.call w f o) :=
  fun _ _ _ => ⟨Nat.le_of_ble_eq_true rfl, fun _ => List.cons_ne_nil _ _⟩
theorem calli : ∀ w a f, Statement (.calli w a f) :=
  fun _ _ _ => ⟨Nat.le_of_ble_eq_true rfl, fun _ => List.cons_ne_nil _ _⟩
theorem ret : ∀ w, Statement (.ret w) :=
  fun _ => ⟨Nat.le_of_ble_eq_true rfl, fun _ => List.cons_ne_nil _ _⟩
theorem rcv : ∀ w, Statement (.rcv w) :=
  fun _ => ⟨Nat.le_of_ble_eq_true rfl, fun _ => List.cons_ne_nil _ _⟩
theorem exit : ∀ w, Statement (.exit w) :=
  fun _ => ⟨Nat.le_of_ble_eq_true rfl, fun _ => List.cons_ne_nil _ _⟩
theorem yield : ∀ w, Statement (.yield w) :=
  fun _ => ⟨Nat.le_of_ble_eq_true rfl, fun _ => List.cons_ne_nil _ _⟩
theorem sigbr : ∀ w x o, Statement (.sigbr w x o) :=
  fun _ _ _ => ⟨Nat.le_of_ble_eq_true rfl, fun _ => List.cons_ne_nil _ _⟩
theorem loop : ∀ w x0 o, Statement (.loop w x0 o) :=
  fun _ _ _ => ⟨Nat.le_of_ble_eq_true rfl, fun _ => List.cons_ne_nil _ _⟩
theorem pset : ∀ w p a, Statement (.pset w p a) :=
  fun _ _ _ => ⟨Nat.le_of_ble_eq_true rfl, fun _ => List.cons_ne_nil _ _⟩
theorem pand : ∀ w d a b, Statement (.pand w d a b) :=
  fun _ _ _ _ => ⟨Nat.le_of_ble_eq_true rfl, fun _ => List.cons_ne_nil _ _⟩
theorem por : ∀ w d a b, Statement (.por w d a b) :=
  fun _ _ _ _ => ⟨Nat.le_of_ble_eq_true rfl, fun _ => List.cons_ne_nil _ _⟩
theorem pxor : ∀ w d a b, Statement (.pxor w d a b) :=
  fun _ _ _ _ => ⟨Nat.le_of_ble_eq_true rfl, fun _ => List.cons_ne_nil _ _⟩
theorem pnot : ∀ w d a, Statement (.pnot w d a) :=
  fun _ _ _ => ⟨Nat.le_of_ble_eq_true rfl, fun _ => List.cons_ne_nil _ _⟩
theorem pmov : ∀ w d a, Statement (.pmov w d a) :=
  fun _ _ _ => ⟨Nat.le_of_ble_eq_true rfl, fun _ => List.cons_ne_nil _ _⟩
theorem mov : ∀ w d a, Statement (.mov w d a) :=
  fun _ _ _ => ⟨Nat.le_of_ble_eq_true rfl, fun _ => List.cons_ne_nil _ _⟩
theorem sel : ∀ w d a b, Statement (.sel w d a b) := fun _ _ _ b =>
  match b with
  | .reg _ => ⟨Nat.le_of_ble_eq_true rfl, fun _ => List.cons_ne_nil _ _⟩
  | .lit _ => ⟨Nat.le_of_ble_eq_true rfl, fun _ => List.cons_ne_nil _ _⟩
theorem lit : ∀ w d v, Statement (.lit w d v) :=
  fun _ _ _ => ⟨Nat.le_of_ble_eq_true rfl, fun _ => List.cons_ne_nil _ _⟩
theorem litWide : ∀ w d v, Statement (.litWide w d v) :=
  fun _ _ _ => ⟨Nat.le_of_ble_eq_true rfl, fun _ => List.cons_ne_nil _ _⟩
theorem movi : ∀ w d v, Statement (.movi w d v) :=
  fun _ _ _ => ⟨Nat.le_of_ble_eq_true rfl, fun _ => List.cons_ne_nil _ _⟩
theorem iaddA : ∀ w d a b, Statement (.iaddA w d a b) := fun _ _ _ b =>
  match b with
  | .reg _ => ⟨Nat.le_of_ble_eq_true rfl, fun _ => List.cons_ne_nil _ _⟩
  | .lit _ => ⟨Nat.le_of_ble_eq_true rfl, fun _ => List.cons_ne_nil _ _⟩
theorem iaddB : ∀ w d a imm, Statement (.iaddB w d a imm) :=
  fun _ _ _ _ => ⟨Nat.le_of_ble_eq_true rfl, fun _ => List.cons_ne_nil _ _⟩
theorem isub : ∀ w d a b, Statement (.isub w d a b) := fun _ _ _ b =>
  match b with
  | .reg _ => ⟨Nat.le_of_ble_eq_true rfl, fun _ => List.cons_ne_nil _ _⟩
  | .lit _ => ⟨Nat.le_of_ble_eq_true rfl, fun _ => List.cons_ne_nil _ _⟩
theorem imul : ∀ w d a b, Statement (.imul w d a b) := fun _ _ _ b =>
  match b with
  | .reg _ => ⟨Nat.le_of_ble_eq_true rfl, fun _ => List.cons_ne_nil _ _⟩
  | .lit _ => ⟨Nat.le_of_ble_eq_true rfl, fun _ => List.cons_ne_nil _ _⟩
theorem imulh : ∀ w d a b, Statement (.imulh w d a b) := fun _ _ _ b =>
  match b with
  | .reg _ => ⟨Nat.le_of_ble_eq_true rfl, fun _ => List.cons_ne_nil _ _⟩
  | .lit _ => ⟨Nat.le_of_ble_eq_true rfl, fun _ => List.cons_ne_nil _ _⟩
theorem imad : ∀ w d a b, Statement (.imad w d a b) := fun _ _ _ b =>
  match b with
  | .reg _ => ⟨Nat.le_of_ble_eq_true rfl, fun _ => List.cons_ne_nil _ _⟩
  | .lit _ => ⟨Nat.le_of_ble_eq_true rfl, fun _ => List.cons_ne_nil _ _⟩
theorem iaddc : ∀ w d a b, Statement (.iaddc w d a b) := fun _ _ _ b =>
  match b with
  | .reg _ => ⟨Nat.le_of_ble_eq_true rfl, fun _ => List.cons_ne_nil _ _⟩
  | .lit _ => ⟨Nat.le_of_ble_eq_true rfl, fun _ => List.cons_ne_nil _ _⟩
theorem ineg : ∀ w d a, Statement (.ineg w d a) :=
  fun _ _ _ => ⟨Nat.le_of_ble_eq_true rfl, fun _ => List.cons_ne_nil _ _⟩
theorem iabs : ∀ w d a, Statement (.iabs w d a) :=
  fun _ _ _ => ⟨Nat.le_of_ble_eq_true rfl, fun _ => List.cons_ne_nil _ _⟩
theorem imin : ∀ w d a b, Statement (.imin w d a b) := fun _ _ _ b =>
  match b with
  | .reg _ => ⟨Nat.le_of_ble_eq_true rfl, fun _ => List.cons_ne_nil _ _⟩
  | .lit _ => ⟨Nat.le_of_ble_eq_true rfl, fun _ => List.cons_ne_nil _ _⟩
theorem imax : ∀ w d a b, Statement (.imax w d a b) := fun _ _ _ b =>
  match b with
  | .reg _ => ⟨Nat.le_of_ble_eq_true rfl, fun _ => List.cons_ne_nil _ _⟩
  | .lit _ => ⟨Nat.le_of_ble_eq_true rfl, fun _ => List.cons_ne_nil _ _⟩
theorem shlA : ∀ w d a b, Statement (.shlA w d a b) := fun _ _ _ b =>
  match b with
  | .reg _ => ⟨Nat.le_of_ble_eq_true rfl, fun _ => List.cons_ne_nil _ _⟩
  | .lit _ => ⟨Nat.le_of_ble_eq_true rfl, fun _ => List.cons_ne_nil _ _⟩
theorem shlB : ∀ w d a imm, Statement (.shlB w d a imm) :=
  fun _ _ _ _ => ⟨Nat.le_of_ble_eq_true rfl, fun _ => List.cons_ne_nil _ _⟩
theorem shrA : ∀ w d a b, Statement (.shrA w d a b) := fun _ _ _ b =>
  match b with
  | .reg _ => ⟨Nat.le_of_ble_eq_true rfl, fun _ => List.cons_ne_nil _ _⟩
  | .lit _ => ⟨Nat.le_of_ble_eq_true rfl, fun _ => List.cons_ne_nil _ _⟩
theorem shrB : ∀ w d a imm, Statement (.shrB w d a imm) :=
  fun _ _ _ _ => ⟨Nat.le_of_ble_eq_true rfl, fun _ => List.cons_ne_nil _ _⟩
theorem sarA : ∀ w d a b, Statement (.sarA w d a b) := fun _ _ _ b =>
  match b with
  | .reg _ => ⟨Nat.le_of_ble_eq_true rfl, fun _ => List.cons_ne_nil _ _⟩
  | .lit _ => ⟨Nat.le_of_ble_eq_true rfl, fun _ => List.cons_ne_nil _ _⟩
theorem sarB : ∀ w d a imm, Statement (.sarB w d a imm) :=
  fun _ _ _ _ => ⟨Nat.le_of_ble_eq_true rfl, fun _ => List.cons_ne_nil _ _⟩
theorem rot : ∀ w d a b, Statement (.rot w d a b) := fun _ _ _ b =>
  match b with
  | .reg _ => ⟨Nat.le_of_ble_eq_true rfl, fun _ => List.cons_ne_nil _ _⟩
  | .lit _ => ⟨Nat.le_of_ble_eq_true rfl, fun _ => List.cons_ne_nil _ _⟩
theorem andA : ∀ w d a b, Statement (.andA w d a b) := fun _ _ _ b =>
  match b with
  | .reg _ => ⟨Nat.le_of_ble_eq_true rfl, fun _ => List.cons_ne_nil _ _⟩
  | .lit _ => ⟨Nat.le_of_ble_eq_true rfl, fun _ => List.cons_ne_nil _ _⟩
theorem andB : ∀ w d a imm, Statement (.andB w d a imm) :=
  fun _ _ _ _ => ⟨Nat.le_of_ble_eq_true rfl, fun _ => List.cons_ne_nil _ _⟩
theorem or : ∀ w d a b, Statement (.or w d a b) := fun _ _ _ b =>
  match b with
  | .reg _ => ⟨Nat.le_of_ble_eq_true rfl, fun _ => List.cons_ne_nil _ _⟩
  | .lit _ => ⟨Nat.le_of_ble_eq_true rfl, fun _ => List.cons_ne_nil _ _⟩
theorem xor : ∀ w d a b, Statement (.xor w d a b) := fun _ _ _ b =>
  match b with
  | .reg _ => ⟨Nat.le_of_ble_eq_true rfl, fun _ => List.cons_ne_nil _ _⟩
  | .lit _ => ⟨Nat.le_of_ble_eq_true rfl, fun _ => List.cons_ne_nil _ _⟩
theorem andn : ∀ w d a b, Statement (.andn w d a b) := fun _ _ _ b =>
  match b with
  | .reg _ => ⟨Nat.le_of_ble_eq_true rfl, fun _ => List.cons_ne_nil _ _⟩
  | .lit _ => ⟨Nat.le_of_ble_eq_true rfl, fun _ => List.cons_ne_nil _ _⟩
theorem clz : ∀ w d a, Statement (.clz w d a) :=
  fun _ _ _ => ⟨Nat.le_of_ble_eq_true rfl, fun _ => List.cons_ne_nil _ _⟩
theorem popc : ∀ w d a, Statement (.popc w d a) :=
  fun _ _ _ => ⟨Nat.le_of_ble_eq_true rfl, fun _ => List.cons_ne_nil _ _⟩
theorem brev : ∀ w d a, Statement (.brev w d a) :=
  fun _ _ _ => ⟨Nat.le_of_ble_eq_true rfl, fun _ => List.cons_ne_nil _ _⟩
theorem bfx : ∀ w d a b, Statement (.bfx w d a b) := fun _ _ _ b =>
  match b with
  | .reg _ => ⟨Nat.le_of_ble_eq_true rfl, fun _ => List.cons_ne_nil _ _⟩
  | .lit _ => ⟨Nat.le_of_ble_eq_true rfl, fun _ => List.cons_ne_nil _ _⟩
theorem bfi : ∀ w d a b, Statement (.bfi w d a b) := fun _ _ _ b =>
  match b with
  | .reg _ => ⟨Nat.le_of_ble_eq_true rfl, fun _ => List.cons_ne_nil _ _⟩
  | .lit _ => ⟨Nat.le_of_ble_eq_true rfl, fun _ => List.cons_ne_nil _ _⟩
theorem icmpA : ∀ w c p a b, Statement (.icmpA w c p a b) := fun _ _ _ _ b =>
  match b with
  | .reg _ => ⟨Nat.le_of_ble_eq_true rfl, fun _ => List.cons_ne_nil _ _⟩
  | .lit _ => ⟨Nat.le_of_ble_eq_true rfl, fun _ => List.cons_ne_nil _ _⟩
theorem icmpB : ∀ w c p a imm, Statement (.icmpB w c p a imm) :=
  fun _ _ _ _ _ => ⟨Nat.le_of_ble_eq_true rfl, fun _ => List.cons_ne_nil _ _⟩
theorem addr : ∀ w d a b, Statement (.addr w d a b) := fun _ _ _ b =>
  match b with
  | .reg _ => ⟨Nat.le_of_ble_eq_true rfl, fun _ => List.cons_ne_nil _ _⟩
  | .lit _ => ⟨Nat.le_of_ble_eq_true rfl, fun _ => List.cons_ne_nil _ _⟩
theorem cvti : ∀ w d a t, Statement (.cvti w d a t) :=
  fun _ _ _ _ => ⟨Nat.le_of_ble_eq_true rfl, fun _ => List.cons_ne_nil _ _⟩
theorem fadd : ∀ w d a b, Statement (.fadd w d a b) := fun _ _ _ b =>
  match b with
  | .reg _ => ⟨Nat.le_of_ble_eq_true rfl, fun _ => List.cons_ne_nil _ _⟩
  | .lit _ => ⟨Nat.le_of_ble_eq_true rfl, fun _ => List.cons_ne_nil _ _⟩
theorem fsub : ∀ w d a b, Statement (.fsub w d a b) := fun _ _ _ b =>
  match b with
  | .reg _ => ⟨Nat.le_of_ble_eq_true rfl, fun _ => List.cons_ne_nil _ _⟩
  | .lit _ => ⟨Nat.le_of_ble_eq_true rfl, fun _ => List.cons_ne_nil _ _⟩
theorem fmul : ∀ w d a b, Statement (.fmul w d a b) := fun _ _ _ b =>
  match b with
  | .reg _ => ⟨Nat.le_of_ble_eq_true rfl, fun _ => List.cons_ne_nil _ _⟩
  | .lit _ => ⟨Nat.le_of_ble_eq_true rfl, fun _ => List.cons_ne_nil _ _⟩
theorem ffma : ∀ w d a b, Statement (.ffma w d a b) := fun _ _ _ b =>
  match b with
  | .reg _ => ⟨Nat.le_of_ble_eq_true rfl, fun _ => List.cons_ne_nil _ _⟩
  | .lit _ => ⟨Nat.le_of_ble_eq_true rfl, fun _ => List.cons_ne_nil _ _⟩
theorem ffms : ∀ w d a b, Statement (.ffms w d a b) := fun _ _ _ b =>
  match b with
  | .reg _ => ⟨Nat.le_of_ble_eq_true rfl, fun _ => List.cons_ne_nil _ _⟩
  | .lit _ => ⟨Nat.le_of_ble_eq_true rfl, fun _ => List.cons_ne_nil _ _⟩
theorem fdiv : ∀ w d a b, Statement (.fdiv w d a b) := fun _ _ _ b =>
  match b with
  | .reg _ => ⟨Nat.le_of_ble_eq_true rfl, fun _ => List.cons_ne_nil _ _⟩
  | .lit _ => ⟨Nat.le_of_ble_eq_true rfl, fun _ => List.cons_ne_nil _ _⟩
theorem fsqrt : ∀ w d a, Statement (.fsqrt w d a) :=
  fun _ _ _ => ⟨Nat.le_of_ble_eq_true rfl, fun _ => List.cons_ne_nil _ _⟩
theorem frcp : ∀ w d a, Statement (.frcp w d a) :=
  fun _ _ _ => ⟨Nat.le_of_ble_eq_true rfl, fun _ => List.cons_ne_nil _ _⟩
theorem frsq : ∀ w d a, Statement (.frsq w d a) :=
  fun _ _ _ => ⟨Nat.le_of_ble_eq_true rfl, fun _ => List.cons_ne_nil _ _⟩
theorem fmin : ∀ w d a b, Statement (.fmin w d a b) := fun _ _ _ b =>
  match b with
  | .reg _ => ⟨Nat.le_of_ble_eq_true rfl, fun _ => List.cons_ne_nil _ _⟩
  | .lit _ => ⟨Nat.le_of_ble_eq_true rfl, fun _ => List.cons_ne_nil _ _⟩
theorem fmax : ∀ w d a b, Statement (.fmax w d a b) := fun _ _ _ b =>
  match b with
  | .reg _ => ⟨Nat.le_of_ble_eq_true rfl, fun _ => List.cons_ne_nil _ _⟩
  | .lit _ => ⟨Nat.le_of_ble_eq_true rfl, fun _ => List.cons_ne_nil _ _⟩
theorem fabs : ∀ w d a, Statement (.fabs w d a) :=
  fun _ _ _ => ⟨Nat.le_of_ble_eq_true rfl, fun _ => List.cons_ne_nil _ _⟩
theorem fneg : ∀ w d a, Statement (.fneg w d a) :=
  fun _ _ _ => ⟨Nat.le_of_ble_eq_true rfl, fun _ => List.cons_ne_nil _ _⟩
theorem fcps : ∀ w d a b, Statement (.fcps w d a b) := fun _ _ _ b =>
  match b with
  | .reg _ => ⟨Nat.le_of_ble_eq_true rfl, fun _ => List.cons_ne_nil _ _⟩
  | .lit _ => ⟨Nat.le_of_ble_eq_true rfl, fun _ => List.cons_ne_nil _ _⟩
theorem fcmp : ∀ w c p a b, Statement (.fcmp w c p a b) := fun _ _ _ _ b =>
  match b with
  | .reg _ => ⟨Nat.le_of_ble_eq_true rfl, fun _ => List.cons_ne_nil _ _⟩
  | .lit _ => ⟨Nat.le_of_ble_eq_true rfl, fun _ => List.cons_ne_nil _ _⟩
theorem fclass : ∀ w d a, Statement (.fclass w d a) :=
  fun _ _ _ => ⟨Nat.le_of_ble_eq_true rfl, fun _ => List.cons_ne_nil _ _⟩
theorem fcvt : ∀ w d a t, Statement (.fcvt w d a t) :=
  fun _ _ _ _ => ⟨Nat.le_of_ble_eq_true rfl, fun _ => List.cons_ne_nil _ _⟩
theorem icvt : ∀ w d a t, Statement (.icvt w d a t) :=
  fun _ _ _ _ => ⟨Nat.le_of_ble_eq_true rfl, fun _ => List.cons_ne_nil _ _⟩
theorem frnd : ∀ w d a, Statement (.frnd w d a) :=
  fun _ _ _ => ⟨Nat.le_of_ble_eq_true rfl, fun _ => List.cons_ne_nil _ _⟩
theorem fexp2 : ∀ w d a, Statement (.fexp2 w d a) :=
  fun _ _ _ => ⟨Nat.le_of_ble_eq_true rfl, fun _ => List.cons_ne_nil _ _⟩
theorem flog2 : ∀ w d a, Statement (.flog2 w d a) :=
  fun _ _ _ => ⟨Nat.le_of_ble_eq_true rfl, fun _ => List.cons_ne_nil _ _⟩
theorem fsin : ∀ w d a, Statement (.fsin w d a) :=
  fun _ _ _ => ⟨Nat.le_of_ble_eq_true rfl, fun _ => List.cons_ne_nil _ _⟩
theorem fcos : ∀ w d a, Statement (.fcos w d a) :=
  fun _ _ _ => ⟨Nat.le_of_ble_eq_true rfl, fun _ => List.cons_ne_nil _ _⟩
theorem fscale : ∀ w d a b, Statement (.fscale w d a b) := fun _ _ _ b =>
  match b with
  | .reg _ => ⟨Nat.le_of_ble_eq_true rfl, fun _ => List.cons_ne_nil _ _⟩
  | .lit _ => ⟨Nat.le_of_ble_eq_true rfl, fun _ => List.cons_ne_nil _ _⟩
theorem ftag : ∀ w d a, Statement (.ftag w d a) :=
  fun _ _ _ => ⟨Nat.le_of_ble_eq_true rfl, fun _ => List.cons_ne_nil _ _⟩
theorem ftagw : ∀ w d b, Statement (.ftagw w d b) := fun _ _ b =>
  match b with
  | .reg _ => ⟨Nat.le_of_ble_eq_true rfl, fun _ => List.cons_ne_nil _ _⟩
  | .lit _ => ⟨Nat.le_of_ble_eq_true rfl, fun _ => List.cons_ne_nil _ _⟩
theorem shflIdxA : ∀ w d a b, Statement (.shflIdxA w d a b) := fun _ _ _ b =>
  match b with
  | .reg _ => ⟨Nat.le_of_ble_eq_true rfl, fun _ => List.cons_ne_nil _ _⟩
  | .lit _ => ⟨Nat.le_of_ble_eq_true rfl, fun _ => List.cons_ne_nil _ _⟩
theorem shflUpA : ∀ w d a b, Statement (.shflUpA w d a b) := fun _ _ _ b =>
  match b with
  | .reg _ => ⟨Nat.le_of_ble_eq_true rfl, fun _ => List.cons_ne_nil _ _⟩
  | .lit _ => ⟨Nat.le_of_ble_eq_true rfl, fun _ => List.cons_ne_nil _ _⟩
theorem shflDownA : ∀ w d a b, Statement (.shflDownA w d a b) := fun _ _ _ b =>
  match b with
  | .reg _ => ⟨Nat.le_of_ble_eq_true rfl, fun _ => List.cons_ne_nil _ _⟩
  | .lit _ => ⟨Nat.le_of_ble_eq_true rfl, fun _ => List.cons_ne_nil _ _⟩
theorem shflXorA : ∀ w d a b, Statement (.shflXorA w d a b) := fun _ _ _ b =>
  match b with
  | .reg _ => ⟨Nat.le_of_ble_eq_true rfl, fun _ => List.cons_ne_nil _ _⟩
  | .lit _ => ⟨Nat.le_of_ble_eq_true rfl, fun _ => List.cons_ne_nil _ _⟩
theorem shflIdxB : ∀ w d a imm, Statement (.shflIdxB w d a imm) :=
  fun _ _ _ _ => ⟨Nat.le_of_ble_eq_true rfl, fun _ => List.cons_ne_nil _ _⟩
theorem shflUpB : ∀ w d a imm, Statement (.shflUpB w d a imm) :=
  fun _ _ _ _ => ⟨Nat.le_of_ble_eq_true rfl, fun _ => List.cons_ne_nil _ _⟩
theorem shflDownB : ∀ w d a imm, Statement (.shflDownB w d a imm) :=
  fun _ _ _ _ => ⟨Nat.le_of_ble_eq_true rfl, fun _ => List.cons_ne_nil _ _⟩
theorem shflXorB : ∀ w d a imm, Statement (.shflXorB w d a imm) :=
  fun _ _ _ _ => ⟨Nat.le_of_ble_eq_true rfl, fun _ => List.cons_ne_nil _ _⟩
theorem voteAny : ∀ w d a, Statement (.voteAny w d a) :=
  fun _ _ _ => ⟨Nat.le_of_ble_eq_true rfl, fun _ => List.cons_ne_nil _ _⟩
theorem voteAll : ∀ w d a, Statement (.voteAll w d a) :=
  fun _ _ _ => ⟨Nat.le_of_ble_eq_true rfl, fun _ => List.cons_ne_nil _ _⟩
theorem voteBallot : ∀ w d a, Statement (.voteBallot w d a) :=
  fun _ _ _ => ⟨Nat.le_of_ble_eq_true rfl, fun _ => List.cons_ne_nil _ _⟩
theorem voteEq : ∀ w d a, Statement (.voteEq w d a) :=
  fun _ _ _ => ⟨Nat.le_of_ble_eq_true rfl, fun _ => List.cons_ne_nil _ _⟩
theorem wsync : ∀ w a b, Statement (.wsync w a b) := fun _ _ b =>
  match b with
  | .reg _ => ⟨Nat.le_of_ble_eq_true rfl, fun _ => List.cons_ne_nil _ _⟩
  | .lit _ => ⟨Nat.le_of_ble_eq_true rfl, fun _ => List.cons_ne_nil _ _⟩
theorem wred : ∀ w d a o, Statement (.wred w d a o) :=
  fun _ _ _ _ => ⟨Nat.le_of_ble_eq_true rfl, fun _ => List.cons_ne_nil _ _⟩
theorem wscan : ∀ w d a o, Statement (.wscan w d a o) :=
  fun _ _ _ _ => ⟨Nat.le_of_ble_eq_true rfl, fun _ => List.cons_ne_nil _ _⟩
theorem rdlaneA : ∀ w d a b, Statement (.rdlaneA w d a b) := fun _ _ _ b =>
  match b with
  | .reg _ => ⟨Nat.le_of_ble_eq_true rfl, fun _ => List.cons_ne_nil _ _⟩
  | .lit _ => ⟨Nat.le_of_ble_eq_true rfl, fun _ => List.cons_ne_nil _ _⟩
theorem rdlaneB : ∀ w d a imm, Statement (.rdlaneB w d a imm) :=
  fun _ _ _ _ => ⟨Nat.le_of_ble_eq_true rfl, fun _ => List.cons_ne_nil _ _⟩
theorem wrlaneA : ∀ w d a b, Statement (.wrlaneA w d a b) := fun _ _ _ b =>
  match b with
  | .reg _ => ⟨Nat.le_of_ble_eq_true rfl, fun _ => List.cons_ne_nil _ _⟩
  | .lit _ => ⟨Nat.le_of_ble_eq_true rfl, fun _ => List.cons_ne_nil _ _⟩
theorem wrlaneB : ∀ w d a imm, Statement (.wrlaneB w d a imm) :=
  fun _ _ _ _ => ⟨Nat.le_of_ble_eq_true rfl, fun _ => List.cons_ne_nil _ _⟩
theorem mask : ∀ w d a, Statement (.mask w d a) :=
  fun _ _ _ => ⟨Nat.le_of_ble_eq_true rfl, fun _ => List.cons_ne_nil _ _⟩
theorem execq : ∀ w d, Statement (.execq w d) :=
  fun _ _ => ⟨Nat.le_of_ble_eq_true rfl, fun _ => List.cons_ne_nil _ _⟩
theorem wperm : ∀ w d a b, Statement (.wperm w d a b) := fun _ _ _ b =>
  match b with
  | .reg _ => ⟨Nat.le_of_ble_eq_true rfl, fun _ => List.cons_ne_nil _ _⟩
  | .lit _ => ⟨Nat.le_of_ble_eq_true rfl, fun _ => List.cons_ne_nil _ _⟩
theorem ldM : ∀ w d r q a, Statement (.ldM w d r q a) :=
  fun _ _ _ _ _ => ⟨Nat.le_of_ble_eq_true rfl, fun _ => List.cons_ne_nil _ _⟩
theorem ldMi : ∀ w d r q imm, Statement (.ldMi w d r q imm) :=
  fun _ _ _ _ _ => ⟨Nat.le_of_ble_eq_true rfl, fun _ => List.cons_ne_nil _ _⟩
theorem stM : ∀ w d r q a, Statement (.stM w d r q a) :=
  fun _ _ _ _ _ => ⟨Nat.le_of_ble_eq_true rfl, fun _ => List.cons_ne_nil _ _⟩
theorem stMi : ∀ w d r q imm, Statement (.stMi w d r q imm) :=
  fun _ _ _ _ _ => ⟨Nat.le_of_ble_eq_true rfl, fun _ => List.cons_ne_nil _ _⟩
theorem ldsM : ∀ w d r q a, Statement (.ldsM w d r q a) :=
  fun _ _ _ _ _ => ⟨Nat.le_of_ble_eq_true rfl, fun _ => List.cons_ne_nil _ _⟩
theorem ldsMi : ∀ w d r q imm, Statement (.ldsMi w d r q imm) :=
  fun _ _ _ _ _ => ⟨Nat.le_of_ble_eq_true rfl, fun _ => List.cons_ne_nil _ _⟩
theorem stsM : ∀ w d r q a, Statement (.stsM w d r q a) :=
  fun _ _ _ _ _ => ⟨Nat.le_of_ble_eq_true rfl, fun _ => List.cons_ne_nil _ _⟩
theorem stsMi : ∀ w d r q imm, Statement (.stsMi w d r q imm) :=
  fun _ _ _ _ _ => ⟨Nat.le_of_ble_eq_true rfl, fun _ => List.cons_ne_nil _ _⟩
theorem ldu : ∀ w d r q a, Statement (.ldu w d r q a) :=
  fun _ _ _ _ _ => ⟨Nat.le_of_ble_eq_true rfl, fun _ => List.cons_ne_nil _ _⟩
theorem stu : ∀ w d r q a, Statement (.stu w d r q a) :=
  fun _ _ _ _ _ => ⟨Nat.le_of_ble_eq_true rfl, fun _ => List.cons_ne_nil _ _⟩
theorem ldx : ∀ w d r q a, Statement (.ldx w d r q a) :=
  fun _ _ _ _ _ => ⟨Nat.le_of_ble_eq_true rfl, fun _ => List.cons_ne_nil _ _⟩
theorem stx : ∀ w d r q a, Statement (.stx w d r q a) :=
  fun _ _ _ _ _ => ⟨Nat.le_of_ble_eq_true rfl, fun _ => List.cons_ne_nil _ _⟩
theorem pref : ∀ w r a, Statement (.pref w r a) :=
  fun _ _ _ => ⟨Nat.le_of_ble_eq_true rfl, fun _ => List.cons_ne_nil _ _⟩
theorem cas : ∀ w d r q a, Statement (.cas w d r q a) :=
  fun _ _ _ _ _ => ⟨Nat.le_of_ble_eq_true rfl, fun _ => List.cons_ne_nil _ _⟩
theorem fatom : ∀ w d r q a, Statement (.fatom w d r q a) :=
  fun _ _ _ _ _ => ⟨Nat.le_of_ble_eq_true rfl, fun _ => List.cons_ne_nil _ _⟩
theorem fatomq : ∀ w d r q a, Statement (.fatomq w d r q a) :=
  fun _ _ _ _ _ => ⟨Nat.le_of_ble_eq_true rfl, fun _ => List.cons_ne_nil _ _⟩
theorem atomAdd : ∀ w d r q a, Statement (.atomAdd w d r q a) :=
  fun _ _ _ _ _ => ⟨Nat.le_of_ble_eq_true rfl, fun _ => List.cons_ne_nil _ _⟩
theorem atomSub : ∀ w d r q a, Statement (.atomSub w d r q a) :=
  fun _ _ _ _ _ => ⟨Nat.le_of_ble_eq_true rfl, fun _ => List.cons_ne_nil _ _⟩
theorem atomMin : ∀ w d r q a, Statement (.atomMin w d r q a) :=
  fun _ _ _ _ _ => ⟨Nat.le_of_ble_eq_true rfl, fun _ => List.cons_ne_nil _ _⟩
theorem atomMax : ∀ w d r q a, Statement (.atomMax w d r q a) :=
  fun _ _ _ _ _ => ⟨Nat.le_of_ble_eq_true rfl, fun _ => List.cons_ne_nil _ _⟩
theorem atomAnd : ∀ w d r q a, Statement (.atomAnd w d r q a) :=
  fun _ _ _ _ _ => ⟨Nat.le_of_ble_eq_true rfl, fun _ => List.cons_ne_nil _ _⟩
theorem atomOr : ∀ w d r q a, Statement (.atomOr w d r q a) :=
  fun _ _ _ _ _ => ⟨Nat.le_of_ble_eq_true rfl, fun _ => List.cons_ne_nil _ _⟩
theorem atomXor : ∀ w d r q a, Statement (.atomXor w d r q a) :=
  fun _ _ _ _ _ => ⟨Nat.le_of_ble_eq_true rfl, fun _ => List.cons_ne_nil _ _⟩
theorem atomExch : ∀ w d r q a, Statement (.atomExch w d r q a) :=
  fun _ _ _ _ _ => ⟨Nat.le_of_ble_eq_true rfl, fun _ => List.cons_ne_nil _ _⟩
theorem fenceAcq : ∀ w, Statement (.fenceAcq w) :=
  fun _ => ⟨Nat.le_of_ble_eq_true rfl, fun _ => List.cons_ne_nil _ _⟩
theorem fenceRel : ∀ w, Statement (.fenceRel w) :=
  fun _ => ⟨Nat.le_of_ble_eq_true rfl, fun _ => List.cons_ne_nil _ _⟩
theorem fenceAr : ∀ w, Statement (.fenceAr w) :=
  fun _ => ⟨Nat.le_of_ble_eq_true rfl, fun _ => List.cons_ne_nil _ _⟩
theorem drains : ∀ w, Statement (.drains w) :=
  fun _ => ⟨Nat.le_of_ble_eq_true rfl, fun _ => List.cons_ne_nil _ _⟩
theorem recset : ∀ w d r, Statement (.recset w d r) :=
  fun _ _ _ => ⟨Nat.le_of_ble_eq_true rfl, fun _ => List.cons_ne_nil _ _⟩
theorem recmod : ∀ w d r a, Statement (.recmod w d r a) :=
  fun _ _ _ _ => ⟨Nat.le_of_ble_eq_true rfl, fun _ => List.cons_ne_nil _ _⟩
theorem recget : ∀ w d r a, Statement (.recget w d r a) :=
  fun _ _ _ _ => ⟨Nat.le_of_ble_eq_true rfl, fun _ => List.cons_ne_nil _ _⟩
theorem cwb : ∀ w r a, Statement (.cwb w r a) :=
  fun _ _ _ => ⟨Nat.le_of_ble_eq_true rfl, fun _ => List.cons_ne_nil _ _⟩
theorem cinv : ∀ w r a, Statement (.cinv w r a) :=
  fun _ _ _ => ⟨Nat.le_of_ble_eq_true rfl, fun _ => List.cons_ne_nil _ _⟩
theorem fifopReserve : ∀ w d r a, Statement (.fifopReserve w d r a) :=
  fun _ _ _ _ => ⟨Nat.le_of_ble_eq_true rfl, fun _ => List.cons_ne_nil _ _⟩
theorem fifopCommit : ∀ w d r a, Statement (.fifopCommit w d r a) :=
  fun _ _ _ _ => ⟨Nat.le_of_ble_eq_true rfl, fun _ => List.cons_ne_nil _ _⟩
theorem fifopClaim : ∀ w d r a, Statement (.fifopClaim w d r a) :=
  fun _ _ _ _ => ⟨Nat.le_of_ble_eq_true rfl, fun _ => List.cons_ne_nil _ _⟩
theorem fifopFree : ∀ w d r a, Statement (.fifopFree w d r a) :=
  fun _ _ _ _ => ⟨Nat.le_of_ble_eq_true rfl, fun _ => List.cons_ne_nil _ _⟩
theorem wload : ∀ w x0 x, Statement (.wload w x0 x) :=
  fun _ _ _ => ⟨Nat.le_of_ble_eq_true rfl, fun _ => List.cons_ne_nil _ _⟩
theorem mma : ∀ w x0 x, Statement (.mma w x0 x) :=
  fun _ _ _ => ⟨Nat.le_of_ble_eq_true rfl, fun _ => List.cons_ne_nil _ _⟩
theorem accz : ∀ w x0 f, Statement (.accz w x0 f) :=
  fun _ _ _ => ⟨Nat.le_of_ble_eq_true rfl, fun _ => List.cons_ne_nil _ _⟩
theorem accrd : ∀ w x0 y f, Statement (.accrd w x0 y f) :=
  fun _ _ _ _ => ⟨Nat.le_of_ble_eq_true rfl, fun _ => List.cons_ne_nil _ _⟩
theorem accld : ∀ w x0 x f, Statement (.accld w x0 x f) :=
  fun _ _ _ _ => ⟨Nat.le_of_ble_eq_true rfl, fun _ => List.cons_ne_nil _ _⟩
theorem iron : ∀ w x0, Statement (.iron w x0) :=
  fun _ _ => ⟨Nat.le_of_ble_eq_true rfl, fun _ => List.cons_ne_nil _ _⟩
theorem ironp : ∀ w x0, Statement (.ironp w x0) :=
  fun _ _ => ⟨Nat.le_of_ble_eq_true rfl, fun _ => List.cons_ne_nil _ _⟩
theorem copy : ∀ w x0 x y, Statement (.copy w x0 x y) :=
  fun _ _ _ _ => ⟨Nat.le_of_ble_eq_true rfl, fun _ => List.cons_ne_nil _ _⟩
theorem gather : ∀ w x0 x y, Statement (.gather w x0 x y) :=
  fun _ _ _ _ => ⟨Nat.le_of_ble_eq_true rfl, fun _ => List.cons_ne_nil _ _⟩
theorem scat : ∀ w x0 x y, Statement (.scat w x0 x y) :=
  fun _ _ _ _ => ⟨Nat.le_of_ble_eq_true rfl, fun _ => List.cons_ne_nil _ _⟩
theorem quant : ∀ w x0 x y f, Statement (.quant w x0 x y f) :=
  fun _ _ _ _ _ => ⟨Nat.le_of_ble_eq_true rfl, fun _ => List.cons_ne_nil _ _⟩
theorem coll : ∀ w x0 x y, Statement (.coll w x0 x y) :=
  fun _ _ _ _ => ⟨Nat.le_of_ble_eq_true rfl, fun _ => List.cons_ne_nil _ _⟩
theorem cancel : ∀ w a, Statement (.cancel w a) :=
  fun _ _ => ⟨Nat.le_of_ble_eq_true rfl, fun _ => List.cons_ne_nil _ _⟩
theorem opq : ∀ w d a, Statement (.opq w d a) :=
  fun _ _ _ => ⟨Nat.le_of_ble_eq_true rfl, fun _ => List.cons_ne_nil _ _⟩
theorem opwait : ∀ w d a, Statement (.opwait w d a) :=
  fun _ _ _ => ⟨Nat.le_of_ble_eq_true rfl, fun _ => List.cons_ne_nil _ _⟩
theorem send : ∀ w a b, Statement (.send w a b) := fun _ _ b =>
  match b with
  | .reg _ => ⟨Nat.le_of_ble_eq_true rfl, fun _ => List.cons_ne_nil _ _⟩
  | .lit _ => ⟨Nat.le_of_ble_eq_true rfl, fun _ => List.cons_ne_nil _ _⟩
theorem sendp : ∀ w a b, Statement (.sendp w a b) := fun _ _ b =>
  match b with
  | .reg _ => ⟨Nat.le_of_ble_eq_true rfl, fun _ => List.cons_ne_nil _ _⟩
  | .lit _ => ⟨Nat.le_of_ble_eq_true rfl, fun _ => List.cons_ne_nil _ _⟩
theorem recv : ∀ w d a, Statement (.recv w d a) :=
  fun _ _ _ => ⟨Nat.le_of_ble_eq_true rfl, fun _ => List.cons_ne_nil _ _⟩
theorem jwait : ∀ w k, Statement (.jwait w k) :=
  fun _ _ => ⟨Nat.le_of_ble_eq_true rfl, fun _ => List.cons_ne_nil _ _⟩
theorem patenOn : ∀ w k, Statement (.patenOn w k) :=
  fun _ _ => ⟨Nat.le_of_ble_eq_true rfl, fun _ => List.cons_ne_nil _ _⟩
theorem patenOff : ∀ w k, Statement (.patenOff w k) :=
  fun _ _ => ⟨Nat.le_of_ble_eq_true rfl, fun _ => List.cons_ne_nil _ _⟩
theorem portq : ∀ w d a, Statement (.portq w d a) :=
  fun _ _ _ => ⟨Nat.le_of_ble_eq_true rfl, fun _ => List.cons_ne_nil _ _⟩
theorem bar : ∀ w, Statement (.bar w) :=
  fun _ => ⟨Nat.le_of_ble_eq_true rfl, fun _ => List.cons_ne_nil _ _⟩
theorem sbar : ∀ w, Statement (.sbar w) :=
  fun _ => ⟨Nat.le_of_ble_eq_true rfl, fun _ => List.cons_ne_nil _ _⟩
theorem trap : ∀ w k, Statement (.trap w k) :=
  fun _ _ => ⟨Nat.le_of_ble_eq_true rfl, fun _ => List.cons_ne_nil _ _⟩
theorem rdsys : ∀ w d n, Statement (.rdsys w d n) :=
  fun _ _ _ => ⟨Nat.le_of_ble_eq_true rfl, fun _ => List.cons_ne_nil _ _⟩
theorem wrsys : ∀ w d n, Statement (.wrsys w d n) :=
  fun _ _ _ => ⟨Nat.le_of_ble_eq_true rfl, fun _ => List.cons_ne_nil _ _⟩
theorem eret : ∀ w, Statement (.eret w) :=
  fun _ => ⟨Nat.le_of_ble_eq_true rfl, fun _ => List.cons_ne_nil _ _⟩
theorem tlbi : ∀ w a b, Statement (.tlbi w a b) := fun _ _ b =>
  match b with
  | .reg _ => ⟨Nat.le_of_ble_eq_true rfl, fun _ => List.cons_ne_nil _ _⟩
  | .lit _ => ⟨Nat.le_of_ble_eq_true rfl, fun _ => List.cons_ne_nil _ _⟩
theorem ctxsv : ∀ w d a b, Statement (.ctxsv w d a b) := fun _ _ _ b =>
  match b with
  | .reg _ => ⟨Nat.le_of_ble_eq_true rfl, fun _ => List.cons_ne_nil _ _⟩
  | .lit _ => ⟨Nat.le_of_ble_eq_true rfl, fun _ => List.cons_ne_nil _ _⟩
theorem ctxld : ∀ w d a, Statement (.ctxld w d a) :=
  fun _ _ _ => ⟨Nat.le_of_ble_eq_true rfl, fun _ => List.cons_ne_nil _ _⟩
theorem hrelReplay : ∀ w a, Statement (.hrelReplay w a) :=
  fun _ _ => ⟨Nat.le_of_ble_eq_true rfl, fun _ => List.cons_ne_nil _ _⟩
theorem hrelSkip : ∀ w a, Statement (.hrelSkip w a) :=
  fun _ _ => ⟨Nat.le_of_ble_eq_true rfl, fun _ => List.cons_ne_nil _ _⟩
theorem hrelSignal : ∀ w a, Statement (.hrelSignal w a) :=
  fun _ _ => ⟨Nat.le_of_ble_eq_true rfl, fun _ => List.cons_ne_nil _ _⟩
theorem hrelKill : ∀ w a, Statement (.hrelKill w a) :=
  fun _ _ => ⟨Nat.le_of_ble_eq_true rfl, fun _ => List.cons_ne_nil _ _⟩
theorem sigpost : ∀ w a b, Statement (.sigpost w a b) := fun _ _ b =>
  match b with
  | .reg _ => ⟨Nat.le_of_ble_eq_true rfl, fun _ => List.cons_ne_nil _ _⟩
  | .lit _ => ⟨Nat.le_of_ble_eq_true rfl, fun _ => List.cons_ne_nil _ _⟩
theorem bankm : ∀ w d a, Statement (.bankm w d a) :=
  fun _ _ _ => ⟨Nat.le_of_ble_eq_true rfl, fun _ => List.cons_ne_nil _ _⟩
theorem chkpt : ∀ w d a b, Statement (.chkpt w d a b) := fun _ _ _ b =>
  match b with
  | .reg _ => ⟨Nat.le_of_ble_eq_true rfl, fun _ => List.cons_ne_nil _ _⟩
  | .lit _ => ⟨Nat.le_of_ble_eq_true rfl, fun _ => List.cons_ne_nil _ _⟩
theorem sfqPeek : ∀ w d a b, Statement (.sfqPeek w d a b) := fun _ _ _ b =>
  match b with
  | .reg _ => ⟨Nat.le_of_ble_eq_true rfl, fun _ => List.cons_ne_nil _ _⟩
  | .lit _ => ⟨Nat.le_of_ble_eq_true rfl, fun _ => List.cons_ne_nil _ _⟩
theorem sfqPop : ∀ w d a b, Statement (.sfqPop w d a b) := fun _ _ _ b =>
  match b with
  | .reg _ => ⟨Nat.le_of_ble_eq_true rfl, fun _ => List.cons_ne_nil _ _⟩
  | .lit _ => ⟨Nat.le_of_ble_eq_true rfl, fun _ => List.cons_ne_nil _ _⟩
theorem sfqReplay : ∀ w d a b, Statement (.sfqReplay w d a b) := fun _ _ _ b =>
  match b with
  | .reg _ => ⟨Nat.le_of_ble_eq_true rfl, fun _ => List.cons_ne_nil _ _⟩
  | .lit _ => ⟨Nat.le_of_ble_eq_true rfl, fun _ => List.cons_ne_nil _ _⟩
theorem sfqDiscard : ∀ w d a b, Statement (.sfqDiscard w d a b) := fun _ _ _ b =>
  match b with
  | .reg _ => ⟨Nat.le_of_ble_eq_true rfl, fun _ => List.cons_ne_nil _ _⟩
  | .lit _ => ⟨Nat.le_of_ble_eq_true rfl, fun _ => List.cons_ne_nil _ _⟩
theorem pmcrd : ∀ w d a, Statement (.pmcrd w d a) :=
  fun _ _ _ => ⟨Nat.le_of_ble_eq_true rfl, fun _ => List.cons_ne_nil _ _⟩
theorem svc : ∀ w k, Statement (.svc w k) :=
  fun _ _ => ⟨Nat.le_of_ble_eq_true rfl, fun _ => List.cons_ne_nil _ _⟩
theorem svcWdog : ∀ w, Statement (.svcWdog w) :=
  fun _ => ⟨Nat.le_of_ble_eq_true rfl, fun _ => List.cons_ne_nil _ _⟩
theorem svcDebug : ∀ w, Statement (.svcDebug w) :=
  fun _ => ⟨Nat.le_of_ble_eq_true rfl, fun _ => List.cons_ne_nil _ _⟩
theorem svcCollreg : ∀ w, Statement (.svcCollreg w) :=
  fun _ => ⟨Nat.le_of_ble_eq_true rfl, fun _ => List.cons_ne_nil _ _⟩
theorem svcSigret : ∀ w k, Statement (.svcSigret w k) :=
  fun _ _ => ⟨Nat.le_of_ble_eq_true rfl, fun _ => List.cons_ne_nil _ _⟩
theorem bkpt : ∀ w k, Statement (.bkpt w k) :=
  fun _ _ => ⟨Nat.le_of_ble_eq_true rfl, fun _ => List.cons_ne_nil _ _⟩
theorem notifyWrite : ∀ queue off size value, Statement (.notifyWrite queue off size value) :=
  fun _ _ _ _ => ⟨Nat.le_of_ble_eq_true rfl, fun h => nomatch h⟩
theorem queueDescriptorWrite : ∀ queue desc, Statement (.queueDescriptorWrite queue desc) :=
  fun _ _ => ⟨Nat.le_of_ble_eq_true rfl, fun h => nomatch h⟩
theorem postPortMessage : ∀ page off size desc, Statement (.postPortMessage page off size desc) :=
  fun _ _ _ _ => ⟨Nat.le_of_ble_eq_true rfl, fun h => nomatch h⟩
theorem serviceReply : ∀ page off size desc, Statement (.serviceReply page off size desc) :=
  fun _ _ _ _ => ⟨Nat.le_of_ble_eq_true rfl, fun h => nomatch h⟩
theorem faultResolution : ∀ page off size desc, Statement (.faultResolution page off size desc) :=
  fun _ _ _ _ => ⟨Nat.le_of_ble_eq_true rfl, fun h => nomatch h⟩
theorem translationWalk : ∀ core asid va access, Statement (.translationWalk core asid va access) :=
  fun _ _ _ _ => ⟨Nat.le_of_ble_eq_true rfl, fun h => nomatch h⟩
theorem atsInvalidateRequest : ∀ pasid va all, Statement (.atsInvalidateRequest pasid va all) :=
  fun _ _ _ => ⟨Nat.le_of_ble_eq_true rfl, fun h => nomatch h⟩
theorem hostSnoop : ∀ pa, Statement (.hostSnoop pa) :=
  fun _ => ⟨Nat.le_of_ble_eq_true rfl, fun h => nomatch h⟩
theorem backInvalidateSnoop : ∀ pa, Statement (.backInvalidateSnoop pa) :=
  fun _ => ⟨Nat.le_of_ble_eq_true rfl, fun h => nomatch h⟩
theorem directoryInvalidation : ∀ pa size, Statement (.directoryInvalidation pa size) :=
  fun _ _ => ⟨Nat.le_of_ble_eq_true rfl, fun h => nomatch h⟩
theorem externalAccess : ∀ agent pa access, Statement (.externalAccess agent pa access) :=
  fun _ _ _ => ⟨Nat.le_of_ble_eq_true rfl, fun h => nomatch h⟩
theorem cxlLinkDown : ∀ port, Statement (.cxlLinkDown port) :=
  fun _ => ⟨Nat.le_of_ble_eq_true rfl, fun h => nomatch h⟩
theorem cxlCompletionTimeout : ∀ port, Statement (.cxlCompletionTimeout port) :=
  fun _ => ⟨Nat.le_of_ble_eq_true rfl, fun h => nomatch h⟩
theorem ualinkLinkFailure : ∀ station, Statement (.ualinkLinkFailure station) :=
  fun _ => ⟨Nat.le_of_ble_eq_true rfl, fun h => nomatch h⟩
theorem contextCreate : ∀ spec, Statement (.contextCreate spec) :=
  fun _ => ⟨Nat.le_of_ble_eq_true rfl, fun h => nomatch h⟩
theorem contextEnd : ∀ asid, Statement (.contextEnd asid) :=
  fun _ => ⟨Nat.le_of_ble_eq_true rfl, fun h => nomatch h⟩
theorem preemptRequest : ∀ target deadline, Statement (.preemptRequest target deadline) :=
  fun _ _ => ⟨Nat.le_of_ble_eq_true rfl, fun h => nomatch h⟩
theorem contextResume : ∀ asid, Statement (.contextResume asid) :=
  fun _ => ⟨Nat.le_of_ble_eq_true rfl, fun h => nomatch h⟩
theorem lockInterfaceRequest : ∀ group, Statement (.lockInterfaceRequest group) :=
  fun _ => ⟨Nat.le_of_ble_eq_true rfl, fun h => nomatch h⟩
theorem startInterfaceRequest : ∀ group, Statement (.startInterfaceRequest group) :=
  fun _ => ⟨Nat.le_of_ble_eq_true rfl, fun h => nomatch h⟩
theorem stopInterfaceRequest : ∀ group, Statement (.stopInterfaceRequest group) :=
  fun _ => ⟨Nat.le_of_ble_eq_true rfl, fun h => nomatch h⟩
theorem tdispError : ∀ group, Statement (.tdispError group) :=
  fun _ => ⟨Nat.le_of_ble_eq_true rfl, fun h => nomatch h⟩
theorem negotiateAlgorithms : ∀ signs hashes, Statement (.negotiateAlgorithms signs hashes) :=
  fun _ _ => ⟨Nat.le_of_ble_eq_true rfl, fun h => nomatch h⟩
theorem getCertificate : ∀ off size, Statement (.getCertificate off size) :=
  fun _ _ => ⟨Nat.le_of_ble_eq_true rfl, fun h => nomatch h⟩
theorem challenge : ∀ nonce, Statement (.challenge nonce) :=
  fun _ => ⟨Nat.le_of_ble_eq_true rfl, fun h => nomatch h⟩
theorem getMeasurements : ∀ index, Statement (.getMeasurements index) :=
  fun _ => ⟨Nat.le_of_ble_eq_true rfl, fun h => nomatch h⟩
theorem correctedError : ∀ chan addr part asid, Statement (.correctedError chan addr part asid) :=
  fun _ _ _ _ => ⟨Nat.le_of_ble_eq_true rfl, fun h => nomatch h⟩
theorem uncorrectableError : ∀ chan addr part asid site, Statement (.uncorrectableError chan addr part asid site) :=
  fun _ _ _ _ _ => ⟨Nat.le_of_ble_eq_true rfl, fun h => nomatch h⟩
theorem elogctlWrite : ∀ value, Statement (.elogctlWrite value) :=
  fun _ => ⟨Nat.le_of_ble_eq_true rfl, fun h => nomatch h⟩
theorem elogrdWrite : ∀ value, Statement (.elogrdWrite value) :=
  fun _ => ⟨Nat.le_of_ble_eq_true rfl, fun h => nomatch h⟩
theorem eyeSample : ∀ stack channel path width height, Statement (.eyeSample stack channel path width height) :=
  fun _ _ _ _ _ => ⟨Nat.le_of_ble_eq_true rfl, fun h => nomatch h⟩
theorem caParityFailure : ∀ stack channel path, Statement (.caParityFailure stack channel path) :=
  fun _ _ _ => ⟨Nat.le_of_ble_eq_true rfl, fun h => nomatch h⟩
theorem eyePathWrite : ∀ stack channel path value, Statement (.eyePathWrite stack channel path value) :=
  fun _ _ _ _ => ⟨Nat.le_of_ble_eq_true rfl, fun h => nomatch h⟩
theorem eyethrWrite : ∀ stack value, Statement (.eyethrWrite stack value) :=
  fun _ _ => ⟨Nat.le_of_ble_eq_true rfl, fun h => nomatch h⟩
theorem repairWrite : ∀ stack channel value, Statement (.repairWrite stack channel value) :=
  fun _ _ _ => ⟨Nat.le_of_ble_eq_true rfl, fun h => nomatch h⟩
theorem bankSpareStart : ∀ stack pseudo bank, Statement (.bankSpareStart stack pseudo bank) :=
  fun _ _ _ => ⟨Nat.le_of_ble_eq_true rfl, fun h => nomatch h⟩
theorem takeover : ∀ errorReport, Statement (.takeover errorReport) :=
  fun _ => ⟨Nat.le_of_ble_eq_true rfl, fun h => nomatch h⟩
theorem deviceReset : ∀ image, Statement (.deviceReset image) :=
  fun _ => ⟨Nat.le_of_ble_eq_true rfl, fun h => nomatch h⟩
theorem powerControlStep : ∀ power temp clkMhz, Statement (.powerControlStep power temp clkMhz) :=
  fun _ _ _ => ⟨Nat.le_of_ble_eq_true rfl, fun h => nomatch h⟩
theorem plimitWrite : ∀ value, Statement (.plimitWrite value) :=
  fun _ => ⟨Nat.le_of_ble_eq_true rfl, fun h => nomatch h⟩
theorem managementRegisterWrite : ∀ off size value, Statement (.managementRegisterWrite off size value) :=
  fun _ _ _ => ⟨Nat.le_of_ble_eq_true rfl, fun h => nomatch h⟩
theorem unassignedOpcode : ∀ word, Statement (.unassignedOpcode word) :=
  fun _ => ⟨Nat.le_of_ble_eq_true rfl, fun _ => List.cons_ne_nil _ _⟩
theorem cxlPortReenable : ∀ port, Statement (.cxlPortReenable port) :=
  fun _ => ⟨Nat.le_of_ble_eq_true rfl, fun h => nomatch h⟩
theorem ethernetLinkFailure : ∀ port, Statement (.ethernetLinkFailure port) :=
  fun _ => ⟨Nat.le_of_ble_eq_true rfl, fun h => nomatch h⟩
theorem packetFetch : Statement .packetFetch := ⟨Nat.le_of_ble_eq_true rfl, fun h => nomatch h⟩
theorem packetOrdered : Statement .packetOrdered := ⟨Nat.le_of_ble_eq_true rfl, fun h => nomatch h⟩
theorem packetDispatch : Statement .packetDispatch := ⟨Nat.le_of_ble_eq_true rfl, fun h => nomatch h⟩
theorem barrierDependencyCheck : Statement .barrierDependencyCheck := ⟨Nat.le_of_ble_eq_true rfl, fun h => nomatch h⟩
theorem schedulingDecision : Statement .schedulingDecision := ⟨Nat.le_of_ble_eq_true rfl, fun h => nomatch h⟩
theorem queueReservation : Statement .queueReservation := ⟨Nat.le_of_ble_eq_true rfl, fun h => nomatch h⟩
theorem graphNodeComplete : Statement .graphNodeComplete := ⟨Nat.le_of_ble_eq_true rfl, fun h => nomatch h⟩
theorem packetComplete : Statement .packetComplete := ⟨Nat.le_of_ble_eq_true rfl, fun h => nomatch h⟩
theorem blockRetirement : Statement .blockRetirement := ⟨Nat.le_of_ble_eq_true rfl, fun h => nomatch h⟩
theorem messageDelivery : Statement .messageDelivery := ⟨Nat.le_of_ble_eq_true rfl, fun h => nomatch h⟩
theorem sendConfirmation : Statement .sendConfirmation := ⟨Nat.le_of_ble_eq_true rfl, fun h => nomatch h⟩
theorem joinFiring : Statement .joinFiring := ⟨Nat.le_of_ble_eq_true rfl, fun h => nomatch h⟩
theorem rcvRelease : Statement .rcvRelease := ⟨Nat.le_of_ble_eq_true rfl, fun h => nomatch h⟩
theorem collectiveRelease : Statement .collectiveRelease := ⟨Nat.le_of_ble_eq_true rfl, fun h => nomatch h⟩
theorem wsyncRelease : Statement .wsyncRelease := ⟨Nat.le_of_ble_eq_true rfl, fun h => nomatch h⟩
theorem wsyncMaskMismatch : Statement .wsyncMaskMismatch := ⟨Nat.le_of_ble_eq_true rfl, fun h => nomatch h⟩
theorem barRelease : Statement .barRelease := ⟨Nat.le_of_ble_eq_true rfl, fun h => nomatch h⟩
theorem sbarRelease : Statement .sbarRelease := ⟨Nat.le_of_ble_eq_true rfl, fun h => nomatch h⟩
theorem collectiveDeadlock : Statement .collectiveDeadlock := ⟨Nat.le_of_ble_eq_true rfl, fun h => nomatch h⟩
theorem waitEventResume : Statement .waitEventResume := ⟨Nat.le_of_ble_eq_true rfl, fun h => nomatch h⟩
theorem hamperEntryFreed : Statement .hamperEntryFreed := ⟨Nat.le_of_ble_eq_true rfl, fun h => nomatch h⟩
theorem fragmentExchange : Statement .fragmentExchange := ⟨Nat.le_of_ble_eq_true rfl, fun h => nomatch h⟩
theorem pendingDisplacement : Statement .pendingDisplacement := ⟨Nat.le_of_ble_eq_true rfl, fun h => nomatch h⟩
theorem loadDataReturn : Statement .loadDataReturn := ⟨Nat.le_of_ble_eq_true rfl, fun h => nomatch h⟩
theorem postedStoreAccept : Statement .postedStoreAccept := ⟨Nat.le_of_ble_eq_true rfl, fun h => nomatch h⟩
theorem storeFaultRecord : Statement .storeFaultRecord := ⟨Nat.le_of_ble_eq_true rfl, fun h => nomatch h⟩
theorem invalidationAck : Statement .invalidationAck := ⟨Nat.le_of_ble_eq_true rfl, fun h => nomatch h⟩
theorem darnerEvent : Statement .darnerEvent := ⟨Nat.le_of_ble_eq_true rfl, fun h => nomatch h⟩
theorem darnerRestart : Statement .darnerRestart := ⟨Nat.le_of_ble_eq_true rfl, fun h => nomatch h⟩
theorem watchdog : Statement .watchdog := ⟨Nat.le_of_ble_eq_true rfl, fun h => nomatch h⟩
theorem pressGrant : Statement .pressGrant := ⟨Nat.le_of_ble_eq_true rfl, fun h => nomatch h⟩
theorem mangleChannelTake : Statement .mangleChannelTake := ⟨Nat.le_of_ble_eq_true rfl, fun h => nomatch h⟩
theorem engineResume : Statement .engineResume := ⟨Nat.le_of_ble_eq_true rfl, fun h => nomatch h⟩
theorem engineCompletion : Statement .engineCompletion := ⟨Nat.le_of_ble_eq_true rfl, fun h => nomatch h⟩
theorem collExchangeComplete : Statement .collExchangeComplete := ⟨Nat.le_of_ble_eq_true rfl, fun h => nomatch h⟩
theorem drainDeadline : Statement .drainDeadline := ⟨Nat.le_of_ble_eq_true rfl, fun h => nomatch h⟩
theorem forcedReset : Statement .forcedReset := ⟨Nat.le_of_ble_eq_true rfl, fun h => nomatch h⟩
theorem asidQuarantineEnd : Statement .asidQuarantineEnd := ⟨Nat.le_of_ble_eq_true rfl, fun h => nomatch h⟩
theorem getVersion : Statement .getVersion := ⟨Nat.le_of_ble_eq_true rfl, fun h => nomatch h⟩
theorem getCapabilities : Statement .getCapabilities := ⟨Nat.le_of_ble_eq_true rfl, fun h => nomatch h⟩
theorem getDigests : Statement .getDigests := ⟨Nat.le_of_ble_eq_true rfl, fun h => nomatch h⟩
theorem checkpointInterval : Statement .checkpointInterval := ⟨Nat.le_of_ble_eq_true rfl, fun h => nomatch h⟩
theorem checkpointCommit : Statement .checkpointCommit := ⟨Nat.le_of_ble_eq_true rfl, fun h => nomatch h⟩
theorem channelRetrain : Statement .channelRetrain := ⟨Nat.le_of_ble_eq_true rfl, fun h => nomatch h⟩
theorem laneRepair : Statement .laneRepair := ⟨Nat.le_of_ble_eq_true rfl, fun h => nomatch h⟩
theorem bankSpareComplete : Statement .bankSpareComplete := ⟨Nat.le_of_ble_eq_true rfl, fun h => nomatch h⟩
theorem journalCommit : Statement .journalCommit := ⟨Nat.le_of_ble_eq_true rfl, fun h => nomatch h⟩
theorem heartbeat : Statement .heartbeat := ⟨Nat.le_of_ble_eq_true rfl, fun h => nomatch h⟩
theorem coreGroupEnable : Statement .coreGroupEnable := ⟨Nat.le_of_ble_eq_true rfl, fun h => nomatch h⟩
theorem pressIdle : Statement .pressIdle := ⟨Nat.le_of_ble_eq_true rfl, fun h => nomatch h⟩
theorem powerOff : Statement .powerOff := ⟨Nat.le_of_ble_eq_true rfl, fun h => nomatch h⟩

end Sys2Proof.Laws.Sized
end

