-- ==== Sys2Proof/Tests/Slice0.lean ====
section
/-! SUPPORT. The model's own tests: ill-formed terms that the checks refuse, words of the spec that decode to their
instructions, worked examples of the spec, and for every statement with hypotheses a concrete state and operands that meet
them. -/

set_option Elab.async false
set_option maxRecDepth 100000

namespace Sys2Proof.Tests

open Sys2Proof Sys2Proof.Machine Sys2Proof.Claims

/-! ### Well-formedness: an ill-formed term for each check -/

theorem test_wf_mode_guard : Instr.wf (.mode 0 0 16) = false := by decide
theorem test_wf_mode_type : Instr.wf (.mode 0 1 14) = false := by decide
theorem test_wf_mode_round : Instr.wf (.mode 0 2 4) = false := by decide
theorem test_wf_mode_scope : Instr.wf (.mode 0 3 6) = false := by decide
theorem test_wf_mode_setslot : Instr.wf (.mode 0 4 4) = false := by decide
theorem test_wf_mode_sigmin : Instr.wf (.mode 0 5 64) = false := by decide
theorem test_wf_mode_trapen : Instr.wf (.mode 0 6 32) = false := by decide
theorem test_wf_mode_flags : Instr.wf (.mode 0 7 8) = false := by decide
theorem test_wf_literal_code : Instr.wf (.iaddA 0 1 2 (.reg 127)) = false := by decide
theorem test_wf_service_code : Instr.wf (.svc 0 0x3F81) = false := by decide
theorem test_wf_return_code : Instr.wf (.svcSigret 0 0x3F83) = false := by decide
theorem test_wf_assigned_opcode : Instr.wf (.unassignedOpcode 0) = false := by decide
theorem test_wf_accepts : Instr.wf (.mode 0 1 13) = true ∧ Instr.wf (.svc 0 0x3F83) = true ∧
    Instr.wf (.unassignedOpcode 0x1DC00000) = true := by decide

/-! ### Decoding: words written out from the spec's encodings -/

theorem test_decode_control : decode [0x0020000B] = .ok (.mode 0 0 11, []) := by decide
theorem test_decode_predicate : decode [0x02204103] = .ok (.pand 0 1 2 3, []) := by decide
theorem test_decode_move : decode [0x03E0FFFE] = .ok (.movi 0 3 0xFFFE, []) := by decide
theorem test_decode_integer : decode [0x04C18002] = .ok (.iaddc 0 6 0 (.reg 2), []) := by decide
theorem test_decode_literal : decode [0x040180FF, 0xDEADBEEF, 5] = .ok (.iaddA 0 6 1 (.lit 0xDEADBEEF), [5]) := by decide
theorem test_decode_float : decode [0x08014201] = .ok (.fadd 0 5 4 (.reg 1), []) := by decide
theorem test_decode_compare : decode [0x09C48001] = .ok (.fcmp 0 .lt 2 0 (.reg 1), []) := by decide
theorem test_decode_convert : decode [0x0A008086] = .ok (.fcvt 0 2 1 6, []) := by decide
theorem test_decode_tag : decode [0x0B20C005] = .ok (.ftagw 0 3 (.reg 5), []) := by decide
theorem test_decode_lane : decode [0x0CE0C101] = .ok (.shflXorB 0 3 2 1, []) := by decide
theorem test_decode_vote : decode [0x0D108082] = .ok (.voteBallot 0 66 1, []) := by decide
theorem test_decode_reduce : decode [0x0D510300] = .ok (.wred 0 68 6 .add, []) := by decide
theorem test_decode_load : decode [0x10014063] = .ok (.ldM 0 5 0 .plain 0x63, []) := by decide
theorem test_decode_atom : decode [0x12018460] = .ok (.atomAdd 0 6 2 .plain 96, []) := by decide
theorem test_decode_exact_sum : decode [0x11C20963] = .ok (.fatom 0 8 4 .rel 99, []) := by decide
theorem test_decode_fence : decode [0x13000180] = .ok (.fenceAr 0, []) := by decide
theorem test_decode_wload : decode [0x14118200] = .ok (.wload 0 70 1, []) := by decide
theorem test_decode_mma : decode [0x14310400] = .ok (.mma 0 68 2, []) := by decide
theorem test_decode_accrd : decode [0x14720031] = .ok (.accrd 0 72 3 1, []) := by decide
theorem test_decode_ironp : decode [0x14D08000] = .ok (.ironp 0 66, []) := by decide
theorem test_decode_copy : decode [0x14F28850] = .ok (.copy 0 74 4 5, []) := by decide
theorem test_decode_cancel : decode [0x15802500] = .ok (.cancel 0 74, []) := by decide
theorem test_decode_opwait : decode [0x15D32500] = .ok (.opwait 0 76 74, []) := by decide
theorem test_decode_send : decode [0x18002143] = .ok (.send 0 66 (.reg 67), []) := by decide
theorem test_decode_recv : decode [0x18522480] = .ok (.recv 0 72 73, []) := by decide
theorem test_decode_jwait : decode [0x18600003] = .ok (.jwait 0 3, []) := by decide
theorem test_decode_paten : decode [0x18800012] = .ok (.patenOn 0 2, []) := by decide
theorem test_decode_barriers : decode [0x18C00000] = .ok (.bar 0, []) ∧ decode [0x18E00000] = .ok (.sbar 0, []) := by decide
theorem test_decode_trap : decode [0x19000005] = .ok (.trap 0 5, []) := by decide
theorem test_decode_rdsys : decode [0x1C110020] = .ok (.rdsys 0 68 0x20, []) := by decide
theorem test_decode_eret : decode [0x1C400000] = .ok (.eret 0, []) := by decide
theorem test_decode_hrel : decode [0x1CC02182] = .ok (.hrelSignal 0 67, []) := by decide
theorem test_decode_bkpt : decode [0x1DA00007] = .ok (.bkpt 0 7, []) := by decide
theorem test_decode_stall_count : decode [0xE0000000] = .ok (.nop 7, []) := by decide
theorem test_decode_reserved_bit : decode [0x0220410B] = .error .reservedField := by decide
theorem test_decode_unassigned : decode [0x03200000] = .ok (.unassignedOpcode 0x03200000, []) := by decide
theorem test_table_word : decodeTableWord 32 0x040180FF = some (.iaddA 0 6 1 (.lit 0)) := by decide

/-! ### A small state: one fragment about to issue an instruction -/

/-- The fragment that a placed instruction issues from: the supervisor's for a privileged form. -/
def placedRef (i : Instr) : FragRef := ⟨if privilegedOpcode (opcodeOf (firstWord i)) then 64 else 0, 0, 0⟩

/-- An instruction at address 0 of a fresh device, its fragment in focus, past any collective wait. -/
def placed (i : Instr) : State :=
  modFrag { placeWords State.reset (encode i) with focus := some ⟨0, placedRef i⟩ } 0 (placedRef i) fun f =>
    { f with released := true }

def onFrag (s : State) (f : Fragment → Fragment) : State :=
  match s.focus with | some x => modFrag s x.core x.ref f | none => s

def onWave (s : State) (f : Wave → Wave) : State :=
  match s.focus with | some x => modWave s x.core x.ref.block x.ref.wave f | none => s

def onBlock (s : State) (f : Block → Block) : State :=
  match s.focus with | some x => modBlock s x.core x.ref.block f | none => s

def withType (s : State) (t : Nat) : State := onFrag s fun f => { f with mode := BitVec.ofNat 32 (7 + 16 * t) }

def withS (s : State) (k : Nat) (v : BitVec 64) (tag : Tag := 62) : State :=
  onFrag s fun f => { f with s := cellSet {} k ⟨v, tag⟩ f.s }

def withV (s : State) (lane n : Nat) (v : BitVec 32) (tag : Tag := 62) : State :=
  onWave s fun w => { w with regs := cellSet {} (w.cell lane n) ⟨v, tag⟩ w.regs }

def withExec (s : State) (m : Lanes) : State := onFrag s fun f => { f with exec := m }

def withRec (s : State) (k : Nat) (r : BitVec 256) : State := onBlock s fun b => { b with recs := cellSet 0 k r b.recs }

/-- The state after one instruction; the same state where it does not go on. -/
def after (i : Instr) (s : State) : State := match exec i s with | .next t => t | _ => s

def fragAfter (i : Instr) (s : State) : Option Fragment := fragOf (after i s) 0 (placedRef i)

def sAfter (i : Instr) (s : State) (k : Nat) : SReg := match fragAfter i s with | some f => cellGet {} k f.s | none => {}

def vAfter (i : Instr) (s : State) (lane n : Nat) : VReg :=
  match waveOf (after i s) 0 0 0 with | some w => cellGet {} (w.cell lane n) w.regs | none => {}

/-! ### Worked examples of the spec -/

/-- R146's example: SHR under I8 of 0x80 by 1. -/
theorem test_shr_i8 : vAfter (.shrB 0 1 2 1) (withV (withType (placed (.shrB 0 1 2 1)) 5) 3 2 0x80) 3 1 = ⟨0x40, 62⟩ := by
  decide +kernel

/-- R149's example. -/
theorem test_addr : (let s := withV (withS (withType (placed (.addr 0 8 66 (.reg 7))) 6) 2 0x00007F0000001000) 4 7 0xFFFFFFFD
    (vAfter (.addr 0 8 66 (.reg 7)) s 4 8).val = 0x00000FF4 ∧ (vAfter (.addr 0 8 66 (.reg 7)) s 4 9).val = 0x00007F00) := by
  decide +kernel

/-- R150's examples. -/
theorem test_cvti_negative : (sAfter (.cvti 0 64 65 0) (withS (withType (placed (.cvti 0 64 65 0)) 3) 1 0xFFFFFFFF) 0).val = 0 := by
  decide +kernel
theorem test_cvti_saturates : (sAfter (.cvti 0 64 65 1) (withS (withType (placed (.cvti 0 64 65 1)) 5) 1 300) 0).val = 127 := by
  decide +kernel

/-- R144's example: movi v3, -2 under I32. -/
theorem test_movi : (vAfter (.movi 0 3 0xFFFE) (withType (placed (.movi 0 3 0xFFFE)) 0) 31 3) = ⟨0xFFFFFFFE, 62⟩ := by
  decide +kernel

/-- The example of R177. -/
theorem test_mask : (let i := Instr.mask 0 70 71
    let s := onFrag (withExec (withS (placed i) 7 0xF0) 0x0F00) fun f => { f with members := 0xFF00 }
    (sAfter i s 6).val = 0x0F00 ∧ (fragAfter i s).map (·.exec) = some 0) := by decide +kernel

/-- The worked call of R136: the link is 16 × 2^57 + 0x40_1204. -/
theorem test_call_link : (let i := Instr.call 0 16 4
    let s := onBlock (onFrag (placed i) fun f => { f with pc := 0x401200 }) fun b => { b with hdr := { b.hdr with depth := 96 } }
    (sAfter i s 31).val = 0x2000000000401204 ∧ (waveOf (after i s) 0 0 0).map (·.wbOf 5) = some 16) := by decide +kernel

/-- FRCP(3.0) of R163, whatever ROUND holds. -/
theorem test_frcp : (let i := Instr.frcp 0 1 2
    vAfter i (withV (withType (placed i) 6) 0 2 0x40400000 24) 0 1 = ⟨0x3EAAAAAA, 23⟩ ∧
    vAfter i (onFrag (withV (withType (placed i) 6) 0 2 0x40400000 24) fun f => { f with mode := 0x00000267 }) 0 1 =
      ⟨0x3EAAAAAA, 23⟩) := by decide +kernel

/-- FEXP2(128.0) of R163 delivers the greatest finite value. -/
theorem test_fexp2_overflow : (let i := Instr.fexp2 0 1 2
    (vAfter i (withV (withType (placed i) 6) 0 2 0x43000000 24) 0 1).val = 0x7F7FFFFF) := by decide +kernel

/-- The significance examples of R76: FSUB into a subnormal, cancellation, and FMUL into a subnormal. -/
theorem test_fsub_subnormal : (let i := Instr.fsub 0 1 2 (.reg 3)
    vAfter i (withV (withV (withType (placed i) 6) 0 2 0x00C00000 24) 0 3 0x00800000 24) 0 1 = ⟨0x00400000, 23⟩) := by
  decide +kernel
theorem test_fsub_cancels : (let i := Instr.fsub 0 1 2 (.reg 3)
    vAfter i (withV (withV (withType (placed i) 6) 0 2 0x3F800000 24) 0 3 0x3F7FFFFF 24) 0 1 = ⟨0x33800000, 0⟩) := by
  decide +kernel
theorem test_fsub_exact_zero : (let i := Instr.fsub 0 1 2 (.reg 3)
    (vAfter i (withV (withV (withType (placed i) 6) 0 2 0x40400000 20) 0 3 0x40400000 24) 0 1).tag = 0 ∧
    (vAfter i (withV (withV (withType (placed i) 6) 0 2 0x40400000 24) 0 3 0x40400000 24) 0 1).tag = 24) := by decide +kernel
theorem test_fmul_subnormal : (let i := Instr.fmul 0 1 2 (.reg 3)
    (vAfter i (withV (withV (withType (placed i) 6) 0 2 0x0D800000 24) 0 3 0x2B800000 24) 0 1).tag = 10) := by decide +kernel
theorem test_fmul_zero : (let i := Instr.fmul 0 1 2 (.reg 3)
    (vAfter i (withV (withV (withType (placed i) 6) 0 2 0 24) 0 3 0x40A00000 3) 0 1).tag = 24) := by decide +kernel

/-- The examples of R64: 2.5 and −2.5 to I32 under RNE. -/
theorem test_icvt : (let i := Instr.icvt 0 1 2 6
    (vAfter i (withV (withType (placed i) 0) 0 2 0x40200000 24) 0 1).val = 2 ∧
    (vAfter i (withV (withType (placed i) 0) 0 2 0xC0200000 24) 0 1).val = 0xFFFFFFFE) := by decide +kernel

/-- 3.0 × 10^9 to I32 and U32 (R64). -/
theorem test_icvt_range : (let i := Instr.icvt 0 1 2 6
    (vAfter i (withV (withType (placed i) 0) 0 2 0x4F32D05E 24) 0 1).val = 0x7FFFFFFF ∧
    (vAfter i (withV (withType (placed i) 1) 0 2 0x4F32D05E 24) 0 1).val = 3000000000) := by decide +kernel

/-- Widening keeps the tag, and the cap of a subnormal of F16 (R76, R78). -/
theorem test_fcvt_tags : (let i := Instr.fcvt 0 1 2 6
    (vAfter i (withV (withType (placed i) 8) 0 2 0x35800000 24) 0 1).tag = 5) := by decide +kernel

/-- The worked reduction of R174. -/
def scanState (i : Instr) : State :=
  withExec (withV (withV (withV (withV (withType (placed i) 6) 0 6 0x4B800000 24) 1 6 0x3F800000 24) 2 6 0x3F800000 24)
    3 6 0x3F800000 24) 0xF
theorem test_wred : sAfter (.wred 0 68 6 .add) (scanState (.wred 0 68 6 .add)) 4 = ⟨0x4B800001, 24⟩ := by decide +kernel
theorem test_wscan : (vAfter (.wscan 0 7 6 .add) (scanState (.wscan 0 7 6 .add)) 2 7).val = 0x4B800000 := by decide +kernel

/-- A value from another lane (R171): xor 1 swaps neighbours. -/
theorem test_shfl : (let i := Instr.shflXorB 0 3 2 1
    (vAfter i (withV (withType (placed i) 0) 5 2 0x1234) 4 3).val = 0x1234) := by decide +kernel

/-- Steps 2 and 3 of the example of R207: four slots committed, two claimed. -/
def fifoState (i : Instr) (rp cp lp fp : Nat) (a : BitVec 64) : State :=
  withS (withRec (onBlock (placed i) fun b => { b with fifos := [⟨⟨0, 256, none⟩, 0, rp, cp, lp, fp⟩] }) 1
    (BitVec.ofNat 256 (2 * 2 ^ 57))) 2 a
theorem test_fifop_commit : sAfter (.fifopReserve 0 64 1 66) (fifoState (.fifopReserve 0 64 1 66) 4 0 0 0 0x10004) 0 = {} ∧
    ((fragAfter (.fifopReserve 0 64 1 66) (fifoState (.fifopReserve 0 64 1 66) 4 0 0 0 0x10004)).map fun f =>
      f.loads.map fun l => l.ss.map fun e => e.2.val) = some [[4]] := by decide +kernel
theorem test_fifop_free : ((fragAfter (.fifopClaim 0 64 1 66) (fifoState (.fifopClaim 0 64 1 66) 4 4 2 0 0x10002)).map fun f =>
    f.loads.map fun l => l.ss.map fun e => e.2.val) = some [[2]] := by decide +kernel

/-- A record from its fields. -/
def record (base space bounds e0 e1 e2 s1 s2 format : Nat) : BitVec 256 :=
  BitVec.ofNat 256 (base + space * 2 ^ 57 + bounds * 2 ^ 62 + e0 * 2 ^ 64 + e1 * 2 ^ 88 + e2 * 2 ^ 108 + s1 * 2 ^ 128 + s2 * 2 ^ 168 +
    format * 2 ^ 208)

/-- The index decompositions of R37: 12,345, and 20,000, which is out of bounds and under BOUNDS 2 clamped. -/
theorem test_record_index : recPlace (record 0x10000000 0 0 100 50 4 512 32768 6) 32 12345 = some (0x10012EB4 * 8) := by
  decide +kernel
theorem test_record_bounds : recPlace (record 0x10000000 0 0 100 50 4 512 32768 6) 32 20000 = none ∧
    recPlace (record 0x10000000 0 2 100 50 4 512 32768 6) 32 20000 = some (0x10018000 * 8) := by decide +kernel

/-- The worked repair of R439. -/
theorem test_management_read : manageRead State.reset 0x50008 8 = 0x0E100000 ∧ manageRead State.reset 0x10000 4 = 0x00FF0000 ∧
    manageRead (modChannel State.reset 2 9 fun c => takeOut { c with failed := [17] } (some 40)) 0x41124 4 = 0x080A0880 := by
  decide +kernel
theorem test_repair_word : repairWord (takeOut { failed := [17] } (some 40)) = 0x080A0880 := by decide +kernel
theorem test_repair_lanes : (let l := lanePaths (takeOut { failed := [17] } (some 40))
    l[16]? = some 16 ∧ l[17]? = some 18 ∧ l[38]? = some 39 ∧ l[39]? = some 41 ∧ l[63]? = some 65) := by decide +kernel

/-- The worked BX8 block of R61, with the tags of R78: elements 0 to 15 in lanes 0 to 15, their negations above. -/
def blockLow : List (BitVec 32) :=
  [0x41400000, 0xC1160000, 0x417E0000, 0x3FC00000, 0, 0x80000000, 0x3DC00000, 0x3D800000, 0xBDF00000, 0x3B000000,
   0x3B400000, 0x3F000000, 0x3EA00000, 0x40400000, 0xC0300000, 0x41000000]
def blockState (i : Instr) : State :=
  (blockLow ++ blockLow.map fun x => x ^^^ 0x80000000).zipIdx.foldl (fun s (e : BitVec 32 × Nat) => withV s e.2 2 e.1 24) (withType (placed i) 11)
theorem test_quantise_bytes : (let i := Instr.fcvt 0 1 2 6
    (List.range 32).map (fun k => (vAfter i (blockState i) k 1).val) =
      ([0x70, 0xE6, 0x7F, 0x46, 0x00, 0x80, 0x30, 0x20, 0xBC, 0x01, 0x02, 0x42, 0x41, 0x4C, 0xCB, 0x60,
        0xF0, 0x66, 0xFF, 0xC6, 0x80, 0x00, 0xB0, 0xA0, 0x3C, 0x81, 0x82, 0xC2, 0xC1, 0xCC, 0x4B, 0xE0] : List (BitVec 32)).map
        (0x00837C00 ||| ·)) := by decide +kernel
theorem test_quantise_tags : (let i := Instr.fcvt 0 1 2 6
    let t (k : Nat) := (vAfter i (blockState i) k 1).tag
    t 0 = 6 ∧ t 12 = 1 ∧ t 9 = 1 ∧ t 4 = 7) := by decide +kernel

/-! ### Witnesses: states and operands that meet the hypotheses of the statements -/

/-- The hypotheses `Issues` and `p` together, as a check. -/
def met (i : Instr) (s : State) (p : Ctx → Bool) : Bool :=
  match ctxOf s with
  | none => false
  | some c => (decodeCheck c i).isNone && !(collective i (modeType c.frag.mode) && !c.frag.released) &&
      (stallCheck s c i).isNone && p c

theorem meets {i : Instr} {s : State} {P : Ctx → Prop} [DecidablePred P] (h : met i s (fun c => decide (P c)) = true) :
    ∃ c, Issues i s c ∧ P c := by
  unfold met at h
  split at h
  · cases h
  · rename_i c hc
    simp only [Bool.and_eq_true, Option.isNone_iff_eq_none, Bool.not_eq_true', decide_eq_true_eq] at h
    exact ⟨c, ⟨hc, h.1.1.1, h.1.1.2, h.1.2⟩, h.2⟩

theorem all_meet {l : List Instr} {f : Instr → State} (h : l.all (fun i => met i (f i) fun _ => true) = true) :
    ∀ i ∈ l, ∃ c, Issues i (f i) c := by
  intro i hi
  have := List.all_eq_true.mp h i hi
  obtain ⟨c, hc, -⟩ := meets (P := fun _ => True) (by simpa using this)
  exact ⟨c, hc⟩

def integerForms : List Instr :=
  intPairs.map (fun e => e.1 0 1 2 (.reg 3)) ++ intImms.map (fun e => e.1 0 1 2 5) ++ intSingles.map (fun e => e.1 0 1 2) ++
  [.imad 0 1 2 (.lit 5), .bfx 0 1 2 (.reg 3), .bfi 0 1 2 (.reg 3), .addr 0 2 4 (.reg 3), .cvti 0 1 2 4,
   .pset 0 1 2, .icmpA 0 .lt 1 2 (.reg 3), .icmpB 0 .ge 1 2 0x7F] ++ predLogics.map (fun e => e.1 0 1 2 3)

theorem test_integer_forms_issue : ∀ i ∈ integerForms, ∃ c, Issues i (placed i) c := all_meet (by decide +kernel)

def moveAndControlForms : List Instr :=
  [.mov 0 1 2, .sel 0 1 2 (.reg 3), .movi 0 3 0xFFFE, .lit 0 1 7, .litWide 0 2 7, .nop 7, .mode 0 1 6, .modew 0 96, .bra 0 2,
   .brz 0 65 1, .bnz 0 65 1, .loop 0 65 1, .jmpi 0 96, .yield 0, .brp 0 3, .sigbr 0 2 3, .rcv 0, .exit 0, .wsync 0 0 (.lit 3),
   .wsync 0 64 (.reg 0), .trap 0 5, .bkpt 0 7]

theorem test_control_forms_issue : ∀ i ∈ moveAndControlForms, ∃ c, Issues i (placed i) c := all_meet (by decide +kernel)

def floatPairs : List Instr :=
  ([.fadd, .fsub, .fmul, .ffma, .ffms, .fdiv, .fmin, .fmax, .fcps, .fscale] : List (BitVec 3 → Code → Code → Src → Instr)).map
    fun f => f 0 1 2 (.reg 3)
def floatSingles : List Instr :=
  ([.fsqrt, .frcp, .frsq, .fexp2, .flog2, .fsin, .fcos, .fabs, .fneg, .frnd] : List (BitVec 3 → Code → Code → Instr)).map
    fun f => f 0 1 2
def conversions : List Instr := [.fcvt 0 1 2 8, .icvt 0 1 2 0]

def quiet (i : Instr) (s : State) : Bool :=
  met i s fun c => match floatLane s c i with | some x => trapped s c i x.2 == 0 | none => false

theorem quiet_spec {i : Instr} {s : State} (h : quiet i s = true) :
    ∃ c d f, Issues i s c ∧ floatLane s c i = some (d, f) ∧ trapped s c i f = 0 := by
  obtain ⟨c, hc, hp⟩ := meets (P := fun c => (match floatLane s c i with | some x => trapped s c i x.2 == 0 | none => false) = true)
    (by simpa [quiet] using h)
  cases hf : floatLane s c i with
  | none => simp [hf] at hp
  | some x => exact ⟨c, x.1, x.2, hc, hf, by simpa [hf] using hp⟩

/-- No form of the floating-point rules is shut out: each delivers its result on 1.0, and a conversion to BX as well. -/
theorem test_float_forms_quiet : ∀ i ∈ floatPairs ++ floatSingles ++ conversions, ∃ c d f,
    Issues i (withType (placed i) 6) c ∧ floatLane (withType (placed i) 6) c i = some (d, f) ∧
      trapped (withType (placed i) 6) c i f = 0 := by
  have h : (floatPairs ++ floatSingles ++ conversions).all (fun i => quiet i (withType (placed i) 6)) = true := by decide +kernel
  exact fun i hi => quiet_spec (List.all_eq_true.mp h i hi)
theorem test_quantise_quiet : ∃ c d f, Issues (.fcvt 0 1 2 6) (blockState (.fcvt 0 1 2 6)) c ∧
    floatLane (blockState (.fcvt 0 1 2 6)) c (.fcvt 0 1 2 6) = some (d, f) ∧
      trapped (blockState (.fcvt 0 1 2 6)) c (.fcvt 0 1 2 6) f = 0 := quiet_spec (by decide +kernel)

/-- 1.0 by 0.0 in lane 4, with the division exception enabled: lane 4 faults and the others complete. -/
def divState : State := onFrag (withV (withV (withType (placed (.fdiv 0 1 2 (.reg 3))) 6) 4 2 0x3F800000 24) 5 3 0x3F800000 24)
  fun f => { f with mode := 0x67 ||| (2 <<< 21) }
theorem test_float_trap : (match ctxOf divState with
    | some c => (match floatLane divState c (.fdiv 0 1 2 (.reg 3)) with
      | some x => trapped divState c (.fdiv 0 1 2 (.reg 3)) x.2 | none => 0)
    | none => 0) = 0x10 := by decide +kernel

theorem test_float_tests_issue : ∀ i ∈ [Instr.fcmp 0 .lt 2 0 (.reg 1), .fclass 0 1 2, .ftag 0 1 2, .ftagw 0 3 (.reg 5)],
    ∃ c, Issues i (withType (placed i) 6) c := all_meet (f := fun i => withType (placed i) 6) (by decide +kernel)

def laneForms : List Instr :=
  shufflesA.map (fun e => e.1 0 1 2 (.reg 3)) ++ shufflesB.map (fun e => e.1 0 1 2 31) ++
  [.rdlaneA 0 64 2 (.lit 31), .rdlaneB 0 1 2 31, .wrlaneA 0 1 66 (.reg 64), .wrlaneB 0 1 96 31, .wperm 0 1 2 (.reg 3), .mask 0 70 71,
   .execq 0 64] ++ votes.map (fun e => e.1 0 1 2) ++ [.voteBallot 0 66 1, .wred 0 68 6 .add, .wscan 0 1 6 .xor]

theorem test_lane_forms_issue : ∀ i ∈ laneForms, ∃ c, Issues i (placed i) c := all_meet (by decide +kernel)

theorem test_modew_legal : ∃ c, Issues (.modew 0 64) (withS (placed (.modew 0 64)) 0 0x1C1FFFFF) c ∧
    modeLegal ((readCode (withS (placed (.modew 0 64)) 0 0x1C1FFFFF) c (modeType c.frag.mode) 32 64 0).1.extractLsb' 0 32) = false :=
  meets (by decide +kernel)
theorem test_modew_takes : ∃ c, Issues (.modew 0 64) (withS (placed (.modew 0 64)) 0 0x1FFF77D7) c ∧
    modeLegal ((readCode (withS (placed (.modew 0 64)) 0 0x1FFF77D7) c (modeType c.frag.mode) 32 64 0).1.extractLsb' 0 32) = true :=
  meets (by decide +kernel)
theorem test_jump_aligned : ∃ c, Issues (.jmpi 0 64) (withS (placed (.jmpi 0 64)) 0 0xFFFFFFFFFFFFFFFC) c ∧
    (readCode (withS (placed (.jmpi 0 64)) 0 0xFFFFFFFFFFFFFFFC) c (modeType c.frag.mode) 64 64 0).1.extractLsb' 0 2 = 0 :=
  meets (by decide +kernel)
theorem test_jump_misaligned : ∃ c, Issues (.jmpi 0 64) (withS (placed (.jmpi 0 64)) 0 2) c ∧
    (readCode (withS (placed (.jmpi 0 64)) 0 2) c (modeType c.frag.mode) 64 64 0).1.extractLsb' 0 2 ≠ 0 := meets (by decide +kernel)
theorem test_mode_values : modeValueOk 0 15 = true ∧ modeValueOk 1 13 = true ∧ modeValueOk 2 3 = true ∧ modeValueOk 3 5 = true ∧
    modeValueOk 4 3 = true ∧ modeValueOk 5 63 = true ∧ modeValueOk 6 31 = true ∧ modeValueOk 7 7 = true := by decide

/-- The three ends of a branch: no lane, every member, and a split. -/
theorem test_branch_none : ∃ c, Issues (.brp 0 3) (withExec (placed (.brp 0 3)) 0) c ∧
    issueActive (withExec (placed (.brp 0 3)) 0) c = 0 := meets (by decide +kernel)
theorem test_branch_all : ∃ c, Issues (.brp 0 3) (placed (.brp 0 3)) c ∧ issueActive (placed (.brp 0 3)) c ≠ 0 ∧
    issueActive (placed (.brp 0 3)) c = c.frag.members := meets (by decide +kernel)
theorem test_branch_split : ∃ c, Issues (.brp 0 3) (withExec (placed (.brp 0 3)) 0xF) c ∧
    issueActive (withExec (placed (.brp 0 3)) 0xF) c ≠ 0 ∧ issueActive (withExec (placed (.brp 0 3)) 0xF) c ≠ c.frag.members :=
  meets (by decide +kernel)
def sigState : State := onFrag (withV (withType (placed (.sigbr 0 2 3)) 6) 5 2 0x3F800000 20) fun f => { f with mode := 0x67 ||| (21 <<< 15) }
theorem test_sigbr : ∃ c, Issues (.sigbr 0 2 3) sigState c ∧ (belowSigmin sigState c 2).getLsbD 5 = true ∧
    (belowSigmin sigState c 2).getLsbD 4 = false := meets (by decide +kernel)

theorem test_call_moves_nothing : ∃ c, Issues (.call 0 64 4) (placed (.call 0 64 4)) c ∧
    slideMoves { c.blk.hdr with depth := 512 } c.wave c.frag.members 64 = false := meets (by decide +kernel)
def callState (i : Instr) : State := onBlock (placed i) fun b => { b with hdr := { b.hdr with depth := 128 } }
theorem test_calls_slide : ∀ i ∈ [Instr.call 0 64 4, .calli 0 96 1], ∃ c, Issues i (callState i) c ∧
    slideMoves c.blk.hdr c.wave c.frag.members (if i = .call 0 64 4 then 64 else 1) = false ∧
    (readCode (callState i) c (modeType c.frag.mode) 64 96 0).1.extractLsb' 0 2 = 0 := by
  simp only [List.mem_cons, List.not_mem_nil, or_false]
  rintro i (rfl | rfl) <;> exact meets (by decide +kernel)
theorem test_calli_misaligned : ∃ c, Issues (.calli 0 97 1) (placed (.calli 0 97 1)) c ∧
    (readCode (placed (.calli 0 97 1)) c (modeType c.frag.mode) 64 97 0).1.extractLsb' 0 2 ≠ 0 := meets (by decide +kernel)
def retState (link : BitVec 64) : State :=
  onWave (withS (callState (.ret 0)) 31 link) fun w => { w with wb := (List.range 32).map fun lane => (lane, 16) }
/-- RET sends windows down to 0, and its faults: below 0, and a misaligned address. -/
theorem test_ret_slides : ∃ c, Issues (.ret 0) (retState 0x2000000000401204) c ∧
    (∀ lane ∈ laneList, c.frag.members.getLsbD lane = true → ((readS (retState 0x2000000000401204) c 31).val.extractLsb' 57 7).toNat ≤ c.wave.wbOf lane) ∧
    slideMoves c.blk.hdr c.wave c.frag.members (-16) = false := meets (by decide +kernel)
theorem test_ret_below : ∃ c, Issues (.ret 0) (retState 0x2200000000401204) c ∧ c.frag.members.getLsbD 0 = true ∧
    c.wave.wbOf 0 < ((readS (retState 0x2200000000401204) c 31).val.extractLsb' 57 7).toNat := meets (by decide +kernel)
theorem test_ret_misaligned : ∃ c, Issues (.ret 0) (retState 0x2000000000401206) c ∧
    (∀ lane ∈ laneList, ((readS (retState 0x2000000000401206) c 31).val.extractLsb' 57 7).toNat ≤ c.wave.wbOf lane) ∧
    (readS (retState 0x2000000000401206) c 31).val.extractLsb' 0 2 ≠ 0 := meets (by decide +kernel)
theorem test_wsync_empty : ∃ c, Issues (.wsync 0 0 (.lit 3)) (withExec (placed (.wsync 0 0 (.lit 3))) 0) c ∧
    issueActive (withExec (placed (.wsync 0 0 (.lit 3))) 0) c = 0 := meets (by decide +kernel)
theorem test_wsync_waits : ∃ c, Issues (.wsync 0 0 (.lit 3)) (placed (.wsync 0 0 (.lit 3))) c ∧
    issueActive (placed (.wsync 0 0 (.lit 3))) c ≠ 0 := meets (by decide +kernel)

/-- WRED and WSCAN on 1.0 raise nothing. -/
theorem test_reductions_quiet : (∃ c, Issues (.wred 0 68 6 .add) (scanState (.wred 0 68 6 .add)) c ∧
      ((reduced (scanState (.wred 0 68 6 .add)) c 6 .add).exc ||| (reduced (scanState (.wred 0 68 6 .add)) c 6 .add).sig) &&&
        modeTrapEn c.frag.mode = 0 ∧ issueActive (scanState (.wred 0 68 6 .add)) c ≠ 0) ∧
    ∃ c, Issues (.wscan 0 7 6 .add) (scanState (.wscan 0 7 6 .add)) c ∧ ∀ lane ∈ laneList,
      ((scanned (scanState (.wscan 0 7 6 .add)) c 6 .add lane).exc ||| (scanned (scanState (.wscan 0 7 6 .add)) c 6 .add lane).sig) &&&
        modeTrapEn c.frag.mode = 0 := ⟨meets (by decide +kernel), meets (by decide +kernel)⟩

/-! Memory forms, through a record of SPACE 0, the scratchpad or a FIFO bank. -/

/-- A record of 4-byte integers, or of 8-byte ones, at 0x2000, and the operand registers 0. -/
def memState (i : Instr) (space format : Nat) : State :=
  onFrag (withRec (placed i) 1 (record (if space = 0 then 0x2000 else 0) space 0 1024 1 1 0 0 format)) fun f => { f with mode := 0x17 }

def goesThrough (s : State) (c : Ctx) (f : AccessForm) (r : Rec) (d : Code) (q : Ord) (u : Bool) (ix : Nat → Nat) : Bool :=
  issueActive s c != 0 && (accessWait s c f r q (planAccess s c f r d u (issueActive s c) ix)).isNone &&
    (locateAll s c f r (planAccess s c f r d u (issueActive s c) ix)).bad.isEmpty &&
    (bytesWait s c f r (locateAll s c f r (planAccess s c f r d u (issueActive s c) ix)).pieces).isNone

theorem goesThrough_spec {s : State} {c : Ctx} {f : AccessForm} {r : Rec} {d : Code} {q : Ord} {u : Bool} {ix : Nat → Nat}
    (h : goesThrough s c f r d q u ix = true) : GoesThrough s c f r d q u ix := by
  simp only [goesThrough, Bool.and_eq_true, bne_iff_ne, ne_eq, Option.isNone_iff_eq_none, List.isEmpty_iff] at h
  exact ⟨h.1.1.1, h.1.1.2, h.1.2, h.2⟩

def loads : List Instr :=
  [.ldM 0 2 1 .plain 99, .ldMi 0 2 1 .acq 127, .ldsM 0 66 1 .plain 96, .ldsMi 0 66 1 .plain 5, .ldu 0 2 1 .plain 98, .ldx 0 2 1 .plain 98]
def stores : List Instr :=
  [.stM 0 2 1 .plain 98, .stMi 0 2 1 .rel 127, .stsM 0 66 1 .plain 96, .stsMi 0 66 1 .plain 5, .stu 0 2 1 .plain 98, .stx 0 2 1 .plain 98]

def loadMet (i : Instr) (s : State) : Bool :=
  met i s fun c => match loadOf s c i with
    | some (f, d, r, q, u, ix) => goesThrough s c f (c.record r) d q u ix
    | none => false
def storeMet (i : Instr) (s : State) : Bool :=
  met i s fun c => match storeOf s c i with
    | some (f, d, r, q, u, ix, _) => (recSpace (c.record r) != 0 || modePstore c.frag.mode) && goesThrough s c f (c.record r) d q u ix
    | none => false

theorem loadMet_spec {i : Instr} {s : State} (h : loadMet i s = true) : ∃ c f d r q u ix, Issues i s c ∧
    loadOf s c i = some (f, d, r, q, u, ix) ∧ GoesThrough s c f (c.record r) d q u ix := by
  obtain ⟨c, hc, hp⟩ := meets (P := fun c => (match loadOf s c i with
    | some (f, d, r, q, u, ix) => goesThrough s c f (c.record r) d q u ix
    | none => false) = true) (by simpa [loadMet] using h)
  split at hp
  · exact ⟨c, _, _, _, _, _, _, hc, ‹_›, goesThrough_spec hp⟩
  · cases hp

theorem storeMet_spec {i : Instr} {s : State} (h : storeMet i s = true) : ∃ c f d r q u ix k, Issues i s c ∧
    storeOf s c i = some (f, d, r, q, u, ix, k) ∧ (recSpace (c.record r) ≠ 0 ∨ modePstore c.frag.mode = true) ∧
    GoesThrough s c f (c.record r) d q u ix := by
  obtain ⟨c, hc, hp⟩ := meets (P := fun c => (match storeOf s c i with
    | some (f, d, r, q, u, ix, _) => (recSpace (c.record r) != 0 || modePstore c.frag.mode) && goesThrough s c f (c.record r) d q u ix
    | none => false) = true) (by simpa [storeMet] using h)
  split at hp
  · simp only [Bool.and_eq_true, Bool.or_eq_true, bne_iff_ne] at hp
    exact ⟨c, _, _, _, _, _, _, _, hc, ‹_›, hp.1, goesThrough_spec hp.2⟩
  · cases hp

/-- Every load form, through SPACE 0 and the scratchpad. -/
theorem test_loads_go_through : ∀ i ∈ loads, ∀ space ∈ [0, 1], ∃ c f d r q u ix, Issues i (memState i space 1) c ∧
    loadOf (memState i space 1) c i = some (f, d, r, q, u, ix) ∧ GoesThrough (memState i space 1) c f (c.record r) d q u ix := by
  have h : loads.all (fun i => ([0, 1] : List Nat).all fun space => loadMet i (memState i space 1)) = true := by decide +kernel
  exact fun i hi space hs => loadMet_spec (List.all_eq_true.mp (List.all_eq_true.mp h i hi) space hs)

/-- Every store form, through the scratchpad, and through SPACE 0 under PSTORE. -/
theorem test_stores_go_through : ∀ i ∈ stores, ∀ space ∈ [0, 1], ∃ c f d r q u ix k,
    Issues i (onFrag (memState i space 1) fun f => { f with mode := 0x04000017 }) c ∧
    storeOf (onFrag (memState i space 1) fun f => { f with mode := 0x04000017 }) c i = some (f, d, r, q, u, ix, k) ∧
    (recSpace (c.record r) ≠ 0 ∨ modePstore c.frag.mode = true) ∧
    GoesThrough (onFrag (memState i space 1) fun f => { f with mode := 0x04000017 }) c f (c.record r) d q u ix := by
  have h : stores.all (fun i => ([0, 1] : List Nat).all fun space =>
      storeMet i (onFrag (memState i space 1) fun f => { f with mode := 0x04000017 })) = true := by decide +kernel
  exact fun i hi space hs => storeMet_spec (List.all_eq_true.mp (List.all_eq_true.mp h i hi) space hs)

/-- Every store form through SPACE 0 without PSTORE passes its checks, at the wave's sixteenth posted store, a release at its
first. -/
def emptyStore (k : Nat) : StoreOp :=
  { ident := k, pc := 0, kind := 0, size := 4, fmt := 1, ord := 0, scope := 5, lanes := [] }
def isRelease : Instr → Bool
  | .stMi _ _ _ q _ => Ord.releases q
  | _ => false
def postedState (i : Instr) : State :=
  onWave (memState i 0 1) fun w => { w with posted := if isRelease i then [] else (List.range 15).map emptyStore }
theorem test_stores_are_posted : stores.all (fun i => met i (postedState i) fun c =>
    match storeOf (postedState i) c i with
    | some (f, d, r, q, u, ix, _) =>
      let p := planAccess (postedState i) c f (c.record r) d u (issueActive (postedState i) c) ix
      recSpace (c.record r) == 0 && !modePstore c.frag.mode && p.bad.isEmpty && !p.go.isEmpty && (c.wave.posted.length == 15 || isRelease i) &&
        !heldByStores c.wave (waveRecords (postedState i) c) (p.go.flatMap (·.2.ranges)) &&
        (!Ord.releases q || storesSettled (postedState i) c) && !heldOver (postedState i) c.core c.ref.block (postedLines p)
    | none => false) = true := by decide +kernel

def emptyForms : List Instr :=
  loads ++ stores ++ [.pref 0 1 98, .cwb 0 1 98, .cinv 0 1 98, .cas 0 2 1 .plain 98, .fatom 0 2 1 .plain 98, .fatomq 0 2 1 .plain 98] ++
    atoms.map fun e => e.1 0 2 1 .plain 98
def emptyState (i : Instr) : State := onFrag (withExec (memState i 0 1) 0) fun f => { f with mode := 0x67 }
theorem test_empty_forms : ∀ i ∈ emptyForms, ∃ c, Issues i (emptyState i) c ∧ issueActive (emptyState i) c = 0 := by
  have h : emptyForms.all (fun i => met i (emptyState i) fun c => decide (issueActive (emptyState i) c = 0)) = true := by
    decide +kernel
  exact fun i hi => meets (List.all_eq_true.mp h i hi)

/-- PREF, CWB and CINV without a fault, in SPACE 0 and in the scratchpad. -/
theorem test_cache_forms : ∀ i ∈ [Instr.pref 0 1 98, .cwb 0 1 98, .cinv 0 1 98], ∀ space ∈ [0, 1], ∃ c,
    Issues i (memState i space 1) c ∧ issueActive (memState i space 1) c ≠ 0 ∧ recSpace (c.record 1) = space ∧
    (planAccess (memState i space 1) c cacheAccess (c.record 1) 96 false (issueActive (memState i space 1) c)
      (recIndex (memState i space 1) c 98)).bad = [] ∧
    (locateAll (memState i space 1) c cacheAccess (c.record 1) (planAccess (memState i space 1) c cacheAccess (c.record 1) 96 false
      (issueActive (memState i space 1) c) (recIndex (memState i space 1) c 98))).bad = [] := by
  have h : [Instr.pref 0 1 98, .cwb 0 1 98, .cinv 0 1 98].all (fun i => ([0, 1] : List Nat).all fun space =>
      met i (memState i space 1) fun c => decide (issueActive (memState i space 1) c ≠ 0 ∧ recSpace (c.record 1) = space ∧
    (planAccess (memState i space 1) c cacheAccess (c.record 1) 96 false (issueActive (memState i space 1) c)
      (recIndex (memState i space 1) c 98)).bad = [] ∧
    (locateAll (memState i space 1) c cacheAccess (c.record 1) (planAccess (memState i space 1) c cacheAccess (c.record 1) 96 false
      (issueActive (memState i space 1) c) (recIndex (memState i space 1) c 98))).bad = [])) = true := by decide +kernel
  exact fun i hi space hs => meets (List.all_eq_true.mp (List.all_eq_true.mp h i hi) space hs)

theorem test_fences_issue : ∀ i ∈ [Instr.fenceAcq 0, .fenceRel 0, .fenceAr 0, .drains 0], ∃ c, Issues i (placed i) c :=
  all_meet (by decide +kernel)
theorem test_drained : ∃ c, Issues (.drains 0) (placed (.drains 0)) c ∧
    drained (placed (.drains 0)) c.core c.ref.block c.wave (c.frag.drainBound.getD (placed (.drains 0)).nextIdent) = true := meets (by decide +kernel)
def openStores (i : Instr) : State := { onWave (placed i) (fun w => { w with posted := [emptyStore 0] }) with nextIdent := 1 }
theorem test_not_drained : ∃ c, Issues (.drains 0) (openStores (.drains 0)) c ∧
    drained (openStores (.drains 0)) c.core c.ref.block c.wave (c.frag.drainBound.getD (openStores (.drains 0)).nextIdent) = false := meets (by decide +kernel)

/-- Every ATOM and CAS goes through, on 4 and on 8 bytes. -/
theorem test_atomics_go_through : (∀ e ∈ atoms, ∀ format ∈ [1, 3], ∃ c, Issues (e.1 0 2 1 .ar 98) (memState (e.1 0 2 1 .ar 98) 0 format) c ∧
      goesThrough (memState (e.1 0 2 1 .ar 98) 0 format) c (atomAccess e.2.1) (c.record 1) 2 .ar false
        (recIndex (memState (e.1 0 2 1 .ar 98) 0 format) c 98) = true) ∧
    ∀ format ∈ [1, 3], ∃ c, Issues (.cas 0 4 1 .plain 98) (memState (.cas 0 4 1 .plain 98) 0 format) c ∧
      goesThrough (memState (.cas 0 4 1 .plain 98) 0 format) c casAccess (c.record 1) 4 .plain false
        (recIndex (memState (.cas 0 4 1 .plain 98) 0 format) c 98) = true := by
  constructor
  · have h : atoms.all (fun e => ([1, 3] : List Nat).all fun format => met (e.1 0 2 1 .ar 98) (memState (e.1 0 2 1 .ar 98) 0 format) fun c =>
        decide (goesThrough (memState (e.1 0 2 1 .ar 98) 0 format) c (atomAccess e.2.1) (c.record 1) 2 .ar false
          (recIndex (memState (e.1 0 2 1 .ar 98) 0 format) c 98) = true)) = true := by decide +kernel
    exact fun e he format hf => meets (List.all_eq_true.mp (List.all_eq_true.mp h e he) format hf)
  · have h : ([1, 3] : List Nat).all (fun format => met (.cas 0 4 1 .plain 98) (memState (.cas 0 4 1 .plain 98) 0 format) fun c =>
        decide (goesThrough (memState (.cas 0 4 1 .plain 98) 0 format) c casAccess (c.record 1) 4 .plain false
          (recIndex (memState (.cas 0 4 1 .plain 98) 0 format) c 98) = true)) = true := by decide +kernel
    exact fun format hf => meets (List.all_eq_true.mp h format hf)

/-- FATOM and FATOMQ on F32 elements, the store of exact sums empty. -/
def sumState (i : Instr) : State := onFrag (memState i 0 6) fun f => { f with mode := 0x67 }
def sumMet (i : Instr) (writes : Bool) : Bool :=
  met i (sumState i) fun c =>
    let l := afterLocate (sumState i) c (sumAccess writes) (c.record 1) 2 (uniformIssue i) (recIndex (sumState i) c 98)
    goesThrough (sumState i) c (sumAccess writes) (c.record 1) 2 .plain (uniformIssue i) (recIndex (sumState i) c 98) &&
      (bytesWait (sumState i) c { sumAccess writes with writes := true } (c.record 1) l.pieces).isNone &&
      l.pieces.all (fun e => paRegion e.2.pa != 2) && (sumsShort (sumState i) (sumsNeeded (sumState i) (partitionOf c.core) 4
        (writes && !c.blk.hdr.resilient) l.pieces)).isNone
theorem test_exact_sums_go_through : sumMet (.fatom 0 2 1 .plain 98) true = true ∧ sumMet (.fatomq 0 2 1 .plain 98) false = true := by
  decide +kernel

/-! Records. -/

/-- A 256-bit record in s4 to s7. -/
def setState (i : Instr) (v : BitVec 256) : State :=
  (List.range 4).foldl (fun s j => withS s (4 + j) (v.extractLsb' (64 * j) 64)) (placed i)
theorem test_recset_legal : ∃ c, Issues (.recset 0 68 3) (setState (.recset 0 68 3) (record 0x40 1 2 8 8 8 64 64 6)) c ∧
    recCheck ((readS (setState (.recset 0 68 3) (record 0x40 1 2 8 8 8 64 64 6)) c 7).val ++
      (readS (setState (.recset 0 68 3) (record 0x40 1 2 8 8 8 64 64 6)) c 6).val ++
      (readS (setState (.recset 0 68 3) (record 0x40 1 2 8 8 8 64 64 6)) c 5).val ++
      (readS (setState (.recset 0 68 3) (record 0x40 1 2 8 8 8 64 64 6)) c 4).val) = none := meets (by decide +kernel)
/-- A BX record whose EXT0 is no multiple of 32 raises 0x05, an unknown FORMAT 0x01 (R36). -/
theorem test_recset_illegal : recCheck (record 0x40 1 2 8 8 8 64 64 11) = some 0x05 ∧
    recCheck (record 0x40 1 2 8 8 8 64 64 14) = some 0x01 ∧
    ∃ c, Issues (.recset 0 68 3) (setState (.recset 0 68 3) (record 0x40 1 2 8 8 8 64 64 11)) c := by
  refine ⟨by decide +kernel, by decide +kernel, ?_⟩
  obtain ⟨c, h, -⟩ := meets (i := .recset 0 68 3) (s := setState (.recset 0 68 3) (record 0x40 1 2 8 8 8 64 64 11))
    (P := fun _ => True) (by decide +kernel)
  exact ⟨c, h⟩
/-- RECMOD with a selector in s2 and its value in s4. -/
def recState (i : Instr) (sel v : BitVec 64) : State :=
  withS (withS (withRec (placed i) 1 (record 0x2000 0 0 1024 1 1 0 0 6)) 2 sel) 4 v
theorem test_recmod_forms : ∃ c, Issues (.recmod 0 68 1 66) (recState (.recmod 0 68 1 66) 9 6) c ∧
    (recModified (c.record 1) 9 6).map recCheck = some none := meets (by decide +kernel)
theorem test_recmod_illegal : ∃ c, Issues (.recmod 0 68 1 66) (recState (.recmod 0 68 1 66) 9 11) c ∧
    (recModified (c.record 1) 9 11).map recCheck = some none ∧
    (recModified (c.record 1) 1 3).map recCheck = some (some 0x01) := meets (by decide +kernel)
theorem test_recmod_none : ∃ c, Issues (.recmod 0 68 1 66) (recState (.recmod 0 68 1 66) 14 0) c ∧
    recModified (c.record 1) (src (recState (.recmod 0 68 1 66) 14 0) c 32 66 0).toNat 0 = none := meets (by decide +kernel)
theorem test_recget_some : ∃ c, Issues (.recget 0 68 1 66) (recState (.recget 0 68 1 66) 4 0) c ∧
    recGot (c.record 1) (src (recState (.recget 0 68 1 66) 4 0) c 32 66 0).toNat = some 1024 := meets (by decide +kernel)
theorem test_recget_none : ∃ c, Issues (.recget 0 68 1 66) (recState (.recget 0 68 1 66) 13 0) c ∧
    recGot (c.record 1) (src (recState (.recget 0 68 1 66) 13 0) c 32 66 0).toNat = none := meets (by decide +kernel)
theorem test_record_fields : ∀ sel ∈ List.range 13, (recModified (record 0x2000 0 0 1024 1 1 0 0 6) sel 0xFFFFFFFFFFFFFFFF).isSome = true := by
  decide +kernel

/-- The four rows of R207 at their limits: 256 free slots, 4 reserved, 2 committed and 2 claimed. -/
theorem test_fifo_rows : ∀ x ∈ [(Instr.fifopReserve 0 64 1 66, true, (0xFC : BitVec 64)), (.fifopReserve 0 64 1 66, true, 0x10004),
      (.fifopClaim 0 64 1 66, false, 3), (.fifopClaim 0 64 1 66, false, 0x10002), (.fifopCommit 0 64 1 66, true, 0x10000), (.fifopFree 0 64 1 66, false, 0x10000)],
    ∃ c, Issues x.1 (fifoState x.1 8 4 2 0 x.2.2) c ∧ issueActive (fifoState x.1 8 4 2 0 x.2.2) c ≠ 0 ∧
      recSpace (c.record 1) = 2 ∧ (c.blk.fifo? 0).isSome = true ∧ storesSettled (fifoState x.1 8 4 2 0 x.2.2) c = true := by
  have h : ([(Instr.fifopReserve 0 64 1 66, true, (0xFC : BitVec 64)), (.fifopReserve 0 64 1 66, true, 0x10004),
      (.fifopClaim 0 64 1 66, false, 3), (.fifopClaim 0 64 1 66, false, 0x10002), (.fifopCommit 0 64 1 66, true, 0x10000), (.fifopFree 0 64 1 66, false, 0x10000)] :
        List (Instr × Bool × BitVec 64)).all (fun x =>
    met x.1 (fifoState x.1 8 4 2 0 x.2.2) fun c => decide (issueActive (fifoState x.1 8 4 2 0 x.2.2) c ≠ 0 ∧
      recSpace (c.record 1) = 2 ∧ (c.blk.fifo? 0).isSome = true ∧ storesSettled (fifoState x.1 8 4 2 0 x.2.2) c = true)) = true := by
    decide +kernel
  exact fun x hx => meets (List.all_eq_true.mp h x hx)

/-- A word of 8 bytes of HBM, and what a store there reads back as. -/
theorem test_stored_element : memWf (memState (.ldM 0 2 1 .plain 99) 0 1).mem = true ∧
    cellsWf 0 (coreOf (memState (.ldM 0 2 1 .plain 99) 1 1) 0).sram = true ∧ State.reset.memOk ∧ isBx 3 = false ∧ (List.range 8).Nodup ∧ ∀ a ∈ List.range 8, paRegion a ≠ 3 :=
  ⟨by decide +kernel, by decide +kernel, rfl, by decide +kernel⟩

/-! Engine forms: records 1 and 2 lie in the scratchpad, P in s4. -/

def engineState (i : Instr) (da dw : BitVec 256) (p : BitVec 64) : State :=
  withS (withRec (withRec (placed i) 1 da) 2 dw) 4 p

/-- What EngineIssueForms asks of an issue that goes through, and of one that waits. -/
def queuedMet (i : Instr) (s : State) (waits : Bool) : Bool :=
  met i s fun c => match queuedForm i with
    | none => false
    | some (f, x, ra, rw, flags) =>
      let k := copiesOf s c f x ra rw
      (issueCheck s c.blk f flags k.p k.da k.dw k.irec).isNone && c.frag.copied.isNone && (listHeld s c f k).isNone &&
        match listAt s c f k with
        | .ok s' xs => (issueWait s' c f k.p (footprints c.blk f k.da k.dw k.irec xs ra.toNat rw.toNat (gatherRec k.p)).length).isSome == waits
        | _ => false

theorem queuedMet_spec {i : Instr} {s : State} {waits : Bool} (h : queuedMet i s waits = true) :
    ∃ c f x ra rw flags s' xs, Issues i s c ∧ queuedForm i = some (f, x, ra, rw, flags) ∧
      issueCheck s c.blk f flags (copiesOf s c f x ra rw).p (copiesOf s c f x ra rw).da (copiesOf s c f x ra rw).dw
        (copiesOf s c f x ra rw).irec = none ∧ ListReady s c f (copiesOf s c f x ra rw) s' xs ∧
      (issueWait s' c f (copiesOf s c f x ra rw).p (footprints c.blk f (copiesOf s c f x ra rw).da (copiesOf s c f x ra rw).dw
        (copiesOf s c f x ra rw).irec xs ra.toNat rw.toNat (gatherRec (copiesOf s c f x ra rw).p)).length).isSome = waits := by
  obtain ⟨c, hc, hp⟩ := meets (P := fun c => (match queuedForm i with
    | none => false
    | some (f, x, ra, rw, flags) =>
      let k := copiesOf s c f x ra rw
      (issueCheck s c.blk f flags k.p k.da k.dw k.irec).isNone && c.frag.copied.isNone && (listHeld s c f k).isNone &&
        match listAt s c f k with
        | .ok s' xs => (issueWait s' c f k.p (footprints c.blk f k.da k.dw k.irec xs ra.toNat rw.toNat (gatherRec k.p)).length).isSome == waits
        | _ => false) = true) (by simpa [queuedMet] using h)
  split at hp
  · cases hp
  · rename_i f x ra rw flags hq
    simp only [Bool.and_eq_true, Option.isNone_iff_eq_none] at hp
    obtain ⟨⟨⟨h1, h0⟩, h2⟩, h3⟩ := hp
    split at h3
    · refine ⟨c, f, x, ra, rw, flags, _, _, hc, hq, h1, ?_, by simpa using h3⟩
      simp only [ListReady, h0, Option.bind_none]
      exact ⟨h2, ‹_›⟩
    · cases h3

/-- Each queued form with records that it accepts: I8 tiles, F32 data, I32 indexes. -/
def scratchRec (format e0 : Nat) : BitVec 256 := record 0 1 0 e0 1 1 0 0 format
def queuedCases : List (Instr × BitVec 256 × BitVec 256 × BitVec 64) :=
  [(.wload 0 68 1, scratchRec 5 4096, 0, 0), (.mma 0 68 1, scratchRec 5 64, 0, 0x100), (.accz 0 68 2, 0, 0, 0x20000),
   (.accrd 0 68 2 0, 0, scratchRec 6 64, 0x100), (.accld 0 68 1 0, scratchRec 6 64, 0, 0x100),
   (.copy 0 68 1 2, scratchRec 6 64, scratchRec 7 64, 0), (.gather 0 68 1 2, scratchRec 6 64, scratchRec 6 64, 0x100300),
   (.scat 0 68 1 2, scratchRec 6 64, scratchRec 6 64, 0x100300), (.quant 0 68 1 2 0, scratchRec 6 64, scratchRec 11 64, 0),
   (.coll 0 68 1 2, scratchRec 6 64, scratchRec 6 64, 0x500000000)]
def queuedState (e : Instr × BitVec 256 × BitVec 256 × BitVec 64) : State :=
  withRec (engineState e.1 e.2.1 e.2.2.1 e.2.2.2) 3 (scratchRec 0 64)
theorem test_engine_forms_issue : queuedCases.all (fun e => queuedMet e.1 (queuedState e) false) = true := by decide +kernel
theorem test_engine_forms_post : queuedCases.all (fun e => queuedMet e.1 (queuedState (e.1, e.2.1, e.2.2.1, e.2.2.2 + 0x21)) false) = true := by
  decide +kernel
/-- Another wave's iron holds up the Press; a full port holds up every form. -/
theorem test_engine_forms_wait : queuedCases.all (fun e => queuedMet e.1 (onBlock (queuedState (e.1, e.2.1, e.2.2.1, e.2.2.2 + 0x21)) fun b =>
    { b with iron := some 1, ports := cellSet {} 1 { rsv := 8 } b.ports }) true) = true := by decide +kernel
/-- A reserved bit of P fails each form's check. -/
theorem test_engine_forms_fail : queuedCases.all (fun e =>
    met e.1 (queuedState (e.1, e.2.1, e.2.2.1, e.2.2.2 + 0x40)) fun c => match queuedForm e.1 with
      | some (f, x, ra, rw, flags) =>
        let s := queuedState (e.1, e.2.1, e.2.2.1, e.2.2.2 + 0x40)
        let k := copiesOf s c f x ra rw
        issueCheck s c.blk f flags k.p k.da k.dw k.irec == some 0x01
      | none => false) = true := by decide +kernel

/-! IRON and IRONP, CANCEL, OPQ and OPWAIT. -/

def ironState (i : Instr) (iron : Option Nat) (p : BitVec 64) : State :=
  onBlock (withS (placed i) 4 p) fun b => { b with iron := iron }
theorem test_iron_taken : ∃ c, Issues (.iron 0 68) (ironState (.iron 0 68) none 0x21) c ∧
    (readS (ironState (.iron 0 68) none 0x21) c 4).val.toNat < 64 ∧ portBad c.blk 0x21 = false ∧ c.blk.iron = none ∧
    c.blk.hasRoom (pPort 0x21) = true ∧ sentBefore (ironState (.iron 0 68) none 0x21) c (pPort 0x21) = false := meets (by decide +kernel)
theorem test_iron_waits : ∃ c, Issues (.iron 0 68) (ironState (.iron 0 68) (some 1) 0) c ∧ c.blk.iron = some 1 ∧ c.wave.idx ≠ 1 :=
  meets (by decide +kernel)
theorem test_ironp_passes : ∃ c, Issues (.ironp 0 68) (ironState (.ironp 0 68) (some 0) 0x4021) c ∧ c.blk.iron = some c.wave.idx ∧
    pField (readS (ironState (.ironp 0 68) (some 0) 0x4021) c 4).val 8 6 < c.blk.hdr.waves + c.blk.hdr.handlers ∧
    portBad c.blk 0x4021 = false ∧ c.blk.hasRoom (pPort 0x4021) = true ∧ storesSettled (ironState (.ironp 0 68) (some 0) 0x4021) c = true ∧
    sentBefore (ironState (.ironp 0 68) (some 0) 0x4021) c (pPort 0x4021) = false := meets (by decide +kernel)
/-- An IRONP that posts, behind a store that is not performed. -/
def ironStores : State := onWave (ironState (.ironp 0 68) (some 0) 0x4021) fun w => { w with posted := [emptyStore 0] }
theorem test_ironp_settles : ∃ c, Issues (.ironp 0 68) ironStores c ∧ c.blk.iron = some c.wave.idx ∧ portBad c.blk 0x4021 = false ∧
    storesSettled ironStores c = false := meets (by decide +kernel)
theorem test_ironp_faults : ∃ c, Issues (.ironp 0 68) (ironState (.ironp 0 68) none 0) c ∧ c.blk.iron ≠ some c.wave.idx :=
  meets (by decide +kernel)

/-- An operation in slot 0, number 1: its identifier is 0x100. -/
def anOp (st : OpState) (status : Nat) : Op :=
  { slot := 0, seq := 1, form := .wload, st := st, status := status, param := 0, mode := 0, flags := 0, wave := 0 }
def opState (i : Instr) (st : OpState) (status : Nat) : State :=
  onBlock (withS (placed i) 4 0x100) fun b => { b with ops := [anOp st status] }
theorem test_cancel_and_opq_issue : ∀ i ∈ [Instr.cancel 0 68, .opq 0 70 68, .opwait 0 70 68], ∃ c,
    Issues i (opState i .running 0) c ∧ (c.blk.opOf (src (opState i .running 0) c 64 68 0)).isSome = true := by
  have h : [Instr.cancel 0 68, .opq 0 70 68, .opwait 0 70 68].all (fun i => met i (opState i .running 0) fun c =>
      decide ((c.blk.opOf (src (opState i .running 0) c 64 68 0)).isSome = true)) = true := by decide +kernel
  exact fun i hi => meets (List.all_eq_true.mp h i hi)
theorem test_opwait_clauses : (∃ c, Issues (.opwait 0 70 68) (withS (placed (.opwait 0 70 68)) 4 5) c ∧
      c.blk.opOf (src (withS (placed (.opwait 0 70 68)) 4 5) c 64 68 0) = none) ∧
    (∃ c, Issues (.opwait 0 70 68) (opState (.opwait 0 70 68) .done 0) c ∧
      c.blk.opOf (src (opState (.opwait 0 70 68) .done 0) c 64 68 0) = some (anOp .done 0)) ∧
    ∃ c, Issues (.opwait 0 70 68) (opState (.opwait 0 70 68) .done 5) c ∧
      c.blk.opOf (src (opState (.opwait 0 70 68) .done 5) c 64 68 0) = some (anOp .done 5) ∧
      issueActive (opState (.opwait 0 70 68) .done 5) c ≠ 0 :=
  ⟨meets (by decide +kernel), meets (by decide +kernel), meets (by decide +kernel)⟩

/-! Messages. -/

def portState (i : Instr) (port : Port) (v : BitVec 64) : State :=
  onBlock (withS (placed i) 4 v) fun b => { b with ports := cellSet {} 1 port b.ports }
theorem test_send_malformed : ∀ i ∈ [Instr.send 0 68 (.reg 67), .sendp 0 68 (.reg 67)], ∃ c,
    Issues i (portState i {} (1 <<< 48)) c ∧ (src (portState i {} (1 <<< 48)) c 64 68 0).extractLsb' 48 16 ≠ 0 := by
  have h : [Instr.send 0 68 (.reg 67), .sendp 0 68 (.reg 67)].all (fun i => met i (portState i {} (1 <<< 48)) fun c =>
      decide ((src (portState i {} (1 <<< 48)) c 64 68 0).extractLsb' 48 16 ≠ 0)) = true := by decide +kernel
  exact fun i hi => meets (List.all_eq_true.mp h i hi)
theorem test_send_legal : ∀ i ∈ [Instr.send 0 68 (.reg 67), .sendp 0 68 (.reg 67)], ∃ c, Issues i (portState i {} 0x21) c ∧
    dstLegal c.blk (src (portState i {} 0x21) c 64 68 0) ∧ storesSettled (portState i {} 0x21) c = true ∧ c.frag.kept = none ∧
    placeOfBlock (portState i {} 0x21) c.blk.launch c.blk.lin = .resident 0 0 ∧ c.blk.hdr.resilient = false := by
  have h : [Instr.send 0 68 (.reg 67), .sendp 0 68 (.reg 67)].all (fun i => met i (portState i {} 0x21) fun c =>
      decide (dstLegal c.blk (src (portState i {} 0x21) c 64 68 0) ∧ storesSettled (portState i {} 0x21) c = true ∧
        c.frag.kept = none ∧ placeOfBlock (portState i {} 0x21) c.blk.launch c.blk.lin = .resident 0 0 ∧
        c.blk.hdr.resilient = false)) = true := by decide +kernel
  exact fun i hi => meets (List.all_eq_true.mp h i hi)

def peerBlock : Block := { supervisorBlock with lin := 1, hdr := placedHeader }
/-- A SEND to block 1 of a launch of two blocks: resident on core 1, ended, or not yet placed. -/
def aLaunch (grid : Nat × Nat × Nat) (ended : List Nat) : Launch :=
  { ident := 0, queue := 0, index := 0, node := 0, asid := 0, group := 0, groupLog2 := 0, hdr := placedHeader, grid := grid
    bdim := (32, 1, 1), args := 0, ended := ended }
def sendState (resilient : Bool) (peer : Bool) (ended : Option (List Nat)) : State :=
  let s := onBlock (portState (.send 0 68 (.reg 67)) {} 0x141) fun b =>
    { b with grid := (2, 1, 1), hdr := { b.hdr with resilient := resilient } }
  let s : State := if peer then modCore s 1 fun k => { k with blocks := [(0, peerBlock)] } else s
  match ended with
  | none => s
  | some l => { s with launches := [aLaunch (2, 1, 1) l] }
theorem test_send_held : ∃ c, Issues (.send 0 68 (.reg 67)) (sendState true true none) c ∧ c.blk.hdr.resilient = true ∧
    placeOfBlock (sendState true true none) c.blk.launch 1 = .resident 1 0 ∧ c.blk.lin = 0 := meets (by decide +kernel)
theorem test_send_gone : ∃ c, Issues (.send 0 68 (.reg 67)) (sendState false false (some [1])) c ∧
    placeOfBlock (sendState false false (some [1])) c.blk.launch 1 = .gone := meets (by decide +kernel)
theorem test_send_not_placed : ∃ c, Issues (.send 0 68 (.reg 67)) (sendState false false (some [])) c ∧
    placeOfBlock (sendState false false (some [])) c.blk.launch 1 = .notPlaced := meets (by decide +kernel)

/-- RECV of a malformed operand, of an empty port, of a user's message and of a failed completion. -/
theorem test_recv_malformed : ∃ c, Issues (.recv 0 72 68) (portState (.recv 0 72 68) {} 0x400) c ∧
    (src (portState (.recv 0 72 68) {} 0x400) c 64 68 0) &&& ~~~ (0x31F : BitVec 64) ≠ 0 := meets (by decide +kernel)
theorem test_recv_empty : ∃ c, Issues (.recv 0 72 68) (portState (.recv 0 72 68) {} 1) c ∧
    recvLegal c.blk (src (portState (.recv 0 72 68) {} 1) c 64 68 0) ∧ c.blk.visible (portState (.recv 0 72 68) {} 1).cycle 1 = [] := by
  exact meets (by decide +kernel)
theorem test_recv_takes : ∀ m ∈ [(⟨5, 0, 0, 0, none, 0⟩ : Msg), ⟨5, 0, 1, 4, none, 0⟩], ∃ c,
    Issues (.recv 0 72 68) (portState (.recv 0 72 68) { msgs := [m] } 1) c ∧
    recvLegal c.blk (src (portState (.recv 0 72 68) { msgs := [m] } 1) c 64 68 0) ∧
    c.blk.visible (portState (.recv 0 72 68) { msgs := [m] } 1).cycle 1 = [m] := by
  have h : [(⟨5, 0, 0, 0, none, 0⟩ : Msg), ⟨5, 0, 1, 4, none, 0⟩].all (fun m =>
    met (.recv 0 72 68) (portState (.recv 0 72 68) { msgs := [m] } 1) fun c => decide (
    recvLegal c.blk (src (portState (.recv 0 72 68) { msgs := [m] } 1) c 64 68 0) ∧
    c.blk.visible (portState (.recv 0 72 68) { msgs := [m] } 1).cycle 1 = [m])) = true := by decide +kernel
  exact fun m hm => meets (List.all_eq_true.mp h m hm)

/-- Two patterns, a wake pattern and a handler pattern, one block set, and PATEN, JWAIT, BAR and SBAR among them. -/
def patternState (i : Instr) (handler : Bool) : State :=
  onBlock (onWave (placed i) fun w => { w with handler := handler }) fun b =>
    { b with patterns := [⟨1, true, 0, 0, true⟩, ⟨2, false, 1, 0x400, true⟩], sets := [{ num := 0, rank := 0, count := 1 }] }
theorem test_patterns_issue : ∀ i ∈ [Instr.patenOn 0 1, .patenOff 0 1, .patenOn 0 2, .patenOff 0 2, .jwait 0 0, .jwait 0 1, .jwait 0 2, .bar 0, .sbar 0],
    ∀ handler : Bool, ∃ c, Issues i (patternState i handler) c ∧ c.blk.patterns.length = 2 ∧ c.wave.handler = handler ∧
      modeSetSlot c.frag.mode < c.blk.sets.length := by
  have h : [Instr.patenOn 0 1, .patenOff 0 1, .patenOn 0 2, .patenOff 0 2, .jwait 0 0, .jwait 0 1, .jwait 0 2, .bar 0, .sbar 0].all (fun i =>
      [true, false].all fun handler => met i (patternState i handler) fun c => decide (c.blk.patterns.length = 2 ∧
        c.wave.handler = handler ∧ modeSetSlot c.frag.mode < c.blk.sets.length)) = true := by decide +kernel
  exact fun i hi handler => meets (List.all_eq_true.mp (List.all_eq_true.mp h i hi) handler (by cases handler <;> simp))

/-- PORTQ of the last port and of one beyond it, and of a counting port. -/
def portqState (v : BitVec 64) : State :=
  onBlock (portState (.portq 0 72 68) { msgs := [⟨5, 0, 0, 0, none, 0⟩], ovf := true, drops := 3 } v) fun b =>
    { b with fifos := [⟨⟨0, 256, some (2, 4)⟩, 0, 4, 4, 0, 0⟩] }
theorem test_portq : (∃ c, Issues (.portq 0 72 68) (portqState 0x11F) c ∧ (src (portqState 0x11F) c 64 68 0) &&& ~~~ (0x11F : BitVec 64) = 0 ∧
      31 < c.blk.hdr.ports) ∧
    (∃ c, Issues (.portq 0 72 68) (portqState 0x20) c ∧ (src (portqState 0x20) c 64 68 0) &&& ~~~ (0x11F : BitVec 64) ≠ 0) ∧
    (∃ c, Issues (.portq 0 72 68) (portqState 1) c ∧ c.blk.counting 1 = none) ∧
    ∃ c, Issues (.portq 0 72 68) (portqState 2) c ∧ (c.blk.counting 2).isSome = true :=
  ⟨meets (by decide +kernel), meets (by decide +kernel), meets (by decide +kernel), meets (by decide +kernel)⟩

/-! Traps and service calls. -/

theorem test_traps_issue : ∀ i ∈ [Instr.trap 0 5, .bkpt 0 7], (∃ c, Issues i (placed i) c ∧ issueActive (placed i) c ≠ 0) ∧
    ∃ c, Issues i (withExec (placed i) 0) c ∧ issueActive (withExec (placed i) 0) c = 0 := by
  have h : [Instr.trap 0 5, .bkpt 0 7].all (fun i => met i (placed i) (fun c => decide (issueActive (placed i) c ≠ 0)) &&
      met i (withExec (placed i) 0) fun c => decide (issueActive (withExec (placed i) 0) c = 0)) = true := by decide +kernel
  intro i hi
  have := List.all_eq_true.mp h i hi
  simp only [Bool.and_eq_true] at this
  exact ⟨meets this.1, meets this.2⟩

/-- A context of ASID 0 whose tables, in host memory, map its first GiB to host memory. -/
def hostData : Nat := 2 ^ 48 + 2 ^ 30
def aContext : Context :=
  { asid := 0, pasid := 7, group := 0, groupLog2 := 0, ptroot := BitVec.ofNat 64 (2 ^ 48), spillBase := 0x100000, spillSize := 0x100000,
    spillSlots := 1, sigTab := 0x50000, svcCh := 0x40000 }
def contextBytes : List (Nat × List Byte) :=
  [(2 ^ 48, leBytes (2 ^ 48 + 0x1001) 8), (2 ^ 48 + 0x1000, leBytes (2 ^ 48 + 0x2001) 8),
   (2 ^ 48 + 0x2000, leBytes (hostData + 0xF) 8), (hostData + 0x40000, [4, 0x23]), (hostData + 0x50000, leBytes 0x3F90 2)]
def withContext (s : State) : State :=
  { s with contexts := [aContext], mem := contextBytes.foldl (fun m e => writeBytes m e.1 e.2) s.mem }
def asSuper (s : State) : State := onFrag s fun f => { f with super := true }

theorem test_translation : (match translate (withContext State.reset) 0 0 0x50000 accRead 0 with
    | (_, .ok pa) => some pa | _ => none) = some (hostData + 0x50000) := by decide +kernel
/-- A service call that writes its request with TAG 0; one that finds four requests pending in a channel of 16 has room, and
none in a full one. -/
theorem test_svc_written : ∃ c, Issues (.svc 0 5) (withContext (placed (.svc 0 5))) c ∧ c.frag.super = false ∧
    storesSettled (withContext (placed (.svc 0 5))) c = true ∧ c.frag.kept = none ∧ c.blk.hdr.resilient = false ∧
    (match svcRequest (withContext (placed (.svc 0 5))) c.core c.blk c.wave.idx c.frag 5 with
      | .done t tag => tag == 0 && t.outbox == [.interrupt 0 3] | _ => false) = true := meets (by decide +kernel)
def fullChannel : State :=
  let s := withContext (placed (.svc 0 5))
  { s with mem := writeBytes s.mem (hostData + 0x40008) (leBytes 16 8) }
theorem test_svc_full : ∃ c, Issues (.svc 0 5) fullChannel c ∧ c.frag.super = false ∧
    (match svcRequest fullChannel c.core c.blk c.wave.idx c.frag 5 with | .full => true | _ => false) = true := meets (by decide +kernel)
theorem test_svc_no_service : ∃ c, Issues (.svc 0 0x3F83) (placed (.svc 0 0x3F83)) c ∧ c.frag.super = false ∧
    storesSettled (placed (.svc 0 0x3F83)) c = true := meets (by decide +kernel)
def resilientState (i : Instr) : State := onBlock (placed i) fun b => { b with hdr := { b.hdr with resilient := true } }
theorem test_svc_held : ∃ c, Issues (.svc 0 5) (resilientState (.svc 0 5)) c ∧ c.blk.hdr.resilient = true ∧
    storesSettled (resilientState (.svc 0 5)) c = true := meets (by decide +kernel)
theorem test_services_issue : ∀ i ∈ [Instr.svcWdog 0, .svcDebug 0, .svcCollreg 0, .svc 0 5, .svcSigret 0 0x3F90], ∀ super : Bool, ∃ c,
    Issues i (onFrag (withContext (placed i)) fun f => { f with super := super }) c ∧ c.frag.super = super ∧
    storesSettled (onFrag (withContext (placed i)) fun f => { f with super := super }) c = true ∧ c.frag.kept = none ∧
    channelSizeOk (onFrag (withContext (placed i)) fun f => { f with super := super }) c.core c.blk.asid = true := by
  have h : [Instr.svcWdog 0, .svcDebug 0, .svcCollreg 0, .svc 0 5, .svcSigret 0 0x3F90].all (fun i => [true, false].all fun super =>
      met i (onFrag (withContext (placed i)) fun f => { f with super := super }) fun c => decide (c.frag.super = super ∧
        storesSettled (onFrag (withContext (placed i)) fun f => { f with super := super }) c = true ∧ c.frag.kept = none ∧
        channelSizeOk (onFrag (withContext (placed i)) fun f => { f with super := super }) c.core c.blk.asid = true)) = true := by
    decide +kernel
  exact fun i hi super => meets (List.all_eq_true.mp (List.all_eq_true.mp h i hi) super (by cases super <;> simp))
/-- A channel of 2^3 slots is no channel, for a device service as well. -/
def smallChannel : State :=
  let s := withContext (placed (.svcWdog 0))
  { s with mem := writeBytes s.mem (hostData + 0x40000) [3] }
theorem test_channel_size : ∃ c, Issues (.svcWdog 0) smallChannel c ∧ c.frag.super = false ∧ c.frag.kept = none ∧
    storesSettled smallChannel c = true ∧ channelSizeOk smallChannel c.core c.blk.asid = false := meets (by decide +kernel)
theorem test_sigret_code : ∀ k ∈ [(0x3F90 : Nat), 0x3F91], (sigTable (withContext State.reset) 0 0).map (fun t => sigRetcode t == k) =
    some (k == 0x3F90) := by decide +kernel

/-! System forms, from the supervisor's fragment on core 0. -/

/-- A block whose only fragment stands in a state. -/
def waitingBlock (st : FragState) (pc : Nat) : Block :=
  let f := { startFragment 0 (BitVec.allOnes 32) 7 (BitVec.ofNat 64 pc) [] with st := st }
  { supervisorBlock with hdr := placedHeader, waves := [{ restingWave 0 0 false with st := .running, frags := [f], nextFrag := 1 }] }
/-- A parked user fragment of ASID 0, entry 3 of the Hamper in service for it, and s4 with an operand. -/
def servedState (i : Instr) (v : BitVec 64) : State :=
  modCore (withContext (withS (placed i) 4 v)) 0 fun k =>
    { k with
      blocks := tabSet 5 (waitingBlock (.parked 3) 0) k.blocks
      hamper := [⟨3, .service, 5, 0, 0, 0x14, 0xF, 0xF, 9, 0, 0x40, 0, true⟩]
      darner := { k.darner with current := some (.hamper 3), entry := some 3 } }
theorem test_target : (targetPlace (servedState (.eret 0) 0) 0).isSome = true ∧ (targetContext (servedState (.eret 0) 0) 0).isSome = true := by
  decide +kernel
theorem test_rdsys_each : ∀ n ∈ [0x000, 0x001, 0x002, 0x003, 0x010, 0x011, 0x012, 0x013, 0x014, 0x015, 0x016, 0x020, 0x021, 0x022, 0x030,
    0x040, 0x041, 0x050], (readSys (servedState (.eret 0) 0) 0 n 0).isSome = true := by decide +kernel
theorem test_rdsys_issues : ∃ c, Issues (.rdsys 0 72 0x21) (servedState (.rdsys 0 72 0x21) 0) c ∧
    readSys (servedState (.rdsys 0 72 0x21) 0) c.core 0x21 0 = some 9 ∧ readSys (servedState (.rdsys 0 72 0x21) 0) c.core 0x17 0 = none :=
  meets (by decide +kernel)
def written (n : Nat) (v : BitVec 64) : Option State :=
  match writeSys (servedState (.eret 0) 0) 0 n v with | .ok t => some t | .bad _ _ => none
theorem test_wrsys_each : (∀ n ∈ [0x000, 0x001, 0x002, 0x003, 0x010, 0x011, 0x012, 0x013, 0x014, 0x015, 0x016, 0x050],
      (written n 0x64).isSome = true) ∧ written 2 0x66 = none ∧ written 0x20 0 = none := by decide +kernel
theorem test_wrsys_issues : ∃ c, Issues (.wrsys 0 68 2) (servedState (.wrsys 0 68 2) 0x40) c ∧
    sysArg (servedState (.wrsys 0 68 2) 0x40) c 68 = 0x40 := meets (by decide +kernel)
theorem test_wrsys_reads_back : ((written 0x12 0x1234000).bind fun t => readSys t 0 0x12 0) = some 0x1234000 ∧
    ((written 0 0x64).bind fun t => readSys t 0 0 0) = some 0x64 := by decide +kernel
theorem test_eret : (∃ c, Issues (.eret 0) (servedState (.eret 0) 0) c ∧ (coreOf (servedState (.eret 0) 0) c.core).darner.current.isNone = false) ∧
    ∃ c, Issues (.eret 0) (placed (.eret 0)) c ∧ (coreOf (placed (.eret 0)) c.core).darner.current.isNone = true :=
  ⟨meets (by decide +kernel), meets (by decide +kernel)⟩
theorem test_tlbi : (∃ c, Issues (.tlbi 0 68 (.reg 70)) (servedState (.tlbi 0 68 (.reg 70)) 0x20000) c ∧
      sysArg (servedState (.tlbi 0 68 (.reg 70)) 0x20000) c 68 = 0x20000 ∧ isThimble c.core = false) ∧
    ∃ c, Issues (.tlbi 0 68 (.reg 70)) (servedState (.tlbi 0 68 (.reg 70)) 0x30000) c ∧
      ((sysArg (servedState (.tlbi 0 68 (.reg 70)) 0x30000) c 68).extractLsb' 16 2).toNat = 3 :=
  ⟨meets (by decide +kernel), meets (by decide +kernel)⟩
theorem test_hrel : ∀ e ∈ releases, (∃ c, Issues (e.1 0 68) (servedState (e.1 0 68) 3) c ∧
      (entryOf (servedState (e.1 0 68) 3) c.core 3).isSome = true) ∧
    ∃ c, Issues (e.1 0 68) (servedState (e.1 0 68) 4) c ∧ entryOf (servedState (e.1 0 68) 4) c.core 4 = none := by
  have h : releases.all (fun e => met (e.1 0 68) (servedState (e.1 0 68) 3) (fun c => decide
      ((entryOf (servedState (e.1 0 68) 3) c.core 3).isSome = true)) && met (e.1 0 68) (servedState (e.1 0 68) 4) fun c =>
        decide (entryOf (servedState (e.1 0 68) 4) c.core 4 = none)) = true := by decide +kernel
  intro e he
  have := List.all_eq_true.mp h e he
  simp only [Bool.and_eq_true] at this
  exact ⟨meets this.1, meets this.2⟩
/-- An entry that is not in service, which a replay, skip or signal leaves alone. -/
theorem test_hrel_queued : ((entryOf (modCore (servedState (.hrelReplay 0 68) 3) 0 fun k =>
    { k with hamper := k.hamper.map fun e => { e with st := .queued } }) 0 3).map fun e => e.st != .service) = some true := by
  decide +kernel
theorem test_sigpost : (∀ v ∈ [(0x5 : BitVec 64), 0x1005], ∃ c, Issues (.sigpost 0 68 (.reg 70)) (servedState (.sigpost 0 68 (.reg 70)) v) c ∧
      (blockOf (servedState (.sigpost 0 68 (.reg 70)) v) c.core 5).isSome = true ∧
      sysArg (servedState (.sigpost 0 68 (.reg 70)) v) c 68 = v) ∧
    ∃ c, Issues (.sigpost 0 68 (.reg 70)) (servedState (.sigpost 0 68 (.reg 70)) 9) c ∧
      blockOf (servedState (.sigpost 0 68 (.reg 70)) 9) c.core 9 = none := by
  constructor
  · have h : [(0x5 : BitVec 64), 0x1005].all (fun v => met (.sigpost 0 68 (.reg 70)) (servedState (.sigpost 0 68 (.reg 70)) v) fun c => decide (
        (blockOf (servedState (.sigpost 0 68 (.reg 70)) v) c.core 5).isSome = true ∧
        sysArg (servedState (.sigpost 0 68 (.reg 70)) v) c 68 = v)) = true := by decide +kernel
    exact fun v hv => meets (List.all_eq_true.mp h v hv)
  · exact meets (by decide +kernel)
/-- BANKM of a bank in use, of a free one and of a malformed operand: block 5 holds scratchpad in bank 0. -/
theorem test_bankm : (∃ c, Issues (.bankm 0 72 68) (servedState (.bankm 0 72 68) 0x10) c ∧
      bankFree (coreOf (servedState (.bankm 0 72 68) 0x10) c.core) 0 1 = false) ∧
    (∃ c, Issues (.bankm 0 72 68) (servedState (.bankm 0 72 68) 0x2F) c ∧
      bankFree (coreOf (servedState (.bankm 0 72 68) 0x2F) c.core) 15 2 = true) ∧
    ∃ c, Issues (.bankm 0 72 68) (servedState (.bankm 0 72 68) 0x30) c ∧ 48 ≤ (sysArg (servedState (.bankm 0 72 68) 0x30) c 68).toNat :=
  ⟨meets (by decide +kernel), meets (by decide +kernel), meets (by decide +kernel)⟩
theorem test_pmcrd : ∃ c, Issues (.pmcrd 0 72 68) (servedState (.pmcrd 0 72 68) 0x103) c ∧
    sysArg (servedState (.pmcrd 0 72 68) 0x103) c 68 &&& ~~~ (0x7F07 : BitVec 64) = 0 ∧
    (sysArg (servedState (.pmcrd 0 72 68) 0x103) c 68).extractLsb' 9 6 = 0 := meets (by decide +kernel)

/-! Events. A small device: one block on core 0 with one wave, and an event's subject. -/

def aFrag (id : Nat) (m : Lanes) (pc : Nat) (st : FragState) : Fragment :=
  { startFragment id m 7 (BitVec.ofNat 64 pc) [] with st := st }
def aWave (fs : List Fragment) : Wave :=
  { restingWave 0 0 false with st := .running, frags := fs, nextFrag := fs.length }
def aBlock (fs : List Fragment) : Block := { supervisorBlock with hdr := placedHeader, waves := [aWave fs] }
def device (b : Block) (x : Subject) : State :=
  { modCore State.reset 0 (fun k => { k with blocks := [(0, b)] }) with subject := x }
/-- What the small device's wave and block are. -/
def waveIs (s : State) (p : Wave → Bool) : Bool := (waveOf s s.subject.core s.subject.block s.subject.wave).any p
def blockIs (s : State) (p : Block → Bool) : Bool := (blockOf s s.subject.core s.subject.block).any p
def atFrags (fs : List Fragment) : State := device (aBlock fs) {}

theorem test_rcv_ready : waveIs (atFrags [aFrag 0 0xFFFF 8 .waitRcv, aFrag 1 0xFFFF0000 8 .waitRcv]) (fun w =>
    w.rcvReady && w.lowestRcv == some 8) = true := by decide +kernel
theorem test_coll_ready : waveIs (atFrags [aFrag 0 0xFFFF 8 .waitColl, aFrag 1 0xFFFF0000 8 .waitColl]) (fun w =>
    w.collReady) = true := by decide +kernel
theorem test_sync_ready : waveIs (atFrags [aFrag 0 0xFFFF 8 (.waitSync 0xFFFFFFFF 4), aFrag 1 0xFFFF0000 16 (.waitSync 0xFFFFFFFF 8)])
    (fun w => w.syncReady 0xFFFFFFFF) = true := by decide +kernel
theorem test_mismatch : waveIs (atFrags [aFrag 0 0xFFFF 8 (.waitSync 0xFFFFFFFF 4), aFrag 1 0xFFFF0000 16 (.waitSync 0xF 8)])
    (fun w => w.frags.any fun f => !(w.mismatched f).isEmpty) = true := by decide +kernel
theorem test_deadlock : waveIs (atFrags [aFrag 0 0xFFFF 8 .waitColl, aFrag 1 0xFFFF0000 16 .waitColl]) (fun w => w.deadlocked) = true := by
  decide +kernel
theorem test_bar_ready : blockIs (atFrags [aFrag 0 0xFFFF 8 .waitBar, aFrag 1 0xFFFF0000 16 .waitBar]) Block.barReady = true := by
  decide +kernel
/-- Blocks 0 and 1 are the members of set 0: block 1 has ended, and block 0 has arrived. -/
def setLaunch : Launch := { aLaunch (2, 1, 1) [1] with hdr := { placedHeader with sets := [⟨0, 0, 2, 1⟩] } }
def setBlock : Block := { aBlock [aFrag 0 0xFFFFFFFF 8 .waitSbar] with sets := [{ num := 0, rank := 0, count := 2 }] }
theorem test_sbar_ready : setMembers setLaunch 0 = [0, 1] ∧ setBlock.arrivedAt 0 = true ∧ setLaunch.ended = [1] ∧
    residentBlock (device setBlock {}) 0 0 = some (0, 0) := by decide +kernel

/-- Fragments: an exchange, a displacement of a full quadrant, a load's data, a freed entry, the watchdog, and resumptions. -/
def active (f : Fragment) : Fragment := { f with slot := { active := true, entered := 1 } }
theorem test_exchange_at_miss : waveIs { atFrags [active { aFrag 0 0xFFFFFFFF 8 .run with loads := [{ vs := [], ss := [(4, ⟨9, 62⟩)], ready := 9, miss := some 3 }] }] with cycle := 4 }
    (fun w => w.frags.all fun f => f.slot.active && f.loads.any fun p => 4 < p.ready && p.miss == some 3) = true := by decide +kernel
theorem test_exchange : waveIs (atFrags [active (aFrag 0 0xFFFFFFFF 8 (.waitEvent .iron))]) (fun w =>
    w.frags.all fun f => f.slot.active && !f.st.keepsSlot) = true := by decide +kernel
def fullQuadrant : State :=
  let fs := (List.range 9).map fun k => let f := aFrag k (BitVec.ofNat 32 (2 ^ k)) 8 .run
    if k < 8 then { f with slot := { active := true, entered := k } } else { f with slot := { readySince := some 0 } }
  { atFrags fs with cycle := 200 }
theorem test_displacement : ((coreOf fullQuadrant 0).fragments.find? fun x => x.ref == ⟨0, 0, 8⟩).map (fun p =>
      (p.quadrant, p.darner, p.frag.slot.active, p.frag.slot.readySince)) = some (0, false, false, some 0) ∧
    (oldestActive (coreOf fullQuadrant 0) fullQuadrant.cycle 0).map (fun p => p.ref.frag) = some 0 ∧
    activeCount (coreOf fullQuadrant 0) 0 = 8 ∧ 192 ≤ fullQuadrant.cycle := by decide +kernel
theorem test_load_returns : waveIs (atFrags [{ aFrag 0 0xFFFFFFFF 8 .run with loads := [{ vs := [], ss := [(4, ⟨9, 62⟩)], ready := 0 }] }]) (fun w =>
    w.frags.all fun f => f.loads.any fun p => p.ready == 0) = true := by decide +kernel
theorem test_entry_freed : hamperSlot (coreOf (atFrags [aFrag 0 0xFFFFFFFF 8 (.waitEvent .hamper)]) 0) 0 0 = some (0, true) := by
  decide +kernel
def watchedState : State :=
  { atFrags [aFrag 0 0xFFFFFFFF 8 (.waitEvent (.svcReply 0))] with contexts := [{ aContext with wdogUs := 5 }], timebase := 5001 }
theorem test_watchdog : (placeCtx watchedState 0 ⟨0, 0, 0⟩).any (fun x => (contextOf watchedState x.blk.asid).any fun k =>
    Wait.watched (.svcReply 0) == some 1 && k.wdogUs != 0 && x.frag.waitSince + k.wdogUs * 1000 < watchedState.timebase) = true := by
  decide +kernel
def waitingDevice (n : Wait) : State :=
  device { aBlock [aFrag 0 0xFFFFFFFF 8 (.waitEvent n)] with ports := [(1, { msgs := [⟨5, 0, 0, 0, none, 0⟩] })] } {}
theorem test_resumes : (placeCtx (waitingDevice (.recv 1 72 false)) 0 ⟨0, 0, 0⟩).any (fun x =>
      (x.blk.visible (waitingDevice (.recv 1 72 false)).cycle 1).length == 1) = true ∧
    ∀ n ∈ [Wait.iron, .ironPort 1, .engineQueue 0, .enginePort 1, .scoreboardRoom 2, .opwait 5, .drains 5, .postedFull, .settled, .heldLimit 1],
      (placeCtx (waitingDevice n) 0 ⟨0, 0, 0⟩).any (fun x => waitOver (waitingDevice n) x n) = true := by decide +kernel

/-- A message on its way to port 1 of block 0, to a full port, to a retired block; and a SEND's answer on its way back. -/
def aMessage (lin : Nat) (confirm : Bool) (answer : Option (Bool × Bool)) : NetMsg :=
  { ident := 7, launch := 0, lin := lin, port := 1, msg := ⟨5, 0, 0, 0, none, 0⟩, core := 0, sender := ⟨0, 0, 0⟩, senderLaunch := 0
    senderLin := 0, confirm := confirm, answer := answer }
def netState (m : NetMsg) (full : Bool) : State :=
  { device { aBlock [aFrag 0 0xFFFFFFFF 8 (.waitEvent (.sendReply 7 1 4))] with
      ports := if full then [(1, { rsv := 8 })] else [] } { ident := 7 } with
    net := [m], launches := [aLaunch (2, 1, 1) [1]] }
theorem test_messages_arrive : ∀ confirm : Bool, (mayArrive (netState (aMessage 0 confirm none) false) (aMessage 0 confirm none) = true ∧
      placeOfBlock (netState (aMessage 0 confirm none) false) 0 0 = .resident 0 0 ∧
      blockIs (netState (aMessage 0 confirm none) false) (fun b => b.hasRoom 1) = true ∧
      blockIs (netState (aMessage 0 confirm none) true) (fun b => !b.hasRoom 1) = true) ∧
    mayArrive (netState (aMessage 1 true none) false) (aMessage 1 true none) = true ∧
    placeOfBlock (netState (aMessage 1 true none) false) 0 1 = .gone := by decide +kernel
theorem test_answer_returns : waveIs (netState (aMessage 0 true (some (false, false))) false) (fun w => w.frags.any fun f =>
    (f.awaits 7).isSome || f.keeps true 7) = true ∧
    residentBlock (netState (aMessage 0 true (some (false, false))) false) 0 0 = some (0, 0) := by decide +kernel

/-- Join firings: a wake pattern with its waiter, and a handler pattern with a dormant handler wave. -/
def joinBlock (wake : Bool) : Block :=
  { aBlock [aFrag 0 0xFFFFFFFF 8 (.waitEvent (.jwait 0))] with
    waves := [aWave [aFrag 0 0xFFFFFFFF 8 (.waitEvent (.jwait 0))], { restingWave 1 0 true with st := .dormant }]
    patterns := [⟨2, wake, 0, 0x400, true⟩], ports := [(1, { msgs := [⟨5, 0, 0, 0, none, 0⟩, ⟨6, 0, 0, 0, none, 0⟩] })] }
theorem test_firings : (joinBlock true).firing 0 = some (0, ⟨2, true, 0, 0x400, true⟩) ∧ ((joinBlock true).waiter 0).isSome = true ∧
    (joinBlock false).firing 0 = some (0, ⟨2, false, 0, 0x400, true⟩) ∧ (joinBlock false).dormant.map (·.idx) = some 1 ∧
    cellsWf {} (joinBlock true).ports = true ∧ (joinBlock true).counting 1 = none := by decide +kernel

/-- Posted stores: one whose lane translates, one whose lane faults (no context), one that has failed; and SFQ. -/
def aStore (failed : Option Nat) : StoreOp :=
  { ident := 1, pc := 0x40, kind := 0, size := 4, fmt := 1, ord := 0, scope := 5, failed := failed
    lanes := [{ lane := 3, va := 0x2000, data := 9, tag := 62, tagVa := none }] }
def storeState (asid : Nat) (failed : Option Nat) : State :=
  device { aBlock [] with asid := asid, waves := [{ aWave [] with posted := [aStore failed] }] } {}
theorem test_store_accept : (locateLanes (storeState 0 none) 0 0 (aStore none)).2.2 = [] ∧
    ((locateLanes (storeState 9 none) 0 9 (aStore none)).2.2.map fun e => e.2) = [0x09] ∧
    (blockOf (storeState 0 none) 0 0).any (fun b => b.waves.any fun w => w.store? 1 == some (aStore none) &&
      mayAccept (storeState 0 none) 0 0 b w (aStore none) []) = true ∧
    heldOver (storeState 0 none) 0 0 1 = false ∧ (coreOf (storeState 9 (some 9)) 0).records.length < 32 := by decide +kernel
/-- A store behind another to the same bytes waits; one whose request came back with poison fails as it stands. -/
def twoStores : State :=
  device { aBlock [] with waves := [{ aWave [] with posted := [aStore none, { aStore none with ident := 2 }] }] } {}
theorem test_store_order : (blockOf twoStores 0 0).any (fun b => b.waves.any fun w =>
      w.store? 2 == some { aStore none with ident := 2 } && !mayAccept twoStores 0 0 b w { aStore none with ident := 2 } [] &&
      (w.posted.takeWhile fun y => y.ident != 2) == [aStore none] && (aStore none).lanes.any fun y => y.meets 4 0x2000 4) = true ∧
    { aStore none with hit := 8 }.failed = none := by decide +kernel
def recordsState (i : Instr) (va vb : BitVec 64) : State :=
  modCore (withS (withS (placed i) 4 va) 6 vb) 0 fun k => { k with records := [⟨5, 0, 0x09, aStore none⟩] }
theorem test_sfq_issues : ∀ i ∈ [Instr.sfqPeek 0 72 68 (.reg 70), .sfqPop 0 72 68 (.reg 70), .sfqReplay 0 72 68 (.reg 70),
      .sfqDiscard 0 72 68 (.reg 70)], ∀ x ∈ [(1, 0), (64, 4), (64, 0), (64, 1), (64, 3)], ∃ c, Issues i (recordsState i (BitVec.ofNat 64 x.1) (BitVec.ofNat 64 x.2)) c ∧
    sysArg (recordsState i (BitVec.ofNat 64 x.1) (BitVec.ofNat 64 x.2)) c 68 = BitVec.ofNat 64 x.1 ∧
    readSrcWord (recordsState i (BitVec.ofNat 64 x.1) (BitVec.ofNat 64 x.2)) c (.reg 70) = BitVec.ofNat 64 x.2 := by
  have h : [Instr.sfqPeek 0 72 68 (.reg 70), .sfqPop 0 72 68 (.reg 70), .sfqReplay 0 72 68 (.reg 70), .sfqDiscard 0 72 68 (.reg 70)].all (fun i =>
      ([(1, 0), (64, 4), (64, 0), (64, 1), (64, 3)] : List (Nat × Nat)).all fun x => met i (recordsState i (BitVec.ofNat 64 x.1) (BitVec.ofNat 64 x.2)) fun c => decide (
    sysArg (recordsState i (BitVec.ofNat 64 x.1) (BitVec.ofNat 64 x.2)) c 68 = BitVec.ofNat 64 x.1 ∧
    readSrcWord (recordsState i (BitVec.ofNat 64 x.1) (BitVec.ofNat 64 x.2)) c (.reg 70) = BitVec.ofNat 64 x.2)) = true := by
    decide +kernel
  exact fun i hi x hx => meets (List.all_eq_true.mp (List.all_eq_true.mp h i hi) x hx)
theorem test_sfq_empty : ∃ c, Issues (.sfqPeek 0 72 68 (.reg 70)) (placed (.sfqPeek 0 72 68 (.reg 70))) c ∧
    (coreOf (placed (.sfqPeek 0 72 68 (.reg 70))) c.core).records = [] := meets (by decide +kernel)

/-- CTXSV of a quiet and of a busy block, CTXLD of nothing, CHKPT of a block that is resilient and of one that is not. -/
def otherState (i : Instr) (v vb : BitVec 64) (b : Block) : State :=
  modCore (withS (withS (placed i) 4 v) 6 vb) 0 fun k => { k with blocks := tabSet 5 b k.blocks }
theorem test_ctxsv : (∃ c, Issues (.ctxsv 0 72 68 (.reg 70)) (otherState (.ctxsv 0 72 68 (.reg 70)) 5 0x100000 (aBlock [])) c ∧
      (blockOf (otherState (.ctxsv 0 72 68 (.reg 70)) 5 0x100000 (aBlock [])) c.core 5).any (fun k =>
        (prepareSave (otherState (.ctxsv 0 72 68 (.reg 70)) 5 0x100000 (aBlock [])) c.core 5).2 && !k.stop.ckpt.due) = true) ∧
    (∃ c, Issues (.ctxsv 0 72 68 (.reg 70)) (otherState (.ctxsv 0 72 68 (.reg 70)) 5 0x100000 (aBlock [{ aFrag 0 1 8 .run with loads := [{ vs := [], ss := [], ready := 0 }] }])) c ∧
      (blockOf (otherState (.ctxsv 0 72 68 (.reg 70)) 5 0x100000 (aBlock [{ aFrag 0 1 8 .run with loads := [{ vs := [], ss := [], ready := 0 }] }])) c.core 5).isSome = true ∧
      (prepareSave (otherState (.ctxsv 0 72 68 (.reg 70)) 5 0x100000 (aBlock [{ aFrag 0 1 8 .run with loads := [{ vs := [], ss := [], ready := 0 }] }])) c.core 5).2
        = false) ∧
    ∃ c, Issues (.ctxsv 0 72 68 (.reg 70)) (placed (.ctxsv 0 72 68 (.reg 70))) c ∧ blockOf (placed (.ctxsv 0 72 68 (.reg 70))) c.core 0 = none :=
  ⟨meets (by decide +kernel), meets (by decide +kernel), meets (by decide +kernel)⟩
/-- A resilient block that is quiet commits before it is saved. -/
def savedResilient : Block := { aBlock [] with hdr := { placedHeader with resilient := true } }
theorem test_ctxsv_commits : ∃ c, Issues (.ctxsv 0 72 68 (.reg 70)) (otherState (.ctxsv 0 72 68 (.reg 70)) 5 0x100000 savedResilient) c ∧
    savedResilient.stop.ckpt.due = true ∧
    blockQuiet (modBlock (otherState (.ctxsv 0 72 68 (.reg 70)) 5 0x100000 savedResilient) c.core 5 Block.stop) savedResilient.stop = true :=
  meets (by decide +kernel)
def restoreState : State :=
  modCore (placed (.ctxld 0 72 68)) 0 fun k => { k with darner := { k.darner with current := some (.restore 0 0x100000) } }
theorem test_ctxld_nothing : ∃ c, Issues (.ctxld 0 72 68) restoreState c ∧ restoreAsid restoreState c.core = some 0 ∧
    (match loadImage restoreState c.core 0 (sysArg restoreState c 68).toNat with | .bad => true | _ => false) = true :=
  meets (by decide +kernel)
theorem test_chkpt : ∀ resilient : Bool, ∃ c, Issues (.chkpt 0 72 68 (.reg 70)) (otherState (.chkpt 0 72 68 (.reg 70)) 5 0x100000
      { aBlock [] with hdr := { placedHeader with resilient := resilient } }) c ∧
    (blockOf (otherState (.chkpt 0 72 68 (.reg 70)) 5 0x100000 { aBlock [] with hdr := { placedHeader with resilient := resilient } }) c.core 5).map
      (fun k => k.hdr.resilient) = some resilient ∧ c.ref.block ≠ 5 := by
  intro resilient
  cases resilient <;> exact meets (by decide +kernel)

/-! Engines: an operation of each kind at the head of the Press, a channel that takes a COPY, and completions. -/

def withOps (l : List Op) (b : Block) : Block := { b with ops := l, opFree := (List.range 28).filter fun k => !(l.any fun o => o.slot == k) }
def engineDevice (l : List Op) : State :=
  device (withOps l { aBlock [aFrag 0 0xFFFFFFFF 8 .run] with hdr := { placedHeader with accRows := 64 } }) {}
def opOfForm (f : OpForm) (slot : Nat) (da dw : BitVec 256) (p : BitVec 64) : Op :=
  { slot := slot, seq := 1, form := f, param := p, mode := 0, flags := 0, da := da, dw := dw, wave := 0 }
theorem test_press_heads : ∀ o ∈ [opOfForm .wload 0 (scratchRec 5 4096) 0 0, opOfForm .mma 0 (scratchRec 5 64) 0 0x100, opOfForm .accz 0 0 0 0x100,
      opOfForm .accrd 0 0 (scratchRec 6 64) 0x100, opOfForm .accld 0 (scratchRec 6 64) 0 0x100],
    ((handlesAfter (coreOf (engineDevice [o]) 0).press.pointer).findSome? (pressHead (engineDevice [o]) 0)).map (fun r => (r.block, r.slot)) = some (0, 0) ∧
    (opAt (engineDevice [o]) ⟨0, 0, 0⟩).map (·.2) = some o := by decide +kernel
theorem test_press_no_head : ((handlesAfter (coreOf (engineDevice []) 0).press.pointer).findSome? (pressHead (engineDevice []) 0)).isNone = true := by
  decide +kernel
/-- The last clauses of MMA: a tile of I8 that is present, and one of F16, which does not pair. -/
def tileOf (format : Nat) : Latched := ⟨scratchRec format 4096, 0, List.replicate 4096 {}, {}, true⟩
def mmaDevice (format : Nat) : State :=
  let s := engineDevice [{ opOfForm .mma 0 (scratchRec 5 64) 0 0x100 with st := .running }]
  let s := modBlock s 0 0 fun b => { b with latched := some (tileOf format) }
  modPress s 0 fun p => { p with store := (blockOf s 0 0).toList.map fun b => tileKey b 0 (tileOf format) }
theorem test_mma_tile : blockIs (mmaDevice 5) (fun b => match needTile (mmaDevice 5) ⟨0, 0, 0⟩ b (tileOf 5) with | .ok _ _ => true | _ => false) = true ∧
    formatsPair 5 5 = true ∧ recFormat (scratchRec 5 64) ≠ recFormat (tileOf 8).record ∧ (isBx 5 && isBx 8) = false := by decide +kernel
theorem test_press_idles : (let s := modPress { engineDevice [] with timebase := 2000 } 0 fun p => { p with idle := false, lastRow := 1000 }
    (coreOf s 0).press.idle = false ∧ (coreOf s 0).press.lastRow + 1000 ≤ s.timebase) := by decide +kernel
theorem test_mangle_takes : (coreOf (engineDevice [opOfForm .copy 8 (scratchRec 6 64) (scratchRec 6 64) 0]) 0).mangle.chans[0]? = some none ∧
    ((handlesAfter 0).findSome? (mangleChoice (engineDevice [opOfForm .copy 8 (scratchRec 6 64) (scratchRec 6 64) 0]) 0)).map (fun r => r.slot) =
      some 8 := by decide +kernel
theorem test_op_resumes : blockIs (engineDevice []) (fun b => stallOver (engineDevice []) ⟨0, 0, 8⟩ b
    { opOfForm .copy 8 0 0 0 with st := .stalled, stall := .page 0 0 } &&
    stallOver (engineDevice []) ⟨0, 0, 0⟩ b { opOfForm .accrd 0 0 0 0 with st := .stalled, stall := .page 0 0 }) = true ∧
    engineOf .copy = 1 ∧ engineOf .accrd ≠ 1 := by decide +kernel
theorem test_op_completes : ∀ o ∈ [{ opOfForm .copy 8 0 0 0x21 with st := .running, ended := true, status := 0 },
      { opOfForm .copy 8 0 0 0x21 with cancel := true }], o.st ≠ .done ∧ (o.ended = true ∨ o.cancel = true) ∧
    (opAt (engineDevice [o]) ⟨0, 0, 8⟩).map (·.2) = some o := by decide +kernel
/-- A member of a collective group whose pairing has its result. -/
def collDevice : State :=
  { engineDevice [{ opOfForm .coll 24 (scratchRec 6 64) (scratchRec 6 64) 0x500000000 with st := .running, phase := .exchange }] with
    contexts := [{ aContext with collGroups := [⟨5, [(0, 0, 0)]⟩] }]
    contributions := [⟨0, 5, 0, 0, 0, 0x500000000, 6, 0, [], some [], 0, none⟩] }
theorem test_collective : blockIs collDevice (fun b => (collGroupOf collDevice b 5).isSome) = true ∧
    collDevice.contributions.map (fun x => x.result.isSome && x.failed.isNone) = [true] := by decide +kernel

/-! The Darner and checkpoints. -/

def darnerState (events : List DarnerEvent) (routines : Bool) : State :=
  modCore (atFrags [aFrag 0 0xFFFFFFFF 8 (.parked 3)]) 0 fun k =>
    { k with hamper := [⟨3, .queued, 0, 0, 0, 0x14, 0xF, 0xF, 9, 0, 0x40, 0, true⟩]
             darner := { k.darner with events := events, routines := routines } }
theorem test_darner_events : nextDarnerEvent (coreOf (darnerState [] true) 0) = some (.hamper 3) ∧
    nextDarnerEvent (coreOf (darnerState [.service ⟨0, 0, 0⟩ 0x3F80, .granules ⟨0, 0, 0⟩] true) 0) = some (.granules ⟨0, 0, 0⟩) ∧
    (serveEvent (modCore (darnerState [] true) 0 fun k => takeEvent k (.hamper 3)) 0 (.hamper 3)).2 = true := by decide +kernel
/-- Supervisor code at the event PCs takes what is no service of the memory-management unit or of Dibor's request. -/
theorem test_darner_code : nextDarnerEvent (coreOf (darnerState [] false) 0) = some (.hamper 3) ∧
    nextDarnerEvent (coreOf (darnerState [.granules ⟨0, 0, 0⟩] false) 0) = some (.granules ⟨0, 0, 0⟩) ∧
    nextDarnerEvent (coreOf (darnerState [.sumRequest ⟨0, 0, 0⟩ 0] false) 0) = some (.sumRequest ⟨0, 0, 0⟩ 0) ∧
    (DarnerEvent.hamper 3).rank ≠ 2 ∧ (DarnerEvent.granules ⟨0, 0, 0⟩).rank = 2 := by decide +kernel
/-- A swap-out of a block with a load in flight is not done with. -/
def busyBlock : State := atFrags [{ aFrag 0 1 8 .run with loads := [{ vs := [], ss := [], ready := 0 }] }]
theorem test_swap_waits : (serveEvent (modCore (notifyDarner busyBlock 0 (.swapOut 0 0x100000)) 0 fun k =>
    takeEvent k (.swapOut 0 0x100000)) 0 (.swapOut 0 0x100000)).2 = false := by decide +kernel
theorem test_darner_stopped : (modCore (atFrags []) 0 fun k => { k with darner := { k.darner with stopped := some (1, 0, 0) } }).cores.map
    (fun e => e.2.darner.stopped.isSome) = [true] := by decide +kernel
def resilientDevice (due : Bool) : State :=
  { device { aBlock [aFrag 0 0xFFFFFFFF 8 .run] with hdr := { placedHeader with resilient := true, ckInterval := 1000 }, ckpt := { due := due } } {} with
    timebase := 10 ^ 12 }
theorem test_checkpoints : blockIs (resilientDevice false) (checkpointDue (resilientDevice false)) = true ∧
    blockIs (resilientDevice true) (fun b => b.hdr.resilient && b.ckpt.due && blockQuiet (resilientDevice true) b) = true := by
  decide +kernel

/-! Errors, HBM and firmware. -/

/-- A log that is enabled and has room, and a full one. -/
def logState (wr : BitVec 64) : State := { State.reset with log := { ctl := 0x600 + 4, wr := wr } }
theorem test_log : (logState 0).log.ctl.getLsbD 10 = true ∧ ((logState 0).log.wr - (logState 0).log.rd).toNat ≠ 2 ^ ((logState 0).log.ctl.toNat % 16) ∧
    ((logState 16).log.wr - (logState 16).log.rd).toNat = 2 ^ ((logState 16).log.ctl.toNat % 16) ∧ State.reset.log.ctl.getLsbD 10 = false ∧
    cellsWf 0 State.reset.log.ce = true := by decide +kernel
theorem test_hbm : (0 ∈ lanePaths (channelOf State.reset 7 31)) ∧ (66 ∉ lanePaths (channelOf State.reset 7 31)) ∧
    (0 ∈ linePaths (channelOf State.reset 7 31)) ∧ cellsWf {} State.reset.hbm.eyes = true ∧ cellsWf {} State.reset.hbm.channels = true ∧
    cellsWf eyeThrReset State.reset.hbm.eyeThr = true ∧ cellsWf {} State.reset.hbm.spares = true := by decide +kernel
def channelState (c : Channel) : State := { State.reset with hbm := { channels := [(31, c)], eyes := [(31 * 512 + 17, { valid := true, width := 1 })] }, subject := { channel := 31 } }
theorem test_channels : nextChannel (channelState { rtReq := true }) 0 = some (31, false) ∧
    nextChannel (channelState { repReq := true, rtReq := true }) 0 = some (31, true) ∧
    weakestPath (channelState { repReq := true }) 0 31 = some 17 ∧
    weakestPath (channelState { repReq := true, failed := [3, 9] }) 0 31 = some 17 := by decide +kernel
/-- A bank that has reported an uncorrectable event asks for the spare. -/
def spareState (st : Nat) : State :=
  { State.reset with hbm := { failing := [(5, 3)], spares := if st = 0 then [] else [(5, { bptr := 65536, bank := 3, st := st })] }
                     subject := { channel := 5 } }
theorem test_spares : spareTrigger (spareState 0) 5 3 = true ∧ (cellGet ({} : Spare) 5 (spareState 0).hbm.spares).st = 0 ∧
    (cellGet ({} : Spare) 5 (spareState 1).hbm.spares).st = 1 ∧ (cellGet ({} : Spare) 5 (spareState 1).hbm.spares).bptr = 65536 := by
  decide +kernel
theorem test_firmware : State.reset.firmware.booted = true ∧ State.reset.firmware.standby = true ∧ State.reset.firmware.suspended = false ∧
    State.reset.firmware.mailboxes = [] ∧ State.reset.queues = [] ∧ State.reset.power.groups = 0 := by decide +kernel
theorem test_takeover_overdue : State.reset.firmware.lastBeat + 30000 ≤ { State.reset with timebase := 30000 }.timebase := by decide

/-! Queues: queue 0 of ASID 0 with a ring of 16 at 0x60000 and its packets. -/

def aQueueDesc : BitVec 256 :=
  BitVec.ofNat 256 (0x60000 + 0x70000 * 2 ^ 64 + 4 * 2 ^ 144 + 4 * 2 ^ 160 + 2 ^ 165)
def aPacket (type : Nat) (st : PacketState) (more : Nat) : Packet := { index := 0, st := st, raw := BitVec.ofNat 512 (type + more) }
def queueState (l : List Packet) : State :=
  { withContext State.reset with queues := [(0, { desc := aQueueDesc, widx := 1, packets := l })] }
theorem test_descriptor : descriptorBad aQueueDesc = false ∧ queueEnabled aQueueDesc = true ∧ lockedGroup State.reset 0 = none ∧
    acceptsPackets State.reset 0 = true := by decide +kernel
/-- The packet at RIDX is all zeros: TYPE 0 is no packet. -/
theorem test_fetch_fails : takesPackets (queueState []) 0 = true ∧ fetchedPacket (queueState []) 0 = none ∧
    (match diborRead (queueState []) 0 0x60000 64 with
    | .ok t raw => pkFail (packetBits raw) == some 0x30 && (writeRidx t 0 0 0x70000 1).1.isSome
    | _ => false) = true := by decide +kernel
/-- The word of a packet at RIDX: an agent packet, a kernel packet of an empty grid, of a header that cannot be read, and of one
whose page is not present. -/
def packetState (l : List (Nat × Nat)) : State :=
  let s := queueState []
  { s with mem := l.foldl (fun m e => writeBytes m (hostData + 0x60000 + e.1) (leBytes e.2 8)) s.mem }
def heldPacket (l : List (Nat × Nat)) : State × BitVec 512 :=
  match diborRead (packetState l) 0 0x60000 64 with
  | .ok t raw => (modQueue t 0 fun x => { x with packets := x.packets ++ [{ index := 0, st := .fetched, raw := packetBits raw }] },
      packetBits raw)
  | _ => (State.reset, 0)
def checked (l : List (Nat × Nat)) : Nat :=
  match checkKernel (heldPacket l).1 0 2 (heldPacket l).2 with | .ok _ _ => 0 | .wait _ => 1 | .bad _ _ => 2
theorem test_fetch_checks : (pkFail (heldPacket [(0, 3)]).2 = none ∧ pkType (heldPacket [(0, 3)]).2 = 3) ∧
    (writeRidx (heldPacket [(0, 3)]).1 0 0 0x70000 1).1.isSome = true ∧
    (∀ x ∈ [([(0, 0x0001000100010001)], 0), ([(0, 0x0001000100010001), (8, 0x100000001), (16, 1), (24, 2 ^ 31)], 1),
        ([(0, 0x0001000100010001), (8, 0x100000001), (16, 1)], 2)],
      pkFail (heldPacket x.1).2 = none ∧ pkType (heldPacket x.1).2 = 1 ∧ checked x.1 = x.2) := by decide +kernel
theorem test_packet_steps : (packetOf (queueState [aPacket 3 .held 0]) 0 0).isSome = true ∧ pkType (aPacket 1 .ordered 0).raw = 1 ∧
    pkType (aPacket 2 .ordered 0).raw = 2 ∧ pkArgs (aPacket 2 .ordered 0).raw = 0 ∧ pkDeps (aPacket 4 .ordered 0).raw = [] ∧
    pkDeps (aPacket 4 .ordered (0x80000 * 2 ^ 192)).raw = [0x80000] ∧
    (match diborRead (queueState [aPacket 4 .ordered (0x80000 * 2 ^ 192)]) 0 0x80000 8 with | .ok _ w => leNat (w.take 1) == 0 | _ => false) = true ∧
    packetOver (queueState [aPacket 3 .completing 0]) 0 (aPacket 3 .completing 0) = false ∧
    (writeCompletion (queueState [aPacket 3 .completing 0]) 0 0 (aPacket 3 .completing 0).raw 0 0).1.isSome = true := by decide +kernel
/-- The nodes of a graph: one to be skipped, one without a launch, and one whose launch is over. -/
def graphState (x : Node) (l : List Launch) : State :=
  { queueState [{ aPacket 2 .dispatching 0 with nodes := [x] }] with launches := l }
def aNode (st : NodeState) (skip : Bool) : Node := { packet := 1, succs := [], counter := 0, st := st, skip := skip }
def nodeLaunch : Launch := { aLaunch (1, 1, 1) [0] with ident := launchIdent 0 0 1, node := 1, nextBlock := 1 }
theorem test_node_completes : (∀ x ∈ [aNode .ready true, aNode .running false],
      (packetOf (graphState x []) 0 0).bind (fun p => p.nodes[0]?) = some x ∧ launchOf (graphState x []) (launchIdent 0 0 1) = none ∧
      (writeCompletion (graphState x []) 0 0 x.packet 0x35 0).1.isSome = true) ∧
    launchOf (graphState (aNode .running false) [nodeLaunch]) (launchIdent 0 0 1) = some nodeLaunch ∧ launchOver nodeLaunch = true ∧
    (writeCompletion (modPacket (countEvent (endLaunch (graphState (aNode .running false) [nodeLaunch]) nodeLaunch.ident) 0 14 1) 0 0 fun y =>
      { y.modNode 0 (fun z => { z with status := launchStatus nodeLaunch, killed := nodeLaunch.killed }) with
        killed := y.killed + nodeLaunch.killed }) 0 0 1 (launchStatus nodeLaunch) 0).1.isSome = true := by decide +kernel
/-- A launch of one block that finds room: kernel packet 0 of queue 0, dispatching. -/
def queuedLaunch : Launch := { aLaunch (1, 1, 1) [] with hdr := { placedHeader with scratch := 4096, argBytes := 0, depth := 16, waves := 1 } }
def scheduleState : State :=
  { queueState [{ aPacket 1 .dispatching 0 with hdr := some queuedLaunch.hdr }] with
    launches := [queuedLaunch], power := { groups := 8 }, cores := [(0, { enabled := true })] }
theorem test_schedules : (let s := (groupQueues scheduleState 0).foldl (fun t y => refreshQueue t 0 y) (clearReserved scheduleState 0)
    lowestPass s ((groupQueues s 0).filter fun y => (queueOf s y).wasReady) = some 0 ∧
    (dispatching s 0).any (fun l => match placeDecision s l with | .done _ => true | _ => false) = true ∧
    (groupOf s 0).reserved = none) := by decide +kernel
theorem test_reserves : (let s := { modQueue scheduleState 0 (fun k => { k with unreadySince := some 0 }) with timebase := 100000 }
    lowestPass s ((groupQueues s 0).filter fun y => wantsRoom s y) = some 0 ∧ (queueOf s 0).unreadySince = some 0) := by decide +kernel
theorem test_retires : (let b : Block := { aBlock [] with waves := [{ aWave [] with st := .ended }] }
    retires (device b {}) 0 0 b = true) := by decide +kernel

/-! Posts and links. -/

/-- A message for port 1 of block 0 of launch 0, and the block with room and without. -/
def aPost : BitVec 256 := BitVec.ofNat 256 (2 ^ 96 + 5 * 2 ^ 192)
def postState (full : Bool) : State :=
  { device { aBlock [aFrag 0 0xFFFFFFFF 8 (.waitEvent (.svcReply 0))] with ports := if full then [(1, { rsv := 8 })] else [] } {} with
    launches := [aLaunch (1, 1, 1) []], contexts := [aContext] }
theorem test_posts : (aPost.extractLsb' 112 8).toNat = 0 ∧ aPost.extractLsb' 120 8 = 0#8 ∧ aPost.extractLsb' 144 48 = 0#48 ∧
    (launchOf (postState false) (aPost.extractLsb' 0 64).toNat).isSome = true ∧ placeOfBlock (postState false) 0 0 = .resident 0 0 ∧
    blockIs (postState false) (fun b => b.hasRoom 1 && (b.counting 1).isNone) = true ∧ blockIs (postState true) (fun b => !b.hasRoom 1) = true := by
  decide +kernel
theorem test_replies : inGroup 0 0 0 = true ∧ (residentBlocks (postState false) fun b => b.asid == 0) = [(0, 0)] ∧
    (replyToBlock (postState false) 0 0 0 5 0x40000).2 = true := by decide +kernel
/-- A page request of Hamper entry 3 of core 0, which awaits the host. -/
def pageState : State :=
  { modCore (postState false) 0 (fun k => { k with hamper := [⟨3, .hw, 0, 0, 0, 0x07, 0xF, 0xF, 0x9000, 0, 0x40, 0, true⟩] }) with
    pageRequests := [{ asid := 0, page := 9, access := 0, entries := [(0, 3)], ops := [], launch := 0, target := 3 }] }
theorem test_resolution : (requestOf pageState 0 3).isSome = true ∧ pageState.firmware.booted = true := by decide +kernel
theorem test_context_memory : memWf (withContext State.reset).mem = true := by decide +kernel
theorem test_walks : (match translate (withContext State.reset) 128 0 0x5000 accRead 0xFB00 with | (_, .ok _) => true | _ => false) = true ∧
    (match translate State.reset 128 5 0x5000 accRead 0xFB00 with | (_, .bad code) => code == 9 | _ => false) = true := by decide +kernel
theorem test_links : ((withContext State.reset).contexts.find? fun x => x.pasid == 7).isSome = true ∧ State.reset.links.cxlDown = [] ∧
    windowPartition (2 ^ 48) = none ∧ poisoned State.reset 0 8 = false ∧ peerForm 0x104 (.read 8) = true ∧ peerForm 0x1FC (.read 8) = false ∧
    admits State.reset (.host 0) 0 (.write [1]) = true ∧ admits State.reset (.peer 3) 0 (.read 8) = true ∧
    admits State.reset (.peer 3) 0 (.write [1]) = false := by decide +kernel
/-- An invalidation behind a store that a resilient block still holds for host memory, and bytes that such a block holds between
its read and its write. -/
def holdingDevice (k : Checkpoint) : State :=
  { device { aBlock [] with hdr := { placedHeader with resilient := true }, ckpt := k } {} with invalidations := [⟨4, true, 7⟩], nextIdent := 5 }
theorem test_invalidation_waits : storesBefore (holdingDevice { effects := [.store 2 0x40 [1]] }) 4 = true ∧
    storesBefore (holdingDevice {}) 4 = false := by decide +kernel
theorem test_locked_bytes : lockedBytes (holdingDevice { locked := [0x104] }) none false ((List.range 1).map (0x104 + ·)) = true ∧
    lockedBytes (holdingDevice { held := [(0x104, some 1)] }) none true ((List.range 1).map (0x104 + ·)) = true ∧
    lockedBytes (holdingDevice { held := [(0x104, some 1)] }) none false ((List.range 1).map (0x104 + ·)) = false ∧
    lockedBytes (holdingDevice {}) none true ((List.range 1).map (0x104 + ·)) = false := by decide +kernel
theorem test_window : windowPartition 0x104 = some 0 ∧ windowPartition (0x104 + extBytes (.read 8) - 1) = some 0 := by
  constructor <;> (unfold windowPartition Config.windowBytes; cases Config.largeMemory <;> decide)

/-! Contexts and confidentiality. -/

def newSpec : ContextSpec := ⟨9, 3, 0, 0, 0, 0, 0, 0, 0, 0⟩
theorem test_contexts : mayCreate State.reset newSpec = true ∧ mayCreate State.reset { newSpec with asid := 0 } = false ∧
    (contextOf (withContext State.reset) 0).isSome = true ∧ State.reset.preempts = [] := by decide +kernel
/-- A context that has begun to end, while a packet of its queue has still a word to write, and one that has not. -/
def endingState (ending : Bool) : State :=
  { queueState [{ aPacket 1 .completing 0 with status := 0x36 }] with contexts := [{ aContext with ending := ending }] }
theorem test_endings : ∀ ending : Bool, (contextOf (endingState ending) 0).map Context.ending = some ending ∧
    awaitsWords (endingState ending) 0 = true ∧ awaitsWords (withContext State.reset) 0 = false ∧
    queueAsid (queueOf (endingState ending) 0).desc = 0 := by decide +kernel
def preemptState (swapping : Bool) : State :=
  { device { aBlock [] with asid := 9 } { asid := 9 } with preempts := [⟨.context 9, 0, 200000, swapping⟩], timebase := 1200000 }
theorem test_preempts : ∀ swapping : Bool, subjectPreempt (preemptState swapping) = some ⟨.context 9, 0, 200000, swapping⟩ ∧
    targetBlocks (preemptState swapping) (.context 9) = [(0, 0)] := by decide +kernel
theorem test_quarantine : (let s := { State.reset with quarantine := [{ asid := 9, since := 0, outstanding := 0, completions := 0, bytes := 0 }], subject := { asid := 9 } }
    (s.quarantine.find? fun y => y.asid == s.subject.asid).isSome = true ∧ contextOf s s.subject.asid = none ∧
    (contextOf { s with contexts := [{ aContext with asid := 9 }] } s.subject.asid).isSome = true) := by decide +kernel
theorem test_interfaces : (groupOf State.reset 0).tdisp = .unlocked ∧ (groupOf (modGroup State.reset 0 fun x => { x with tdisp := .locked }) 0).tdisp = .locked ∧
    (groupOf (modGroup State.reset 0 fun x => { x with tdisp := .run }) 0).tdisp = .run := by decide +kernel

/-! The machine as a whole. -/

theorem test_own_word : Instr.wf (.ldM 0 5 0 .plain 0x63) = true ∧ Instr.hasOwnWord (.ldM 0 5 0 .plain 0x63) = true ∧
    Instr.wf (.iaddA 0 6 1 (.lit 0xDEADBEEF)) = true ∧ Instr.hasOwnWord (.iaddA 0 6 1 (.lit 0xDEADBEEF)) = true := by decide

/-- A step that runs the instruction at the PC: IADD v6, v1, 0xDEADBEEF under U32 as the first instruction after reset. -/
def fetched (nbits w : Nat) : State := State.withFetchWord State.reset nbits w
theorem test_step_runs : (match step (fetched 64 0xDEADBEEF040180FF) with
    | .next t => (waveOf t 0 0 0).map fun w => (w.frags.map (·.pc), (cellGet ({} : VReg) (w.cell 5 6) w.regs).val)
    | _ => none) = some ([8], 0xDEADBEEF) := by decide +kernel
theorem test_step_faults_on_unassigned : (match step (fetched 32 0x1DC00000) with
    | .next t => (coreOf t 0).hamper.map fun e => (e.code, e.info)
    | _ => []) = [(0x01, 0x1DC00000)] := by decide +kernel
/-- A quadrant in the second issue cycle of a vector FFMA on F64. -/
theorem test_step_busy : (let s := modCore (fetched 32 0) 0 fun k => { k with busy := [(0, 9)] }
    let s0 := { s with agenda := [] }
    s.agenda = [.issue 0 0] ∧ s0.cycle < cellGet 0 0 (coreOf s0 0).busy) := by decide +kernel
/-- The hypotheses of a step that runs the decoded instruction. -/
theorem test_step_hypotheses : (let s := fetched 64 0xDEADBEEF040180FF
    let s0 := { s with agenda := [] }
    s.power.on = true ∧ s.agenda = [.issue 0 0] ∧ (pickIssue (readyList s0 0 0)).any (fun p =>
      let s1 := accountIssue (if takesTwo s0 0 p then modCore s0 0 fun k => { k with busy := cellSet 0 0 (s0.cycle + 2) k.busy } else s0)
        0 0 (readyList s0 0 0) [p]
      cellGet 0 0 (coreOf s0 0).busy ≤ s0.cycle && (fusionPartner s0 0 (readyList s0 0 0) p).isNone && ((readyList s0 0 0).filter fun x => x.ref == p.ref).length == 1 &&
      (placeCtx s1 0 p.ref).any fun c => !slideMoves c.blk.hdr c.wave c.frag.members 0 && c.frag.pc.toNat < 2 ^ 57 &&
        (pcMatch s1 c).isNone && (match fetchInstr s1 0 0 c.blk 0 with | .ok _ i _ => i == .iaddA 0 6 1 (.lit 0xDEADBEEF) | _ => false)) = true) := by
  decide +kernel
theorem test_fetch_hypotheses : (match translate (fetched 32 0) 0 0 (BitVec.ofNat 64 0) accExec 0 with
    | (t, .ok pa) => pa == 0 && !poisoned t pa 4 && (cellGet [] (pa / 4) t.overwritten).isEmpty
    | _ => false) = true := by decide +kernel
theorem test_step_goes_on : ∃ t, step State.reset = .next t := ⟨_, rfl⟩

/-- Each check of R100, R101, R105 and R167 that comes before a form's own rule: a privileged form of user level, a form that
TYPE forbids, a collective that waits, and a read before its producer's latency under CHECK. -/
def userState (i : Instr) : State := onFrag (placed i) fun f => { f with super := false }
theorem test_privileged : (ctxOf (userState (.eret 0))).any (fun c => privilegedOpcode (opcodeOf (firstWord (.eret 0))) && !c.frag.super) = true := by
  decide +kernel
theorem test_type_forbids : (ctxOf (withType (placed (.fadd 0 1 2 (.reg 3))) 0)).any (fun c =>
    !decodeOk c.blk.hdr c.frag.mode (.fadd 0 1 2 (.reg 3)) && !privilegedOpcode (opcodeOf (firstWord (.fadd 0 1 2 (.reg 3))))) = true := by decide +kernel
theorem test_collective_waits : (ctxOf (onFrag (placed (.wred 0 68 6 .add)) fun f => { f with released := false })).any (fun c =>
    decodeOk c.blk.hdr c.frag.mode (.wred 0 68 6 .add) && collective (.wred 0 68 6 .add) (modeType c.frag.mode) && !c.frag.released) = true := by
  decide +kernel
def earlyState : State := onFrag (placed (.iaddA 0 1 2 (.reg 3))) fun f =>
  { f with mode := f.mode ||| 0x08000000, prods := [{ code := 2, ready := 100 }] }
theorem test_early_read : (ctxOf earlyState).any (fun c => decodeOk c.blk.hdr c.frag.mode (.iaddA 0 1 2 (.reg 3)) && modeCheck c.frag.mode &&
    issueActive earlyState c != 0 && earlyRead earlyState c (.iaddA 0 1 2 (.reg 3)) == some 2) = true := by decide +kernel
theorem test_no_focus : encode (.eret 0) ≠ [] ∧ (ctxOf State.reset).isNone = true ∧ Instr.wf (.unassignedOpcode 0x1DC00000) = true := by
  decide +kernel

/-- A fault of the supervisor, one without a free entry, a whole fragment's, and one of some lanes. -/
def faultPlace (i : Instr) : Option Nat := (ctxOf (placed i)).map fun c => c.ref.block
theorem test_fault_places : faultPlace (.eret 0) = some 64 ∧ faultPlace (.nop 0) = some 0 ∧
    hamperSlot (coreOf (placed (.nop 0)) 0) 0 0 = some (0, true) ∧
    (ctxOf (placed (.nop 0))).any (fun c => c.frag.members == 0xFFFFFFFF && c.frag.members &&& 0xF != 0) = true := by decide +kernel
def noEntry : State := modCore (placed (.nop 0)) 0 fun k =>
  { k with hamper := (List.range 64).map fun n => ⟨n, .queued, 0, 0, 9, 0x14, 0, 0, 0, 0, 0, n, decide (n = 0)⟩ }
theorem test_no_entry_free : hamperSlot (coreOf noEntry 0) 0 0 = none := by decide +kernel

/-- The frame's premises: a form of one destination goes on, with every exception disabled. -/
theorem test_frame_premises : ∃ c, Issues (.iaddA 0 1 2 (.reg 3)) (placed (.iaddA 0 1 2 (.reg 3))) c ∧ modeTrapEn c.frag.mode = 0 ∧
    (destinations (modeType c.frag.mode) (.iaddA 0 1 2 (.reg 3))).isSome = true ∧
    (match exec (.iaddA 0 1 2 (.reg 3)) (placed (.iaddA 0 1 2 (.reg 3))) with | .next _ => true | _ => false) = true := meets (by decide +kernel)
theorem test_read_back_premises : (ctxOf (placed (.iaddA 0 1 2 (.reg 3)))).any (fun c => cellsWf {} c.wave.regs && cellsWf {} c.frag.s &&
    cellsWf 0 c.wave.preds && !uniformIssue (.iaddA 0 1 2 (.reg 3))) = true ∧ uniformIssue (.iaddA 0 64 65 (.reg 66)) = true := by decide +kernel

/-! ### Further witnesses -/


/-! ### Witnesses for single clauses -/

/-- `met`, of a condition on the state and the place. -/
def shows (i : Instr) (s : State) (p : State → Ctx → Bool) : Bool := met i s (p s)

theorem shows_spec {i : Instr} {s : State} {p : State → Ctx → Bool} (h : shows i s p = true) : ∃ c, Issues i s c ∧ p s c = true :=
  meets (P := fun c => p s c = true) (by simpa [shows] using h)

/-- A signalling NaN in lane 4, with the invalid exception enabled: FCMP, and WRED and WSCAN over it. -/
def signalling (i : Instr) : State :=
  onFrag (withV (withV (withType (placed i) 6) 4 2 0x7F800001 24) 4 6 0x7F800001 24) fun f => { f with mode := 0x67 ||| (1 <<< 21) }
theorem test_compare_trap : shows (.fcmp 0 .lt 2 2 (.reg 3)) (signalling (.fcmp 0 .lt 2 2 (.reg 3))) fun s c =>
    (arg s c 2 4).v.isSignalling && (excInvalid &&& modeTrapEn c.frag.mode) != 0 && (issueActive s c).getLsbD 4 := by
  decide +kernel
def raises (c : Ctx) (x : RedNode) : Bool := (x.exc ||| x.sig) &&& modeTrapEn c.frag.mode != 0
theorem test_reduction_traps :
    (shows (.wred 0 68 6 .add) (signalling (.wred 0 68 6 .add)) fun s c => raises c (reduced s c 6 .add) && issueActive s c != 0) ∧
    shows (.wscan 0 7 6 .add) (signalling (.wscan 0 7 6 .add)) fun s c =>
      (lanesWhere (issueActive s c) fun lane => raises c (scanned s c 6 .add lane)) != 0 := by decide +kernel

/-- FIFOP: a record of another SPACE, an unbound number, illegal operands, a conflict with an operation of the block, a commit
behind an open store, and the waits of the first phases, before and behind a check. -/
def fifoCase (i : Instr) (v : BitVec 64) (f : State → State) : State := f (fifoState i 8 4 2 0 v)
def fifoEntry : SbEntry := ⟨0, 0, 0, 0, 2048, true, some true, true, 1, 0⟩
def fifoShows (i : Instr) (v : BitVec 64) (f : State → State) (p : State → Ctx → Fifo → Bool) : Bool :=
  shows i (fifoCase i v f) fun s c => issueActive s c != 0 && recSpace (c.record 1) == 2 &&
    match c.blk.fifo? 0 with | some x => p s c x | none => false
theorem test_fifop_faults :
    (shows (.fifopReserve 0 64 1 66) (fifoCase (.fifopReserve 0 64 1 66) 1 fun s => withRec s 1 (record 0 1 0 8 1 1 0 0 1)) fun s c =>
      issueActive s c != 0 && recSpace (c.record 1) != 2) ∧
    (shows (.fifopReserve 0 64 1 66) (fifoCase (.fifopReserve 0 64 1 66) 1 fun s => onBlock s fun b => { b with fifos := [] }) fun s c =>
      issueActive s c != 0 && recSpace (c.record 1) == 2 && (c.blk.fifo? 0).isNone) ∧
    ([257, 0x20000, 0x10009] : List (BitVec 64)).all fun v => fifoShows (.fifopReserve 0 64 1 66) v id fun s c x =>
      decide (65536 / x.desc.slotBytes < (src s c 32 66 0).toNat % 65536 ∨ (src s c 32 66 0).extractLsb' 17 15 ≠ 0 ∨
        ((src s c 32 66 0).getLsbD 16 = true ∧ (fifoRow x true true ((src s c 32 66 0).toNat % 65536)).limit < (src s c 32 66 0).toNat % 65536)) := by
  decide +kernel
theorem test_fifop_waits :
    (fifoShows (.fifopReserve 0 64 1 66) 1 (fun s => { modCore s 0 (fun k => { k with sb := [fifoEntry] }) with cycle := 5 }) fun s c x =>
      scoreboardBlocks (coreOf s c.core) s.cycle (x.bank * 2048) (x.bank * 2048 + 2048) true (some true) c.frag.sbBound) ∧
    (fifoShows (.fifopReserve 0 64 1 66) 1 (fun s => { modCore (onFrag s fun f => { f with sbBound := some 1 }) 0 (fun k =>
        { k with sb := [fifoEntry] }) with cycle := 5 }) fun s c x =>
      !scoreboardBlocks (coreOf s c.core) s.cycle (x.bank * 2048) (x.bank * 2048 + 2048) true (some true) c.frag.sbBound) ∧
    (fifoShows (.fifopCommit 0 64 1 66) 0x10001 (fun s => onWave s fun w => { w with posted := [emptyStore 0] }) fun s c _ =>
      !storesSettled s c) ∧
    (fifoShows (.fifopReserve 0 64 1 66) 0xFD (fun s => onBlock s fun b => { b with fifos := [⟨⟨0, 256, none⟩, 0, 8, 4, 2, 0⟩] }) fun _ _ x =>
      (fifoRow x true false 0xFD).limit < 0xFD) ∧
    fifoShows (.fifopClaim 0 64 1 66) 3 id fun _ _ x => (fifoRow x false false 3).limit < 3 := by decide +kernel

/-- IRON of a malformed word, with a port that the block has not, behind a message to the port, and at a full port; IRONP the
same. -/
def ironPort (i : Instr) (iron : Option Nat) (p : BitVec 64) (full : Bool) (net : List NetMsg) : State :=
  { onBlock (ironState i iron p) (fun b => { b with ports := if full then [(1, { rsv := 8 })] else [] }) with net := net }
def ownMessage (c : Nat) : NetMsg :=
  { ident := 7, launch := 0, lin := 0, port := 1, msg := ⟨5, 0, 0, 0, none, 0⟩, core := c, sender := ⟨0, 0, 0⟩, senderLaunch := 0
    senderLin := 0, confirm := false }
theorem test_iron_cases :
    (shows (.iron 0 68) (ironPort (.iron 0 68) none 0x40 false []) fun s c => decide (64 ≤ (readS s c 4).val.toNat)) ∧
    (shows (.iron 0 68) (onBlock (ironPort (.iron 0 68) none 0x3F false []) fun b => { b with hdr := { b.hdr with ports := 16 } }) fun s c =>
      decide ((readS s c 4).val.toNat < 64) && portBad c.blk (readS s c 4).val) ∧
    (shows (.iron 0 68) (ironPort (.iron 0 68) none 0x21 false [ownMessage 0]) fun s c =>
      !portBad c.blk (readS s c 4).val && c.blk.iron.isNone && pPost (readS s c 4).val && sentBefore s c 1) ∧
    (shows (.iron 0 68) (ironPort (.iron 0 68) none 0x21 true []) fun s c =>
      !portBad c.blk (readS s c 4).val && c.blk.iron.isNone && pPost (readS s c 4).val && !sentBefore s c 1 && !c.blk.hasRoom 1) := by
  decide +kernel
def passLegal (c : Ctx) (p : BitVec 64) : Bool :=
  decide (p &&& 0xFFFFFFFFFFFF80C0 = 0 ∧ (p.getLsbD 14 = true → pField p 8 6 = 0) ∧
    pField p 8 6 < c.blk.hdr.waves + c.blk.hdr.handlers ∧ portBad c.blk p = false)
theorem test_ironp_cases :
    (([0x40, 0x8000, 0x4100, 0x3F00] : List (BitVec 64)).all fun p => shows (.ironp 0 68) (ironPort (.ironp 0 68) (some 0) p false [])
      fun s c => !passLegal c (readS s c 4).val) ∧
    (shows (.ironp 0 68) (ironPort (.ironp 0 68) (some 0) 0x4021 false [ownMessage 0]) fun s c =>
      passLegal c (readS s c 4).val && c.blk.iron == some c.wave.idx && pPost (readS s c 4).val && storesSettled s c && sentBefore s c 1) ∧
    (shows (.ironp 0 68) (ironPort (.ironp 0 68) (some 0) 0x4021 true []) fun s c =>
      passLegal c (readS s c 4).val && c.blk.iron == some c.wave.idx && pPost (readS s c 4).val && storesSettled s c && !sentBefore s c 1 &&
        !c.blk.hasRoom 1) := by decide +kernel

/-- An engine issue that has kept its copies, of COPY with a list of one entry; a list behind a fence; one outside its record's
SPACE or that cannot be read; and one whose bytes are poisoned. -/
def copyCase (f : State → State) : State :=
  f (queuedState (.copy 0 68 1 2, scratchRec 6 64, scratchRec 7 64, 0x10100))
def copyMet (f : State → State) (p : State → Ctx → IssueCopies → Bool) : Bool :=
  shows (.copy 0 68 1 2) (copyCase f) fun s c =>
    let k := copiesOf s c .copy 68 1 2
    (c.frag.copied.isSome || (issueCheck s c.blk .copy 0 k.p k.da k.dw k.irec).isNone) && p s c k
theorem test_engine_copies :
    (copyMet (fun s => onFrag s fun f => { f with copied := some ⟨scratchRec 6 32, scratchRec 7 32, 0, some []⟩ }) fun s c k =>
      k.da == scratchRec 6 32 && c.frag.copied.isSome && (issueWait s c .copy k.p 2).isNone) ∧
    (copyMet (fun s => onWave s fun w => { w with fenceLoads := true, posted := [emptyStore 0] }) fun s c k =>
      copyNx k.p == 1 && (listHeld s c .copy k).isSome) ∧
    (copyMet id fun s c k => (listHeld s c .copy k).isNone && match listAt s c .copy k with | .ok _ l => l.length == 1 | _ => false) ∧
    (copyMet (fun s => onBlock s fun b => { b with asid := 9 }) fun s c k => (listHeld s c .copy k).isNone &&
      match listAt s c .copy k with | .bad _ _ _ => true | _ => false) ∧
    (copyMet (fun s => { s with poison := [0x10] }) fun s c k => (listHeld s c .copy k).isNone && hamperRoom s c &&
      match listAt s c .copy k with | .poison _ _ => true | _ => false) := by decide +kernel

/-- A SENDP on its way to a retired block, from a resident one. -/
theorem test_sendp_gone : mayArrive (netState (aMessage 1 false none) false) (aMessage 1 false none) = true ∧
    placeOfBlock (netState (aMessage 1 false none) false) 0 1 = .gone ∧
    residentBlock (netState (aMessage 1 false none) false) 0 0 = some (0, 0) := by decide +kernel

/-- EXEC, a window base, ASID and PMCSEL as they are written and read back. -/
theorem test_system_registers_read_back :
    (written 1 0x5).bind (fun t => readSys t 0 1 0) = some 5 ∧ (written 3 (7 * 2 ^ 32 + 0x20)).bind (fun t => readSys t 0 3 7) = some 0x20 ∧
    (written 0x10 0x64).bind (fun t => readSys t 0 0x10 0) = some 0x64 ∧ (written 0x50 3).bind (fun t => readSys t 0 0x50 0) = some 3 ∧
    ((targetPlace (servedState (.eret 0) 0) 0).map fun x => cellsWf 0 x.2.2.1.wb) = some true ∧ isThimble 0 = false := by decide +kernel

/-- The context's signal table with frames at 0x90000, and an entry of signal 1 with an ACTION. -/
def withTable (action : Nat) (s : State) : State :=
  let l : List (Nat × List Byte) :=
    [(4, leBytes 4 4), (8, leBytes 0x90000 8), (0x50, leBytes 0x400 8), (0x58, leBytes 7 4), (0x5C, leBytes action 1)]
  { s with mem := l.foldl (fun m e => writeBytes m (hostData + 0x50000 + e.1) e.2) s.mem }
def signalState (action : Nat) (fs : List Fragment) : State := withTable action (withContext (atFrags fs))
/-- Entry 3 in service for fragment 0 of block 0, which is parked on it. -/
def servedEntry : HamperEntry := ⟨3, .service, 0, 0, 0, 0x14, 0xF, 0xF, 9, 0, 0x40, 0, true⟩
def servedDevice : State :=
  modCore (signalState 0 [aFrag 0 0xFFFFFFFF 8 (.parked 3)]) 0 fun k => { k with hamper := [servedEntry] }
theorem test_release_clauses : ((waveOf servedDevice 0 0 0).bind fun w => w.frag? 0).isSome = true ∧
    (waveOf servedDevice 0 0 0).bind (fun w => w.sigpend) = none ∧ (blockOf servedDevice 0 0).isSome = true ∧
    (let u := unpark (forgetEntry servedDevice 0 3) 0 servedEntry 8 false
     (deliverSignal u 0 ⟨0, 0, 0⟩ 1 0 (entryFlt servedEntry) 9 0xF 1).isSome = true ∧
     (deliverSignal u 0 ⟨0, 0, 0⟩ 64 0 (entryFlt servedEntry) 9 0xF 64).isNone = true) := by decide +kernel

/-- Each ACTION of a named wave's signal, an invalid entry, a wave without a live lane, one whose lanes are all parked, and the
lowest of two fragments. -/
theorem test_signal_actions : (([0, 1, 2, 3] : List Nat).all fun a =>
      (((sigTable (signalState a [aFrag 0 0xFFFFFFFF 8 .run]) 0 0).bind fun t => sigEntry t 1).map fun e => e.action) == some a) = true ∧
    (((sigTable (signalState 0 []) 0 0).bind fun t => sigEntry t 64).isNone && (blockOf (signalState 0 []) 0 0).any fun b =>
      (b.wave? 0).any fun w => w.frags.isEmpty) = true ∧
    ((blockOf (signalState 0 [aFrag 0 1 8 (.parked 3)]) 0 0).any fun b => (b.wave? 0).any fun w =>
      !w.frags.isEmpty && w.frags.all fun f => f.st.isParked) = true ∧
    (waveOf (signalState 0 [aFrag 0 0xFF00 8 .run, aFrag 1 0xF 16 .waitRcv]) 0 0 0).bind signalTarget = some (aFrag 1 0xF 16 .waitRcv) ∧
    (deliverSignal (signalState 0 [aFrag 0 0xFF00 8 .run, aFrag 1 0xF 16 .waitRcv]) 0 ⟨0, 0, 1⟩ 1 1 0xF00000000 0 0xF 1).isSome = true := by
  decide +kernel

/-- A return from a signal: without a frame, of a block beyond FRAMEBLOCKS, to a misaligned address, to an illegal MODE, and to a
legal one. -/
def returnState (pc mode : Nat) (depth lin : Nat) : State :=
  let s := onWave { signalState 0 [aFrag 0 0xFFFFFFFF 8 .run] with focus := some ⟨0, ⟨0, 0, 0⟩⟩ } fun w => { w with depth := depth }
  let s := onBlock s fun b => { b with lin := lin }
  { s with mem := writeBytes (writeBytes s.mem (hostData + 0x90000) (leBytes pc 8)) (hostData + 0x9002C) (leBytes mode 4) }
def returnCase (s : State) : Option Nat :=
  (blockOf s 0 0).bind fun b => (b.wave? 0).map fun w =>
    if w.depth = 0 then 0
    else match (sigTable s 0 b.asid).bind fun t => frameAddr t b.lin 0 (w.depth - 1) with
      | none => 1
      | some a => match (ctxRead s 0 (some (0, 0)) b.asid a 384).2 with
        | .error _ => 2
        | .ok l => if bytesNat l 0 8 % 4 ≠ 0 then 3 else if modeLegal (BitVec.ofNat 32 (bytesNat l 0x2C 4)) then 5 else 4
theorem test_signal_returns : returnCase (returnState 8 7 0 0) = some 0 ∧ returnCase (returnState 8 7 1 4) = some 1 ∧
    returnCase (returnState 6 7 1 0) = some 3 ∧ returnCase (returnState 8 0xFFFFFFFF 1 0) = some 4 ∧
    returnCase (returnState 8 7 1 0) = some 5 := by decide +kernel

/-- The SBAR of block 0, whose peer has ended, is ready; so is one whose member was taken back behind a second SBAR. -/
def sbarState (b : Block) : State := { device b { } with launches := [setLaunch] }
theorem test_sbar_counts : memberSbars (sbarState setBlock) setLaunch 0 0 = some (0, true) ∧ sbarReady (sbarState setBlock) setLaunch 0 = some 0 ∧
    (setMembers setLaunch 0).contains 0 = true ∧ setLaunch.ended.contains 0 = false ∧
    sbarReady (sbarState { setBlock with sets := [{ num := 0, rank := 0, count := 2, sbars := 1 }] }) setLaunch 0 = some 1 := by
  decide +kernel
/-- A merge of two waiters, a mismatch, and a deadlocked pair. -/
theorem test_merge_of_two : (let w := aWave [aFrag 0 0xFF00 8 .waitRcv, aFrag 1 0xFF 8 .waitRcv, aFrag 2 0xFF0000 8 .run]
    (w.frags.map (·.id)).Nodup ∧ (elderOf (w.frags.filter fun f => f.st == .waitRcv)).map (·.id) = some 1 ∧
    (elderOf (w.frags.filter fun f => f.id != 1)).map (·.id) = some 0 ∧
    (placeCtx (atFrags [aFrag 0 0xFFFF 8 (.waitSync 0xFFFFFFFF 4), aFrag 1 0xFFFF0000 16 (.waitSync 0xF 8)]) 0 ⟨0, 0, 1⟩).any fun x =>
      x.frag.st == .waitSync 0xF 8) := by decide +kernel

/-- A load of which two lanes have still to fault, of a fragment that runs and of one that has just been released. -/
def failedLoad : PendingLoad := { vs := [], ss := [], ready := 0, pc := 4, active := 0xFF, fail := [(0x09, 0xC, 0x2000)] }
def failedState : State := atFrags [{ aFrag 0 0xFFFFFFFF 8 .run with loads := [failedLoad] }]
theorem test_failed_lanes : waveIs failedState (fun w => w.frags.all fun f =>
      (f.loads.find? fun x => x.due failedState.cycle f.st) == some failedLoad) = true ∧
    (placeCtx (putLoad failedState 0 ⟨0, 0, 0⟩ failedLoad { failedLoad with fail := [] }) 0 ⟨0, 0, 0⟩).any (fun x =>
      !x.frag.st.isParked && (0xC : Lanes) &&& x.frag.members != 0) = true ∧ (hamperSlot (coreOf failedState 0) 0 0).isSome = true := by
  decide +kernel
/-- A fragment whose next instruction needs a load that has missed. -/
def missState : State :=
  onFrag (placed (.iaddA 0 1 2 (.reg 3))) fun f =>
    { f with slot := { active := true, entered := 0 }, loads := [{ vs := [(2 * 32, {})], ss := [], ready := 900, miss := some 0 }] }
theorem test_interlocked : interlockedOn missState 0 ⟨0, 0, 0⟩ (fun p => p.missed missState.cycle) = true := by decide +kernel

/-- A store behind a BAR whose earlier store is open; one of which a lane came back with poison; a resilient block's record behind
another's held read and write. -/
def barStores : State :=
  device { aBlock [] with waves := [{ aWave [] with posted := [aStore none, { aStore none with ident := 3, lanes := [{ lane := 0, va := 0x3000, data := 1, tag := 62, tagVa := none }] }] }]
                          barBounds := [2] } {}
theorem test_store_clauses : (blockOf barStores 0 0).any (fun b => (2 ≤ (3 : Nat)) && (coreOf barStores 0).storesBelow 0 b 2) = true ∧
    ({ aStore none with hit := 8 } : StoreOp).lanes.any (fun e => (8 : Lanes).getLsbD e.lane) = true ∧
    (blockOf barStores 0 0).any (fun b => b.waves.any fun w => (w.store? 3).isSome &&
      !mayAccept barStores 0 0 b w { aStore none with ident := 3 } []) = true := by decide +kernel
def heldRecord (locked : List Nat) : State :=
  let s := modCore (storeState 0 none) 1 fun k =>
    { k with blocks := [(0, { aBlock [] with hdr := { placedHeader with resilient := true }, ckpt := { locked := locked } })] }
  { modCore s 0 (fun k => { k with records := [⟨0, 0, 0x09, aStore none⟩] }) with focus := some ⟨0, ⟨64, 0, 0⟩⟩ }
theorem test_replay_clauses : (replayHeld (heldRecord [0x2000]) 0).isSome = true ∧ (replayHeld (heldRecord []) 0).isNone = true ∧
    (blockOf (heldRecord []) 0 0).any (fun b => (locateLanes (heldRecord []) 0 b.asid (aStore none)).2.2.isEmpty) = true ∧
    (locateLanes (heldRecord []) 0 9 (aStore none)).2.2.isEmpty = false := by decide +kernel

/-- Join logic: two patterns of one PRIORITY, by index and, with ROTATE, from RP on. -/
def twoPatterns (rotate : Bool) (rp : Nat) : Block :=
  { joinBlock false with
    patterns := [⟨2, false, 3, 0x400, true⟩, ⟨2, false, 3, 0x500, true⟩, ⟨2, false, 4, 0x600, false⟩]
    hdr := { (joinBlock false).hdr with rotate := rotate }, rotate := rp }
theorem test_join_choice : ((twoPatterns false 1).firing 0).map (·.1) = some 0 ∧ ((twoPatterns true 1).firing 0).map (·.1) = some 1 ∧
    ((twoPatterns true 2).firing 0).map (·.1) = some 0 ∧
    ((twoPatterns true 1).patterns.zipIdx.map fun e => (twoPatterns true 1).eligible 0 e.2 e.1) = [true, true, false] := by decide +kernel

/-- Rows of the Press: an MMA, an ACCLD and an ACCRD with their elements, a result to be written, a tile fetched, and rows done. -/
def pressState (o : Op) : State :=
  modBlock (engineDevice [o]) 0 0 fun b => { b with latched := some (tileOf 5) }
def stagedOp (f : OpForm) (n : Nat) : Op :=
  { opOfForm f 0 (scratchRec 6 64) (scratchRec 6 64) 0x100 with st := .running, staged := List.replicate n {}, flags := 2 }
theorem test_press_rows : (opAt (pressState (stagedOp .mma 64)) ⟨0, 0, 0⟩).isSome = true ∧
    cellsWf {} (coreOf (pressState (stagedOp .mma 64)) 0).acc = true ∧
    (stagedOp .mma 64).staged.length = 64 ∧ (stagedOp .mma 64).progress < rowsOf (stagedOp .mma 64).param ∧
    rowsOf (stagedOp .mma 64).param ≤ ({ stagedOp .mma 64 with progress := 64 } : Op).progress ∧
    (let s := pressState (stagedOp .accrd 0)
     recSpace (stagedOp .accrd 0).dw ≠ 2 ∧ (match findAll s ⟨0, 0, 0⟩ (rowElem (stagedOp .accrd 0) (stagedOp .accrd 0).dw) 0 [] 64 with
       | .ok _ l => l.length == 64 | _ => false) = true ∧
     (match accrdStep s ⟨0, 0, 0⟩ (stagedOp .accrd 0) with | .ok _ _ => true | _ => false) = true) ∧
    (let o := { stagedOp .accrd 0 with result := [{}] }
     (match findDest (pressState o) ⟨0, 0, 0⟩ (rowElem o o.dw 0) with
       | .ok u _ => (opAt u ⟨0, 0, 0⟩).any fun y => y.2.result == o.result | _ => false) = true) ∧
    (let o := { stagedOp .accrd 0 with dw := record 0 1 0 1 1 1 0 0 6 }
     (match accrdStep (pressState o) ⟨0, 0, 0⟩ o with | .stop _ _ _ => true | _ => false) = true) := by decide +kernel
theorem test_wload_latches : (stagedOp .wload 4096).staged.length = 4096 := by simp [stagedOp]
/-- A row whose first byte another block holds stalls. -/
theorem test_press_stalls : (let o := { stagedOp .accrd 0 with dw := record 0x2000 0 0 64 1 1 0 0 6 }
    let s := modCore (pressState o) 1 fun k =>
      { k with blocks := [(0, { aBlock [] with hdr := { placedHeader with resilient := true }, ckpt := { locked := [0x2000] } })] }
    (match accrdStep s ⟨0, 0, 0⟩ o with | .stall _ _ => true | _ => false) = true) := by decide +kernel

/-- Elements of the Mangle: a COPY's, a GATHER's and a SCAT's by an index that is read or staged, a QUANT's block read and a block
being written. -/
def mangleOp (f : OpForm) (dw p : BitVec 256) : Op :=
  { opOfForm f 8 (scratchRec 6 64) dw (p.extractLsb' 0 64) with st := .running, irec := scratchRec 0 64 }
def movesOn (o : Op) (source dest : ElemAt) : Bool :=
  let s := engineDevice [o]
  match findDest s ⟨0, 0, 8⟩ dest with
  | .ok u _ => (match readElemAt u ⟨0, 0, 8⟩ source with | .ok _ _ => true | _ => false)
  | _ => false
theorem test_mangle_elements :
    (let o := mangleOp .copy (scratchRec 7 64) 0
     (opAt (engineDevice [o]) ⟨0, 0, 8⟩).map (·.2) = some o ∧ movesOn o { record := o.da, index := 0, order := 0 } { record := o.dw, index := 0, order := 0 } = true) ∧
    (let o := { mangleOp .gather (scratchRec 6 64) 0x100300 with staged := [{ bits := 1 }] }
     gatherLen o.param = 16 ∧
     movesOn o { record := o.da, index := 16, order := 0, wide := true } { record := o.dw, index := 0, order := 0 } = true ∧
     movesOn o { record := o.da, index := 0, order := 0 } { record := o.dw, index := 16, order := 0, wide := true } = true) ∧
    (let o := mangleOp .gather (scratchRec 6 64) 0x100300
     (match readElemAt (engineDevice [o]) ⟨0, 0, 8⟩ { record := o.irec, index := 0, order := 0 } with | .ok _ _ => true | _ => false) = true) ∧
    (let o := { mangleOp .quant (scratchRec 11 64) 0 with staged := List.replicate 32 {} }
     (isBx (recFormat o.dw) && !isBx (recFormat o.da)) = true ∧ o.result = [] ∧ o.staged.length = 32) ∧
    (let o := { mangleOp .quant (scratchRec 11 64) 0 with result := [{}] }
     (match findDest (engineDevice [o]) ⟨0, 0, 8⟩ { record := o.dw, index := 0, order := 0 } with
       | .ok u _ => (opAt u ⟨0, 0, 8⟩).any fun y => y.2.result == o.result | _ => false) = true) := by decide +kernel

/-- The Darner's takeover of an event while Dibor's core has failed, and a queued entry among its events. -/
theorem test_darner_suspended : ({ State.reset with firmware := { State.reset.firmware with suspended := true } } : State).firmware.suspended = true ∧
    (darnerState [.granules ⟨0, 0, 0⟩] true |> fun s => (coreOf s 0).hamper.map fun x => x.st == .queued) = [true] := by decide +kernel

/-- The log's events in their order; a record in a ring in HBM. -/
def logEvents : List LogEvent := [⟨900, 4, 0xFF, 0, 0⟩, ⟨768, 1, 0, 0, 0x40⟩, ⟨5, 0, 0, 0, 0x80⟩, ⟨768, 2, 0, 0, 0⟩]
theorem test_event_order : eventOrder logEvents = [⟨5, 0, 0, 0, 0x80⟩, ⟨768, 1, 0, 0, 0x40⟩, ⟨768, 2, 0, 0, 0⟩, ⟨900, 4, 0xFF, 0, 0⟩] := by
  decide +kernel
theorem test_log_place : memWf (logState 0).mem = true ∧ (logState 0).exactSums = [] ∧ paRegion ((logState 0).log.base.toNat) ≠ 3 ∧
    cellsWf 0 (logState 0).log.ue = true ∧
    (recordEvent (logState 0) ⟨768, 1, 0, 5, 0x40⟩).log.wr = 1 ∧ (recordEvent (logState 0) ⟨768, 1, 0, 5, 0x40⟩).byteAt 24 = 0x40 := by
  refine ⟨by decide +kernel, rfl, by decide +kernel, by decide +kernel, by decide +kernel, by decide +kernel⟩
/-- Errors in a block, resilient and not, in a core, in a load's, a store's, an operation's and a fetch's request. -/
theorem test_error_sites : (blockOf (resilientDevice false) 0 0).any (fun b => b.hdr.resilient) = true ∧
    (blockOf (atFrags []) 0 0).any (fun b => !b.hdr.resilient) = true ∧ (partState (atFrags []) (partitionOf 0)).out = false ∧
    ((coreOf (atFrags []) 0).blocks.all fun e => !e.2.hdr.resilient) = true ∧
    (fragOf (atFrags [{ aFrag 0 0xFFFFFFFF 8 .run with loads := [{ vs := [], ss := [(4, ⟨9, 62⟩)], ready := 9 }] }]) 0 ⟨0, 0, 0⟩).any (fun f =>
      (f.loads.find? fun y => !(y.vs.isEmpty && y.ss.isEmpty)).isSome) = true ∧
    (waveOf (storeState 0 none) 0 0 0).isSome = true ∧
    (opAt (engineDevice [{ opOfForm .copy 8 0 0 0 with st := .running }]) ⟨0, 0, 8⟩).any (fun e => e.2.st == .running && !e.2.ended) = true ∧
    (placeCtx (atFrags [aFrag 0 0xFFFFFFFF 8 .run]) 0 ⟨0, 0, 0⟩).any (fun c => hamperRoom (atFrags [aFrag 0 0xFFFFFFFF 8 .run]) c) = true ∧
    (∀ k p, ErrorSite.memory 0 8 ≠ .spare k p) := by
  refine ⟨by decide +kernel, by decide +kernel, by decide +kernel, by decide +kernel, by decide +kernel, by decide +kernel,
    by decide +kernel, by decide +kernel, fun k p h => by cases h⟩

/-- A round of samples that is due, a path not yet sampled in it, and channels whose next repair takes out a data path, none for want
of spares, and a command path. -/
def roundState : State := { State.reset with timebase := 200000, hbm := { rounds := [(7, 150000)] } }
theorem test_rounds : cellsWf 0 roundState.hbm.rounds = true ∧ cellGet 0 7 (startRounds roundState).hbm.rounds = 150000 ∧
    cellGet 0 6 (startRounds roundState).hbm.rounds = 200000 ∧ (cellGet ({} : Eye) (eyeKey 7 31 0) roundState.hbm.eyes).sampled < 150000 ∧
    0 ∈ lanePaths (channelOf roundState 7 31) := by decide +kernel
theorem test_repairs : (let s (c : Channel) := channelState c
    weakestPath (s { repReq := true }) 0 31 = some 17 ∧ (channelOf (s { repReq := true }) 0 31).failed.length < 2 ∧
    2 ≤ (channelOf (s { repReq := true, failed := [3, 9] }) 0 31).failed.length ∧
    nextChannel (s { repReq := true, failed := [3, 9], caWeak := [4] }) 0 = some (31, true) ∧
    (channelOf (s { repReq := true, failed := [3, 9], caWeak := [4] }) 0 31).caWeak = [4] ∧
    (channelOf (s { repReq := true, failed := [3, 9], caWeak := [4] }) 0 31).caFailed = [] ∧
    weakestPath { State.reset with hbm := { channels := [(31, { repReq := true, caWeak := [4] })] } } 0 31 = none) := by decide +kernel

/-- Firmware: a journal with a record, a takeover with no word on its way, a failed core, and mail. -/
def journalState : State :=
  { State.reset with firmware := { State.reset.firmware with journal := [⟨{ asid := 9 }, .contextEnd 9⟩], mailboxes := [(3, .endContext 9), (0, .ended 0 1 true)] }
                     launches := [aLaunch (2, 1, 1) [0]] }
theorem test_firmware_clauses : journalState.firmware.journal ≠ [] ∧ (launchOf journalState 0).any (fun l => !l.ended.contains 1) = true ∧
    journalState.firmware.suspended = false ∧ journalState.queues = [] ∧
    ((List.range 130).flatMap fun c => (journalState.firmware.mailboxes.filter fun m => m.1 == c).map (·.2)) =
      [.ended 0 1 true, .endContext 9] := by decide +kernel

/-- Queues: a descriptor that waits, one that disables, and one whose larger group would take in a locked group. -/
def aQueue : Queue := { desc := aQueueDesc, widx := 1, packets := [aPacket 1 .held 0], next := some 0 }
def lockedState : State := modGroup State.reset 4 fun x => { x with tdisp := .locked }
theorem test_governed : aQueueDesc.getLsbD 165 = true ∧ aQueue.governed.desc = 0 ∧ (aQueue.governed.packets.map (·.status)) = [0x36] ∧
    (lockedBy lockedState (5 * 64) (aQueueDesc + BitVec.ofNat 256 (2 ^ 171))).isSome = true ∧
    (lockedGroup lockedState 4).isSome = true ∧ lockedBy lockedState (5 * 64) aQueueDesc = none ∧ lockedBy State.reset 0 aQueueDesc = none := by
  decide +kernel
theorem test_unbooted : ({ State.reset with firmware := { State.reset.firmware with booted := false } } : State).firmware.booted = false := rfl
theorem test_nothing_to_fetch : (let s := modQueue (queueState []) 0 fun q => { q with ridx := 1 }
    takesPackets s 0 = true ∧ fetchedPacket s 0 = none ∧ (queueOf s 0).widx.toNat ≤ (queueOf s 0).ridx.toNat) := by decide +kernel

/-- The answer to a page request while Dibor's core has failed, from both of its kinds of core. -/
theorem test_suspended_answers : (let s := { pageState with firmware := { pageState.firmware with suspended := true } }
    (requestOf s 0 3).isSome = true ∧ (launchOf s 0).isSome = true ∧ inGroup 0 0 0 = true ∧ s.firmware.booted = true) := by decide +kernel
/-- An acknowledgement behind a sum that is held and a load on a link. -/
theorem test_invalidation_clauses : storesBefore (holdingDevice { effects := [.sum 2 0x40 4 6 0] }) 4 = true ∧
    storesBefore { holdingDevice {} with links := { flights := [⟨0, 2, 0, 100, 64⟩] } } 4 = true ∧
    storesBefore { holdingDevice {} with links := { flights := [⟨0, 5, 0, 100, 64⟩] } } 4 = false := by decide +kernel
/-- A quarantine with a load on a link, and one long enough. -/
theorem test_quarantine_clauses : (let q : Quarantine := { asid := 9, since := 0, outstanding := 1, completions := 0, bytes := 0 }
    let s : State := { State.reset with quarantine := [q], subject := { asid := 9 }, links := { flights := [⟨9, 5, 0, 100, 64⟩] } }
    q.outstanding + (s.links.flights.filter fun x => x.asid == q.asid).length = 2 ∧ s.timebase < q.since + 2000000000 ∧
    contextOf s 9 = none) := by decide +kernel
/-- A stop whose contexts' words are awaited, one that awaits none, and one of an unlocked interface. -/
theorem test_stops : (let s := endingState false
    (groupAsids s 0 (stopLog2 s 0)) = [0] ∧
    (((groupAsids s 0 (stopLog2 s 0)).foldl endContext s).contexts.map fun k => (inGroup 0 (stopLog2 s 0) k.group && k.ending)) = [true] ∧
    ((groupAsids (withContext State.reset) 0 0).foldl endContext (withContext State.reset)).contexts = []) ∧
    (State.reset.contexts.map (·.asid)).Nodup ∧ (groupOf State.reset 0).tdisp = .unlocked := by decide +kernel

/-! An image that passes its check: a block's image as CTXSV writes it, in memory where a CTXLD finds it. Its digest is never
computed: the check holds whatever SHA3-512 makes of the image. -/

theorem keccakF_length {a : List (BitVec 64)} (h : a.length = 25) : (keccakF a).length = 25 := by
  have key : ∀ (l : List (BitVec 64)) (a : List (BitVec 64)), a.length = 25 → (l.foldl keccakRound a).length = 25 := by
    intro l
    induction l with
    | nil => exact fun _ h => h
    | cons x r ih => exact fun a _ => ih _ (by simp [keccakRound])
  exact key _ _ h

theorem sha3Absorb_length (n : Nat) (l : List Byte) (a : List (BitVec 64)) (h : a.length = 25) : (sha3Absorb a l n).length = 25 := by
  induction n generalizing l a with
  | zero => exact h
  | succ n ih => exact ih _ _ (keccakF_length (by simp [h]))

theorem sha3_length (m : List Byte) : (sha3 m).length = 64 := by
  have h := sha3Absorb_length ((m ++ if 72 - m.length % 72 = 1 then ([0x86] : List Byte) else [0x06] ++ List.replicate (72 - m.length % 72 - 2) 0 ++ [0x80]).length / 72)
    (m ++ if 72 - m.length % 72 = 1 then ([0x86] : List Byte) else [0x06] ++ List.replicate (72 - m.length % 72 - 2) 0 ++ [0x80]) (List.replicate 25 0) (by simp)
  unfold sha3
  simp only [List.length_flatMap, List.length_map, List.length_range, List.map_const', List.sum_replicate, List.length_take, h]
  rfl

/-- A HEADER of one wave, a stack of 16 and two ports. -/
def imageRaw : List Byte := zeros 16 ++ leBytes 16 2 ++ leBytes 1 2 ++ zeros 5 ++ leBytes 2 1 ++ zeros 102
def imageBlock : Block :=
  { aBlock [aFrag 0 0xFFFFFFFF 8 .run] with hdr := headerResources imageRaw placedHeader }
def imageSource : State := device imageBlock {}
def imageSects : List (List Byte) := sections imageSource 0 0 imageBlock
def imageEnds : List Nat × Nat := sectOffsets 384 (imageSects.map List.length)
/-- What stands before the DIGEST, and behind it. -/
def imageFront : List Byte := imageHeader imageSource 0 0 imageBlock imageEnds.2 imageEnds.1 [] |>.take 256
def imageRear : List Byte := zeros 64 ++ imageSects.flatMap fun x => padTo (up64 x.length) x
def wholeImage : List Byte := imageFront ++ sha3 (imageFront ++ zeros 64 ++ imageRear) ++ imageRear

theorem imageFront_length : imageFront.length = 256 := by decide +kernel

theorem imageHeader_parts (d : List Byte) :
    imageHeader imageSource 0 0 imageBlock imageEnds.2 imageEnds.1 d = imageFront ++ d ++ zeros 64 := by
  obtain ⟨a, ha⟩ : ∃ a, ∀ d, imageHeader imageSource 0 0 imageBlock imageEnds.2 imageEnds.1 d = a ++ d ++ zeros 64 :=
    ⟨_, fun d => rfl⟩
  have h1 : (imageHeader imageSource 0 0 imageBlock imageEnds.2 imageEnds.1 []).length = 320 := by decide +kernel
  have h2 : a.length = 256 := by
    rw [ha] at h1
    simp [zeros] at h1
    omega
  have h3 : imageFront = a := by
    unfold imageFront
    rw [ha, List.append_nil, ← h2, List.take_left']
    rfl
  rw [ha, h3]

theorem wholeImage_digest (d : List Byte) (h : d.length = 64) :
    imageDigest (imageFront ++ d ++ imageRear) = sha3 (imageFront ++ zeros 64 ++ imageRear) := by
  have h1 : (imageFront ++ d ++ imageRear).take 0x100 = imageFront := by
    rw [List.append_assoc, List.take_left' imageFront_length]
  have h2 : (imageFront ++ d ++ imageRear).drop 0x140 = imageRear :=
    List.drop_left' (by rw [List.length_append, imageFront_length, h])
  unfold imageDigest
  rw [h1, h2]

theorem wholeImage_is_the_blocks : imageBytes imageSource 0 0 imageBlock = wholeImage := by
  have h : imageBytes imageSource 0 0 imageBlock =
      imageHeader imageSource 0 0 imageBlock imageEnds.2 imageEnds.1
        (imageDigest (imageHeader imageSource 0 0 imageBlock imageEnds.2 imageEnds.1 (zeros 64) ++
          imageSects.flatMap fun x => padTo (up64 x.length) x)) ++ imageSects.flatMap fun x => padTo (up64 x.length) x := rfl
  rw [h, imageHeader_parts, imageHeader_parts, List.append_assoc (imageFront ++ zeros 64)]
  rw [show zeros 64 ++ (imageSects.flatMap fun x => padTo (up64 x.length) x) = imageRear from rfl]
  rw [wholeImage_digest _ (by simp [zeros]), List.append_assoc _ (zeros 64)]
  rfl

/-- The launch of the block, and the device in whose memory its image lies, with Dibor's record that the block is out. -/
def imageOwner : Launch := { aLaunch (1, 1, 1) [] with hdr := imageBlock.hdr }
def emptyDevice : State :=
  { State.reset with
    launches := [imageOwner]
    images := [{ pa := 0x100000, asid := 0, launch := 0, lin := 0, bytes := imageEnds.2 }] }
def imageDevice : State := memWrite emptyDevice 0x100000 wholeImage

theorem physRead_memWrite {s : State} (h : s.memOk) (pa n : Nat) (bs : List Byte) (hn : n ≤ bs.length)
    (hr : ∀ j < n, paRegion (pa + j) ≠ 3) : physRead (memWrite s pa bs) none pa n = bs.take n := by
  apply List.ext_getElem?
  intro k
  unfold physRead
  rw [List.getElem?_map, List.getElem?_take]
  by_cases hk : k < n
  · have hb : k < bs.length := by omega
    rw [List.getElem?_range hk, if_pos hk]
    simp only [Option.map_some, physByte, resilientOwner, if_neg (hr k hk), Option.bind_none]
    have := byteAt_memWrite h pa (pa + k) bs
    unfold State.byteAt at this
    rw [this, if_pos (by omega), show pa + k - pa = k by omega, List.getElem?_eq_getElem hb]
    rfl
  · rw [if_neg hk, List.getElem?_eq_none (by simpa using hk)]
    rfl

theorem wholeImage_length : wholeImage.length = imageEnds.2 := by
  simp only [wholeImage, List.length_append, imageFront_length, sha3_length]
  decide +kernel

theorem imageDevice_image : imageAt imageDevice 0x100000 = wholeImage := by
  have hr : ∀ j < wholeImage.length, paRegion (0x100000 + j) ≠ 3 := by
    intro j hj h
    have : wholeImage.length < 2 ^ 20 := by rw [wholeImage_length]; decide +kernel
    unfold paRegion at h
    omega
  have hl : 12 ≤ wholeImage.length := by rw [wholeImage_length]; decide +kernel
  have hb : bytesNat (wholeImage.take 12) 8 4 = wholeImage.length := by
    rw [wholeImage_length]
    decide +kernel
  unfold imageAt imageDevice
  rw [physRead_memWrite (s := emptyDevice) rfl _ _ _ hl fun j hj => hr j (by omega)]
  dsimp only
  rw [if_pos (by decide +kernel), hb, physRead_memWrite (s := emptyDevice) rfl _ _ _ (Nat.le_refl _) hr, List.take_length]

theorem wholeImage_ok : imageOk imageDevice 0 wholeImage = true := by
  have h : imageDigest wholeImage = (wholeImage.drop 0x100).take 64 := by
    have := wholeImage_digest _ (sha3_length (imageFront ++ zeros 64 ++ imageRear))
    rw [show (wholeImage : List Byte) = imageFront ++ sha3 (imageFront ++ zeros 64 ++ imageRear) ++ imageRear from rfl, this,
      List.append_assoc imageFront (sha3 _), List.drop_left' imageFront_length, List.take_left' (sha3_length _)]
  have hl : launchOf imageDevice (imageHead wholeImage).launch = some imageOwner := by decide +kernel
  unfold imageOk
  dsimp only
  rw [hl]
  dsimp only
  rw [Bool.and_eq_true]
  exact ⟨by decide +kernel, by rw [h]; exact beq_self_eq_true _⟩

/-- CTXLD finds an image whole, which is that of the block, and restores it. -/
theorem test_ctxld_whole : imageAt imageDevice 0x100000 = imageBytes imageSource 0 0 imageBlock ∧ imageDevice.exactSums = [] ∧
    imageOk imageDevice 0 (imageAt imageDevice 0x100000) = true ∧
    (imageOf imageDevice (imageHead wholeImage).launch (imageHead wholeImage).lin).isSome = true ∧
    launchOf imageDevice (imageHead wholeImage).launch = some imageOwner ∧
    poisonCarried (imageHead wholeImage).offs (imageLaunch wholeImage imageOwner).hdr (imagePoison imageDevice 0x100000 wholeImage.length) = true ∧
    (imageFits imageDevice 0 imageOwner wholeImage (imageNeeds wholeImage)).isSome = true := by
  rw [imageDevice_image, wholeImage_is_the_blocks]
  exact ⟨rfl, rfl, wholeImage_ok, by decide +kernel, by decide +kernel, by decide +kernel, by decide +kernel⟩

theorem loadImage_restores {s : State} {core asid pa : Nat} {l : List Byte} {la : Launch} (hs : s.exactSums = []) (hl : imageAt s pa = l)
    (hok : imageOk s asid l = true) (hy : (imageOf s (imageHead l).launch (imageHead l).lin).isSome = true)
    (hla : launchOf s (imageHead l).launch = some la)
    (hp : poisonCarried (imageHead l).offs (imageLaunch l la).hdr (imagePoison s pa l.length) = true)
    (hf : (imageFits s core la l (imageNeeds l)).isSome = true) : ∃ t n, loadImage s core asid pa = .done t n := by
  obtain ⟨p, hp'⟩ := Option.isSome_iff_exists.mp hf
  have hr : retireRange s pa (imageAt s pa).length = s := by simp [retireRange, hs]
  unfold loadImage
  rw [hr]
  simp only [hl, hok, hla, hp, hp', Option.isNone_eq_false_iff.mpr hy, Bool.not_true, Bool.or_self, Bool.false_eq_true, if_false]
  exact ⟨_, _, rfl⟩

theorem test_ctxld_restores : ∃ t n, loadImage imageDevice 0 0 0x100000 = .done t n :=
  loadImage_restores test_ctxld_whole.2.1 imageDevice_image (imageDevice_image ▸ test_ctxld_whole.2.2.1) test_ctxld_whole.2.2.2.1
    test_ctxld_whole.2.2.2.2.1 test_ctxld_whole.2.2.2.2.2.1 test_ctxld_whole.2.2.2.2.2.2

/-- An image whose sections all stand at offset 0x80, and the entries that each clause of the reading back asks for. -/
def pointing (x : List Byte) : List Byte := zeros 0x20 ++ ((List.range 12).flatMap fun _ => leBytes 0x80 4) ++ zeros 0x30 ++ x
theorem test_image_sections (x : List Byte) (k : Nat) (h : k < 12) : sectOf (pointing x) k = x ++ [] := by
  rw [List.append_nil]
  interval_cases k <;> rfl
def fifoBlock : Block := { aBlock [aFrag 0 0xFFFFFFFF 8 .waitRcv] with fifos := [⟨⟨0, 256, none⟩, 0, 8, 4, 2, 0⟩], pbase := 65536 }
theorem test_image_entries :
    (stateCode id FragState.waitRcv).2.1 < 256 ∧ (stateCode id FragState.waitRcv).2.2 < 2 ^ 64 ∧
    (fifoBlock.wave? 0).any (fun x => x.depth < 256 && (List.range 32).all (fun j => decide (x.wbOf j < 65536)) && x.sigpend.isNone) = true ∧
    (let b := withOps [stagedOp .mma 0] fifoBlock
     b.ops.find? (fun x => x.slot == 0) = some (stagedOp .mma 0) ∧ (stagedOp .mma 0).status < 256 ∧ (stagedOp .mma 0).progress < 2 ^ 32) ∧
    (servedEntry.wave < 256 ∧ servedEntry.code < 256 ∧ servedEntry.access < 256) ∧
    (fifoBlock.fifos.all fun f => decide (f.rp < 2 ^ 64 ∧ f.cp < 2 ^ 64 ∧ f.lp < 2 ^ 64 ∧ f.fp < 2 ^ 64)) = true ∧
    fifoBlock.iron = none ∧ fifoBlock.rotate < 256 ∧ fifoBlock.opSeq < 2 ^ 32 := by decide +kernel
theorem test_image_memory : cellsWf 0 ({} : Core).sram = true ∧ cellsWf {} ({} : Core).acc = true ∧
    (∀ f ∈ fifoBlock.fifos, fifoBlock.pbase + fifoBlock.hdr.scratch ≤ f.bank * 65536 ∨ f.bank * 65536 + 65536 ≤ fifoBlock.pbase) ∧
    (imageHead (pointing (zeros 65568))).offs.getD 5 0 + 65568 * (0 + 1) ≤ (pointing (zeros 65568)).length := by
  refine ⟨by decide +kernel, by decide +kernel, by decide +kernel, ?_⟩
  have hl (x : List Byte) : (pointing x).length = 0x80 + x.length := by
    have hh : (zeros 0x20 ++ ((List.range 12).flatMap fun _ => leBytes 0x80 4) ++ zeros 0x30).length = 0x80 := rfl
    rw [pointing, List.length_append, hh]
  have h : (imageHead (pointing (zeros 65568))).offs.getD 5 0 = 0x80 := by decide +kernel
  rw [h, hl, zeros, List.length_replicate]
/-- The image of a small block names it (R409). -/
theorem test_image_layout : imageBlock.hdr.raw.length ≤ 128 ∧ imageEnds.2 < 2 ^ 32 ∧ (imageBytes imageSource 0 0 imageBlock).length = imageEnds.2 := by
  rw [wholeImage_is_the_blocks, wholeImage_length]
  exact ⟨by decide +kernel, by decide +kernel, rfl⟩

end Sys2Proof.Tests
end

section
/-! Taking a fault (R9, R242, R261, R341 to R343): what a new Hamper entry changes, the fragments and the entry that a fault
makes, and one equation of `takeFault` for each way in which it can end. -/

namespace Sys2Proof.Machine

/-! ### What a Hamper entry changes -/

@[simp] theorem countEvent_cores (s : State) (core code n : Nat) : (countEvent s core code n).cores = s.cores := by
  unfold countEvent
  split
  · rfl
  · dsimp only
    split
    · exact modPart_cores _ _ _
    · rfl

@[simp] theorem joinPageRequest_cores (s : State) (asid page access : Nat) (entries : List (Nat × Nat))
    (ops : List (Nat × Nat × Nat)) (launch target : Nat) :
    (joinPageRequest s asid page access entries ops launch target).cores = s.cores := by
  unfold joinPageRequest
  split
  · rfl
  · dsimp only
    split
    · exact emit_cores _ _
    · rfl

/-- Whoever serves the entry, the cores change by the entry and its age alone. -/
@[simp] theorem makeEntry_cores (s : State) (core asid launch : Nat) (e : HamperEntry) :
    (makeEntry s core asid launch e).cores =
      (modCore s core fun k => { k with hamper := k.hamper ++ [e], nextAge := k.nextAge + 1 }).cores := by
  unfold makeEntry
  dsimp only
  split
  · rw [joinPageRequest_cores, countEvent_cores]
  · rw [countEvent_cores]

@[simp] theorem coreOf_emit (s : State) (o : Output) (k : Nat) : coreOf (emit s o) k = coreOf s k := rfl

@[simp] theorem coreOf_makeEntry (s : State) (core asid launch k : Nat) (e : HamperEntry) :
    coreOf (makeEntry s core asid launch e) k =
      if k = core then
        { coreOf s core with hamper := (coreOf s core).hamper ++ [e], nextAge := (coreOf s core).nextAge + 1 }
      else coreOf s k := by
  rw [coreOf, makeEntry_cores]
  exact coreOf_modCore _ _ _ _

@[simp] theorem blockOf_makeEntry (s : State) (core asid launch k b : Nat) (e : HamperEntry) :
    blockOf (makeEntry s core asid launch e) k b = blockOf s k b := by
  rw [blockOf, blockOf, coreOf_makeEntry]
  split
  · subst_vars; rfl
  · rfl

@[simp] theorem waveOf_makeEntry (s : State) (core asid launch k b w : Nat) (e : HamperEntry) :
    waveOf (makeEntry s core asid launch e) k b w = waveOf s k b w := by
  rw [waveOf, waveOf, blockOf_makeEntry]

@[simp] theorem fragOf_makeEntry (s : State) (core asid launch k : Nat) (e : HamperEntry) (r : FragRef) :
    fragOf (makeEntry s core asid launch e) k r = fragOf s k r := by
  rw [fragOf, fragOf, waveOf_makeEntry]

/-! ### What the update of a wave or a fragment leaves of its core -/

@[simp] theorem coreOf_modWave (s : State) (core b w k : Nat) (f : Wave → Wave) :
    coreOf (modWave s core b w f) k =
      if k = core then (coreOf s core).modBlock b (fun x => x.modWave w f) else coreOf s k :=
  coreOf_modCore _ _ _ _

@[simp] theorem coreOf_modFrag (s : State) (core k : Nat) (r : FragRef) (f : Fragment → Fragment) :
    coreOf (modFrag s core r f) k =
      if k = core then (coreOf s core).modBlock r.block (fun x => x.modWave r.wave fun w => w.modFrag r.frag f)
      else coreOf s k :=
  coreOf_modWave _ _ _ _ _ _

/-! ### Putting a fragment in another's place -/

theorem Wave.id_of_frag? {w : Wave} {i : Nat} {f : Fragment} (h : w.frag? i = some f) : f.id = i := by
  simpa using List.find?_some h

theorem Wave.frag?_modFrag_const {w : Wave} {i : Nat} {f g : Fragment} (h : w.frag? i = some f) (hg : g.id = i) :
    (w.modFrag i fun _ => g).frag? i = some g := by
  have hmap := find?_map_key Fragment.id i i (fun _ => g) (fun _ _ => hg) w.frags
  rw [if_pos rfl] at hmap
  rw [Wave.frag?, Wave.modFrag_frags, hmap]
  exact congrArg (Option.map fun _ => g) h

theorem fragOf_modFrag_const {s : State} {core : Nat} {r : FragRef} {f g : Fragment} (h : fragOf s core r = some f)
    (hg : g.id = f.id) : fragOf (modFrag s core r fun _ => g) core r = some g := by
  obtain ⟨w, hw, hf⟩ := Option.bind_eq_some_iff.mp h
  have hid : g.id = r.frag := hg.trans (Wave.id_of_frag? hf)
  rw [fragOf, modFrag, waveOf_modWave _ _ _ _ _ _ _ _ fun x => Wave.modFrag_idx x _ _, if_pos ⟨rfl, rfl, rfl⟩, hw]
  exact Wave.frag?_modFrag_const hf hid

/-- A fragment that waits stands where it stood (R342). -/
theorem fragOf_waitAt {s : State} {c : Ctx} {f : Fragment} (h : fragOf s c.core c.ref = some f) (w : Wait) :
    fragOf (waitAt s c w) c.core c.ref = some { f with st := .waitEvent w, waitSince := s.timebase, released := false } := by
  rw [waitAt, fragOf_modFrag _ _ _ _ _ _ fun _ => by rfl, if_pos ⟨rfl, rfl⟩, h]
  rfl

/-! ### What a fault makes -/

/-- The lanes of the issuing fragment that a fault names. -/
def FaultInfo.lanesIn (fi : FaultInfo) (c : Ctx) : Lanes := fi.lanes &&& c.frag.members

/-- The issuing fragment, parked at its instruction in entry `idx` (R261). -/
def Ctx.parkedFragment (c : Ctx) (idx : Nat) : Fragment :=
  { c.frag with st := .parked idx, released := false, noCompare := false, sbBound := none, copied := none,
                drainBound := none, moved := false }

/-- The fragment that lanes detached from the issuing one become, parked at its instruction in entry `idx` (R261). -/
def Ctx.detachedFragment (c : Ctx) (idx : Nat) (lanes : Lanes) : Fragment :=
  { c.parkedFragment idx with
    id := c.wave.nextFrag, members := lanes, exec := lanes, kept := none, slot := {},
    loads := restrictLoads lanes c.frag.loads }

/-- A fragment that goes on without some lanes (R261). -/
def Fragment.without (f : Fragment) (lanes : Lanes) : Fragment :=
  { f with members := f.members &&& ~~~ lanes, exec := f.exec &&& ~~~ lanes, loads := restrictLoads (~~~ lanes) f.loads }

/-- The issuing wave once lanes have left the issuing fragment for one of their own (R261). -/
def Ctx.detachLanes (c : Ctx) (idx : Nat) (lanes : Lanes) (w : Wave) : Wave :=
  { w with nextFrag := c.wave.nextFrag + 1,
           frags := (w.frags.map fun f => if f.id = c.ref.frag then f.without lanes else f) ++ [c.detachedFragment idx lanes] }

/-- The Hamper entry of a fault whose lanes stand in fragment `frag` (R341); the memory-management unit serves that of a
page (R343). -/
def Ctx.hamperEntry (c : Ctx) (fi : FaultInfo) (s : State) (idx : Nat) (reserved : Bool) (frag : Nat) (lanes : Lanes) :
    HamperEntry :=
  ⟨idx, if faultToMmu fi.code fi.walk then .hw else .queued, c.ref.block, c.ref.wave, frag, fi.code, lanes,
   fi.active.getD (issueActive s c), fi.info, fi.access, c.frag.pc, (coreOf s c.core).nextAge, reserved⟩

theorem faultToMmu_iff {code : Nat} {walk : Bool} :
    faultToMmu code walk = true ↔ code = 0x07 ∨ (code = 0x08 ∧ walk = true) := by
  simp [faultToMmu]

@[simp] theorem Ctx.detachLanes_idx (c : Ctx) (idx : Nat) (lanes : Lanes) (w : Wave) :
    (c.detachLanes idx lanes w).idx = w.idx := rfl

/-- The lanes that do not fault go on in the issuing fragment. -/
theorem Ctx.frag?_detachLanes (c : Ctx) {w : Wave} {f : Fragment} (h : w.frag? c.ref.frag = some f) (idx : Nat) (lanes : Lanes) :
    (c.detachLanes idx lanes w).frag? c.ref.frag = some (f.without lanes) := by
  have hmap := Wave.frag?_modFrag w c.ref.frag c.ref.frag (fun x => x.without lanes) fun _ => rfl
  rw [if_pos rfl, h] at hmap
  rw [Wave.frag?] at hmap ⊢
  rw [Ctx.detachLanes, List.find?_append]
  exact congrArg (Option.or · _) hmap

/-- The lanes that fault stand in the wave's last fragment. -/
theorem Ctx.getLast?_frags_detachLanes (c : Ctx) (idx : Nat) (lanes : Lanes) (w : Wave) :
    (c.detachLanes idx lanes w).frags.getLast? = some (c.detachedFragment idx lanes) :=
  List.getLast?_concat

/-! ### The ways in which a fault is taken -/

section
variable {c : Ctx} {fi : FaultInfo} {before : State}

/-- R242: the supervisor's fault enters no Hamper; its core's Darner stops. -/
theorem takeFault_of_supervisor (after : State) (hb : c.ref.block = supervisorHandle) :
    takeFault c fi before after = darnerFault before c.core fi.code c.frag.pc fi.info := by
  rw [takeFault, if_pos hb]

/-- R342: while no entry is free, nothing of the instruction has taken effect. -/
theorem takeFault_of_no_entry (after : State) (hb : c.ref.block ≠ supervisorHandle)
    (hs : hamperSlot (coreOf before c.core) c.ref.block c.ref.wave = none) :
    takeFault c fi before after = waitAt before c .hamper := by
  rw [takeFault, if_neg hb, hs]

variable {idx : Nat} {reserved : Bool} (after : State) (hb : c.ref.block ≠ supervisorHandle)
  (hs : hamperSlot (coreOf before c.core) c.ref.block c.ref.wave = some (idx, reserved))
include hb hs

/-- A fault of every member at the faulting instruction parks the fragment. -/
theorem takeFault_of_whole (hpc : fi.pc = none) (hw : fi.whole = true ∨ fi.lanesIn c = c.frag.members) :
    takeFault c fi before after =
      makeEntry (modFrag before c.core c.ref fun _ => c.parkedFragment idx) c.core c.blk.asid c.blk.launch
        (c.hamperEntry fi before idx reserved c.ref.frag c.frag.members) := by
  rw [FaultInfo.lanesIn] at hw
  rw [takeFault, if_neg hb, hs]
  dsimp only
  rw [if_pos hw, hpc]
  rfl

/-- A fault of no member is none. -/
theorem takeFault_of_no_lanes (hw : fi.whole = false) (hne : fi.lanesIn c ≠ c.frag.members) (h0 : fi.lanesIn c = 0) :
    takeFault c fi before after = after := by
  rw [FaultInfo.lanesIn] at hne h0
  rw [takeFault, if_neg hb, hs]
  dsimp only
  rw [if_neg (by simp [hw, hne]), if_pos h0]

/-- A fault of some members at the faulting instruction detaches them. -/
theorem takeFault_of_lanes (hpc : fi.pc = none) (hw : fi.whole = false) (hne : fi.lanesIn c ≠ c.frag.members)
    (h0 : fi.lanesIn c ≠ 0) :
    takeFault c fi before after =
      makeEntry (modWave after c.core c.ref.block c.ref.wave (c.detachLanes idx (fi.lanesIn c))) c.core c.blk.asid c.blk.launch
        (c.hamperEntry fi before idx reserved c.wave.nextFrag (fi.lanesIn c)) := by
  rw [FaultInfo.lanesIn] at hne h0 ⊢
  rw [takeFault, if_neg hb, hs]
  dsimp only
  rw [if_neg (by simp [hw, hne]), if_neg h0, hpc]
  rfl

end

end Sys2Proof.Machine

namespace Sys2Proof.Claims

open Sys2Proof.Machine

/-- Settles O58: each clause is one way in which a fault is taken, read off that way's equation. -/
theorem takingAFault : Obligations.TakingAFault := by
  unfold Obligations.TakingAFault
  intro c fi before after hpc
  dsimp only
  simp only [← faultToMmu_iff]
  refine ⟨fun hb => ?supervisor, fun hb hs => ?noEntry, fun hb idx reserved hs =>
    ⟨fun hw => ?whole, fun hw hne h0 => takeFault_of_no_lanes after hb hs hw hne h0, fun hw hne h0 => ?lanes⟩⟩
  case supervisor =>
    rw [takeFault_of_supervisor after hb]
    exact ⟨darnerFault_mem _ _ _ _ _, by simp [darnerFault], rfl⟩
  case noEntry =>
    rw [takeFault_of_no_entry after hb hs]
    exact ⟨waitAt_mem _ _ _, fun f hf => fragOf_waitAt hf .hamper⟩
  case whole =>
    rw [takeFault_of_whole after hb hs hpc hw]
    refine ⟨by simp, by simp [Ctx.hamperEntry], by simp, fun n hn => by simp [hn], fun hf => ⟨c.parkedFragment idx, ?_⟩⟩
    rw [fragOf_makeEntry]
    exact ⟨fragOf_modFrag_const hf rfl, rfl, rfl, rfl, rfl, rfl, rfl⟩
  case lanes =>
    rw [takeFault_of_lanes after hb hs hpc hw hne h0]
    refine ⟨by simp, by simp [Ctx.hamperEntry, FaultInfo.lanesIn], fun w f hwave hf => ?_⟩
    refine ⟨c.detachLanes idx (fi.lanesIn c) w, f.without (fi.lanesIn c), c.detachedFragment idx (fi.lanesIn c), ?_, rfl,
      c.frag?_detachLanes hf _ _, c.getLast?_frags_detachLanes _ _ _, rfl, rfl, rfl, rfl, rfl, rfl, rfl, rfl, rfl, rfl, rfl⟩
    rw [waveOf_makeEntry, waveOf_modWave _ _ _ _ _ _ _ _ (c.detachLanes_idx _ _), if_pos ⟨rfl, rfl, rfl⟩, hwave]
    rfl

end Sys2Proof.Claims
end

section
/-! What a completion leaves (R31): the tables that it writes, the issuing wave and fragment after it, and the place of
every other object. -/

namespace Sys2Proof.Machine

/-! ### Sparse tables -/

section
variable {α : Type} [DecidableEq α] {d : α}

/-- A write leaves every other key as it was, in a table of any form. -/
theorem cellGet_cellSet_of_ne {k j : Nat} (h : j ≠ k) (v : α) (l : Cells α) :
    cellGet d j (cellSet d k v l) = cellGet d j l := by
  induction l with
  | nil => by_cases hv : v = d <;> simp [cellSet, cellGet, hv, Ne.symm h]
  | cons e r ih =>
    obtain ⟨a, x⟩ := e
    rcases Nat.lt_trichotomy k a with hka | rfl | hka
    · by_cases hv : v = d <;> simp [cellSet, cellGet, hka, hv, Ne.symm h]
    · by_cases hv : v = d <;> simp [cellSet, cellGet, hv, Ne.symm h]
    · simp [cellSet, cellGet, ih, Nat.not_lt.mpr hka.le, hka.ne']

/-- Several writes leave the keys that none of them names, in a table of any form. -/
theorem cellGet_cellSetAll_of_ne {j : Nat} {ws : List (Nat × α)} (h : ∀ e ∈ ws, j ≠ e.1) (l : Cells α) :
    cellGet d j (cellSetAll d ws l) = cellGet d j l := by
  induction ws generalizing l with
  | nil => rfl
  | cons e r ih =>
    exact (ih (fun x hx => h x (List.mem_cons_of_mem _ hx)) _).trans
      (cellGet_cellSet_of_ne (h e List.mem_cons_self) e.2 l)

/-- A key that some writes name, all with one value, reads as that value. -/
theorem cellGet_cellSetAll_of_mem {l : Cells α} {ws : List (Nat × α)} {k : Nat} {v : α} (hl : cellsWf d l = true)
    (hmem : (k, v) ∈ ws) (h : ∀ e ∈ ws, e.1 = k → e.2 = v) : cellGet d k (cellSetAll d ws l) = v := by
  induction ws generalizing l with
  | nil => cases hmem
  | cons e r ih =>
    have hr : ∀ x ∈ r, x.1 = k → x.2 = v := fun x hx => h x (List.mem_cons_of_mem _ hx)
    by_cases hkr : (k, v) ∈ r
    · exact ih (cellsWf_cellSet hl) hkr hr
    · obtain rfl : (k, v) = e := (List.mem_cons.mp hmem).resolve_right hkr
      have hlast : ∀ x ∈ r, x.1 ≠ k := fun x hx hxk => hkr ((Prod.ext hxk (hr x hx hxk) : x = (k, v)) ▸ hx)
      exact (cellGet_cellSetAll_of_notMem (cellsWf_cellSet hl) hlast).trans (by rw [cellGet_cellSet hl, if_pos rfl])

/-- What holds of a key's entry and of every value written to it holds of its entry afterwards. -/
theorem cellGet_cellSetAll_of_forall {P : α → Prop} {l : Cells α} {ws : List (Nat × α)} {k : Nat} (hl : cellsWf d l = true)
    (h0 : P (cellGet d k l)) (h : ∀ e ∈ ws, e.1 = k → P e.2) : P (cellGet d k (cellSetAll d ws l)) := by
  induction ws generalizing l with
  | nil => exact h0
  | cons e r ih =>
    refine ih (cellsWf_cellSet hl) ?_ fun x hx => h x (List.mem_cons_of_mem _ hx)
    rw [cellGet_cellSet hl]
    split
    next hk => exact h e List.mem_cons_self hk.symm
    next => exact h0

end

/-! ### Sets of lanes -/

theorem mem_lanesOf {m : Lanes} {lane : Nat} : lane ∈ lanesOf m ↔ m.getLsbD lane = true := by
  simp only [lanesOf, laneList, List.mem_filter, List.mem_range, and_iff_right_iff_imp]
  exact BitVec.lt_of_getLsbD

theorem lanesWhere_false (m : Lanes) : (lanesWhere m fun _ => false) = 0 := by
  unfold lanesWhere
  induction lanesOf m with
  | nil => rfl
  | cons lane r ih => exact ih

/-- What the lanes of a set write, in each of a step's lists. -/
theorem laneWrites_flatMap {β : Type} (part : HistStep → List β) (h0 : part {} = [])
    (happend : ∀ a b : HistStep, part (a.append b) = part a ++ part b) (m : Lanes) (f : Nat → HistStep) :
    part (laneWrites m f) = (lanesOf m).flatMap fun lane => part (f lane) := by
  have hfold : ∀ (l : List Nat) (a : HistStep),
      part (l.foldl (fun w lane => w.append (f lane)) a) = part a ++ l.flatMap fun lane => part (f lane) := by
    intro l
    induction l with
    | nil => simp
    | cons lane r ih => intro a; rw [List.foldl_cons, ih, happend, List.flatMap_cons, List.append_assoc]
  rw [laneWrites, hfold, h0, List.nil_append]

theorem mem_laneWrites_vs {m : Lanes} {f : Nat → HistStep} {e : Nat × VReg} :
    e ∈ (laneWrites m f).vs ↔ ∃ lane, m.getLsbD lane = true ∧ e ∈ (f lane).vs := by
  simp [laneWrites_flatMap HistStep.vs rfl fun _ _ => rfl, mem_lanesOf]

theorem mem_laneWrites_ss {m : Lanes} {f : Nat → HistStep} {e : Nat × SReg} :
    e ∈ (laneWrites m f).ss ↔ ∃ lane, m.getLsbD lane = true ∧ e ∈ (f lane).ss := by
  simp [laneWrites_flatMap HistStep.ss rfl fun _ _ => rfl, mem_lanesOf]

theorem mem_laneWrites_ps {m : Lanes} {f : Nat → HistStep} {e : Nat × Lanes} :
    e ∈ (laneWrites m f).ps ↔ ∃ lane, m.getLsbD lane = true ∧ e ∈ (f lane).ps := by
  simp [laneWrites_flatMap HistStep.ps rfl fun _ _ => rfl, mem_lanesOf]

/-! ### The issuing wave and fragment after a completion -/

/-- Naming granules changes their stamps alone (R27). -/
theorem nameGranules_eq (w : Wave) (m : Lanes) (l : List Nat) (n : Nat) :
    ∃ named, nameGranules w m l n = { w with named := named } := by
  have hfold : ∀ (l : List Nat) (f : Wave → Nat → Wave), (∀ w k, ∃ named, f w k = { w with named := named }) →
      ∀ w : Wave, ∃ named, l.foldl f w = { w with named := named } := by
    intro l f hf
    induction l with
    | nil => exact fun w => ⟨w.named, rfl⟩
    | cons k r ih =>
      intro w
      obtain ⟨a, ha⟩ := hf w k
      obtain ⟨b, hb⟩ := ih (f w k)
      exact ⟨b, by rw [List.foldl_cons, hb, ha]⟩
  unfold nameGranules
  split
  · exact hfold _ _ (fun _ _ => ⟨_, rfl⟩) w
  · exact hfold _ _ (fun w _ => hfold _ _ (fun _ _ => ⟨_, rfl⟩) w) w

section
variable (c : Ctx) (i : Instr) (s : State) (x : HistStep) (pc : BitVec 64)

/-- A fragment after the completion of `i` at `pc` (R31, R103 to R106). -/
def Ctx.completedFragment (f : Fragment) : Fragment :=
  { f with
    pc := pc, st := .run, s := cellSetAll {} x.ss f.s, stallUntil := s.cycle + 1 + stallCount i
    prods := nextProducers s f (writtenCodes i (modeType c.frag.mode))
      (latencyOf i (modeType c.frag.mode) (uniformIssue i))
    hist := oldValues c.wave c.frag (x.append (awaited none)) :: f.hist.take 7
    noCompare := false, sbBound := none, copied := none, drainBound := none, moved := false, released := false }

/-- A wave after the completion of `i` by its fragment `c.ref.frag`. -/
def Ctx.completedWave (w : Wave) : Wave :=
  { w.modFrag c.ref.frag (c.completedFragment i s x pc) with
    regs := cellSetAll {} x.vs w.regs
    preds := cellSetAll 0 x.ps w.preds
    named := (nameGranules w c.frag.members (namedWindow i (modeType c.frag.mode)) s.cycle).named }

theorem completeAt_eq :
    completeAt c i s x pc =
      { modWave s c.core c.ref.block c.ref.wave (c.completedWave i s x pc) with freeCtr := s.freeCtr + 1 } := by
  refine congrArg (fun g => { modWave s c.core c.ref.block c.ref.wave g with freeCtr := s.freeCtr + 1 }) (funext fun w => ?_)
  obtain ⟨named, hn⟩ := nameGranules_eq w c.frag.members (namedWindow i (modeType c.frag.mode)) s.cycle
  rw [Ctx.completedWave, hn]
  dsimp only [applyWrites, Wave.modFrag]
  rw [List.map_map]
  congr 1
  refine List.map_congr_left fun f _ => ?_
  by_cases hf : f.id = c.ref.frag
  · simp only [Function.comp_apply, if_pos hf, Ctx.completedFragment]
    rfl
  · simp only [Function.comp_apply, if_neg hf]

theorem coreOf_completeAt (k : Nat) :
    coreOf (completeAt c i s x pc) k =
      if k = c.core then (coreOf s c.core).modBlock c.ref.block fun b => b.modWave c.ref.wave (c.completedWave i s x pc)
      else coreOf s k := by
  rw [completeAt_eq]
  exact coreOf_modWave _ _ _ _ _ _

theorem blockOf_completeAt (k b : Nat) :
    blockOf (completeAt c i s x pc) k b =
      if k = c.core ∧ b = c.ref.block then
        (blockOf s k b).map fun b => b.modWave c.ref.wave (c.completedWave i s x pc)
      else blockOf s k b := by
  rw [completeAt_eq]
  exact blockOf_modBlock _ _ _ _ _ _

theorem completedWave_frag? (w : Wave) (n : Nat) :
    (c.completedWave i s x pc w).frag? n =
      if n = c.ref.frag then (w.frag? n).map (c.completedFragment i s x pc) else w.frag? n :=
  Wave.frag?_modFrag w c.ref.frag n (c.completedFragment i s x pc) fun _ => rfl

variable {c s} (hc : ctxOf s = some c)
include hc

theorem frag?_completedWave_ctx :
    (c.completedWave i s x pc c.wave).frag? c.ref.frag = some (c.completedFragment i s x pc c.frag) := by
  obtain ⟨-, -, -, hf⟩ := ctxOf_eq_some hc
  rw [completedWave_frag?, if_pos rfl, hf]
  rfl

theorem blockOf_completeAt_ctx :
    blockOf (completeAt c i s x pc) c.core c.ref.block = some (c.blk.modWave c.ref.wave (c.completedWave i s x pc)) := by
  obtain ⟨-, hb, -, -⟩ := ctxOf_eq_some hc
  rw [blockOf_completeAt, if_pos ⟨rfl, rfl⟩, hb]
  rfl

theorem wave?_modWave_completedWave_ctx :
    (c.blk.modWave c.ref.wave (c.completedWave i s x pc)).wave? c.ref.wave = some (c.completedWave i s x pc c.wave) := by
  obtain ⟨-, -, hw, -⟩ := ctxOf_eq_some hc
  rw [Block.wave?_modWave _ _ _ (c.completedWave i s x pc) fun _ => rfl, if_pos rfl, hw]
  rfl

theorem waveOf_completeAt_ctx :
    waveOf (completeAt c i s x pc) c.core c.ref.block c.ref.wave = some (c.completedWave i s x pc c.wave) := by
  rw [waveOf, blockOf_completeAt_ctx i x pc hc]
  exact wave?_modWave_completedWave_ctx i x pc hc

theorem fragOf_completeAt_ctx :
    fragOf (completeAt c i s x pc) c.core c.ref = some (c.completedFragment i s x pc c.frag) := by
  rw [fragOf, waveOf_completeAt_ctx i x pc hc]
  exact frag?_completedWave_ctx i x pc hc

end

end Sys2Proof.Machine
end

section
/-! What a completed result makes its destination read as (R28, R30). -/

namespace Sys2Proof.Machine

/-- Two lanes share no cell, and a lane's registers none. -/
theorem Wave.cell_inj {w : Wave} {a b n m : Nat} (ha : a < 32) (hb : b < 32) (h : w.cell a n = w.cell b m) :
    a = b ∧ n = m := by
  unfold Wave.cell at h
  obtain rfl : a = b := by omega
  exact ⟨rfl, by omega⟩

/-- The writes of a lane's result determine the lane and, in it, the value that a cell takes. -/
theorem writeV_agree {c : Ctx} {a b d t : Nat} {wide : Bool} {x : Nat → BitVec 64 × Tag} {e g : Nat × VReg}
    (ha : a < 32) (hb : b < 32) (he : e ∈ writeV c a d wide t (x a).1 (x a).2)
    (hg : g ∈ writeV c b d wide t (x b).1 (x b).2) (h : e.1 = g.1) : e = g := by
  cases wide with
  | false =>
    simp only [writeV, Bool.false_eq_true, if_false, List.mem_singleton] at he hg
    subst he hg
    obtain ⟨rfl, -⟩ := Wave.cell_inj ha hb h
    rfl
  | true =>
    simp only [writeV, if_true, List.mem_cons, List.not_mem_nil, or_false] at he hg
    rcases he with rfl | rfl <;> rcases hg with rfl | rfl <;> obtain ⟨rfl, hd⟩ := Wave.cell_inj ha hb h
    · rfl
    · omega
    · omega
    · rfl

section
variable {s : State} {c : Ctx} {i : Instr} {d : Code} {wide : Bool} {t : Nat} {f : Nat → BitVec 64 × Tag}

theorem resultWrites_ss_of_uniform (hu : uniformIssue i = true) (hlo : 64 ≤ d.toNat) (hhi : d.toNat < 96) :
    (resultWrites s c i d wide t f).ss = [(d.toNat - 64, ⟨if wide then (f 0).1 else heldInS t (f 0).1, (f 0).2⟩)] := by
  rw [resultWrites, if_pos hu, writeCode, if_neg (Nat.not_lt.mpr hlo), if_pos hhi]

theorem mem_resultWrites_vs (hu : uniformIssue i = false) (hd : d.toNat < 64) {e : Nat × VReg} :
    e ∈ (resultWrites s c i d wide t f).vs ↔
      ∃ lane, (issueActive s c).getLsbD lane = true ∧ e ∈ writeV c lane d.toNat wide t (f lane).1 (f lane).2 := by
  simp only [resultWrites, hu, Bool.false_eq_true, if_false, mem_laneWrites_vs, writeCode, hd, if_true]

/-- A window register of a lane of ACTIVE reads as the lane's own result wrote it. -/
theorem cellGet_resultWrites (hu : uniformIssue i = false) (hd : d.toNat < 64) {regs : Cells VReg}
    (hwf : cellsWf {} regs = true) {lane : Nat} (hlane : (issueActive s c).getLsbD lane = true) {k : Nat} {v : VReg}
    (hv : (k, v) ∈ writeV c lane d.toNat wide t (f lane).1 (f lane).2) :
    cellGet {} k (cellSetAll {} (resultWrites s c i d wide t f).vs regs) = v := by
  refine cellGet_cellSetAll_of_mem hwf ((mem_resultWrites_vs hu hd).mpr ⟨lane, hlane, hv⟩) fun e he hk => ?_
  obtain ⟨other, hother, he⟩ := (mem_resultWrites_vs hu hd).mp he
  rw [writeV_agree (BitVec.lt_of_getLsbD hother) (BitVec.lt_of_getLsbD hlane) he hv hk]

end

/-- A predicate other than p7 after its write in some lanes. -/
theorem cellGet_writePred {c : Ctx} {k : Nat} (hk : k ≠ 7) (hwf : cellsWf 0 c.wave.preds = true) (lanes value : Lanes) :
    cellGet 0 k (cellSetAll 0 (writePred c k lanes value).ps c.wave.preds) =
      (predOf c.wave k &&& ~~~ lanes) ||| (value &&& lanes) := by
  rw [writePred, if_neg hk]
  exact (cellGet_cellSet hwf k k _).trans (if_pos rfl)

theorem getLsbD_masked (old value lanes : Lanes) (lane : Nat) :
    ((old &&& ~~~ lanes) ||| (value &&& lanes)).getLsbD lane =
      if lanes.getLsbD lane then value.getLsbD lane else old.getLsbD lane := by
  simp only [BitVec.getLsbD_or, BitVec.getLsbD_and, BitVec.getLsbD_not]
  cases h : lanes.getLsbD lane with
  | true => simp
  | false => simpa using BitVec.lt_of_getLsbD

end Sys2Proof.Machine

namespace Sys2Proof.Claims

open Sys2Proof.Machine

/-- Settles O60: each destination is looked up in the wave or the fragment that the completion leaves. -/
theorem resultsReadBack : Obligations.ResultsReadBack := by
  unfold Obligations.ResultsReadBack
  intro i s c d wide ty f p v hc
  refine ⟨fun hu hlo hhi hwf => ?sRegister, fun hu hd hwf => ?window, fun hp hwf => ?predicate⟩
  case sRegister =>
    refine ⟨_, fragOf_completeAt_ctx i _ _ hc, ?_⟩
    rw [Ctx.completedFragment, resultWrites_ss_of_uniform hu hlo hhi]
    exact (cellGet_cellSet hwf _ _ _).trans (if_pos rfl)
  case window =>
    refine ⟨_, waveOf_completeAt_ctx i _ _ hc, fun lane hlane => ⟨?single, ?pair⟩⟩
    case single =>
      rintro rfl
      exact cellGet_resultWrites hu hd hwf hlane (by simp [writeV])
    case pair =>
      rintro rfl
      exact ⟨cellGet_resultWrites hu hd hwf hlane (by simp [writeV]),
        cellGet_resultWrites hu hd hwf hlane (by simp [writeV])⟩
  case predicate =>
    refine ⟨_, waveOf_completeAt_ctx i _ _ hc, fun lane => ?_⟩
    rw [predOf, if_neg hp.ne]
    exact (congrArg (·.getLsbD lane) (cellGet_writePred hp.ne hwf _ _)).trans (getLsbD_masked _ _ _ _)

end Sys2Proof.Claims
end

section
/-! Where the forms of one destination write (R31): no form of `destinations` does anything but complete, while no
exception is enabled, and its writes stay in its destination. -/

namespace Sys2Proof.Claims

open Sys2Proof.Machine

/-! ### The destination field of a form -/

/-- The destination field of a form names `d` at width `w`. -/
def Delivers (i : Instr) (d : Code) (w : WidthSpec) : Prop :=
  ∃ o, (operandsOf i).find? (·.writes) = some o ∧ o.code = d ∧ o.width = w

/-- A uniform form's destination is no window register (R23). -/
theorem Delivers.not_window_of_uniform {i : Instr} {d : Code} {w : WidthSpec} (h : Delivers i d w)
    (hu : uniformIssue i = true) : ¬ d.toNat < 64 := by
  obtain ⟨o, ho, rfl, -⟩ := h
  intro hlt
  simp [uniformIssue, ho, hlt] at hu

section
variable {i : Instr} {s : State} {c : Ctx}

theorem Issues.issueForm_eq (h : Issues i s c) (body : Ctx → State) : issueForm i s body = .next (body c) := by
  obtain ⟨hc, hd, hw, hk⟩ := h
  exact Machine.issueForm_eq hc hd hw hk body

theorem Issues.operandOk (h : Issues i s c) {o : OperandSpec} (ho : o ∈ operandsOf i) :
    operandOk c.blk.hdr (modeType c.frag.mode) o = true := by
  obtain ⟨-, hd, -, -⟩ := h
  have hok : decodeOk c.blk.hdr c.frag.mode i = true := by
    unfold decodeCheck at hd
    split at hd
    · cases hd
    · simpa using hd
  simp only [decodeOk, Bool.and_eq_true, List.all_eq_true] at hok
  obtain ⟨⟨⟨-, hops⟩, -⟩, -⟩ := hok
  exact hops o ho

/-- The second register of a destination pair is a window register too (R28). -/
theorem Issues.pair_fits (h : Issues i s c) {d : Code} {w : WidthSpec} (hd : Delivers i d w)
    (hwide : widthOf w (modeType c.frag.mode) = 64) (hlt : d.toNat < 64) : d.toNat + 1 < 64 := by
  obtain ⟨o, ho, rfl, rfl⟩ := hd
  have hok := h.operandOk (List.mem_of_find?_eq_some ho)
  simp [Machine.operandOk, hlt, hwide, windowSize] at hok
  omega

end

theorem widthOf_ty {t : Nat} (h : is64 t = true) : widthOf .ty t = 64 := by simp [widthOf, tyBits, h]

theorem widthOf_it {t : Nat} (h : is64 (intType t) = true) : widthOf .it t = 64 := by simp [widthOf, tyBits, h]

theorem widthOf_move {t : Nat} (h : is64 t = true) : widthOf .move t = 64 := by simp [widthOf, h]

theorem mem_regsOf (wide : Bool) (d : Code) : d.toNat ∈ regsOf wide d := by
  unfold regsOf
  split <;> simp

/-! ### Writes that stay in a destination -/

/-- The writes stay in the destination `l`, those to window registers in the lanes `m` as well, and those to a predicate
keep it outside ACTIVE. -/
structure ConfinedTo (x : HistStep) (s : State) (c : Ctx) (l : List Nat) (m : Lanes) : Prop where
  vs : ∀ e ∈ x.vs, ∃ n ∈ l, n < 64 ∧ ∃ lane, m.getLsbD lane = true ∧ e.1 = c.wave.cell lane n
  ss : ∀ e ∈ x.ss, 64 + e.1 ∈ l
  ps : ∀ e ∈ x.ps, 128 + e.1 ∈ l ∧ ∀ lane, (issueActive s c).getLsbD lane = false →
    e.2.getLsbD lane = (cellGet 0 e.1 c.wave.preds).getLsbD lane

section
variable {s : State} {c : Ctx} {m : Lanes} {d : Code} {wide : Bool}

theorem ConfinedTo.nothing {l : List Nat} : ConfinedTo {} s c l m :=
  ⟨nofun, nofun, nofun⟩

/-- Writes to one window register or pair of a lane. -/
theorem ConfinedTo.window {lane : Nat} {vs : List (Nat × VReg)} (hfit : wide = true → d.toNat < 64 → d.toNat + 1 < 64)
    (hd : d.toNat < 64) (hlane : m.getLsbD lane = true)
    (hvs : ∀ e ∈ vs, e.1 = c.wave.cell lane d.toNat ∨ wide = true ∧ e.1 = c.wave.cell lane (d.toNat + 1)) :
    ConfinedTo { vs := vs } s c (regsOf wide d) m := by
  refine ⟨fun e he => ?_, nofun, nofun⟩
  obtain h | ⟨hw, h⟩ := hvs e he
  · exact ⟨d.toNat, mem_regsOf wide d, hd, lane, hlane, h⟩
  · exact ⟨d.toNat + 1, by simp [regsOf, hw, hd], hfit hw hd, lane, hlane, h⟩

/-- The write of one s-register. -/
theorem ConfinedTo.sRegister (hd : 64 ≤ d.toNat) (r : SReg) :
    ConfinedTo { ss := [(d.toNat - 64, r)] } s c (regsOf wide d) m := by
  refine ⟨nofun, fun e he => ?_, nofun⟩
  obtain rfl := List.mem_singleton.mp he
  simpa [Nat.add_sub_cancel' hd] using mem_regsOf wide d

theorem ConfinedTo.writeCode {lane : Nat} (hfit : wide = true → d.toNat < 64 → d.toNat + 1 < 64)
    (hlane : d.toNat < 64 → m.getLsbD lane = true) (t : Nat) (x : BitVec 64) (tag : Tag) :
    ConfinedTo (writeCode c lane d wide t x tag) s c (regsOf wide d) m := by
  obtain ⟨hd, h⟩ | ⟨hd, -, h⟩ | ⟨-, h⟩ := writeCode_cases c lane d wide t x tag <;> rw [h]
  · exact .window hfit hd (hlane hd) (by cases wide <;> simp [writeV])
  · exact .sRegister hd _
  · exact .nothing

theorem ConfinedTo.retag {lane : Nat} (hfit : wide = true → d.toNat < 64 → d.toNat + 1 < 64)
    (hlane : d.toNat < 64 → m.getLsbD lane = true) (tag : Tag) :
    ConfinedTo (retag c lane d wide tag) s c (regsOf wide d) m := by
  unfold Machine.retag
  dsimp only
  split
  next hd => exact .window hfit hd (hlane hd) (by cases wide <;> simp)
  next hd =>
    split
    · exact .sRegister (Nat.not_lt.mp hd) _
    · exact .nothing

theorem ConfinedTo.laneWrites {l : List Nat} {f : Nat → HistStep}
    (h : ∀ lane, m.getLsbD lane = true → ConfinedTo (f lane) s c l m) : ConfinedTo (laneWrites m f) s c l m where
  vs e he := by
    obtain ⟨lane, hlane, he⟩ := mem_laneWrites_vs.mp he
    exact (h lane hlane).vs e he
  ss e he := by
    obtain ⟨lane, hlane, he⟩ := mem_laneWrites_ss.mp he
    exact (h lane hlane).ss e he
  ps e he := by
    obtain ⟨lane, hlane, he⟩ := mem_laneWrites_ps.mp he
    exact (h lane hlane).ps e he

/-- The writes of a form that runs once or lane by lane. -/
theorem ConfinedTo.onceOrLanes {i : Instr} {w : WidthSpec} {l : List Nat} {x : HistStep} {f : Nat → HistStep}
    (hd : Delivers i d w) (hx : ¬ d.toNat < 64 → ConfinedTo x s c l m)
    (hf : ∀ lane, m.getLsbD lane = true → ConfinedTo (f lane) s c l m) :
    ConfinedTo (if uniformIssue i = true then x else Machine.laneWrites m f) s c l m := by
  split
  next hu => exact hx (hd.not_window_of_uniform hu)
  next => exact .laneWrites hf

theorem ConfinedTo.resultWrites {i : Instr} {w : WidthSpec} (hd : Delivers i d w)
    (hfit : wide = true → d.toNat < 64 → d.toNat + 1 < 64) (t : Nat) (f : Nat → BitVec 64 × Tag) :
    ConfinedTo (resultWrites s c i d wide t f) s c (regsOf wide d) (issueActive s c) :=
  .onceOrLanes hd (fun hs => .writeCode hfit (absurd · hs) _ _ _) fun _ hlane => .writeCode hfit (fun _ => hlane) _ _ _

theorem ConfinedTo.writePred (p : BitVec 3) (v : Lanes) :
    ConfinedTo (writePred c p.toNat (issueActive s c) v) s c [128 + p.toNat] m := by
  unfold Machine.writePred
  split
  next => exact ConfinedTo.nothing
  next hp =>
    refine ⟨nofun, nofun, fun e he => ?_⟩
    obtain rfl := List.mem_singleton.mp he
    refine ⟨List.mem_singleton_self _, fun lane hlane => ?_⟩
    dsimp only
    rw [getLsbD_masked, hlane, predOf, if_neg hp]
    rfl

end

/-! ### Forms that complete within their destination -/

/-- The outcome is a completion whose writes stay in the form's destination `l`. -/
def CompletesWithin (r : Host.Outcome State Fault Refusal) (i : Instr) (s : State) (c : Ctx) (l : List Nat) : Prop :=
  ∃ x pc, r = .next (completeAt c i s x pc) ∧ ConfinedTo x s c l (writtenLanes s c i)

section
variable {i : Instr} {s : State} {c : Ctx}

/-- A form without an exception completes in every lane of ACTIVE. -/
theorem trapLanes_of_disabled (htrap : modeTrapEn c.frag.mode = 0) (m : Lanes) (raised exc : Nat → Exc)
    (writes : Lanes → HistStep) :
    trapLanes s c i (lanesWhere m fun lane => enabledExc c (raised lane) != 0) exc writes =
      complete c i s (writes (issueActive s c)) := by
  have hquiet : (fun lane => enabledExc c (raised lane) != 0) = fun _ => false := by
    funext lane
    simp [enabledExc, htrap]
  rw [hquiet, lanesWhere_false, trapLanes, if_pos rfl, show ~~~ (0 : Lanes) = BitVec.allOnes 32 from rfl, BitVec.and_allOnes]

/-- A form without results. -/
theorem completesWithin_nothing (h : Issues i s c) (pc : Ctx → BitVec 64) (l : List Nat) :
    CompletesWithin (issueForm i s fun c => completeAt c i s {} (pc c)) i s c l :=
  ⟨_, _, h.issueForm_eq _, .nothing⟩

/-- A form that writes a predicate in ACTIVE. -/
theorem completesWithin_predicate (h : Issues i s c) (p : BitVec 3) (v : Ctx → Lanes) :
    CompletesWithin (issueForm i s fun c => complete c i s (writePred c p.toNat (issueActive s c) (v c))) i s c
      [128 + p.toNat] :=
  ⟨_, _, h.issueForm_eq _, .writePred p (v c)⟩

/-- A form of one result (`wide c` for a pair). -/
theorem completesWithin_result (h : Issues i s c) {d : Code} {w : WidthSpec} {wide : Ctx → Bool} (hd : Delivers i d w)
    (hwide : wide c = true → widthOf w (modeType c.frag.mode) = 64) (hlanes : writtenLanes s c i = issueActive s c)
    (t : Ctx → Nat) (f : Ctx → Nat → BitVec 64 × Tag) :
    CompletesWithin (issueForm i s fun c => complete c i s (resultWrites s c i d (wide c) (t c) (f c))) i s c
      (regsOf (wide c) d) :=
  ⟨_, _, h.issueForm_eq _, hlanes ▸ .resultWrites hd (fun hw => h.pair_fits hd (hwide hw)) _ _⟩

/-- A floating-point form with every exception disabled. -/
theorem completesWithin_typedForm (h : Issues i s c) (htrap : modeTrapEn c.frag.mode = 0) {d : Code} (hd : Delivers i d .ty)
    (hlanes : writtenLanes s c i = issueActive s c) (f : Ctx → Nat → LaneRes) :
    CompletesWithin (typedForm i d s f) i s c (regsOf (is64 (modeType c.frag.mode)) d) := by
  have hfit : is64 (modeType c.frag.mode) = true → d.toNat < 64 → d.toNat + 1 < 64 :=
    fun hw => h.pair_fits hd (widthOf_ty hw)
  unfold CompletesWithin typedForm floatForm
  rw [h.issueForm_eq, hlanes]
  dsimp only
  split
  next hu =>
    rw [if_neg (by simp [enabledExc, htrap])]
    exact ⟨_, _, rfl, .writeCode hfit (absurd · (hd.not_window_of_uniform hu)) _ _ _⟩
  next =>
    rw [trapLanes_of_disabled htrap]
    exact ⟨_, _, rfl, .laneWrites fun lane hlane => .writeCode hfit (fun _ => hlane) _ _ _⟩

end

section
variable {s : State} {c : Ctx}

/-- SEL writes in every lane of EXEC (R142, R143). -/
theorem sel_completesWithin {w : BitVec 3} {d a : Code} {b : Src} (h : Issues (.sel w d a b) s c) :
    CompletesWithin (exec (.sel w d a b) s) (.sel w d a b) s c (regsOf (is64 (modeType c.frag.mode)) d) := by
  have hd : Delivers (.sel w d a b) d .ty := ⟨_, rfl, rfl, rfl⟩
  have hfit := fun hw => h.pair_fits hd (widthOf_ty hw)
  exact ⟨_, _, h.issueForm_eq _, .onceOrLanes hd (fun hs => .writeCode hfit (absurd · hs) _ _ _)
    fun lane hlane => .writeCode hfit (fun _ => hlane) _ _ _⟩

theorem fcmp_completesWithin {w p : BitVec 3} {k : FloatCond} {a : Code} {b : Src} (h : Issues (.fcmp w k p a b) s c)
    (htrap : modeTrapEn c.frag.mode = 0) :
    CompletesWithin (exec (.fcmp w k p a b) s) (.fcmp w k p a b) s c [128 + p.toNat] :=
  ⟨_, _, (h.issueForm_eq _).trans (congrArg Host.Outcome.next (trapLanes_of_disabled htrap _ _ _ _)), .writePred p _⟩

theorem ftagw_completesWithin {w : BitVec 3} {d : Code} {b : Src} (h : Issues (.ftagw w d b) s c) :
    CompletesWithin (exec (.ftagw w d b) s) (.ftagw w d b) s c (regsOf (is64 (modeType c.frag.mode)) d) := by
  have hd : Delivers (.ftagw w d b) d .ty := ⟨_, rfl, rfl, rfl⟩
  have hfit := fun hw => h.pair_fits hd (widthOf_ty hw)
  exact ⟨_, _, h.issueForm_eq _, .onceOrLanes hd (fun hs => .retag hfit (absurd · hs) _)
    fun lane hlane => .retag hfit (fun _ => hlane) _⟩

theorem wred_completesWithin {w : BitVec 3} {d a : Code} {o : RedOp} (h : Issues (.wred w d a o) s c)
    (htrap : modeTrapEn c.frag.mode = 0) :
    CompletesWithin (exec (.wred w d a o) s) (.wred w d a o) s c (regsOf (is64 (modeType c.frag.mode)) d) := by
  have hd : Delivers (.wred w d a o) d .ty := ⟨_, rfl, rfl, rfl⟩
  refine ⟨_, _, (h.issueForm_eq _).trans (congrArg Host.Outcome.next (if_neg ?_)),
    .resultWrites hd (fun hw => h.pair_fits hd (widthOf_ty hw)) _ _⟩
  simp [enabledExc, htrap]

theorem wscan_completesWithin {w : BitVec 3} {d a : Code} {o : RedOp} (h : Issues (.wscan w d a o) s c)
    (htrap : modeTrapEn c.frag.mode = 0) :
    CompletesWithin (exec (.wscan w d a o) s) (.wscan w d a o) s c (regsOf (is64 (modeType c.frag.mode)) d) := by
  have hd : Delivers (.wscan w d a o) d .ty := ⟨_, rfl, rfl, rfl⟩
  exact ⟨_, _, (h.issueForm_eq _).trans (congrArg Host.Outcome.next (trapLanes_of_disabled htrap _ _ _ _)),
    .laneWrites fun lane hlane => .writeCode (fun hw => h.pair_fits hd (widthOf_ty hw)) (fun _ => hlane) _ _ _⟩

/-- WRLANE writes in one lane of ACTIVE or in none (R175). -/
theorem completesWithin_writeLane {i : Instr} {d a : Code} (h : Issues i s c) (hd : Delivers i d .move)
    (hlanes : writtenLanes s c i = issueActive s c) (index : Ctx → Nat) :
    CompletesWithin (writeLane i d a s index) i s c (regsOf (is64 (modeType c.frag.mode)) d) := by
  refine ⟨_, _, h.issueForm_eq _, ?_⟩
  rw [hlanes]
  split
  next hlane => exact .writeCode (fun hw => h.pair_fits hd (widthOf_move hw)) (fun _ => hlane) _ _ _
  next => exact .nothing

theorem wperm_completesWithin {w : BitVec 3} {d a : Code} {b : Src} (h : Issues (.wperm w d a b) s c) :
    CompletesWithin (exec (.wperm w d a b) s) (.wperm w d a b) s c (regsOf (is64 (modeType c.frag.mode)) d) := by
  have hd : Delivers (.wperm w d a b) d .move := ⟨_, rfl, rfl, rfl⟩
  refine ⟨_, _, h.issueForm_eq _, .laneWrites fun lane hlane => ?_⟩
  dsimp only
  split
  · exact .writeCode (fun hw => h.pair_fits hd (widthOf_move hw)) (fun _ => hlane) _ _ _
  · exact .nothing

/-- EXECQ's destination is no window register (R177). -/
theorem execq_completesWithin {w : BitVec 3} {d : Code} (h : Issues (.execq w d) s c) :
    CompletesWithin (exec (.execq w d) s) (.execq w d) s c [d.toNat] := by
  have hs : ¬ d.toNat < 64 := fun hlt => by simpa [dS, operandOk, hlt] using h.operandOk (o := dS d) List.mem_cons_self
  have hl : [d.toNat] = regsOf true d := by simp [regsOf, hs]
  rw [hl]
  exact ⟨_, _, h.issueForm_eq _, .writeCode (fun _ => (absurd · hs)) (absurd · hs) _ _ _⟩

end

/-- Every form of one destination completes within it while no exception is enabled. -/
theorem exec_completesWithin {i : Instr} {s : State} {c : Ctx} {l : List Nat}
    (hl : destinations (modeType c.frag.mode) i = some l) (h : Issues i s c) (htrap : modeTrapEn c.frag.mode = 0) :
    CompletesWithin (exec i s) i s c l := by
  -- the forms without a destination close, and each other form names its own
  cases i <;> cases hl
  case nop w => exact completesWithin_nothing h (fun c => nextPc c (.nop w)) _
  case bra | brz | bnz => exact completesWithin_nothing h _ _
  case pset | icmpA | icmpB | pand | por | pxor | pnot | pmov | voteAny | voteAll | voteEq =>
    exact completesWithin_predicate h _ _
  case fcmp => exact fcmp_completesWithin h htrap
  case iaddA | isub | imul | imulh | imad | iaddc | imin | imax | shlA | shrA | sarA | rot | andA | or | xor | andn | iaddB |
      shlB | shrB | sarB | andB | ineg | iabs | clz | popc | brev | bfx | bfi =>
    exact completesWithin_result h ⟨_, rfl, rfl, rfl⟩ widthOf_it rfl _ _
  case mov | lit | movi | cvti | ftag => exact completesWithin_result h ⟨_, rfl, rfl, rfl⟩ widthOf_ty rfl _ _
  case addr | litWide =>
    exact completesWithin_result h (wide := fun _ => true) (w := .w64) ⟨_, rfl, rfl, rfl⟩ (fun _ => rfl) rfl _ _
  case fclass | voteBallot =>
    exact completesWithin_result h (wide := fun _ => false) (w := .w32) ⟨_, rfl, rfl, rfl⟩ Bool.noConfusion rfl _ _
  case shflIdxA | shflUpA | shflDownA | shflXorA | shflIdxB | shflUpB | shflDownB | shflXorB | rdlaneA | rdlaneB =>
    exact completesWithin_result h ⟨_, rfl, rfl, rfl⟩ widthOf_move rfl _ _
  case fadd | fsub | fmul | fdiv | fmin | fmax | fcps | ffma | ffms | fsqrt | frcp | frsq | fabs | fneg | frnd | fexp2 |
      flog2 | fsin | fcos | fscale | fcvt | icvt =>
    dsimp only [exec, execFadd, execFsub, execFmul, execFdiv, execFmin, execFmax, execFcps, execFfma, execFfms, execFsqrt,
      execFrcp, execFrsq, execFabs, execFneg, execFrnd, execFexp2, execFlog2, execFsin, execFcos, execFscale, execFcvt,
      execIcvt, floatBinary, floatUnary]
    exact completesWithin_typedForm h htrap ⟨_, rfl, rfl, rfl⟩ rfl _
  case sel => exact sel_completesWithin h
  case ftagw => exact ftagw_completesWithin h
  case wred => exact wred_completesWithin h htrap
  case wscan => exact wscan_completesWithin h htrap
  case wrlaneA | wrlaneB => exact completesWithin_writeLane h ⟨_, rfl, rfl, rfl⟩ rfl _
  case wperm => exact wperm_completesWithin h
  case execq => exact execq_completesWithin h

/-- Settles O59: the form completes, and its completion changes what its writes name and the issue state alone. -/
theorem registerFormsFrame : Obligations.RegisterFormsFrame := by
  unfold Obligations.RegisterFormsFrame
  intro i s c t l hl h htrap ht
  obtain ⟨x, pc, hx, hvs, hss, hps⟩ := exec_completesWithin hl h htrap
  obtain ⟨hc, -⟩ := h
  obtain rfl : completeAt c i s x pc = t := Host.Outcome.next.inj (hx.symm.trans ht)
  refine ⟨by rw [completeAt_eq]; rfl, fun _ => rfl, fun n hn => ?otherCore, ?core, fun b hb => ?otherBlock,
    _, _, _, blockOf_completeAt_ctx i x pc hc, rfl, fun n hn => ?otherWave, wave?_modWave_completedWave_ctx i x pc hc, rfl,
    fun n hn => ?otherFragment, frag?_completedWave_ctx i x pc hc, rfl, fun cell hcell => ?window, fun k hk => ?sRegister,
    fun k hk => ?predicate, fun hwf k lane hlane => ?predicateLane⟩
  case otherCore => rw [coreOf_completeAt, if_neg hn]
  case core => rw [coreOf_completeAt, if_pos rfl]; rfl
  case otherBlock => rw [blockOf_completeAt, if_neg fun e => hb e.2]
  case otherWave => rw [Block.wave?_modWave _ _ _ (c.completedWave i s x pc) fun _ => rfl, if_neg hn]
  case otherFragment => rw [completedWave_frag?, if_neg hn]
  case window =>
    refine cellGet_cellSetAll_of_ne (fun e he => ?_) _
    obtain ⟨n, hn, hlt, lane, hlane, hkey⟩ := hvs e he
    exact hkey ▸ hcell n hn hlt lane hlane
  case sRegister =>
    exact cellGet_cellSetAll_of_ne (fun e he hke => hk ((hke : k = e.1) ▸ hss e he)) _
  case predicate =>
    exact cellGet_cellSetAll_of_ne (fun e he hke => hk ((hke : k = e.1) ▸ (hps e he).1)) _
  case predicateLane =>
    exact cellGet_cellSetAll_of_forall hwf (P := fun v => v.getLsbD lane = (cellGet 0 k c.wave.preds).getLsbD lane) rfl
      fun e he hke => hke ▸ (hps e he).2 lane hlane

end Sys2Proof.Claims
end

section
/-! Integer values as the forms compute them and as the statements name them: the bits of a source stay below its type's
width (R121), a pattern within it has one value under both, and both wrap alike (R43). -/

namespace Sys2Proof.Machine

theorem toNat_cutTo_lt (u : Nat) (x : BitVec 64) : (cutTo (tyBits u) x).toNat < 2 ^ tyBits u := by
  unfold tyBits
  split_ifs
  · exact x.isLt
  all_goals
    rw [cutTo, BitVec.toNat_setWidth_of_le (by decide)]
    exact BitVec.isLt _

theorem toNat_readCode_lt (s : State) (c : Ctx) (t u : Nat) (a : Code) (lane : Nat) :
    (readCode s c t (tyBits u) a lane).1.toNat < 2 ^ tyBits u := by
  unfold readCode
  dsimp only
  split
  next =>
    split
    next h64 => rw [h64]; exact BitVec.isLt _
    next => exact toNat_cutTo_lt u _
  next => split <;> exact toNat_cutTo_lt u _

end Sys2Proof.Machine

namespace Sys2Proof.Claims

open Sys2Proof.Machine

theorem wrapInt_eq_mod2 (n : Nat) (z : Int) : wrapInt n z = mod2 n z := by
  have hz : 0 ≤ z % (2 ^ n : Nat) := Int.emod_nonneg _ (by positivity)
  rw [wrapInt, mod2, ← BitVec.ofInt_natCast, Int.toNat_of_nonneg hz]

theorem signedVal_eq_twos {n : Nat} {x : BitVec 64} (h : x.toNat < 2 ^ n) : signedVal n x = twos n x := by
  simp only [signedVal, twos, Nat.mod_eq_of_lt h, ← Nat.not_lt, ite_not, Nat.cast_pow, Nat.cast_ofNat]

theorem intVal_eq_val {t : Nat} {x : BitVec 64} (h : x.toNat < 2 ^ tyBits t) : intVal t x = val t x := by
  rw [intVal, val, signedVal_eq_twos h, Nat.mod_eq_of_lt h]

theorem intVal_readCode (s : State) (c : Ctx) (u : Nat) (a : Code) (lane : Nat) :
    intVal u (readCode s c (modeType c.frag.mode) (tyBits u) a lane).1 = val u (src s c (tyBits u) a lane) :=
  intVal_eq_val (toNat_readCode_lt s c _ u a lane)

end Sys2Proof.Claims
end

section
/-! Enabled exceptions of the floating-point forms (R54): each form delivers in a lane what `floatLane` says, and faults in
the lanes of `trapped`. -/

namespace Sys2Proof.Claims

open Sys2Proof.Machine

/-! ### What a form delivers in a lane -/

/-- The model computes ICVT's integers through its own readings of a pattern (R165). -/
theorem execIcvt_eq_typedForm (w : BitVec 3) (d a : Code) (k : BitVec 4) (s : State) :
    ∃ g, execIcvt w d a k s = typedForm (.icvt w d a k) d s g ∧
      ∀ c, floatLane s c (.icvt w d a k) = some (d, g c) := by
  refine ⟨_, rfl, fun c => ?_⟩
  simp only [floatLane, ← wrapInt_eq_mod2, ← intVal_readCode]
  rfl

/-- Every form of `floatLane` is a form of one result of TYPE, and its result in a lane is the one named there. -/
theorem exec_eq_typedForm {i : Instr} {s : State} {c : Ctx} {d : Code} {f : Nat → LaneRes}
    (hf : floatLane s c i = some (d, f)) : ∃ g, exec i s = typedForm i d s g ∧ g c = f := by
  -- the forms without such a result close
  cases i <;> cases hf
  case icvt w a k =>
    obtain ⟨g, hexec, hlane⟩ := execIcvt_eq_typedForm w d a k s
    exact ⟨g, hexec, (Prod.mk.inj (Option.some.inj (hlane c))).2.symm⟩
  case fadd | fsub | fmul | fdiv | fmin | fmax | fcps | ffma | ffms | fsqrt | frcp | frsq | fabs | fneg | frnd | fexp2 |
      flog2 | fsin | fcos | fscale | fcvt =>
    dsimp only [exec, execFadd, execFsub, execFmul, execFdiv, execFmin, execFmax, execFcps, execFfma, execFfms, execFsqrt,
      execFrcp, execFrsq, execFabs, execFneg, execFrnd, execFexp2, execFlog2, execFsin, execFcos, execFscale, execFcvt,
      floatBinary, floatUnary]
    exact ⟨_, rfl, rfl⟩

/-! ### The lanes that fault -/

section
variable {i : Instr} {s : State} {c : Ctx}

theorem trapped_of_uniform (hu : uniformIssue i = true) (f : Nat → LaneRes) :
    trapped s c i f = if enabledExc c (f 0).exc = 0 then 0 else issueActive s c :=
  if_pos hu

theorem trapped_of_perLane (hu : ¬ uniformIssue i = true) (f : Nat → LaneRes) :
    trapped s c i f = lanesWhere (issueActive s c) fun lane => enabledExc c (f lane).exc != 0 :=
  if_neg hu

theorem trapLanes_of_ne_zero {bad : Lanes} (h : bad ≠ 0) (exc : Nat → Exc) (writes : Lanes → HistStep) :
    trapLanes s c i bad exc writes =
      takeFault c { code := excCode (enabledExc c (exc (lowestLane bad))), lanes := bad, info := openInfo s }
        s (complete c i s (writes (issueActive s c &&& ~~~ bad))) :=
  if_neg h

/-- A uniform form with an enabled exception faults in all of ACTIVE (R122), and a per-thread form in the lanes whose own
result raises one. -/
theorem typedForm_of_trapped (h : Issues i s c) {d : Code} {g : Ctx → Nat → LaneRes} (ht : trapped s c i (g c) ≠ 0) :
    typedForm i d s g = .next (takeFault c
      { code := excCode (enabledExc c (g c (if uniformIssue i then 0 else lowestLane (trapped s c i (g c)))).exc),
        lanes := trapped s c i (g c), info := openInfo s }
      s (complete c i s
        (if uniformIssue i then {} else floatWrites c i d (issueActive s c &&& ~~~ trapped s c i (g c)) (g c)))) := by
  unfold typedForm floatForm
  rw [h.issueForm_eq]
  by_cases hu : uniformIssue i = true
  case pos =>
    rw [trapped_of_uniform hu] at ht ⊢
    obtain ⟨hexc, hact⟩ := ite_ne_left_iff.mp ht
    simp only [if_pos hu, if_neg hexc, if_pos (And.intro hexc hact.symm), trapLanes_of_ne_zero hact.symm]
  case neg =>
    rw [trapped_of_perLane hu] at ht ⊢
    simp only [if_neg hu, trapLanes_of_ne_zero ht, floatWrites]

end

/-- Settles O6: the form is one result of TYPE per lane, and `trapped` are the lanes in which it traps. -/
theorem floatTraps : Obligations.FloatTraps := by
  unfold Obligations.FloatTraps
  intro i s c d f h hf ht
  obtain ⟨g, hexec, rfl⟩ := exec_eq_typedForm hf
  exact hexec.trans (typedForm_of_trapped h ht)

end Sys2Proof.Claims
end

section
/-! The instruction words (R92 to R102): what a field of a word holds that is written field after field, how many literal
words follow a word, and that an instruction's words decode to it. -/

namespace Sys2Proof

/-! ### The fields of a word -/

section
variable {v u s l : Nat} (x : BitVec v) (y : BitVec u)

-- `no_index`: the width of a word stands in the goal as a numeral, not as a sum.
@[simp] theorem extractLsb'_append_high (h : u ≤ s) :
    BitVec.extractLsb' s l (@HAppend.hAppend (BitVec v) (BitVec u) (no_index (BitVec (v + u))) _ x y) =
      x.extractLsb' (s - u) l :=
  BitVec.extractLsb'_append_eq_of_le h

@[simp] theorem extractLsb'_append_low (h : s + l ≤ u) :
    BitVec.extractLsb' s l (@HAppend.hAppend (BitVec v) (BitVec u) (no_index (BitVec (v + u))) _ x y) =
      y.extractLsb' s l :=
  BitVec.extractLsb'_append_eq_of_add_le h

/-- A test of some bits of a word tests each of its fields. -/
@[simp] theorem append_and_eq_iff (m c : BitVec (v + u)) :
    @HAnd.hAnd (no_index (BitVec (v + u))) (no_index (BitVec (v + u))) (no_index (BitVec (v + u))) _
        (@HAppend.hAppend (BitVec v) (BitVec u) (no_index (BitVec (v + u))) _ x y) m = c ↔
      x &&& m.extractLsb' u v = c.extractLsb' u v ∧ y &&& m.extractLsb' 0 u = c.extractLsb' 0 u := by
  have hm : m = m.extractLsb' u v ++ m.extractLsb' 0 u := BitVec.extractLsb'_append_extractLsb'.symm
  have hc : c = c.extractLsb' u v ++ c.extractLsb' 0 u := BitVec.extractLsb'_append_extractLsb'.symm
  refine ⟨fun h => ?_, fun ⟨hx, hy⟩ => by rw [hc, hm, BitVec.and_append, hx, hy]⟩
  rw [← h, hm, BitVec.and_append]
  simp only [BitVec.extractLsb'_append_eq_left, BitVec.extractLsb'_append_eq_right, and_self]

end

@[simp] theorem Ord.ofBits_bits (q : Ord) : Ord.ofBits q.bits = q := by cases q <;> rfl
@[simp] theorem IntCond.ofBits_bits (c : IntCond) : IntCond.ofBits c.bits = some c := by cases c <;> rfl
@[simp] theorem FloatCond.ofBits_bits (c : FloatCond) : FloatCond.ofBits c.bits = some c := by cases c <;> rfl
@[simp] theorem RedOp.ofBits_bits (o : RedOp) : RedOp.ofBits o.bits = some o := by cases o <;> rfl

/-! ### The literal words -/

/-- A B operand is read back from its code and the word that follows, whatever stands behind its own words (R22, R97). -/
theorem srcOf_code {b : Src} (hb : b.ok = true) (rest : List Word) : srcOf b.code ((b.words ++ rest).headD 0) = b := by
  cases b with
  | reg c => exact if_neg (by simpa [Src.ok, Src.code] using hb)
  | lit x => rfl

/-- An operand has a literal word just when its code says so. -/
theorem Src.length_words {b : Src} (hb : b.ok = true) : b.words.length = if b.code == 127 then 1 else 0 := by
  cases b with
  | reg c => simpa [Src.words, Src.code, Src.ok] using hb
  | lit x => rfl

theorem literalCount_eq_zero {x : Word} (hlit : opcodeOf x ≠ 0x18) (hsrc : opcodeOf x ∉ literalOpcodes) :
    literalCount x = 0 := by
  simp [literalCount, hlit, hsrc]

/-- LIT's bit 0, which says that two words follow (R145), is that of its low field. -/
theorem getLsbD_zero_append (x : BitVec 18) (y : BitVec 14) : BitVec.getLsbD (x ++ y) 0 = y.getLsbD 0 := by
  rw [BitVec.getLsbD_append]
  rfl

/-! ### The opcode -/

/-- The class of an opcode is its three high bits (R101). -/
theorem toNat_class (x : Word) : (x.extractLsb' 26 3).toNat = opcodeOf x / 32 := by
  simp only [opcodeOf, BitVec.extractLsb'_toNat, Nat.shiftRight_eq_div_pow]
  omega

/-- A word whose opcode the map leaves unassigned (R101). -/
theorem literalCount_of_unassigned {x : Word} (hx : opcodeOf x ∈ unassignedOpcodes) : literalCount x = 0 := by
  have hmap : ∀ op ∈ unassignedOpcodes, op ≠ 0x18 ∧ op ∉ literalOpcodes := by decide
  exact literalCount_eq_zero (hmap _ hx).1 (hmap _ hx).2

theorem decodeWords_of_unassigned {x : Word} (hx : opcodeOf x ∈ unassignedOpcodes) (l h : Word) :
    decodeWords x l h = .ok (.unassignedOpcode x) := by
  unfold decodeWords decodeClass0 decodeClass1 decodeClass2 decodeClass3 decodeClass4 decodeClass5 decodeClass6 decodeClass7
  -- the last row of each class is the one of no assigned opcode
  split <;> split <;> rename_i hop <;> try rfl
  all_goals exact absurd (Eq.subst (motive := (· ∈ unassignedOpcodes)) hop hx) (by decide)

theorem Instr.opcodeOf_mem_of_wf {x : Word} (hwf : (Instr.unassignedOpcode x).wf = true) : opcodeOf x ∈ unassignedOpcodes :=
  List.contains_iff_mem.mp hwf

/-- MOVI's two high immediate bits stand in the low bits of its opcode (R144). -/
theorem opcodeOf_of_movi {x : Word} (hx : x.extractLsb' 23 6 = 0x07#6) :
    opcodeOf x = 0x1C ∨ opcodeOf x = 0x1D ∨ opcodeOf x = 0x1E ∨ opcodeOf x = 0x1F := by
  have hdiv : (x.extractLsb' 23 6).toNat = opcodeOf x / 4 := by
    simp only [opcodeOf, BitVec.extractLsb'_toNat, Nat.shiftRight_eq_div_pow]
    omega
  have hval : (x.extractLsb' 23 6).toNat = 7 := congrArg BitVec.toNat hx
  omega

theorem literalCount_of_movi {x : Word} (hx : x.extractLsb' 23 6 = 0x07#6) : literalCount x = 0 := by
  rcases opcodeOf_of_movi hx with hop | hop | hop | hop <;>
    exact literalCount_eq_zero (hop ▸ by decide) (hop ▸ by decide)

theorem decodeWords_of_movi {x : Word} (hx : x.extractLsb' 23 6 = 0x07#6) (l h : Word) : decodeWords x l h =
    .ok (.movi (x.extractLsb' 29 3) (x.extractLsb' 14 7) (x.extractLsb' 21 2 ++ x.extractLsb' 0 14)) := by
  rcases opcodeOf_of_movi hx with hop | hop | hop | hop <;>
  · rw [decodeWords, toNat_class, hop]
    change decodeClass0 x l h = _
    rw [decodeClass0, show (x.extractLsb' 21 8).toNat = _ from hop]
    rfl

theorem decodeWords_movi (w : BitVec 3) (d : Code) (v : BitVec 16) (l h : Word) :
    decodeWords (w ++ 0x07#6 ++ v.extractLsb' 14 2 ++ d ++ v.extractLsb' 0 14) l h = .ok (.movi w d v) := by
  have hv : v.extractLsb' 14 2 ++ v.extractLsb' 0 14 = v := BitVec.extractLsb'_append_extractLsb' (w := 2) (len := 14)
  rw [decodeWords_of_movi (by simp)]
  simp [hv]

/-! ### LIT, MODE and SVC -/

theorem decodeWords_lit (w : BitVec 3) (d : Code) (l h : Word) :
    decodeWords (w ++ 0x18#8 ++ d ++ 0#14) l h = .ok (.lit w d l) := by
  simp [decodeWords, decodeClass0, getLsbD_zero_append, -BitVec.getLsbD_eq_getElem]

theorem decodeWords_litWide (w : BitVec 3) (d : Code) (v : BitVec 64) :
    decodeWords (w ++ 0x18#8 ++ d ++ 1#14) (v.extractLsb' 0 32) (v.extractLsb' 32 32) = .ok (.litWide w d v) := by
  have hv : v.extractLsb' 32 32 ++ v.extractLsb' 0 32 = v := BitVec.extractLsb'_append_extractLsb' (w := 32) (len := 32)
  simp [decodeWords, decodeClass0, getLsbD_zero_append, -BitVec.getLsbD_eq_getElem, hv]

theorem decodeWords_mode (w : BitVec 3) {g : BitVec 3} {v : BitVec 14} (hv : modeValueOk g v = true) (l h : Word) :
    decodeWords (w ++ 0x01#8 ++ 0#4 ++ g ++ v) l h = .ok (.mode w g v) := by
  simp [decodeWords, decodeClass0, hv]

theorem decodeWords_svc {w : BitVec 3} {k : BitVec 14} {i : Instr} (hk : decodeSvc w k = i) (l h : Word) :
    decodeWords (w ++ 0xEC#8 ++ 0#7 ++ k) l h = .ok i := by
  simp [decodeWords, decodeClass7, hk]

theorem decodeSvc_svc {w : BitVec 3} {k : BitVec 14} (hwf : (Instr.svc w k).wf = true) : decodeSvc w k = .svc w k := by
  obtain ⟨hk, hdev⟩ := Bool.and_eq_true_iff.mp hwf
  unfold decodeSvc
  split_ifs with h80 h81 h82 hret
  · simp [h80, deviceServiceCode] at hdev
  · simp [h81, deviceServiceCode] at hdev
  · simp [h82, deviceServiceCode] at hdev
  · exact absurd (of_decide_eq_true hk) (Nat.not_lt.mpr hret)
  · rfl

theorem decodeSvc_svcSigret {w : BitVec 3} {k : BitVec 14} (hwf : (Instr.svcSigret w k).wf = true) :
    decodeSvc w k = .svcSigret w k := by
  have hk : 0x3F84 ≤ k.toNat := of_decide_eq_true hwf
  unfold decodeSvc
  split_ifs with h80 h81 h82
  · simp [h80] at hk
  · simp [h81] at hk
  · simp [h82] at hk
  · rfl

/-! ### Decoding what was encoded -/

/-- The literal words that follow an instruction's first word are its own (R97). -/
theorem literalCount_firstWord {i : Instr} (hwf : i.wf = true) (hown : i.hasOwnWord = true) :
    literalCount (firstWord i) = (encode i).length - 1 := by
  cases i <;> cases hown
  case sel | iaddA | isub | imul | imulh | imad | iaddc | imin | imax | shlA | shrA | sarA | rot | andA | or | xor |
      andn | bfx | bfi | icmpA | addr | fadd | fsub | fmul | ffma | ffms | fdiv | fmin | fmax | fcps | fcmp |
      fscale | ftagw | shflIdxA | shflUpA | shflDownA | shflXorA | wsync | rdlaneA | wrlaneA | wperm | send | sendp |
      tlbi | ctxsv | sigpost | chkpt | sfqPeek =>
    refine Eq.trans ?_ (Src.length_words hwf).symm
    simp only [literalCount, opcodeOf, firstWord, encode, List.cons_append, List.headD_cons,
      extractLsb'_append_high, extractLsb'_append_low, BitVec.extractLsb'_eq_self, Nat.reduceLeDiff, Nat.reduceSub,
      Nat.reduceAdd]
    rfl
  case movi w d v => exact literalCount_of_movi (by simp [firstWord, encode])
  case unassignedOpcode x => exact literalCount_of_unassigned (Instr.opcodeOf_mem_of_wf hwf)
  all_goals
    simp only [literalCount, opcodeOf, firstWord, encode, List.headD_cons, getLsbD_zero_append,
      extractLsb'_append_high, extractLsb'_append_low, BitVec.extractLsb'_eq_self, Nat.reduceLeDiff, Nat.reduceSub,
      Nat.reduceAdd]
    rfl

/-- An instruction whose literal words are counted right is decoded from a text that goes on behind its words. -/
theorem decode_encode_of {i : Instr} {x : Word} {lits rest : List Word}
    (hn : literalCount (firstWord i) = (encode i).length - 1) (he : encode i = x :: lits)
    (hi : decodeWords x ((lits ++ rest).headD 0) (((lits ++ rest).drop 1).headD 0) = .ok i) :
    decode (encode i ++ rest) = .ok (i, rest) := by
  rw [firstWord, he] at hn
  rw [he, List.cons_append, decode, hi, show literalCount x = lits.length from hn, List.drop_left]

/-- An instruction of one word. -/
theorem decode_encode_of_word {i : Instr} {x : Word} {rest : List Word}
    (hn : literalCount (firstWord i) = (encode i).length - 1) (he : encode i = [x])
    (hi : ∀ l h, decodeWords x l h = .ok i) : decode (encode i ++ rest) = .ok (i, rest) :=
  decode_encode_of hn he (hi _ _)

/-- An instruction whose B operand may be a literal (R97). -/
theorem decode_encode_of_src {i : Instr} {x : Word} {b : Src} {rest : List Word}
    (hn : literalCount (firstWord i) = (encode i).length - 1) (hb : b.ok = true) (he : encode i = x :: b.words)
    (hi : ∀ l h, srcOf b.code l = b → decodeWords x l h = .ok i) : decode (encode i ++ rest) = .ok (i, rest) :=
  decode_encode_of hn he (hi _ _ (srcOf_code hb rest))

/-- An instruction's words decode to it: its opcode finds its row, and each field of the word is the one that was written. -/
theorem decode_encode {i : Instr} (hwf : i.wf = true) (hown : i.hasOwnWord = true) (rest : List Word) :
    decode (encode i ++ rest) = .ok (i, rest) := by
  have hn := literalCount_firstWord hwf hown
  cases i <;> cases hown
  case sel | iaddA | isub | imul | imulh | imad | iaddc | imin | imax | shlA | shrA | sarA | rot | andA | or | xor |
      andn | bfx | bfi | icmpA | addr | fadd | fsub | fmul | ffma | ffms | fdiv | fmin | fmax | fcps | fcmp |
      fscale | ftagw | shflIdxA | shflUpA | shflDownA | shflXorA | wsync | rdlaneA | wrlaneA | wperm | send | sendp |
      tlbi | ctxsv | sigpost | chkpt | sfqPeek =>
    refine decode_encode_of_src hn hwf rfl fun l h hb => ?_
    simp only [decodeWords, decodeClass0, decodeClass1, decodeClass2, decodeClass3, decodeClass6, decodeClass7,
      extractLsb'_append_high, extractLsb'_append_low, append_and_eq_iff, BitVec.extractLsb'_eq_self,
      BitVec.reduceExtractLsb', BitVec.reduceToNat, BitVec.reduceAnd, BitVec.and_zero, Nat.reduceLeDiff, Nat.reduceSub,
      Nat.reduceAdd, and_self, if_true, IntCond.ofBits_bits, FloatCond.ofBits_bits, hb]
  case mode w g v => exact decode_encode_of_word hn rfl (decodeWords_mode w hwf)
  case lit w d v => exact decode_encode_of hn rfl (decodeWords_lit w d v _)
  case litWide w d v => exact decode_encode_of hn rfl (decodeWords_litWide w d v)
  case movi w d v => exact decode_encode_of_word hn rfl (decodeWords_movi w d v)
  case svc w k => exact decode_encode_of_word hn rfl (decodeWords_svc (decodeSvc_svc hwf))
  case svcSigret w k => exact decode_encode_of_word hn rfl (decodeWords_svc (decodeSvc_svcSigret hwf))
  case unassignedOpcode x =>
    exact decode_encode_of_word hn rfl (decodeWords_of_unassigned (Instr.opcodeOf_mem_of_wf hwf))
  all_goals
    refine decode_encode_of_word hn rfl fun l h => ?_
    simp only [decodeWords, decodeClass0, decodeClass1, decodeClass2, decodeClass3, decodeClass4, decodeClass5,
      decodeClass6, decodeClass7, decodeSvc, extractLsb'_append_high, extractLsb'_append_low, append_and_eq_iff,
      BitVec.extractLsb'_eq_self, BitVec.reduceExtractLsb', BitVec.reduceToNat, BitVec.reduceAnd, BitVec.and_zero,
      BitVec.reduceEq, Nat.reduceLeDiff, Nat.reduceSub, Nat.reduceAdd, and_self, and_true, and_false, if_true, if_false,
      Ord.ofBits_bits, IntCond.ofBits_bits, RedOp.ofBits_bits]

end Sys2Proof

namespace Sys2Proof.Claims

open Sys2Proof.Machine

/-- Settles O52: a form with a word of its own is read back field by field, and a form that shares its word with a sibling has
the sibling's words. -/
theorem decodeInvertsEncode : Obligations.DecodeInvertsEncode := by
  unfold Obligations.DecodeInvertsEncode
  refine ⟨fun i rest hwf hown => decode_encode hwf hown rest, fun w d a r b rest => ⟨?commit, ?free, fun hb i hi => ?queue⟩⟩
  case commit => exact decode_encode (i := .fifopReserve w d r a) rfl rfl rest
  case free => exact decode_encode (i := .fifopClaim w d r a) rfl rfl rest
  case queue =>
    have hwords : encode i = encode (.sfqPeek w d a b) := by
      fin_cases hi <;> rfl
    rw [hwords]
    exact decode_encode (i := .sfqPeek w d a b) hb rfl rest

/-- Settles O55: the known words are what their instructions encode to, and a word of an unassigned opcode finds no row. -/
theorem wordsDecodeAsTheSpecSays : Obligations.WordsDecodeAsTheSpecSays := by
  unfold Obligations.WordsDecodeAsTheSpecSays
  have hknown : ∀ e ∈ knownWords, e.2.wf = true ∧ e.2.hasOwnWord = true ∧ encode e.2 = e.1 := by decide
  refine ⟨fun e he => ?known, by decide, by decide, by decide, fun x hx => decodeWords_of_unassigned hx 0 0⟩
  case known =>
    obtain ⟨hwf, hown, hwords⟩ := hknown e he
    refine ⟨?_, hwords⟩
    rw [← hwords, ← List.append_nil (encode e.2)]
    exact decode_encode hwf hown []

end Sys2Proof.Claims
end

section
/-! One step (R92, R97, R99, R265 to R268, R353): the turn that it takes, the issue of a quadrant's selected fragment, and the
fetch of its instruction. -/

namespace Sys2Proof.Machine

/-! ### Turns -/

section
variable {s : State} {rest : List Turn} (hon : s.power.on = true)
include hon

theorem step_of_agenda_nil (h : s.agenda = []) : step s = .next (newCycle s) := by
  simp [step, turn, hon, h]

theorem step_of_agenda_cons {t : Turn} (h : s.agenda = t :: rest) : step s = takeTurn { s with agenda := rest } t := by
  simp [step, turn, hon, h]

end

/-! ### Fetch -/

section
variable {s t : State} {core block : Nat} {b : Block} {pc : Nat} {x : Word}

/-- A word that translates, without poison and without an overwritten value, is what memory holds (R99). -/
theorem fetchWord_of_translate {va salt pa : Nat}
    (htr : translate s core b.asid (BitVec.ofNat 64 (va % 2 ^ 57)) accExec salt = (t, .ok pa))
    (hpoison : poisoned t pa 4 = false) (hnew : cellGet [] (pa / 4) t.overwritten = []) :
    fetchWord s core block b va salt = .ok t (wordOfBytes (physRead t (some (core, block)) pa 4)) := by
  unfold fetchWord
  simp only [htr, hpoison, hnew]
  simp [choose]

theorem fetchInstr_of_no_literal {i : Instr} (hx : fetchWord s core block b pc 0x8000 = .ok t x)
    (hn : literalCount x = 0) (hi : decodeWords x 0 0 = .ok i) : fetchInstr s core block b pc = .ok t i x := by
  simp only [fetchInstr, hx, hn, hi]

theorem fetchInstr_of_one_literal {u : State} {y : Word} {i : Instr} (hx : fetchWord s core block b pc 0x8000 = .ok t x)
    (hn : literalCount x = 1) (hy : fetchWord t core block b (pc + 4) 0x8002 = .ok u y)
    (hi : decodeWords x y 0 = .ok i) : fetchInstr s core block b pc = .ok u i x := by
  simp only [fetchInstr, hx, hn, hy, hi]

end

/-! ### The issue of a fragment -/

theorem placeCtx_eq_some {s : State} {core : Nat} {r : FragRef} {c : Ctx} (h : placeCtx s core r = some c) :
    c.core = core ∧ c.ref = r := by
  obtain ⟨hfocus, -⟩ := ctxOf_eq_some h
  injection hfocus with hfocus
  injection hfocus with hcore href
  exact ⟨hcore.symm, href.symm⟩

/-- A fragment whose window stands and whose PC is canonical runs the instruction at its PC (R27, R92, R353). -/
theorem issueAt_of_fetch {s t : State} {c : Ctx} {i : Instr} {x : Word}
    (hwin : slideMoves c.blk.hdr c.wave c.frag.members 0 = false ∨ formsWindow s c = true) (hpc : c.frag.pc.toNat < 2 ^ 57)
    (hfetch : fetchInstr s c.core c.ref.block c.blk c.frag.pc.toNat = .ok t i x) (hcmp : pcMatch t c = none) :
    issueAt s c = exec i (focusOn t c i) := by
  have hstands : (slideMoves c.blk.hdr c.wave c.frag.members 0 && !formsWindow s c) = false := by
    rcases hwin with h | h <;> simp [h]
  unfold issueAt
  simp only [hstands, Nat.not_le.mpr hpc, hfetch, hcmp]
  rfl

section
variable {s : State} {core q : Nat}

theorem issueTurn_of_no_issue (h : s.cycle < cellGet 0 q (coreOf s core).busy ∨ pickIssue (readyList s core q) = none) :
    issueTurn s core q = .next (accountIssue s core q (readyList s core q) []) := by
  have hnone : (if s.cycle < cellGet 0 q (coreOf s core).busy then none else pickIssue (readyList s core q)) = none := by
    simpa using h.resolve_left
  simp only [issueTurn, hnone]

theorem issueTurn_of_single {p : Placed} (hbusy : cellGet 0 q (coreOf s core).busy ≤ s.cycle)
    (hpick : pickIssue (readyList s core q) = some p) (hfuse : fusionPartner s core (readyList s core q) p = none)
    (hone : (readyList s core q).filter (fun x => x.ref == p.ref) = [p]) :
    issueTurn s core q = issueAll (accountIssue (if takesTwo s core p then
      modCore s core fun k => { k with busy := cellSet 0 q (s.cycle + 2) k.busy } else s) core q (readyList s core q) [p])
      core [p.ref] := by
  simp [issueTurn, if_neg (Nat.not_lt.mpr hbusy), hpick, hfuse, hone]

end

section
variable {s : State} {core : Nat} {r : FragRef}

/-- Of a single fragment's issue nothing remains but the note of its wait (R268). -/
theorem issueAll_singleton_of_next {t : State} (h : issueOne s core r = .next t) :
    issueAll s core [r] = .next (noteWait t core r) := by
  simp only [issueAll, h]

theorem issueAll_singleton_of_fault {e : Fault} (h : issueOne s core r = .fault e) : issueAll s core [r] = .fault e := by
  simp only [issueAll, h]

theorem issueAll_singleton_of_refused {e : Refusal} (h : issueOne s core r = .refused e) :
    issueAll s core [r] = .refused e := by
  simp only [issueAll, h]

theorem issueOne_of_placed {c : Ctx} (h : placeCtx s core r = some c) : issueOne s core r = issueAt s c := by
  simp only [issueOne, h]

end

end Sys2Proof.Machine

namespace Sys2Proof.Claims
open Sys2Proof.Machine

/-- Settles O56. Each turn is the head of the agenda; at a quadrant's the selected fragment, which issues alone, is the one that
the issue looks up, and the instruction at its PC is what runs. -/
theorem stepRunsTheDecodedInstruction : Obligations.StepRunsTheDecodedInstruction := by
  intro s rest hon
  refine ⟨step_of_agenda_nil hon, fun x i h => ?_, fun core => ⟨fun h => ?_, fun h => ?_⟩, fun g n x h => ?_,
    fun off size h => ?_, fun page off size h => ?_, fun core q => ?_, fun core q p h => ?_, ?_⟩
  · exact step_of_agenda_cons hon h
  · exact step_of_agenda_cons hon h
  · exact step_of_agenda_cons hon h
  · exact step_of_agenda_cons hon h
  · exact step_of_agenda_cons hon h
  · exact step_of_agenda_cons hon h
  · intro s0 l h hno
    exact (step_of_agenda_cons hon h).trans (issueTurn_of_no_issue hno)
  · intro s0 l s1 hbusy hpick hfuse hone c hplace hwin hpc s2 x i hx
    obtain ⟨hcore, href⟩ := placeCtx_eq_some hplace
    refine ⟨fun i' => ⟨fun hn => fetchInstr_of_no_literal hx hn, fun s3 y hn => fetchInstr_of_one_literal hx hn⟩,
      fun s3 hfetch hcmp => ?_⟩
    have hstep : step s = issueAll s1 core [p.ref] :=
      (step_of_agenda_cons hon h).trans (issueTurn_of_single hbusy hpick hfuse hone)
    have hissue : issueOne s1 core p.ref = exec i (focusOn s3 c i) :=
      (issueOne_of_placed hplace).trans (issueAt_of_fetch hwin hpc (by rwa [hcore, href]) hcmp)
    simp only [hstep, ← hissue]
    exact ⟨fun _ => issueAll_singleton_of_next, fun _ => issueAll_singleton_of_fault,
      fun _ => issueAll_singleton_of_refused⟩
  · exact fun core block b va salt t pa htr hp hn => ⟨t, fetchWord_of_translate htr hp hn, rfl⟩

end Sys2Proof.Claims
end

section
/-! What comes before an encoded form's own rules (R100, R101, R105, R167). -/

namespace Sys2Proof.Machine

section
variable {i : Instr} {s : State} {c : Ctx} {body : Ctx → State}

/-- EVERY ENCODED FORM IS ISSUED: its meaning is a body behind the checks of an issue (R100, R105, R167). -/
theorem exec_eq_issueForm (i : Instr) (s : State) (hi : encode i ≠ []) : ∃ body, exec i s = issueForm i s body := by
  cases i
  -- an event has no words
  all_goals try exact absurd rfl hi
  all_goals exact ⟨_, rfl⟩

theorem decodeCheck_of_privileged (hop : privilegedOpcode (opcodeOf (firstWord i)) = true) (hu : c.frag.super = false) :
    decodeCheck c i = some 0x02 := by
  simp [decodeCheck, hop, hu]

theorem decodeCheck_of_allowed (hop : privilegedOpcode (opcodeOf (firstWord i)) = false ∨ c.frag.super = true) :
    decodeCheck c i = if decodeOk c.blk.hdr c.frag.mode i then none else some 0x01 := by
  rcases hop with h | h <;> cases hok : decodeOk c.blk.hdr c.frag.mode i <;> simp [decodeCheck, h, hok]

/-- Without a fragment in focus nothing issues. -/
theorem issueForm_of_no_focus (hc : ctxOf s = none) : issueForm i s body = .fault .noFragment := by
  simp only [issueForm, hc]

theorem issueForm_of_decodeCheck {k : Nat} (hc : ctxOf s = some c) (hd : decodeCheck c i = some k) :
    issueForm i s body = .next (decodeFault c k (firstWord i) s) := by
  simp only [issueForm, hc, hd]

theorem issueForm_of_collective (hc : ctxOf s = some c) (hd : decodeCheck c i = none)
    (hw : collective i (modeType c.frag.mode) = true) (hr : c.frag.released = false) :
    issueForm i s body = .next (waitCollective s c) := by
  simp [issueForm, hc, hd, hw, hr]

theorem issueForm_of_stallCheck {k : Nat} (hc : ctxOf s = some c) (hd : decodeCheck c i = none)
    (hw : collective i (modeType c.frag.mode) = false ∨ c.frag.released = true) (hk : stallCheck s c i = some k) :
    issueForm i s body = .next (takeFault c
      { code := 0x03, lanes := issueActive s c, info := BitVec.ofNat 64 (if k < 128 then k else 0x7F) } s s) := by
  rcases hw with h | h <;> simp [issueForm, hc, hd, h, hk]

theorem stallCheck_of_earlyRead (hmode : modeCheck c.frag.mode = true) (hactive : issueActive s c ≠ 0) :
    stallCheck s c i = earlyRead s c i := by
  rw [stallCheck, if_pos (Bool.and_eq_true_iff.mpr ⟨hmode, bne_iff_ne.mpr hactive⟩)]

end

/-- No opcode that the map leaves unassigned is in the privileged class (R101). -/
theorem privilegedOpcode_of_unassigned {x : Word} (hx : opcodeOf x ∈ unassignedOpcodes) :
    privilegedOpcode (opcodeOf x) = false := by
  have hmap : ∀ op ∈ unassignedOpcodes, privilegedOpcode op = false := by decide
  exact hmap _ hx

theorem firstWord_unassignedOpcode (x : Word) : firstWord (.unassignedOpcode x) = x := rfl

theorem exec_unassignedOpcode (x : Word) (s : State) :
    exec (.unassignedOpcode x) s = issueForm (.unassignedOpcode x) s fun c => decodeFault c 0x01 x s := rfl

theorem decodeOk_unassignedOpcode (h : Header) (mode : BitVec 32) (x : Word) :
    decodeOk h mode (.unassignedOpcode x) = false := by
  simp [decodeOk, fieldOk]

end Sys2Proof.Machine

namespace Sys2Proof.Claims
open Sys2Proof.Machine

/-- Settles O57. Every encoded form is its body behind one chain of checks, so each clause is one way out of that chain; an
unassigned opcode leaves it at the field check. -/
theorem decodeChecksComeFirst : Obligations.DecodeChecksComeFirst := by
  refine ⟨fun i s hi hc => ?_, fun i s c hi hc => ?_, fun x s c hwf hc => ?_⟩
  · obtain ⟨body, hbody⟩ := exec_eq_issueForm i s hi
    exact hbody.trans (issueForm_of_no_focus hc)
  · obtain ⟨body, hbody⟩ := exec_eq_issueForm i s hi
    rw [hbody]
    refine ⟨fun hop hu => issueForm_of_decodeCheck hc (decodeCheck_of_privileged hop hu), fun hop => ?_⟩
    have hcheck := decodeCheck_of_allowed hop
    refine ⟨fun hok => issueForm_of_decodeCheck hc (hcheck.trans (by rw [hok]; rfl)), fun hok => ?_⟩
    rw [hok, if_pos rfl] at hcheck
    exact ⟨issueForm_of_collective hc hcheck, fun hw k hmode hactive hk =>
      issueForm_of_stallCheck hc hcheck hw ((stallCheck_of_earlyRead hmode hactive).trans hk)⟩
  · have hop := privilegedOpcode_of_unassigned (Instr.opcodeOf_mem_of_wf hwf)
    have hcheck : decodeCheck c (.unassignedOpcode x) = some 0x01 := by
      rw [decodeCheck_of_allowed (.inl (by rwa [firstWord_unassignedOpcode])), decodeOk_unassignedOpcode]
      rfl
    rw [exec_unassignedOpcode, issueForm_of_decodeCheck hc hcheck, firstWord_unassignedOpcode]
    rfl

end Sys2Proof.Claims
end

section
/-! The events of a fragment (R104, R191, R263, R268, R269, R342, R351): what each is once its condition holds. -/

namespace Sys2Proof.Machine

/-! ### Results that arrive between two issues -/

section
variable (f : Fragment) (x : HistStep)

@[simp] theorem Fragment.noteLate_id : (f.noteLate x).id = f.id := by unfold noteLate; split <;> rfl

@[simp] theorem Fragment.noteLate_s : (f.noteLate x).s = f.s := by unfold noteLate; split <;> rfl

@[simp] theorem Fragment.noteLate_st : (f.noteLate x).st = f.st := by unfold noteLate; split <;> rfl

@[simp] theorem Fragment.noteLate_pc : (f.noteLate x).pc = f.pc := by unfold noteLate; split <;> rfl

@[simp] theorem Fragment.noteLate_loads : (f.noteLate x).loads = f.loads := by unfold noteLate; split <;> rfl

end

section
variable {w : Wave} {i : Nat} {f : Fragment}

theorem frag?_applyWrites (h : w.frag? i = some f) (x : HistStep) :
    (applyWrites w i x).frag? i = some { f with s := cellSetAll {} x.ss f.s } := by
  have hmod := Wave.frag?_modFrag w i i (fun f => { f with s := cellSetAll {} x.ss f.s }) fun _ => rfl
  rw [if_pos rfl, h] at hmod
  exact hmod

/-- A late result reaches its fragment's s-registers; the fragment remembers what they held (R106). -/
theorem frag?_lateWrites (h : w.frag? i = some f) (x : HistStep) :
    (lateWrites w i x).frag? i = some ({ f with s := cellSetAll {} x.ss f.s }.noteLate (oldValues w f x)) := by
  simp only [lateWrites, h]
  rw [Wave.frag?_modFrag _ _ _ _ fun _ => by simp, if_pos rfl, frag?_applyWrites h]
  rfl

@[simp] theorem lateWrites_regs (w : Wave) (i : Nat) (x : HistStep) :
    (lateWrites w i x).regs = cellSetAll {} x.vs w.regs := rfl

@[simp] theorem lateWrites_preds (w : Wave) (i : Nat) (x : HistStep) :
    (lateWrites w i x).preds = cellSetAll 0 x.ps w.preds := rfl

end

/-! ### The fragment of an event -/

section
variable {s : State} {core : Nat} {r : FragRef} {w : Wave} {f : Fragment}

theorem frag?_of_fragOf (hw : waveOf s core r.block r.wave = some w) (hf : fragOf s core r = some f) :
    w.frag? r.frag = some f := by
  simpa [fragOf, hw] using hf

theorem waveOf_modWave_self (hw : waveOf s core r.block r.wave = some w) {g : Wave → Wave} (hg : ∀ x, (g x).idx = x.idx) :
    waveOf (modWave s core r.block r.wave g) core r.block r.wave = some (g w) := by
  rw [waveOf_modWave _ _ _ _ _ _ _ _ hg, if_pos ⟨rfl, rfl, rfl⟩, hw]
  rfl

end

/-! ### Loads (R191) -/

section
variable {s : State} {core : Nat} {r : FragRef} {w : Wave} {f : Fragment} {l : PendingLoad}

theorem waveOf_putLoad (hw : waveOf s core r.block r.wave = some w) (l rest : PendingLoad) :
    waveOf (putLoad s core r l rest) core r.block r.wave = some (w.modFrag r.frag fun f =>
      { f with loads := (f.loads.map fun x => if x = l then rest else x).filter fun x => !x.spent }) :=
  waveOf_modWave_self hw fun _ => rfl

/-- What is left of a load whose data is taken. -/
def PendingLoad.taken (l : PendingLoad) : PendingLoad := { l with vs := [], ss := [] }

theorem arriveLoad_of_data (h : l.vs ≠ [] ∨ l.ss ≠ []) :
    arriveLoad s core r l = modWave (putLoad s core r l l.taken) core r.block r.wave fun w =>
      lateWrites w r.frag { vs := l.vs, ss := l.ss } := by
  have hdata : ¬(l.vs.isEmpty && l.ss.isEmpty) = true := by
    rcases h with h | h <;> simp [h]
  rw [arriveLoad, if_neg hdata]
  rfl

theorem arriveLoad_of_fail {code : Nat} {lanes : Lanes} {info : BitVec 64} {rest : List (Nat × Lanes × BitVec 64)}
    (hv : l.vs = []) (hs : l.ss = []) (hfail : l.fail = (code, lanes, info) :: rest) :
    arriveLoad s core r l = endLoad s core r l { l with fail := rest } code lanes info := by
  simp [arriveLoad, hv, hs, hfail]

/-- A load's data stands in its registers, and the fragment goes on as it was (R191). -/
theorem arriveLoad_of_data_fragment (hw : waveOf s core r.block r.wave = some w) (hf : w.frag? r.frag = some f)
    (h : l.vs ≠ [] ∨ l.ss ≠ []) :
    ∃ v g, waveOf (arriveLoad s core r l) core r.block r.wave = some v ∧ v.frag? r.frag = some g ∧
      v.regs = cellSetAll {} l.vs w.regs ∧ g.s = cellSetAll {} l.ss f.s ∧ v.preds = w.preds ∧ g.st = f.st ∧ g.pc = f.pc ∧
      g.loads = (f.loads.map fun x => if x = l then l.taken else x).filter fun x => !x.spent := by
  have hfrag := Wave.frag?_modFrag w r.frag r.frag (fun f =>
    { f with loads := (f.loads.map fun x => if x = l then l.taken else x).filter fun x => !x.spent }) fun _ => rfl
  rw [if_pos rfl, hf] at hfrag
  rw [arriveLoad_of_data h]
  refine ⟨_, _, waveOf_modWave_self (waveOf_putLoad hw _ _) fun _ => rfl, frag?_lateWrites hfrag _, ?_⟩
  simp [cellSetAll]

theorem execLoadDataReturn_of_due (hf : fragOf s s.subject.core (subjectFrag s) = some f)
    (hl : (f.loads.find? fun x => x.due s.cycle f.st) = some l) :
    execLoadDataReturn s = .next (arriveLoad s s.subject.core (subjectFrag s) l) := by
  simp only [execLoadDataReturn, hf, hl]

/-- Lanes of a fragment that is not parked fault at their load (R413, R422). -/
theorem endLoad_of_not_parked {c : Ctx} {rest : PendingLoad} {code : Nat} {lanes : Lanes} {info : BitVec 64}
    (hc : placeCtx (putLoad s core r l rest) core r = some c) (hst : c.frag.st.isParked = false)
    (hlanes : lanes &&& c.frag.members ≠ 0) (hslot : (hamperSlot (coreOf s core) r.block r.wave).isSome = true)
    (hcode : code ≠ 0x17) :
    endLoad s core r l rest code lanes info = takeFault c
      { code := code, lanes := lanes, info := info, access := accRead, pc := some l.pc, active := some l.active }
      (putLoad s core r l rest) (putLoad s core r l rest) := by
  have hroom : (hamperSlot (coreOf s core) r.block r.wave).isNone = false := by
    rw [← Option.not_isSome, hslot]
    rfl
  simp only [endLoad, hc, hroom, if_neg hlanes, if_neg hcode]
  split
  · rename_i hparked
    rw [hparked] at hst
    cases hst
  · rfl

end

/-! ### Exchange, displacement and a freed entry (R268, R269, R342) -/

section
variable {s : State} {w : Wave} {f : Fragment}

theorem execFragmentExchange_of_leaving (hw : waveOf s s.subject.core (subjectFrag s).block (subjectFrag s).wave = some w)
    (hf : fragOf s s.subject.core (subjectFrag s) = some f) (hactive : f.slot.active = true)
    (hoff : f.st.keepsSlot = false ∨
      interlockedOn s s.subject.core (subjectFrag s) (fun p => p.missed s.cycle) = true) :
    execFragmentExchange s = .next (countEvent (modCore s s.subject.core fun k =>
      fillSlots (leaveActive k w.quadrant (subjectFrag s)) (s.cycle + 1) w.quadrant 8) s.subject.core 11 1) := by
  rcases hoff with h | h <;> simp [execFragmentExchange, hw, hf, hactive, h]

theorem execPendingDisplacement_of_overdue {p v : Placed}
    (hp : (coreOf s s.subject.core).fragments.find? (fun x => x.ref == subjectFrag s) = some p)
    (hv : oldestActive (coreOf s s.subject.core) s.cycle p.quadrant = some v) (hdarner : p.darner = false)
    (hpending : p.frag.slot.active = false) (hlate : p.overdue s.cycle = true)
    (hfull : 8 ≤ activeCount (coreOf s s.subject.core) p.quadrant) :
    execPendingDisplacement s = .next (modCore s s.subject.core fun k =>
      enterActive (leaveActive k p.quadrant v.ref) (s.cycle + 1) p.quadrant (subjectFrag s)) := by
  simp [execPendingDisplacement, hp, hv, hdarner, hpending, hlate, hfull]

theorem execHamperEntryFreed_of_slot (hf : fragOf s s.subject.core (subjectFrag s) = some f)
    (hst : f.st = .waitEvent .hamper)
    (hslot : (hamperSlot (coreOf s s.subject.core) (subjectFrag s).block (subjectFrag s).wave).isSome = true) :
    execHamperEntryFreed s = .next (modFrag s s.subject.core (subjectFrag s) fun f => { f with st := .run }) := by
  simp [execHamperEntryFreed, hf, hst, hslot]

end

/-! ### Waits (R263, R351) -/

/-- The bound that a resumed DRAINS keeps (R193); any other wait leaves the fragment's own. -/
def Wait.drainBoundOr (n : Wait) (own : Option Nat) : Option Nat :=
  match n with
  | .drains k => some k
  | _ => own

section
variable {s : State} {c : Ctx} (hc : placeCtx s s.subject.core (subjectFrag s) = some c)
include hc

/-- A fragment that has waited for longer than its context allows parks at its instruction (R351). -/
theorem execWatchdog_of_late {k : Context} {n : Wait} {kind : Nat} (hk : contextOf s c.blk.asid = some k)
    (hst : c.frag.st = .waitEvent n) (hkind : n.watched = some kind) (hon : k.wdogUs ≠ 0)
    (hlate : c.frag.waitSince + k.wdogUs * 1000 < s.timebase) :
    ∃ kept, execWatchdog s =
      .next (fragmentFault { c with frag := { c.frag with kept := kept } } 0x1A (BitVec.ofNat 64 kind) s) := by
  have hover : ¬(k.wdogUs = 0 ∨ s.timebase ≤ c.frag.waitSince + k.wdogUs * 1000) := by omega
  simp only [execWatchdog, hc, hst, hk, hkind, if_neg hover]
  exact ⟨_, rfl⟩

/-- A RECV whose port has a message that is no failed completion takes it and goes on (R211). -/
theorem execWaitEventResume_of_recv {p : Nat} {d : Code} {a : Bool} {m : Msg} {rest : List Msg}
    (hst : c.frag.st = .waitEvent (.recv p d a)) (hm : c.blk.visible s.cycle p = m :: rest) (hfail : m.failed = false) :
    execWaitEventResume s = .next (modWave (modBlock s s.subject.core (subjectFrag s).block fun b =>
        b.modPort p fun x => { x with msgs := rest })
      s.subject.core (subjectFrag s).block (subjectFrag s).wave fun w =>
        (lateWrites w (subjectFrag s).frag (recvWrites d m)).modFrag (subjectFrag s).frag fun f => passWait f 4) := by
  simp [execWaitEventResume, hc, hst, hm, hfail]

/-- At every other wait that is over the instruction issues anew (R263). -/
theorem execWaitEventResume_of_over {n : Wait} (hst : c.frag.st = .waitEvent n) (hrecv : ∀ p d a, n ≠ .recv p d a)
    (hservice : ∀ k, n ≠ .service k) (hover : waitOver s c n = true) :
    execWaitEventResume s = .next (modFrag s s.subject.core (subjectFrag s) fun f =>
      { f with st := .run, drainBound := n.drainBoundOr f.drainBound }) := by
  simp only [execWaitEventResume, hc, hst]
  cases n
  case recv p d a => exact absurd rfl (hrecv p d a)
  case service k => exact absurd rfl (hservice k)
  all_goals exact congrArg _ (if_pos hover)

end

end Sys2Proof.Machine

namespace Sys2Proof.Claims
open Sys2Proof.Machine

/-- Settles O37. Each event acts when its condition holds; a load's data is a late write to the wave, which keeps the
fragment's state and PC. -/
theorem fragmentEvents : Obligations.FragmentEvents := by
  intro s w f c r hw hf
  refine ⟨execFragmentExchange_of_leaving hw hf, fun p v n hp hv hdarner hpending hready hlate =>
      execPendingDisplacement_of_overdue hp hv hdarner hpending (by simp [Placed.overdue, hready, hlate]),
    fun p hp hdata => ?_,
    fun p code lanes info rest hp hv hs hfail =>
      (execLoadDataReturn_of_due hf hp).trans (congrArg _ (arriveLoad_of_fail hv hs hfail)),
    fun p q code lanes info x => endLoad_of_not_parked, execHamperEntryFreed_of_slot hf,
    fun x k n kind hx hk => execWatchdog_of_late hx hk, fun x n hx hst => ⟨?_, ?_⟩⟩
  · obtain ⟨v, g, h⟩ := arriveLoad_of_data_fragment hw (frag?_of_fragOf hw hf) hdata
    exact ⟨_, v, g, execLoadDataReturn_of_due hf hp, by rw [arriveLoad_of_data hdata]; rfl, h⟩
  · rintro p d a m rest rfl hm hkind
    exact execWaitEventResume_of_recv hx hst hm (by rw [Msg.failed, beq_false_of_ne hkind]; rfl)
  · exact fun hrecv hservice hover => execWaitEventResume_of_over hx hst hrecv hservice hover

end Sys2Proof.Claims
end

section
/-! The integer class (R120, R121, R146): the table's entries bit by bit, and the forms that write them. -/

namespace Sys2Proof.Machine

/-! ### Widths -/

theorem tyBits_pos (u : Nat) : 0 < tyBits u := by
  unfold tyBits
  split_ifs <;> decide

theorem tyBits_le (u : Nat) : tyBits u ≤ 64 := by
  unfold tyBits
  split_ifs <;> decide

theorem intType_le (t : Nat) : intType t ≤ 5 := by
  unfold intType
  split_ifs with hint
  · exact of_decide_eq_true hint
  all_goals decide

/-- Cutting to a type's width keeps the pattern modulo 2^n. -/
theorem toNat_cutTo (u : Nat) (x : BitVec 64) : (cutTo (tyBits u) x).toNat = x.toNat % 2 ^ tyBits u := by
  have hcut : ∀ k ≤ 64, ((x.extractLsb' 0 k).setWidth 64).toNat = x.toNat % 2 ^ k := fun k hk => by
    rw [BitVec.toNat_setWidth_of_le hk, BitVec.extractLsb'_toNat, Nat.shiftRight_zero]
  unfold tyBits
  split_ifs
  · exact (Nat.mod_eq_of_lt x.isLt).symm
  all_goals exact hcut _ (by decide)

/-! ### Numbers by their bits -/

/-- The number whose bits 0 to n − 1 are those of `f`. -/
def bitSum (n : Nat) (f : Nat → Bool) : Nat := ∑ k ∈ Finset.range n, (f k).toNat * 2 ^ k

theorem bitSum_succ (n : Nat) (f : Nat → Bool) : bitSum (n + 1) f = 2 ^ n * (f n).toNat + bitSum n f := by
  rw [bitSum, Finset.sum_range_succ, Nat.add_comm, Nat.mul_comm]
  rfl

theorem bitSum_lt (n : Nat) (f : Nat → Bool) : bitSum n f < 2 ^ n := by
  induction n with
  | zero => exact Nat.one_pos
  | succ n ih =>
    have hbit : 2 ^ n * (f n).toNat ≤ 2 ^ n := (Nat.mul_le_mul_left _ (Bool.toNat_le _)).trans_eq (Nat.mul_one _)
    rw [bitSum_succ, Nat.pow_succ]
    omega

theorem testBit_bitSum (n : Nat) (f : Nat → Bool) (j : Nat) : (bitSum n f).testBit j = (decide (j < n) && f j) := by
  induction n with
  | zero => simp [bitSum]
  | succ n ih =>
    rw [bitSum_succ, Nat.testBit_two_pow_mul_add _ (bitSum_lt n f), ih, Nat.testBit_bool_toNat]
    rcases Nat.lt_trichotomy j n with hlt | rfl | hgt
    · simp [hlt, Nat.lt_succ_of_lt hlt]
    · simp
    · simp [Nat.not_lt.mpr hgt.le, Nat.not_lt.mpr (Nat.succ_le_of_lt hgt), Nat.sub_ne_zero_of_lt hgt]

theorem foldl_range_add_eq_sum (n : Nat) (g : Nat → Nat) :
    (List.range n).foldl (fun r k => r + g k) 0 = ∑ k ∈ Finset.range n, g k := by
  induction n with
  | zero => rfl
  | succ n ih => rw [List.range_succ, List.foldl_append, ih, Finset.sum_range_succ]; rfl

theorem foldr_range_add_eq_sum (n : Nat) (g : Nat → Nat) :
    (List.range n).foldr (fun k r => r + g k) 0 = ∑ k ∈ Finset.range n, g k := by
  rw [← foldl_range_add_eq_sum]
  have hcomm : ∀ (l : List Nat) (x : Nat), l.foldr (fun k r => r + g k) 0 + x = l.foldl (fun r k => r + g k) x := by
    intro l
    induction l with
    | nil => exact fun x => Nat.zero_add x
    | cons k r ih => intro x; rw [List.foldr_cons, List.foldl_cons, ← ih]; omega
  exact hcomm _ 0

theorem reverseBits_eq (n v : Nat) : reverseBits n v = bitSum n fun k => v.testBit (n - 1 - k) := by
  rw [reverseBits, foldl_range_add_eq_sum, bitSum, ← Finset.sum_range_reflect]
  refine Finset.sum_congr rfl fun k hk => ?_
  have hk : n - 1 - (n - 1 - k) = k := by have := Finset.mem_range.mp hk; omega
  rw [← Nat.toNat_testBit, hk]

theorem popCount_eq (n v : Nat) : popCount n v = (List.range n).countP v.testBit := by
  have hfold : ∀ (l : List Nat) (k : Nat), l.foldl (fun k i => k + v / 2 ^ i % 2) k = k + l.countP v.testBit := by
    intro l
    induction l with
    | nil => exact fun _ => rfl
    | cons i r ih =>
      intro k
      rw [List.foldl_cons, ih, List.countP_cons, ← Nat.toNat_testBit]
      cases v.testBit i with
      | false => rfl
      | true => exact Nat.add_right_comm k 1 _
  exact (hfold _ 0).trans (Nat.zero_add _)

/-- The leading zeros of an n-bit number are what its length leaves. -/
theorem length_takeWhile_testBit {n v : Nat} (h : v < 2 ^ n) :
    ((List.range n).reverse.takeWhile fun k => !v.testBit k).length = n - bitLen v := by
  induction n with
  | zero => simp
  | succ n ih =>
    rw [List.range_succ, List.reverse_append, List.reverse_singleton, List.singleton_append]
    by_cases hv : v < 2 ^ n
    · have hlen : bitLen v ≤ n := by
        unfold bitLen
        split_ifs with h0
        · exact Nat.zero_le n
        · exact (Nat.log2_lt h0).mpr hv
      rw [List.takeWhile_cons_of_pos (by simp [Nat.testBit_lt_two_pow hv]), List.length_cons, ih hv]
      omega
    · have hv : 2 ^ n ≤ v := Nat.not_lt.mp hv
      have h0 : v ≠ 0 := (Nat.two_pow_pos n |>.trans_le hv).ne'
      have hlog : n ≤ v.log2 := (Nat.le_log2 h0).mpr hv
      have hbit : v.testBit n = true := Nat.testBit_of_two_pow_le_and_two_pow_add_one_gt hv h
      rw [List.takeWhile_cons_of_neg (by simp [hbit]), bitLen, if_neg h0]
      exact (Nat.sub_eq_zero_of_le (Nat.succ_le_succ hlog)).symm

/-- A rotation to the left brings bit j − k of n to bit j. -/
theorem rotated_eq_bitSum {n k v : Nat} (hk : k < n) (hv : v < 2 ^ n) :
    v * 2 ^ k % 2 ^ n + v / 2 ^ (n - k) = bitSum n fun j => v.testBit ((j + n - k) % n) := by
  have hsplit : 2 ^ n = 2 ^ k * 2 ^ (n - k) := by rw [← Nat.pow_add, Nat.add_sub_cancel' hk.le]
  have hlow : v / 2 ^ (n - k) < 2 ^ k := by
    rw [Nat.div_lt_iff_lt_mul (Nat.two_pow_pos _), ← hsplit]
    exact hv
  have hhigh : v * 2 ^ k % 2 ^ n = 2 ^ k * (v % 2 ^ (n - k)) := by
    rw [hsplit, Nat.mul_comm v, Nat.mul_mod_mul_left]
  refine Nat.eq_of_testBit_eq fun j => ?_
  rw [hhigh, Nat.testBit_two_pow_mul_add _ hlow, testBit_bitSum, Nat.testBit_div_two_pow, Nat.testBit_mod_two_pow]
  by_cases hjk : j < k
  · have hj : (j + n - k) % n = j + (n - k) := by rw [Nat.mod_eq_of_lt (by omega)]; omega
    rw [if_pos hjk, hj, decide_eq_true (hjk.trans hk), Bool.true_and]
  · rw [if_neg hjk]
    by_cases hjn : j < n
    · have hj : (j + n - k) % n = j - k := by
        rw [show j + n - k = (j - k) + n by omega, Nat.add_mod_right, Nat.mod_eq_of_lt (by omega)]
      rw [hj, decide_eq_true hjn, decide_eq_true (show j - k < n - k by omega)]
    · rw [decide_eq_false hjn, decide_eq_false (show ¬ j - k < n - k by omega)]
      rfl

end Sys2Proof.Machine

namespace Sys2Proof.Claims

open Sys2Proof.Machine

/-! ### Patterns of n bits -/

theorem toNat_emod_two_pow_lt (n : Nat) (z : Int) : (z % (2 ^ n : Nat)).toNat < 2 ^ n := by
  have hpos : (0 : Int) < (2 ^ n : Nat) := Int.natCast_pos.mpr (Nat.two_pow_pos n)
  exact (Int.toNat_lt (Int.emod_nonneg _ hpos.ne')).mpr (Int.emod_lt_of_pos _ hpos)

theorem toNat_mod2 {n : Nat} (hn : n ≤ 64) (z : Int) : (mod2 n z).toNat = (z % (2 ^ n : Nat)).toNat := by
  rw [← wrapInt_eq_mod2, wrapInt, BitVec.toNat_ofNat]
  exact Nat.mod_eq_of_lt ((toNat_emod_two_pow_lt n z).trans_le (Nat.pow_le_pow_right Nat.two_pos hn))

theorem toNat_mod2_natCast {n : Nat} (hn : n ≤ 64) (v : Nat) : (mod2 n (v : Int)).toNat = v % 2 ^ n := by
  rw [toNat_mod2 hn, ← Int.natCast_mod, Int.toNat_natCast]

theorem toNat_mod2_lt {n : Nat} (hn : n ≤ 64) (z : Int) : (mod2 n z).toNat < 2 ^ n :=
  (toNat_mod2 hn z).trans_lt (toNat_emod_two_pow_lt n z)

theorem mod2_emod {n : Nat} (z : Int) : mod2 n (z % (2 ^ n : Nat)) = mod2 n z := by
  rw [mod2, Int.emod_emod_of_dvd _ (dvd_refl _), mod2]

theorem bitsOf_eq (n : Nat) (f : Nat → Bool) : bitsOf n f = BitVec.ofNat 64 (bitSum n f) := by
  rw [bitsOf, foldr_range_add_eq_sum]
  rfl

/-- The model's cut of a sign-extended IMM7 is R121's. -/
theorem cutTo_signExtend (u : Nat) {k : Nat} (m : BitVec k) :
    cutTo (tyBits u) (m.signExtend 64) = mod2 (tyBits u) m.toInt := by
  refine BitVec.eq_of_toNat_eq ?_
  have hdvd : ((2 ^ tyBits u : Nat) : Int) ∣ (2 ^ 64 : Nat) :=
    Int.natCast_dvd_natCast.mpr (Nat.pow_dvd_pow 2 (tyBits_le u))
  have hpos : (0 : Int) ≤ m.toInt % (2 ^ 64 : Nat) := Int.emod_nonneg _ (by decide)
  rw [toNat_cutTo, toNat_mod2 (tyBits_le u), BitVec.signExtend, BitVec.toNat_ofInt, ← Int.emod_emod_of_dvd _ hdvd,
    Int.toNat_emod hpos (by positivity), Int.toNat_natCast]

section
variable {t : Nat} {x : BitVec 64} (hx : x.toNat < 2 ^ tyBits t)
include hx

theorem mod2_toNat : mod2 (tyBits t) (x.toNat : Int) = x :=
  BitVec.eq_of_toNat_eq ((toNat_mod2_natCast (tyBits_le t) _).trans (Nat.mod_eq_of_lt hx))

/-- A pattern is that of its own value, signed or not. -/
theorem mod2_val : mod2 (tyBits t) (val t x) = x := by
  rw [val, twos]
  split_ifs
  · rw [← mod2_emod, Int.sub_emod_right, mod2_emod, mod2_toNat hx]
  · exact mod2_toNat hx
  · exact mod2_toNat hx

end

/-- A summand counts modulo 2^n. -/
theorem mod2_add_left {n : Nat} (hn : n ≤ 64) {x y : Int} (h : mod2 n x = mod2 n y) (z : Int) :
    mod2 n (x + z) = mod2 n (y + z) := by
  have hpos : (0 : Int) < (2 ^ n : Nat) := Int.natCast_pos.mpr (Nat.two_pow_pos n)
  have hnat : (x % (2 ^ n : Nat)).toNat = (y % (2 ^ n : Nat)).toNat := by rw [← toNat_mod2 hn, h, toNat_mod2 hn]
  have hmod : x % (2 ^ n : Nat) = y % (2 ^ n : Nat) := by
    rw [← Int.toNat_of_nonneg (Int.emod_nonneg x hpos.ne'), hnat, Int.toNat_of_nonneg (Int.emod_nonneg y hpos.ne')]
  rw [mod2, Int.add_emod, hmod, ← Int.add_emod, mod2]

/-! ### The table of R146 -/

/-- The model's entry of a row of R146's table. -/
def IntOp.model : IntOp → Nat → BitVec 64 → BitVec 64 → BitVec 64
  | .add => opIadd | .sub => opIsub | .mul => opImul | .mulh => opImulh | .addc => opIaddc | .min => opImin | .max => opImax
  | .shl => opShl | .shr => opShr | .sar => opSar | .rot => opRot | .and => opAnd | .or => opOr | .xor => opXor
  | .andn => opAndn

section
variable {t : Nat} {a : BitVec 64} (b : BitVec 64) (ha : a.toNat < 2 ^ tyBits t)

theorem shiftCount_lt (t : Nat) (b : BitVec 64) : shiftCount t b < tyBits t := Nat.mod_lt _ (tyBits_pos t)

theorem opShl_eq (t : Nat) (a : BitVec 64) : opShl t a b = IntOp.value .shl t a b := by
  refine BitVec.eq_of_toNat_eq ?_
  have hdvd : 2 ^ tyBits t ∣ 2 ^ 64 := Nat.pow_dvd_pow 2 (tyBits_le t)
  have hcast : (a.toNat : Int) * 2 ^ shiftCount t b = (a.toNat * 2 ^ shiftCount t b : Nat) := by push_cast; rfl
  change (cutTo _ _).toNat = (mod2 _ ((a.toNat : Int) * 2 ^ shiftCount t b)).toNat
  rw [hcast, toNat_mod2_natCast (tyBits_le t), toNat_cutTo, BitVec.toNat_shiftLeft, Nat.shiftLeft_eq,
    Nat.mod_mod_of_dvd _ hdvd]

include ha

theorem opShr_eq : opShr t a b = IntOp.value .shr t a b := by
  refine BitVec.eq_of_toNat_eq ?_
  have hcast : (a.toNat : Int) / 2 ^ shiftCount t b = (a.toNat / 2 ^ shiftCount t b : Nat) := by push_cast; rfl
  change (a >>> shiftCount t b).toNat = (mod2 _ ((a.toNat : Int) / 2 ^ shiftCount t b)).toNat
  rw [hcast, toNat_mod2_natCast (tyBits_le t), BitVec.toNat_ushiftRight, Nat.shiftRight_eq_div_pow,
    Nat.mod_eq_of_lt ((Nat.div_le_self _ _).trans_lt ha)]

theorem opSar_eq : opSar t a b = IntOp.value .sar t a b := by
  rw [opSar, wrapInt_eq_mod2, signedVal_eq_twos ha]
  rfl

theorem opRot_eq : opRot t a b = IntOp.value .rot t a b := by
  change _ = bitsOf (tyBits t) fun j => a.getLsbD ((j + tyBits t - shiftCount t b) % tyBits t)
  rw [bitsOf_eq]
  exact congrArg (BitVec.ofNat 64) (rotated_eq_bitSum (shiftCount_lt t b) ha)

/-- The model computes R146's table. -/
theorem IntOp.model_eq_value (o : IntOp) {b : BitVec 64} (hb : b.toNat < 2 ^ tyBits t) :
    o.model t a b = o.value t a b := by
  have hva := intVal_eq_val ha
  have hvb := intVal_eq_val hb
  cases o with
  | add | sub | mul | mulh => exact (wrapInt_eq_mod2 _ _).trans (by rw [hva, hvb]; rfl)
  | min | max => rw [IntOp.model, IntOp.value]; simp only [opImin, opImax, hva, hvb]
  | shl => exact opShl_eq b t a
  | shr => exact opShr_eq b ha
  | sar => exact opSar_eq b ha
  | rot => exact opRot_eq b ha
  | addc | and | or | xor | andn => rfl

theorem opIneg_eq : opIneg t a = mod2 (tyBits t) (-(val t a)) := by
  rw [opIneg, wrapInt_eq_mod2, intVal_eq_val ha]

theorem opIabs_eq : opIabs t a = if val t a < 0 then mod2 (tyBits t) (-(val t a)) else a := by
  rw [opIabs, wrapInt_eq_mod2, intVal_eq_val ha]
  split_ifs
  · rfl
  · exact mod2_val ha

theorem opClz_eq : opClz t a = BitVec.ofNat 64 (leadingZeros (tyBits t) a) :=
  congrArg _ (length_takeWhile_testBit ha).symm

omit ha

theorem opPopc_eq (t : Nat) (a : BitVec 64) : opPopc t a = BitVec.ofNat 64 ((List.range (tyBits t)).countP a.getLsbD) :=
  congrArg _ (popCount_eq _ _)

theorem opBrev_eq (t : Nat) (a : BitVec 64) : opBrev t a = bitsOf (tyBits t) fun k => a.getLsbD (tyBits t - 1 - k) := by
  rw [opBrev, reverseBits_eq, bitsOf_eq]
  rfl

end

/-! ### The forms -/

/-- Two results that agree in every lane complete alike. -/
theorem next_complete_congr {c : Ctx} {i : Instr} {s : State} {d : Code} {wide : Bool} {t : Nat}
    {f g : Nat → BitVec 64 × Tag} (h : ∀ lane, f lane = g lane) :
    (Host.Outcome.next (complete c i s (resultWrites s c i d wide t f)) : Host.Outcome State Fault Refusal) =
      .next (complete c i s (resultWrites s c i d wide t g)) := by
  rw [funext h]

/-- The model reads a B operand of the integer class as the statements name it. -/
theorem readIntSrc_eq_srcI (s : State) (c : Ctx) (b : Src) (lane : Nat) : readIntSrc s c b lane = srcI s c b lane := by
  cases b with
  | reg code => rfl
  | lit x =>
    have hu : intType (modeType c.frag.mode) ≤ 5 := intType_le _
    rw [readIntSrc, srcI, itOf]
    generalize intType (modeType c.frag.mode) = u at hu
    have hcut : ∀ k ≤ 32, ((x.setWidth 64).extractLsb' 0 k).setWidth 64 = (x.extractLsb' 0 k).setWidth 64 := fun k hk => by
      rw [BitVec.extractLsb'_setWidth_of_le (by omega)]
    interval_cases u
    · exact (hcut 32 (by decide)).trans (congrArg _ BitVec.extractLsb'_eq_self)
    · exact (hcut 32 (by decide)).trans (congrArg _ BitVec.extractLsb'_eq_self)
    · rfl
    · rfl
    · exact hcut 16 (by decide)
    · exact hcut 8 (by decide)

theorem toNat_srcI_lt (s : State) (c : Ctx) (b : Src) (lane : Nat) : (srcI s c b lane).toNat < 2 ^ tyBits (itOf c) := by
  rw [← readIntSrc_eq_srcI]
  cases b with
  | reg code => exact toNat_readCode_lt _ _ _ _ _ _
  | lit x => exact toNat_cutTo_lt _ _

theorem exec_intPair {e : (BitVec 3 → Code → Code → Src → Instr) × IntOp} (he : e ∈ intPairs) (w : BitVec 3) (d a : Code)
    (b : Src) (s : State) : exec (e.1 w d a b) s = intBinary (e.1 w d a b) d a b s e.2.model := by
  simp only [intPairs, List.mem_cons, List.not_mem_nil, or_false] at he
  rcases he with rfl | rfl | rfl | rfl | rfl | rfl | rfl | rfl | rfl | rfl | rfl | rfl | rfl | rfl | rfl <;> rfl

theorem exec_intImm {e : (BitVec 3 → Code → Code → BitVec 7 → Instr) × IntOp} (he : e ∈ intImms) (w : BitVec 3)
    (d a : Code) (m : BitVec 7) (s : State) : exec (e.1 w d a m) s = intImm (e.1 w d a m) d a m s e.2.model := by
  simp only [intImms, List.mem_cons, List.not_mem_nil, or_false] at he
  rcases he with rfl | rfl | rfl | rfl | rfl <;> rfl

/-- Each form of one source is a form of the model, whose function agrees with R146 on patterns of n bits. -/
theorem exec_intSingle {e : (BitVec 3 → Code → Code → Instr) × (Nat → BitVec 64 → BitVec 64)} (he : e ∈ intSingles)
    (w : BitVec 3) (d a : Code) (s : State) :
    ∃ f, exec (e.1 w d a) s = intUnary (e.1 w d a) d a s f ∧ ∀ t x, x.toNat < 2 ^ tyBits t → f t x = e.2 t x := by
  simp only [intSingles, List.mem_cons, List.not_mem_nil, or_false] at he
  rcases he with rfl | rfl | rfl | rfl | rfl
  · exact ⟨opIneg, rfl, fun _ _ => opIneg_eq⟩
  · exact ⟨opIabs, rfl, fun _ _ => opIabs_eq⟩
  · exact ⟨opClz, rfl, fun _ _ => opClz_eq⟩
  · exact ⟨opPopc, rfl, fun t x _ => opPopc_eq t x⟩
  · exact ⟨opBrev, rfl, fun t x _ => opBrev_eq t x⟩

section
variable {i : Instr} {s : State} {c : Ctx} (h : Issues i s c) (d a : Code)
include h

theorem intBinary_of_issues (b : Src) (o : IntOp) : intBinary i d a b s o.model = .next (intDone c i s d fun lane =>
    o.value (itOf c) (src s c (tyBits (itOf c)) a lane) (srcI s c b lane)) := by
  rw [intBinary, h.issueForm_eq]
  refine next_complete_congr fun lane => ?_
  rw [readIntSrc_eq_srcI]
  exact congrArg (·, 62) (o.model_eq_value (toNat_readCode_lt _ _ _ _ _ _) (toNat_srcI_lt _ _ _ _))

theorem intImm_of_issues (m : BitVec 7) (o : IntOp) : intImm i d a m s o.model = .next (intDone c i s d fun lane =>
    o.value (itOf c) (src s c (tyBits (itOf c)) a lane) (mod2 (tyBits (itOf c)) m.toInt)) := by
  rw [intImm, h.issueForm_eq]
  refine next_complete_congr fun lane => ?_
  rw [cutTo_signExtend]
  exact congrArg (·, 62) (o.model_eq_value (toNat_readCode_lt _ _ _ _ _ _) (toNat_mod2_lt (tyBits_le _) _))

theorem intUnary_of_issues {f g : Nat → BitVec 64 → BitVec 64} (hfg : ∀ t x, x.toNat < 2 ^ tyBits t → f t x = g t x) :
    intUnary i d a s f = .next (intDone c i s d fun lane => g (itOf c) (src s c (tyBits (itOf c)) a lane)) := by
  rw [intUnary, h.issueForm_eq]
  refine next_complete_congr fun lane => ?_
  exact congrArg (·, 62) (hfg _ _ (toNat_readCode_lt _ _ _ _ _ _))

end

/-- Settles O1: each form is one of the model's three shapes, whose function agrees with the table on patterns of n bits. -/
theorem integerResults : Obligations.IntegerResults := by
  refine ⟨fun e he w d a b s c h => ?pair, fun e he w d a m s c h => ?imm, fun e he w d a s c h => ?single⟩
  case pair => exact (exec_intPair he w d a b s).trans (intBinary_of_issues h d a b e.2)
  case imm => exact (exec_intImm he w d a m s).trans (intImm_of_issues h d a m e.2)
  case single =>
    obtain ⟨f, hexec, hf⟩ := exec_intSingle he w d a s
    exact hexec.trans (intUnary_of_issues h d a hf)

end Sys2Proof.Claims
end

section
/-! Bit fields, IMAD, ADDR and CVTI (R146, R147, R149, R150): a field is read off the bits of a value that goes on by its
sign. -/

namespace Sys2Proof.Claims

open Sys2Proof.Machine

/-! ### Values of m bits that go on by their sign -/

/-- The value of an m-bit pattern, signed or not. -/
def extended (signed : Bool) (m v : Nat) : Int := if signed = true ∧ 2 ^ (m - 1) ≤ v then (v : Int) - (2 ^ m : Nat) else v

/-- Bit `k` of an m-bit pattern that goes on by its sign, or by zeros. -/
def extendedBit (signed : Bool) (m v k : Nat) : Bool := if k < m then v.testBit k else signed && v.testBit (m - 1)

section
variable {signed : Bool} {m v : Nat} (hm : 0 < m) (hv : v < 2 ^ m)
include hm hv

/-- Enough low bits of a value show its pattern and copies of its sign above it. -/
theorem testBit_extended_of_le {M : Nat} (hM : m ≤ M) (j : Nat) :
    (extended signed m v % (2 ^ M : Nat)).toNat.testBit j = (decide (j < M) && extendedBit signed m v j) := by
  have hpow : 2 ^ m ≤ 2 ^ M := Nat.pow_le_pow_right Nat.two_pos hM
  unfold extended
  split
  next hneg =>
    obtain ⟨hsigned, hge⟩ := hneg
    have hsplit : 2 ^ m * (2 ^ (M - m) - 1) = 2 ^ M - 2 ^ m := by
      rw [Nat.mul_sub, ← Nat.pow_add, Nat.add_sub_cancel' hM, Nat.mul_one]
    have hwrap : ((v : Int) - (2 ^ m : Nat)) % (2 ^ M : Nat) = ((2 ^ m * (2 ^ (M - m) - 1) + v : Nat) : Int) := by
      rw [← Int.add_emod_right, Int.emod_eq_of_lt (by omega) (by omega)]
      omega
    have hsign : v.testBit (m - 1) = true :=
      Nat.testBit_of_two_pow_le_and_two_pow_add_one_gt hge (by rwa [Nat.sub_add_cancel hm])
    rw [hwrap, Int.toNat_natCast, Nat.testBit_two_pow_mul_add _ hv, extendedBit, Nat.testBit_two_pow_sub_one]
    by_cases hj : j < m
    · rw [if_pos hj, if_pos hj, decide_eq_true (hj.trans_le hM), Bool.true_and]
    · rw [if_neg hj, if_neg hj, hsigned, hsign, Bool.and_true, Bool.and_true]
      exact decide_eq_decide.mpr (by omega)
  next hpos =>
    rw [← Int.natCast_mod, Int.toNat_natCast, Nat.mod_eq_of_lt (hv.trans_le hpow), extendedBit]
    by_cases hj : j < m
    · rw [if_pos hj, decide_eq_true (hj.trans_le hM), Bool.true_and]
    · have hsign : (signed && v.testBit (m - 1)) = false := by
        cases signed with
        | false => rfl
        | true => exact Nat.testBit_lt_two_pow (Nat.not_le.mp fun hge => hpos ⟨rfl, hge⟩)
      rw [if_neg hj, hsign, Bool.and_false]
      exact Nat.testBit_lt_two_pow (hv.trans_le (Nat.pow_le_pow_right Nat.two_pos (Nat.not_lt.mp hj)))

theorem testBit_extended (M j : Nat) :
    (extended signed m v % (2 ^ M : Nat)).toNat.testBit j = (decide (j < M) && extendedBit signed m v j) := by
  have hdvd : ((2 ^ M : Nat) : Int) ∣ (2 ^ (M + m) : Nat) :=
    Int.natCast_dvd_natCast.mpr (Nat.pow_dvd_pow 2 (Nat.le_add_right M m))
  have hnonneg : 0 ≤ extended signed m v % (2 ^ (M + m) : Nat) := Int.emod_nonneg _ (by positivity)
  rw [← Int.emod_emod_of_dvd _ hdvd, Int.toNat_emod hnonneg (by positivity), Int.toNat_natCast, Nat.testBit_mod_two_pow,
    testBit_extended_of_le hm hv (Nat.le_add_left m M)]
  by_cases hj : j < M
  · simp [hj, Nat.lt_add_right m hj]
  · simp [hj]

end

/-- The low part of a quotient is the quotient of a low part. -/
theorem ediv_emod_eq (z : Int) (p l : Nat) :
    z / (2 ^ p : Nat) % (2 ^ l : Nat) = ((z % (2 ^ (p + l) : Nat)).toNat / 2 ^ p : Nat) := by
  have hp : (0 : Int) < (2 ^ p : Nat) := Int.natCast_pos.mpr (Nat.two_pow_pos p)
  have hq := Int.emod_add_mul_ediv z (2 ^ (p + l) : Nat)
  have hr : ((z % (2 ^ (p + l) : Nat)).toNat : Int) = z % (2 ^ (p + l) : Nat) :=
    Int.toNat_of_nonneg (Int.emod_nonneg _ (by positivity))
  have hlt : (z % (2 ^ (p + l) : Nat)).toNat / 2 ^ p < 2 ^ l := by
    rw [Nat.div_lt_iff_lt_mul (Nat.two_pow_pos p), ← Nat.pow_add, Nat.add_comm l p]
    exact toNat_emod_two_pow_lt _ _
  generalize hR : (z % (2 ^ (p + l) : Nat)).toNat = R at hr hlt
  have hz : z = R + (2 ^ p : Nat) * ((2 ^ l : Nat) * (z / (2 ^ (p + l) : Nat))) := by
    rw [hr, ← mul_assoc, ← Nat.cast_mul, ← Nat.pow_add]
    exact hq.symm
  rw [hz, Int.add_mul_ediv_left _ _ hp.ne', Int.add_mul_emod_self_left]
  exact Int.emod_eq_of_lt (by positivity) (by exact_mod_cast hlt)

/-! ### BFX and BFI -/

section
variable {t : Nat} {a : BitVec 64} (ha : a.toNat < 2 ^ tyBits t)
include ha

theorem intVal_eq_extended : intVal t a = extended (isSigned t) (tyBits t) a.toNat := by
  rw [intVal_eq_val ha, val, twos, extended]
  cases isSigned t <;> simp

/-- The field of BFX, before it is extended (R147). -/
theorem testBit_field (pos len k : Nat) :
    (intVal t a / (2 ^ pos : Nat) % (2 ^ len : Nat)).toNat.testBit k =
      (decide (k < len) && extendedBit (isSigned t) (tyBits t) a.toNat (pos + k)) := by
  rw [ediv_emod_eq, Int.toNat_natCast, Nat.testBit_div_two_pow, intVal_eq_extended ha, testBit_extended (tyBits_pos t) ha,
    Nat.add_comm k pos]
  congr 1
  exact decide_eq_decide.mpr (by omega)

theorem opBfx_eq (b : BitVec 64) : opBfx t a b = fieldOf t a b := by
  unfold opBfx fieldOf
  extract_lets n pos len f bit
  split
  next => rfl
  next hlen =>
    have hlen : 0 < len := Nat.pos_of_ne_zero hlen
    have hF : (f.toNat : Int) = f := Int.toNat_of_nonneg (Int.emod_nonneg _ (by positivity))
    have hbits : ∀ k < len, f.toNat.testBit k = bit (pos + k) := fun k hk => by
      rw [testBit_field ha, decide_eq_true hk]
      rfl
    have hext : (if isSigned t ∧ (2 ^ (len - 1) : Nat) ≤ f then wrapInt n (f - (2 ^ len : Nat)) else wrapInt n f) =
        mod2 n (extended (isSigned t) len f.toNat) := by
      rw [← hF, extended, apply_ite (mod2 n), wrapInt_eq_mod2, wrapInt_eq_mod2, Int.toNat_natCast]
      simp only [Nat.cast_le]
    rw [hext, bitsOf_eq]
    refine BitVec.eq_of_toNat_eq (Eq.trans ?_ (Nat.mod_eq_of_lt
      ((bitSum_lt _ _).trans_le (Nat.pow_le_pow_right Nat.two_pos (tyBits_le t)))).symm)
    rw [toNat_mod2 (tyBits_le t)]
    refine Nat.eq_of_testBit_eq fun j => ?_
    rw [testBit_extended hlen (toNat_emod_two_pow_lt _ _), testBit_bitSum, extendedBit, hbits _ (Nat.sub_lt hlen Nat.one_pos),
      Nat.add_sub_assoc hlen]
    by_cases hj : j < len
    · rw [if_pos hj, if_pos hj, hbits j hj]
    · rw [if_neg hj, if_neg hj]

end

theorem opBfi_eq (t : Nat) (d a b : BitVec 64) : opBfi t d a b = inserted t d a b := by
  rw [opBfi, inserted, bitsOf_eq, bitSum, foldl_range_add_eq_sum]
  refine congrArg _ (Finset.sum_congr rfl fun k _ => ?_)
  rw [apply_ite Bool.toNat]
  exact congrArg (· * 2 ^ k) (if_congr Iff.rfl (Nat.toNat_testBit _ _).symm (Nat.toNat_testBit _ _).symm)

/-! ### IMAD, ADDR and CVTI -/

/-- The product of IMAD may wrap before the sum does. -/
theorem intMultiplyAdd_eq {t : Nat} {a b d : BitVec 64} (ha : a.toNat < 2 ^ tyBits t) (hb : b.toNat < 2 ^ tyBits t)
    (hd : d.toNat < 2 ^ tyBits t) : opIadd t (opImul t a b) d = mod2 (tyBits t) (val t a * val t b + val t d) := by
  have hproduct : opImul t a b = mod2 (tyBits t) (val t a * val t b) := IntOp.model_eq_value ha .mul hb
  have hlt : (mod2 (tyBits t) (val t a * val t b)).toNat < 2 ^ tyBits t := toNat_mod2_lt (tyBits_le t) _
  rw [opIadd, wrapInt_eq_mod2, hproduct, intVal_eq_val hlt, intVal_eq_val hd]
  exact mod2_add_left (tyBits_le t) (mod2_val hlt) _

theorem readWhole32_eq_index32 (s : State) (c : Ctx) (b : Src) (lane : Nat) :
    readWhole32 s c b lane = index32 s c b lane := by
  cases b <;> rfl

theorem toNat_index32_lt (s : State) (c : Ctx) (b : Src) (lane : Nat) : (index32 s c b lane).toNat < 2 ^ 32 := by
  cases b with
  | reg code => exact toNat_readCode_lt s c _ tyU32 code lane
  | lit x => exact (BitVec.toNat_setWidth_of_le (by decide)).trans_lt x.isLt

/-- The index of ADDR, widened, is its value (R149). -/
theorem widened_eq_ofInt {x : BitVec 64} (hx : x.toNat < 2 ^ 32) (unsigned : Prop) [Decidable unsigned] :
    (if unsigned then (x.extractLsb' 0 32).setWidth 64 else (x.extractLsb' 0 32).signExtend 64) =
      BitVec.ofInt 64 (if unsigned then (x.toNat : Int) else twos 32 x) := by
  have hlow : (x.extractLsb' 0 32).toNat = x.toNat := by
    rw [BitVec.extractLsb'_toNat, Nat.shiftRight_zero, Nat.mod_eq_of_lt hx]
  split
  next =>
    refine BitVec.eq_of_toNat_eq ?_
    rw [BitVec.toNat_setWidth_of_le (by decide), hlow, BitVec.ofInt_natCast, BitVec.toNat_ofNat, Nat.mod_eq_of_lt x.isLt]
  next =>
    rw [BitVec.signExtend, BitVec.toInt_eq_toNat_cond, hlow, twos]
    congr 1
    norm_num only
    split_ifs <;> omega

theorem satInt_eq (t : Nat) (z : Int) : satInt t z = max (intMin t) (min (intMax t) z) := by
  have hle : intMin t ≤ intMax t := by
    have hpow : 0 < 2 ^ (tyBits t - 1) := Nat.two_pow_pos _
    have hpow' : 0 < 2 ^ tyBits t := Nat.two_pow_pos _
    unfold intMin intMax
    split_ifs <;> omega
  unfold satInt
  split_ifs <;> omega

/-- Settles O2: IMAD is the model's product and sum; BFX and BFI agree bit by bit; ADDR's index and CVTI's saturation are the
model's under other names. -/
theorem fieldAddressAndConversionResults : Obligations.FieldAddressAndConversionResults := by
  intro w d a b k s c
  dsimp only
  refine ⟨fun h => (h.issueForm_eq _).trans ?imad, fun h => (h.issueForm_eq _).trans ?bfx,
    fun h => (h.issueForm_eq _).trans ?bfi, fun h => (h.issueForm_eq _).trans ?addr, fun h => (h.issueForm_eq _).trans ?cvti⟩
  case imad =>
    refine next_complete_congr fun lane => ?_
    rw [readIntSrc_eq_srcI]
    exact congrArg (·, 62) (intMultiplyAdd_eq (toNat_readCode_lt _ _ _ _ _ _) (toNat_srcI_lt _ _ _ _)
      (toNat_readCode_lt _ _ _ _ _ _))
  case bfx =>
    refine next_complete_congr fun lane => ?_
    rw [readWhole32_eq_index32]
    exact congrArg (·, 62) (opBfx_eq (toNat_readCode_lt _ _ _ _ _ _) _)
  case bfi =>
    refine next_complete_congr fun lane => ?_
    rw [readWhole32_eq_index32]
    exact congrArg (·, 62) (opBfi_eq _ _ _ _)
  case addr =>
    refine next_complete_congr fun lane => ?_
    rw [BitVec.ofInt_mul, ← widened_eq_ofInt (toNat_index32_lt s c b lane), readWhole32_eq_index32, BitVec.ofInt_natCast]
    rfl
  case cvti =>
    refine next_complete_congr fun lane => ?_
    rw [wrapInt_eq_mod2, satInt_eq, intVal_readCode]
    rfl

end Sys2Proof.Claims
end

section
/-! Predicates (R140, R141, R148): the comparisons, and the predicate logic, lane by lane. -/

namespace Sys2Proof.Claims

open Sys2Proof.Machine

/-! ### Comparisons -/

theorem intCond_eq_icmpHolds (k : IntCond) {t : Nat} {a b : BitVec 64} (ha : a.toNat < 2 ^ tyBits t)
    (hb : b.toNat < 2 ^ tyBits t) : intCond k t a b = icmpHolds k (val t a) (val t b) := by
  rw [← intVal_eq_val ha, ← intVal_eq_val hb]
  cases k <;> rfl

/-- A form that writes a predicate in ACTIVE, once it issues. -/
theorem predForm_of_issues {i : Instr} {s : State} {c : Ctx} (h : Issues i s c) (p : BitVec 3) {f : Ctx → Nat → Bool}
    {g : Nat → Bool} (hfg : ∀ lane, f c lane = g lane) : predForm i p s f = .next (predDone c i s p g) := by
  rw [predForm, h.issueForm_eq, funext hfg]
  rfl

/-- Settles O3: the model's condition is the one named, on patterns of n bits. -/
theorem predicateResults : Obligations.PredicateResults := by
  intro w p k a b m s c
  refine ⟨fun h => predForm_of_issues h p fun lane => rfl, fun h => predForm_of_issues h p fun lane => ?icmpA,
    fun h => predForm_of_issues h p fun lane => ?icmpB⟩
  case icmpA =>
    rw [readIntSrc_eq_srcI]
    exact intCond_eq_icmpHolds k (toNat_readCode_lt _ _ _ _ _ _) (toNat_srcI_lt _ _ _ _)
  case icmpB =>
    dsimp only
    rw [cutTo_signExtend]
    exact intCond_eq_icmpHolds k (toNat_readCode_lt _ _ _ _ _ _) (toNat_mod2_lt (tyBits_le _) _)

/-! ### Predicate logic -/

theorem getLsbD_laneBit (lane j : Nat) : (laneBit lane).getLsbD j = (decide (j < 32) && decide (lane = j)) := by
  rw [laneBit, BitVec.getLsbD_ofNat, Nat.testBit_two_pow]

theorem getLsbD_lanesWhere (m : Lanes) (f : Nat → Bool) (j : Nat) : (lanesWhere m f).getLsbD j = (m.getLsbD j && f j) := by
  have hfold : ∀ (l : List Nat) (r : Lanes), (∀ lane ∈ l, lane < 32) →
      (l.foldl (fun r lane => if f lane then r ||| laneBit lane else r) r).getLsbD j =
        (r.getLsbD j || (decide (j ∈ l) && f j)) := by
    intro l
    induction l with
    | nil => simp
    | cons lane l ih =>
      intro r hl
      have hlane : lane < 32 := hl lane List.mem_cons_self
      rw [List.foldl_cons, ih _ fun x hx => hl x (List.mem_cons_of_mem _ hx)]
      by_cases hj : lane = j
      · subst hj
        cases hf : f lane <;> simp [getLsbD_laneBit, hlane]
      · cases hf : f lane <;> simp [getLsbD_laneBit, hj, Ne.symm hj]
  have hlt : ∀ lane ∈ lanesOf m, lane < 32 := fun lane h => BitVec.lt_of_getLsbD (mem_lanesOf.mp h)
  rw [lanesWhere, hfold _ _ hlt]
  simp [mem_lanesOf]

/-- The write of a predicate depends on its value in the lanes written alone. -/
theorem writePred_congr {c : Ctx} {k : Nat} {lanes x y : Lanes}
    (h : ∀ lane, lanes.getLsbD lane = true → x.getLsbD lane = y.getLsbD lane) :
    writePred c k lanes x = writePred c k lanes y := by
  have hmasked : x &&& lanes = y &&& lanes := by
    refine BitVec.eq_of_getLsbD_eq fun lane _ => ?_
    rw [BitVec.getLsbD_and, BitVec.getLsbD_and]
    cases hlane : lanes.getLsbD lane with
    | false => simp
    | true => rw [h lane hlane]
  rw [writePred, hmasked, writePred]

theorem predLogic_of_issues {i : Instr} {s : State} {c : Ctx} (h : Issues i s c) (p : BitVec 3) {f : Ctx → Lanes}
    {g : Nat → Bool} (hfg : ∀ lane < 32, (f c).getLsbD lane = g lane) : predLogic i p s f = .next (predDone c i s p g) := by
  rw [predLogic, h.issueForm_eq, predDone]
  refine congrArg (fun x => Host.Outcome.next (complete c i s x)) (writePred_congr fun lane hlane => ?_)
  rw [getLsbD_lanesWhere, hlane, Bool.true_and, hfg lane (BitVec.lt_of_getLsbD hlane)]

theorem exec_predLogic {e : (BitVec 3 → BitVec 3 → BitVec 3 → BitVec 3 → Instr) × (Bool → Bool → Bool)}
    (he : e ∈ predLogics) {w p q r : BitVec 3} {s : State} {c : Ctx} (h : Issues (e.1 w p q r) s c) :
    exec (e.1 w p q r) s = .next (predDone c (e.1 w p q r) s p fun lane =>
      e.2 ((readP s c q.toNat).getLsbD lane) ((readP s c r.toNat).getLsbD lane)) := by
  simp only [predLogics, List.mem_cons, List.not_mem_nil, or_false] at he
  rcases he with rfl | rfl | rfl | rfl | rfl
  · exact predLogic_of_issues h p fun lane _ => BitVec.getLsbD_and
  · exact predLogic_of_issues h p fun lane _ => BitVec.getLsbD_or
  · exact predLogic_of_issues h p fun lane _ => BitVec.getLsbD_xor
  · exact predLogic_of_issues h p fun lane hlane => by rw [BitVec.getLsbD_not, decide_eq_true hlane, Bool.true_and]
  · exact predLogic_of_issues h p fun lane _ => rfl

/-- The words of R141: the opcode names the form, and the fields between those of the predicates are reserved. -/
theorem decodeWords_predLogic (w p q r : BitVec 3) (x y z : BitVec 4) :
    let word (op : BitVec 8) : Word := w ++ op ++ x ++ p ++ y ++ q ++ z ++ r
    let named := x = 0 ∧ y = 0 ∧ z = 0
    decodeWords (word 0x11) 0 0 = (if named then .ok (.pand w p q r) else .error .reservedField) ∧
    decodeWords (word 0x12) 0 0 = (if named then .ok (.por w p q r) else .error .reservedField) ∧
    decodeWords (word 0x13) 0 0 = (if named then .ok (.pxor w p q r) else .error .reservedField) ∧
    decodeWords (word 0x14) 0 0 = (if named ∧ r = 0 then .ok (.pnot w p q) else .error .reservedField) ∧
    decodeWords (word 0x15) 0 0 = (if named ∧ r = 0 then .ok (.pmov w p q) else .error .reservedField) := by
  have hfield (v : BitVec 4) : v &&& 15#4 = v := BitVec.and_allOnes
  have hr : r &&& 7#3 = r := BitVec.and_allOnes
  refine ⟨?_, ?_, ?_, ?_, ?_⟩ <;> simp [decodeWords, decodeClass0, hfield, hr, and_assoc]

/-- Settles O4: the model combines whole predicates, which a write takes up in ACTIVE alone. -/
theorem predicateLogicResults : Obligations.PredicateLogicResults := by
  refine ⟨fun e he w p q r s c h => exec_predLogic he h,
    fun s c lanes value => ⟨if_pos rfl, if_pos rfl, fun k hk => ?write⟩, decodeWords_predLogic, by decide⟩
  rw [writePred, if_neg hk.ne]
  exact ⟨rfl, rfl, _, rfl, fun lane _ => getLsbD_masked _ _ _ lane⟩

end Sys2Proof.Claims
end

section
/-! Moves and constants (R142 to R145), and control flow (R125 to R139): where each form completes, waits, slides or
faults. -/

namespace Sys2Proof.Machine

/-! ### Per-thread branches (R129) -/

/-- The fragment of the lanes that branch off from `f`. -/
def Fragment.branched (f : Fragment) (id : Nat) (take : Lanes) (target : BitVec 64) : Fragment :=
  { f with id := id, members := take, exec := take, pc := target, kept := none, slot := {},
           loads := restrictLoads take f.loads }

/-- A wave in which the lanes `take` of fragment `n`, which is `f`, have branched off. -/
def Wave.splitOff (w : Wave) (n : Nat) (f : Fragment) (take : Lanes) (target : BitVec 64) : Wave :=
  { w.modFrag n (·.without take) with
    nextFrag := w.nextFrag + 1
    frags := (w.modFrag n (·.without take)).frags ++ [f.branched w.nextFrag take target] }

/-- The lanes that do not branch go on in the branching fragment. -/
theorem frag?_splitOff {w : Wave} {n : Nat} {f : Fragment} (h : w.frag? n = some f) (take : Lanes) (target : BitVec 64) :
    (w.splitOff n f take target).frag? n = some (f.without take) := by
  have hmod := Wave.frag?_modFrag w n n (fun x => x.without take) fun _ => rfl
  rw [if_pos rfl, h] at hmod
  rw [Wave.frag?] at hmod ⊢
  rw [Wave.splitOff, List.find?_append]
  exact congrArg (Option.or · _) hmod

section
variable {i : Instr} {s : State} {c : Ctx} {take : Lanes} {target : BitVec 64}

theorem branchLanes_of_none : branchLanes c i s 0 target = complete c i s {} := if_pos rfl

theorem branchLanes_of_members (h0 : take ≠ 0) (hall : take = c.frag.members) :
    branchLanes c i s take target = completeAt c i s {} target := by
  rw [branchLanes, if_neg h0, if_pos hall]

/-- The issuing wave after a split: the completed wave, from whose fragment the lanes have branched off. -/
theorem waveOf_branchLanes (hc : ctxOf s = some c) (h0 : take ≠ 0) (hsome : take ≠ c.frag.members) :
    waveOf (branchLanes c i s take target) c.core c.ref.block c.ref.wave =
      some ((c.completedWave i s {} (nextPc c i) c.wave).splitOff c.ref.frag
        (c.completedFragment i s {} (nextPc c i) c.frag) take target) := by
  rw [branchLanes, if_neg h0, if_neg hsome, complete, waveOf_modWave_self (waveOf_completeAt_ctx i {} (nextPc c i) hc) ?idx,
    frag?_completedWave_ctx i {} (nextPc c i) hc]
  case idx =>
    intro x
    dsimp only
    split <;> rfl
  rfl

end

/-! ### Window slides (R26) -/

theorem slide_wb (w : Wave) (lanes : Lanes) (delta : Int) :
    (w.slide lanes delta).wb = cellSetAll 0 ((lanesOf lanes).map fun l => (l, slid (w.wbOf l) delta)) w.wb := by
  rw [cellSetAll, List.foldl_map]
  rfl

theorem wbOf_slide {w : Wave} (hwf : cellsWf 0 w.wb = true) (lanes : Lanes) (delta : Int) (lane : Nat) :
    (w.slide lanes delta).wbOf lane = if lanes.getLsbD lane then slid (w.wbOf lane) delta else w.wbOf lane := by
  rw [Wave.wbOf, slide_wb]
  split
  next hlane =>
    refine cellGet_cellSetAll_of_mem hwf (List.mem_map.mpr ⟨lane, mem_lanesOf.mpr hlane, rfl⟩) fun e he hk => ?_
    obtain ⟨l, -, rfl⟩ := List.mem_map.mp he
    rw [show l = lane from hk]
  next hlane =>
    refine cellGet_cellSetAll_of_notMem hwf fun e he hk => hlane ?_
    obtain ⟨l, hl, rfl⟩ := List.mem_map.mp he
    rw [← show l = lane from hk]
    exact mem_lanesOf.mp hl

/-- What RET compares: whether a lane's window lies lower than it is to slide. -/
theorem any_wbOf_lt_iff {w : Wave} {m : Lanes} {n : Nat} :
    ((lanesOf m).any fun lane => w.wbOf lane < n) = true ↔ ∃ lane, m.getLsbD lane = true ∧ w.wbOf lane < n := by
  simp [mem_lanesOf]

theorem not_any_wbOf_lt {w : Wave} {m : Lanes} {n : Nat} (h : ∀ lane, m.getLsbD lane = true → n ≤ w.wbOf lane) :
    ¬((lanesOf m).any fun lane => w.wbOf lane < n) = true := fun hany => by
  obtain ⟨lane, hlane, hlt⟩ := any_wbOf_lt_iff.mp hany
  exact Nat.not_lt.mpr (h lane hlane) hlt

end Sys2Proof.Machine

namespace Sys2Proof.Claims

open Sys2Proof.Machine

/-! ### Moves and constants -/

theorem moviValue_eq (mode : BitVec 32) (v : Int) : moviValue mode v =
    if isInt (modeType mode) then mod2 (tyBits (modeType mode)) v
    else encodeF (modeType mode) (intToFloat (roundTo mode) v).val := by
  rw [moviValue, wrapInt_eq_mod2]

/-- Settles O8: each form writes what it names; MOVI's integer wraps alike in both. -/
theorem moveAndConstantResults : Obligations.MoveAndConstantResults := by
  intro w d a b v x y s c
  refine ⟨fun h => h.issueForm_eq _, fun h => h.issueForm_eq _, fun h => (h.issueForm_eq _).trans ?movi,
    fun h => h.issueForm_eq _, fun h => h.issueForm_eq _⟩
  exact next_complete_congr fun _ => congrArg (·, _) (moviValue_eq _ _)

/-! ### MODE -/

theorem modeGroup_eq_groupField (g : BitVec 3) : modeGroup g.toNat = groupField g.toNat := by
  revert g
  decide

theorem testBit_mul_two_pow_mask (n lo k : Nat) :
    ((2 ^ n - 1) * 2 ^ lo).testBit k = decide (lo ≤ k ∧ k < lo + n) := by
  rw [Nat.testBit_mul_two_pow, Nat.testBit_two_pow_sub_one, ← Bool.decide_and]
  exact decide_eq_decide.mpr (by omega)

/-- MODE writes its group's bits alone (R125). -/
theorem getLsbD_setModeGroup (m : BitVec 32) (g : BitVec 3) (v : BitVec 14) {k : Nat} (hk : k < 32) :
    (setModeGroup m g.toNat v.toNat).getLsbD k =
      if (groupField g.toNat).1 ≤ k ∧ k < (groupField g.toNat).1 + (groupField g.toNat).2 then
        v.getLsbD (k - (groupField g.toNat).1)
      else m.getLsbD k := by
  rw [setModeGroup, modeGroup_eq_groupField]
  dsimp only
  rw [BitVec.getLsbD_or, BitVec.getLsbD_and, BitVec.getLsbD_not, BitVec.getLsbD_and, BitVec.getLsbD_ofNat,
    BitVec.getLsbD_ofNat, testBit_mul_two_pow_mask, Nat.testBit_mul_two_pow, decide_eq_true hk]
  split
  next hin => simp [hin, BitVec.testBit_toNat]
  next hout => simp [hout]

/-! ### Targets -/

theorem branchTarget_eq (c : Ctx) (off : Int) : branchTarget c off = jumpTarget c off := by
  rw [branchTarget, jumpTarget, BitVec.ofInt_add, ← BitVec.add_assoc]
  rfl

/-- Settles O9: each form's next PC and MODE are the model's under the statement's names. -/
theorem uniformControlAndMode : Obligations.UniformControlAndMode := by
  refine ⟨fun w g v a x o21 o s c => ?forms, fun m g v k hk _ => getLsbD_setModeGroup m g v hk⟩
  refine ⟨fun h => h.issueForm_eq _, fun h => h.issueForm_eq _, fun h hlegal => ?modew, fun h => ?bra, fun h => ?brz,
    fun h => ?bnz, fun h => ?loop, fun h haligned => ?jmpi, fun h => h.issueForm_eq _⟩
  case modew => exact (h.issueForm_eq _).trans (congrArg _ (if_pos hlegal))
  case bra => exact (h.issueForm_eq _).trans (by rw [branchTarget_eq])
  case brz => exact (h.issueForm_eq _).trans (by rw [branchTarget_eq]; rfl)
  case bnz => exact (h.issueForm_eq _).trans (by rw [branchTarget_eq]; rfl)
  case loop =>
    refine (h.issueForm_eq _).trans ?_
    rw [branchTarget_eq]
    exact congrArg (fun pc => Host.Outcome.next (completeAt c _ s _ pc)) (if_congr sub_eq_zero rfl rfl)
  case jmpi => exact (h.issueForm_eq _).trans (congrArg _ (if_neg (not_not.mpr haligned)))

/-! ### Per-thread branches (R129) -/

section
variable {i : Instr} {s : State} {c : Ctx} {take : Lanes} {target : BitVec 64}

theorem Issues.ctxOf_eq (h : Issues i s c) : ctxOf s = some c := by
  obtain ⟨hc, -⟩ := h
  exact hc

/-- R129 for any form of one word that branches as the model's branch does. -/
theorem branches_of_branchLanes (hc : ctxOf s = some c) (hexec : exec i s = .next (branchLanes c i s take target))
    (hbytes : instrBytes i = 4) : Branches c i s take target := by
  have hpc : nextPc c i = c.frag.pc + 4 := by rw [nextPc, hbytes]; rfl
  refine ⟨fun h0 => ?none, fun h0 hall => ?all, fun h0 hsome => ?split⟩
  case none => rw [hexec, h0, branchLanes_of_none, complete, hpc]
  case all => rw [hexec, branchLanes_of_members h0 hall]
  case split =>
    exact ⟨_, _, _, _, hexec, waveOf_branchLanes hc h0 hsome,
      frag?_splitOff (frag?_completedWave_ctx i {} (nextPc c i) hc) take target, List.getLast?_concat,
      by simp [Wave.splitOff, Ctx.completedWave], rfl, rfl, hpc, rfl, rfl, rfl, rfl, rfl, rfl, rfl, rfl, rfl, rfl⟩

end

/-- Settles O10: both forms are the model's branch, of the lanes of ACTIVE and of those below SIGMIN. -/
theorem perThreadBranches : Obligations.PerThreadBranches := by
  refine ⟨fun w o s c h => ?brp, fun w x o s c h => ?sigbr⟩
  case brp =>
    exact branches_of_branchLanes h.ctxOf_eq ((h.issueForm_eq _).trans (by rw [branchTarget_eq])) rfl
  case sigbr =>
    exact branches_of_branchLanes h.ctxOf_eq ((h.issueForm_eq _).trans (by rw [branchTarget_eq]; rfl)) rfl

/-! ### Calls and returns (R136, R137) -/

/-- A slide that moves no granule goes through at once. -/
theorem slideTo_of_stay {c : Ctx} {delta : Int} (h : slideMoves c.blk.hdr c.wave c.frag.members delta = false) (i : Instr)
    (s : State) (x : HistStep) (target : BitVec 64) : slideTo c i s delta x target = slidDone c i s x target delta := by
  rw [slideTo, h, if_neg Bool.false_ne_true, slidDone]
  cases c.frag.moved <;> rfl

/-- Settles O11: past the checks, each form is a slide that goes through, and a slide writes the bases of its lanes. -/
theorem callsAndReturns : Obligations.CallsAndReturns := by
  refine ⟨fun w f o a s c => ⟨fun h hstay => ?call, fun h haligned hstay => ?calli, fun h hbase haligned hstay => ?ret⟩,
    fun w lanes delta hwf => ⟨?wf, wbOf_slide hwf lanes delta⟩⟩
  case call => exact (h.issueForm_eq _).trans (by rw [slideTo_of_stay hstay, branchTarget_eq]; rfl)
  case calli =>
    exact (h.issueForm_eq _).trans (congrArg _ ((if_neg (not_not.mpr haligned)).trans (slideTo_of_stay hstay _ _ _ _)))
  case ret =>
    exact (h.issueForm_eq _).trans (congrArg _ ((if_neg (not_any_wbOf_lt hbase)).trans
      ((if_neg (not_not.mpr haligned)).trans (slideTo_of_stay hstay _ _ _ _))))
  case wf =>
    rw [slide_wb]
    exact cellsWf_cellSetAll hwf

/-! ### Waits, exits and faults -/

/-- Settles O12: each clause is one branch of its form's meaning. -/
theorem waitsExitsAndControlFaults : Obligations.WaitsExitsAndControlFaults := by
  refine ⟨fun w a b s c => ⟨fun h => h.issueForm_eq _, fun h => h.issueForm_eq _, fun h hactive => ?fallThrough,
      fun h hactive => ?wsync⟩,
    fun w f a s c => ⟨fun h hmode => ?modew, fun h hodd => ?jmpi, fun h hodd => ?calli, fun h hbase => ?retBase,
      fun h hbase hodd => ?retOdd⟩⟩
  case fallThrough => exact (h.issueForm_eq _).trans (congrArg _ (if_pos hactive))
  case wsync => exact (h.issueForm_eq _).trans (congrArg _ ((if_neg hactive).trans (by cases b <;> rfl)))
  case modew => exact (h.issueForm_eq _).trans (congrArg _ (if_neg (Bool.not_eq_true _ ▸ hmode)))
  case jmpi => exact (h.issueForm_eq _).trans (congrArg _ (if_pos hodd))
  case calli => exact (h.issueForm_eq _).trans (congrArg _ (if_pos hodd))
  case retBase => exact (h.issueForm_eq _).trans (congrArg _ (if_pos (any_wbOf_lt_iff.mpr hbase)))
  case retOdd =>
    exact (h.issueForm_eq _).trans (congrArg _ ((if_neg (not_any_wbOf_lt hbase)).trans (if_pos hodd)))

end Sys2Proof.Claims
end

section
/-! Releases of waves, blocks and sets, mismatches and deadlocks (R132, R133, R168, R169, R176, R215, R216): what each event is
once its condition holds, and what merges and barriers make of a wave. -/

namespace Sys2Proof.Machine

/-! ### The elder (R262) -/

theorem elderOf_eq_none_iff {l : List Fragment} : elderOf l = none ↔ l = [] := by
  cases l with
  | nil => simp [elderOf]
  | cons f r =>
    rw [elderOf]
    cases elderOf r with
    | none => simp
    | some g => by_cases hlt : lowestLane g.members < lowestLane f.members <;> simp [hlt]

/-- The elder is one of the fragments, and none of them has a lower lane. -/
theorem elderOf_eq_some {l : List Fragment} {e : Fragment} (h : elderOf l = some e) :
    e ∈ l ∧ ∀ f ∈ l, lowestLane e.members ≤ lowestLane f.members := by
  induction l generalizing e with
  | nil => cases h
  | cons f r ih =>
    rw [elderOf] at h
    cases hr : elderOf r with
    | none =>
      obtain rfl := elderOf_eq_none_iff.mp hr
      obtain rfl : f = e := Option.some.inj h
      simp
    | some g =>
      obtain ⟨hmem, hle⟩ := ih hr
      rw [hr] at h
      dsimp only at h
      split at h
      next hlt =>
        obtain rfl := Option.some.inj h
        exact ⟨List.mem_cons_of_mem _ hmem, List.forall_mem_cons.mpr ⟨hlt.le, hle⟩⟩
      next hge =>
        obtain rfl := Option.some.inj h
        exact ⟨List.mem_cons_self, List.forall_mem_cons.mpr ⟨le_rfl, fun x hx => (Nat.not_lt.mp hge).trans (hle x hx)⟩⟩

theorem deadlockInfo_of_elder (s : State) {w : Wave} {f g : Fragment}
    (h : elderOf (w.frags.filter fun x => x.id != f.id) = some g) :
    deadlockInfo s w f = g.pc ∧ g.id ≠ f.id ∧
      ∀ x ∈ w.frags, x.id ≠ f.id → lowestLane g.members ≤ lowestLane x.members := by
  obtain ⟨hg, hle⟩ := elderOf_eq_some h
  have hne : g.id ≠ f.id := by simpa using (List.mem_filter.mp hg).2
  exact ⟨by rw [deadlockInfo, h], hne, fun x hx hxf => hle x (List.mem_filter.mpr ⟨hx, by simpa using hxf⟩)⟩

/-! ### Merging (R133) -/

/-- Taking others in leaves the elder what R133 says is its own. -/
theorem foldl_absorb_own (l : List Fragment) (e : Fragment) :
    (l.foldl Fragment.absorb e).id = e.id ∧ (l.foldl Fragment.absorb e).s = e.s ∧
      (l.foldl Fragment.absorb e).mode = e.mode ∧ (l.foldl Fragment.absorb e).pc = e.pc ∧
      (l.foldl Fragment.absorb e).st = e.st := by
  induction l generalizing e with
  | nil => exact ⟨rfl, rfl, rfl, rfl, rfl⟩
  | cons f r ih => exact ih (e.absorb f)

/-- A set of lanes that joins at each taking in is the union in the end. -/
theorem getLsbD_foldl_absorb {lanes : Fragment → Lanes} (hjoin : ∀ e f : Fragment, lanes (e.absorb f) = lanes e ||| lanes f)
    (l : List Fragment) (e : Fragment) (lane : Nat) :
    (lanes (l.foldl Fragment.absorb e)).getLsbD lane = ((lanes e).getLsbD lane || l.any fun f => (lanes f).getLsbD lane) := by
  induction l generalizing e with
  | nil => simp
  | cons f r ih => rw [List.foldl_cons, ih, hjoin, BitVec.getLsbD_or, List.any_cons, Bool.or_assoc]

/-- The fragment of a merge, before it goes on: the elder `e` with the others that satisfy `p`. -/
def Wave.merged (w : Wave) (p : Fragment → Bool) (e : Fragment) : Fragment :=
  ((w.frags.filter p).filter fun f => f.id != e.id).foldl Fragment.absorb e

theorem merge_of_elder {w : Wave} {p : Fragment → Bool} {e : Fragment} (he : elderOf (w.frags.filter p) = some e)
    (done : Fragment → Fragment) : w.merge p done =
      { w with frags := (w.frags.filter fun f => f.id == e.id || !p f).map fun f =>
          if f.id = e.id then done (w.merged p e) else f } := by
  simp only [Wave.merge, he, Wave.merged]

section
variable {w : Wave} {p : Fragment → Bool} {e : Fragment} (hids : (w.frags.map (·.id)).Nodup) (he : e ∈ w.frags)
  (hp : p e = true)
include hids he

theorem frag_eq_of_id_eq {f : Fragment} (hf : f ∈ w.frags) (hid : f.id = e.id) : f = e :=
  List.inj_on_of_nodup_map hids hf he hid

include hp

/-- A union over the elder and the others is one over all that merge. -/
theorem any_elder_or_others (q : Fragment → Bool) :
    (q e || ((w.frags.filter p).filter fun f => f.id != e.id).any q) = (w.frags.filter p).any q := by
  rw [Bool.eq_iff_iff, Bool.or_eq_true, List.any_eq_true, List.any_eq_true]
  constructor
  · rintro (hq | ⟨f, hf, hq⟩)
    · exact ⟨e, List.mem_filter.mpr ⟨he, hp⟩, hq⟩
    · exact ⟨f, (List.mem_filter.mp hf).1, hq⟩
  · rintro ⟨f, hf, hq⟩
    by_cases hid : f.id = e.id
    · exact .inl (frag_eq_of_id_eq hids he (List.mem_filter.mp hf).1 hid ▸ hq)
    · exact .inr ⟨f, List.mem_filter.mpr ⟨hf, by simpa using hid⟩, hq⟩

/-- Of the fragments that merge one stays. -/
theorem length_filter_elder :
    (w.frags.filter fun f => f.id == e.id || !p f).length = (w.frags.filter fun f => !p f).length + 1 := by
  obtain ⟨l, r, hsplit⟩ := List.append_of_mem he
  rw [hsplit, List.map_append, List.map_cons] at hids
  obtain ⟨-, hr, hlr⟩ := List.nodup_append.mp hids
  have hl : ∀ f ∈ l, (f.id == e.id || !p f) = !p f := fun f hf => by
    simp [hlr _ (List.mem_map_of_mem hf) _ List.mem_cons_self]
  have hr : ∀ f ∈ r, (f.id == e.id || !p f) = !p f := fun f hf => by
    have hne : f.id ≠ e.id := fun h => (List.nodup_cons.mp hr).1 (h ▸ List.mem_map_of_mem hf)
    simp [hne]
  simp [hsplit, List.filter_congr hl, List.filter_congr hr, hp, Nat.add_assoc]

end

/-! ### Barriers (R215, R216) -/

section
variable (b : Block) (num : Nat) {g : SetMember → SetMember} (hg : ∀ m, (g m).num = m.num)
include hg

theorem atSbar_modSet (k : Nat) : (b.modSet num g).atSbar k = b.atSbar k := by
  funext f
  have hnum : ((b.modSet num g).sets[modeSetSlot f.mode]?).map (·.num) = (b.sets[modeSetSlot f.mode]?).map (·.num) := by
    rw [Block.modSet, List.getElem?_map, Option.map_map]
    refine congrArg (Option.map · _) (funext fun m => ?_)
    dsimp only [Function.comp_apply]
    split
    · exact hg m
    · rfl
  rw [Block.atSbar, hnum, Block.atSbar]

theorem any_sets_modSet (hs : ∀ m, (g m).sbars = m.sbars) (n : Nat) :
    ((b.modSet num g).sets.any fun m => m.num == num && m.sbars == n) = b.sets.any fun m => m.num == num && m.sbars == n := by
  rw [Block.modSet, List.any_map]
  refine congrArg (List.any b.sets) (funext fun m => ?_)
  dsimp only [Function.comp_apply]
  split
  · rw [hg, hs]
  · rfl

end

/-- A set's member that awaits the commits of some holders (R430). -/
def SetMember.noteHolders (m : SetMember) (holders : List (Nat × Nat)) : SetMember :=
  { m with commits := (m.commits.filter fun g => !holders.any fun x => x.1 == g.1) ++ holders }

/-- A member block that has noted whose commits come before its accesses behind the set's SBAR (R430). -/
def Block.noteHolders (b : Block) (num : Nat) (holders : List (Nat × Nat)) : Block :=
  ({ b with ckpt := { b.ckpt with due := b.ckpt.due || holders.any fun g => g.1 == b.lin } } : Block).modSet num
    fun m => m.noteHolders holders

section
variable (b : Block) (num n : Nat) (holders : List (Nat × Nat))

theorem atSbar_noteHolders (k : Nat) : (b.noteHolders num holders).atSbar k = b.atSbar k :=
  atSbar_modSet _ num (g := fun m => m.noteHolders holders) (fun _ => rfl) k

theorem any_sets_noteHolders : ((b.noteHolders num holders).sets.any fun m => m.num == num && m.sbars == n) =
    b.sets.any fun m => m.num == num && m.sbars == n :=
  any_sets_modSet _ num (g := fun m => m.noteHolders holders) (fun _ => rfl) (fun _ => rfl) n

/-- Of the waves of a member block, SBAR `n` of the set moves on those that wait at it, once the block has passed n. -/
theorem passSbar_waves (i : Nat) (unperformed : Nat → Bool) : (b.passSbar num n i holders unperformed).waves =
    if b.sets.any (fun m => m.num == num && m.sbars == n) then (b.passBarrier (b.atSbar num)).waves else b.waves := by
  rw [← any_sets_noteHolders b num n holders, ← atSbar_noteHolders b num holders]
  unfold Block.passSbar
  exact (apply_ite Block.waves _ _ _).trans rfl

end

/-! ### The SBAR that releases (R216) -/

/-- The fewest SBARs that one of some members has passed. -/
def leastSbars (l : List (Nat × Bool)) : Option Nat :=
  l.foldl (fun m e => match m with | none => some e.1 | some n => some (min n e.1)) none

theorem leastSbars_replicate (k n : Nat) (x : Bool) : leastSbars (List.replicate (k + 1) (n, x)) = some n := by
  induction k with
  | zero => rfl
  | succ k ih =>
    rw [leastSbars] at ih ⊢
    rw [List.replicate_succ', List.foldl_append, ih]
    exact congrArg some (Nat.min_self n)

section
variable {s : State} {l : Launch} {num n : Nat}

theorem memberSbars_of_sbarReady (h : sbarReady s l num = some n) {lin : Nat} (hlin : lin ∈ setMembers l num)
    (hlive : lin ∉ l.ended) : ∃ k at', memberSbars s l num lin = some (k, at') ∧ (n < k ∨ (k = n ∧ at' = true)) := by
  obtain ⟨k, -, hk⟩ := Option.bind_eq_some_iff.mp h
  split at hk
  case isFalse => cases hk
  case isTrue hall =>
    obtain rfl := Option.some.inj hk
    have hmem : memberSbars s l num lin ∈ ((setMembers l num).filter fun x => !l.ended.contains x).map (memberSbars s l num) :=
      List.mem_map_of_mem (List.mem_filter.mpr ⟨hlin, by simpa using hlive⟩)
    obtain ⟨⟨k, at'⟩, hsome, hcond⟩ := (Option.any_eq_true _ _).mp (List.all_eq_true.mp hall _ hmem)
    exact ⟨k, at', hsome, by simpa using hcond⟩

theorem sbarReady_of_forall (h : ∀ lin ∈ setMembers l num, lin ∉ l.ended → memberSbars s l num lin = some (n, true))
    (hlive : ∃ lin ∈ setMembers l num, lin ∉ l.ended) : sbarReady s l num = some n := by
  obtain ⟨lin, hlin, hnot⟩ := hlive
  have hmem : lin ∈ (setMembers l num).filter fun x => !l.ended.contains x :=
    List.mem_filter.mpr ⟨hlin, by simpa using hnot⟩
  obtain ⟨k, hk⟩ := Nat.exists_eq_succ_of_ne_zero (List.length_pos_of_mem hmem).ne'
  have hall : ((setMembers l num).filter fun x => !l.ended.contains x).map (memberSbars s l num) =
      List.replicate (k + 1) (some (n, true)) := by
    refine List.eq_replicate_iff.mpr ⟨(List.length_map _).trans hk, fun e he => ?_⟩
    obtain ⟨x, hx, rfl⟩ := List.mem_map.mp he
    obtain ⟨hx, hlivex⟩ := List.mem_filter.mp hx
    exact h x hx (by simpa using hlivex)
  have hpresent : (List.replicate (k + 1) (some (n, true))).filterMap id = List.replicate (k + 1) (n, true) :=
    List.filterMap_replicate_of_some rfl
  rw [sbarReady, hall, hpresent]
  change (leastSbars _).bind _ = _
  rw [leastSbars_replicate]
  exact if_pos (List.all_eq_true.mpr fun e he => by rw [List.eq_of_mem_replicate he]; simp)

end

/-! ### The events -/

section
variable {s : State} {w : Wave} (hw : subjectWave s = some w)
include hw

theorem execRcvRelease_of_ready {pc : BitVec 64} (hready : w.rcvReady = true) (hpc : w.lowestRcv = some pc) :
    execRcvRelease s = .next (modSubjectWave s fun w => w.merge (fun f => f.atRcv && f.pc == pc) fun f => passWait f 4) := by
  simp only [execRcvRelease, hw, hpc, hready, if_true]

theorem execCollectiveRelease_of_ready (hready : w.collReady = true) : execCollectiveRelease s =
    .next (modSubjectWave s fun w => w.merge (fun _ => true) fun f => { f with st := .run, released := true }) := by
  simp only [execCollectiveRelease, hw, hready, if_true]

theorem execWsyncMaskMismatch_of_mismatch {f : Fragment} (hf : w.frag? s.subject.frag = some f) (hbad : w.mismatched f ≠ []) :
    execWsyncMaskMismatch s = .next
      (((w.frags.flatMap fun g => (w.mismatched g).map (·.id)).eraseDups).foldl
        (fun t n => mismatchFault t s.subject.core ⟨s.subject.block, s.subject.wave, n⟩) s) := by
  simp [execWsyncMaskMismatch, hw, hf, hbad, subjectFrag]

theorem execCollectiveDeadlock_of_deadlocked (hdead : w.deadlocked = true) : execCollectiveDeadlock s = .next
    ((w.frags.filter fun f => f.atColl || f.syncMask.isSome).foldl (fun t f =>
      match placeCtx t s.subject.core ⟨s.subject.block, s.subject.wave, f.id⟩ with
      | none => t
      | some x => fragmentFault x 0x10 (deadlockInfo s w f) t) s) := by
  simp only [execCollectiveDeadlock, hw]
  exact congrArg Host.Outcome.next (if_pos hdead)

end

/-- A WSYNC's release changes its wave's fragments alone: the holders of the mask go on behind their instruction. -/
theorem execWsyncRelease_of_ready {s : State} {w : Wave} {f : Fragment} {m : Lanes} (hw : subjectWave s = some w)
    (hf : w.frag? s.subject.frag = some f) (hm : f.syncMask = some m) (hready : w.syncReady m = true) :
    ∃ t v, execWsyncRelease s = .next t ∧ waveOf t s.subject.core s.subject.block s.subject.wave = some v ∧
      v.frags = w.frags.map fun g => match g.st with
        | .waitSync k bytes => if k = m ∧ g.members &&& m ≠ 0 then passWait g bytes else g
        | _ => g := by
  have hsubject : ((subjectWave s).bind fun w => (w.frag? s.subject.frag).bind Fragment.syncMask) = some m := by
    simp [hw, hf, hm]
  simp only [execWsyncRelease, hsubject]
  refine ⟨_, _, rfl, waveOf_modWave_self (r := subjectFrag s) hw fun x => ?_, ?_⟩
  · split <;> rfl
  · exact congrArg Wave.frags (if_pos hready)

theorem execBarRelease_of_ready {s : State} {b : Block} (hb : blockOf s s.subject.core s.subject.block = some b)
    (hready : b.barReady = true) :
    execBarRelease s = .next (modBlock s s.subject.core s.subject.block fun b =>
      { b.passBarrier (fun f => f.st == .waitBar) with
        barBounds := (b.barBounds.filter ((coreOf s s.subject.core).storesBelow s.subject.block b)) ++ [s.nextIdent] }) := by
  simp only [execBarRelease, hb, hready, if_true]

theorem execSbarRelease_of_ready {s : State} {l : Launch} {n : Nat} (hl : launchOf s s.subject.ident = some l)
    (hn : sbarReady s l s.subject.slot = some n) :
    execSbarRelease s = .next (((setMembers l s.subject.slot).filterMap fun lin => residentBlock s l.ident lin).foldl
      (fun t e => modBlock t e.1 e.2 fun x => x.passSbar s.subject.slot n s.nextIdent (setHolders s l s.subject.slot)
        (setStoresBelow s x s.subject.slot)) s) := by
  simp only [execSbarRelease, hl, hn]

/-- A fragment in a mismatch takes the fault at its WSYNC; the lanes that do not go on behind it (R176). -/
theorem mismatchFault_of_waitSync {s : State} {core : Nat} {r : FragRef} {x : Ctx} {m : Lanes} {n : Nat}
    (hx : placeCtx s core r = some x) (hst : x.frag.st = .waitSync m n) :
    mismatchFault s core r = takeFault x
      { code := 0x0F, lanes := x.active, info := m.setWidth 64, whole := x.active == x.frag.members } s
      (modFrag s core r fun f => passWait f n) := by
  simp only [mismatchFault, hx, hst]

end Sys2Proof.Machine

namespace Sys2Proof.Claims

open Sys2Proof.Machine

/-- The merged fragment of R133: the elder's own state, and the unions of the members and of EXEC. -/
theorem merge_of_nodup {w : Wave} {p : Fragment → Bool} {e : Fragment} (hids : (w.frags.map (·.id)).Nodup)
    (he : elderOf (w.frags.filter p) = some e) (done : Fragment → Fragment) :
    let t := w.merge p done
    (∀ f ∈ w.frags, p f = false → f ∈ t.frags) ∧
    ∃ m, done m ∈ t.frags ∧ t.frags.length = (w.frags.filter fun f => !p f).length + 1 ∧
      m.id = e.id ∧ m.s = e.s ∧ m.mode = e.mode ∧ m.pc = e.pc ∧ m.st = e.st ∧
      ∀ lane, m.exec.getLsbD lane = ((w.frags.filter p).any fun f => f.exec.getLsbD lane) ∧
        m.members.getLsbD lane = (w.frags.filter p).any fun f => f.members.getLsbD lane := by
  obtain ⟨hmem, -⟩ := elderOf_eq_some he
  obtain ⟨hmem, hp⟩ := List.mem_filter.mp hmem
  obtain ⟨hid, hs, hmode, hpc, hst⟩ := foldl_absorb_own ((w.frags.filter p).filter fun f => f.id != e.id) e
  rw [merge_of_elder he]
  refine ⟨fun f hf hpf => ?outside, w.merged p e, ?stays, ?length, hid, hs, hmode, hpc, hst, fun lane => ⟨?exec, ?members⟩⟩
  case outside =>
    have hne : f.id ≠ e.id := fun h => by
      rw [frag_eq_of_id_eq hids hmem hf h, hp] at hpf
      cases hpf
    exact List.mem_map.mpr ⟨f, List.mem_filter.mpr ⟨hf, by simp [hpf]⟩, if_neg hne⟩
  case stays => exact List.mem_map.mpr ⟨e, List.mem_filter.mpr ⟨hmem, by simp⟩, if_pos rfl⟩
  case length => exact (List.length_map _).trans (length_filter_elder hids hmem hp)
  case exec =>
    exact (getLsbD_foldl_absorb (lanes := Fragment.exec) (fun _ _ => rfl) _ e lane).trans
      (any_elder_or_others hids hmem hp fun f => f.exec.getLsbD lane)
  case members =>
    exact (getLsbD_foldl_absorb (lanes := Fragment.members) (fun _ _ => rfl) _ e lane).trans
      (any_elder_or_others hids hmem hp fun f => f.members.getLsbD lane)

/-- Settles O36: each event is its model's operation once its condition holds; the rest is what the SBAR counts, the barrier's
passing, the merge and the elder make of the wave. -/
theorem releaseEvents : Obligations.ReleaseEvents := by
  refine ⟨fun s w b => ?events, fun s l num n => ⟨fun h lin hlin hlive => memberSbars_of_sbarReady h hlin hlive,
      fun h hlive => sbarReady_of_forall h hlive⟩,
    fun b num n i holders unperformed => ⟨fun hpassed => ?passes, fun hnone => ?stays⟩,
    fun w p done e hids he => ?merge, fun s core r x m n hx hst => mismatchFault_of_waitSync hx hst,
    fun s w f g hg => deadlockInfo_of_elder s hg⟩
  case events =>
    intro c h hw hb
    refine ⟨fun pc hready hpc => execRcvRelease_of_ready hw hready hpc, fun hready => execCollectiveRelease_of_ready hw hready,
      fun f m n hf hst hready => ?wsync, fun f hf hbad => execWsyncMaskMismatch_of_mismatch hw hf hbad,
      fun hdead => execCollectiveDeadlock_of_deadlocked hw hdead, fun hready => execBarRelease_of_ready hb hready,
      fun l n hl hn => execSbarRelease_of_ready hl hn⟩
    exact execWsyncRelease_of_ready hw hf (by rw [Fragment.syncMask, hst]) hready
  case passes =>
    rw [passSbar_waves, if_pos]
    simpa using hpassed
  case stays =>
    rw [passSbar_waves, if_neg]
    simpa using hnone
  case merge =>
    obtain ⟨hmem, hle⟩ := elderOf_eq_some he
    obtain ⟨hmem, hp⟩ := List.mem_filter.mp hmem
    exact ⟨hmem, hp, fun f hf hpf => hle f (List.mem_filter.mpr ⟨hf, hpf⟩), by rw [merge_of_elder he], by rw [merge_of_elder he],
      merge_of_nodup hids he done⟩

end Sys2Proof.Claims
end

section
/-! Floating-point forms without an enabled exception (R54, R155 to R166): their results and tags, and the tests. -/

namespace Sys2Proof.Machine

/-- What a set of lanes writes depends on those lanes alone. -/
theorem laneWrites_congr {m : Lanes} {f g : Nat → HistStep} (h : ∀ lane, m.getLsbD lane = true → f lane = g lane) :
    laneWrites m f = laneWrites m g :=
  List.foldl_ext _ _ _ fun _ _ hlane => by rw [h _ (mem_lanesOf.mp hlane)]

theorem lowestLane_mem {m : Lanes} (h : m ≠ 0) : m.getLsbD (lowestLane m) = true := by
  unfold lowestLane
  cases hl : lanesOf m with
  | nil =>
    refine absurd (BitVec.eq_of_getLsbD_eq fun lane _ => ?_) h
    have hnot : lane ∉ lanesOf m := hl ▸ List.not_mem_nil
    rw [mem_lanesOf, Bool.not_eq_true] at hnot
    rw [hnot, BitVec.ofNat_eq_ofNat, BitVec.getLsbD_zero]
  | cons lane r =>
    have hmem : lane ∈ lanesOf m := hl ▸ List.mem_cons_self
    exact mem_lanesOf.mp hmem

/-- With no lane at fault, every lane of ACTIVE is written. -/
theorem trapLanes_of_eq_zero {s : State} {c : Ctx} {i : Instr} {bad : Lanes} (h : bad = 0) (exc : Nat → Exc)
    (writes : Lanes → HistStep) : trapLanes s c i bad exc writes = complete c i s (writes (issueActive s c)) := by
  rw [trapLanes, if_pos h, h, show ~~~ (0 : Lanes) = BitVec.allOnes 32 from rfl, BitVec.and_allOnes]

end Sys2Proof.Machine

namespace Sys2Proof.Claims

open Sys2Proof.Machine

theorem lanesWhere_congr {m : Lanes} {f g : Nat → Bool} (h : ∀ lane, m.getLsbD lane = true → f lane = g lane) :
    lanesWhere m f = lanesWhere m g := by
  refine BitVec.eq_of_getLsbD_eq fun lane _ => ?_
  rw [getLsbD_lanesWhere, getLsbD_lanesWhere]
  cases hlane : m.getLsbD lane with
  | false => rfl
  | true => rw [h lane hlane]

/-- A lane at fault is one of the lanes asked, and the lowest one meets the condition. -/
theorem lowestLane_lanesWhere {m : Lanes} {f : Nat → Bool} (h : lanesWhere m f ≠ 0) :
    m.getLsbD (lowestLane (lanesWhere m f)) = true ∧ f (lowestLane (lanesWhere m f)) = true := by
  simpa [getLsbD_lanesWhere] using lowestLane_mem h

/-! ### Results (R155 to R165) -/

/-- A uniform form whose one result is quiet, or that has no lane, writes it once, and a per-thread form writes each lane. -/
theorem typedForm_of_not_trapped {i : Instr} {s : State} {c : Ctx} (h : Issues i s c) {d : Code} {g : Ctx → Nat → LaneRes}
    (ht : trapped s c i (g c) = 0) :
    typedForm i d s g = .next (complete c i s (floatWrites c i d (issueActive s c) (g c))) := by
  unfold typedForm floatForm
  rw [h.issueForm_eq]
  by_cases hu : uniformIssue i = true
  case pos =>
    rw [trapped_of_uniform hu, ite_eq_left_iff] at ht
    simp only [if_pos hu, if_neg (not_and_not_right.mpr ht), floatWrites]
  case neg =>
    rw [trapped_of_perLane hu] at ht
    simp only [if_neg hu, trapLanes_of_eq_zero ht, floatWrites]

/-- Settles O5: the form is one result of TYPE per lane, and no lane traps. -/
theorem floatResults : Obligations.FloatResults := by
  unfold Obligations.FloatResults
  intro i s c d f h hf ht
  obtain ⟨g, hexec, rfl⟩ := exec_eq_typedForm hf
  exact hexec.trans (typedForm_of_not_trapped h ht)

/-! ### Tests (R160, R161, R166) -/

/-- The exception of a comparison is invalid or none (R160), so that its lanes fault with one code. -/
theorem enabledExc_nanExc_pair (c : Ctx) (x y : FVal) :
    (enabledExc c (nanExc [x, y]) != 0) =
      ((x.isSignalling || y.isSignalling) && (excInvalid &&& modeTrapEn c.frag.mode) != 0) := by
  simp only [enabledExc, nanExc, List.any_cons, List.any_nil, Bool.or_false]
  cases x.isSignalling || y.isSignalling <;> simp [excNone]

theorem excCode_nanExc_pair {c : Ctx} {x y : FVal} (h : (enabledExc c (nanExc [x, y]) != 0) = true) :
    excCode (enabledExc c (nanExc [x, y])) = 0x0A := by
  rw [enabledExc_nanExc_pair, Bool.and_eq_true] at h
  obtain ⟨hsig, hen⟩ := h
  have hinvalid : nanExc [x, y] = excInvalid := by simp [nanExc, hsig]
  rw [enabledExc, hinvalid]
  generalize modeTrapEn c.frag.mode = m at hen ⊢
  revert m
  decide

theorem classBit_eq_classOf (t : Nat) (v : FVal) : classBit t v = classOf t v := by
  cases v with
  | inf neg | nan sig => cases ‹Bool› <;> rfl
  | fin neg m e => cases neg <;> rfl

theorem readLow_eq_low32 (s : State) (c : Ctx) (b : Src) (lane : Nat) : readLow s c b lane = low32 s c b lane := by
  cases b <;> rfl

/-- Settles O7: FCMP traps in the lanes of a signalling NaN while invalid is enabled; the other forms complete. -/
theorem floatTestResults : Obligations.FloatTestResults := by
  intro w p k d a b s c
  dsimp only
  refine ⟨fun h => ?fcmp, fun h => (h.issueForm_eq _).trans ?fclass, fun h => h.issueForm_eq _,
    fun h => (h.issueForm_eq _).trans ?ftagw⟩
  case fcmp =>
    have hraises := funext fun lane => enabledExc_nanExc_pair c (arg s c a lane).v (argB s c b lane).v
    rw [← hraises]
    refine ⟨fun hnone => (h.issueForm_eq _).trans (congrArg Host.Outcome.next (trapLanes_of_eq_zero hnone _ _)),
      fun hsome => (h.issueForm_eq _).trans (congrArg Host.Outcome.next ((trapLanes_of_ne_zero hsome _ _).trans ?_))⟩
    obtain ⟨-, hlow⟩ := lowestLane_lanesWhere hsome
    rw [← excCode_nanExc_pair hlow]
    rfl
  case fclass => exact next_complete_congr fun lane => by rw [classBit_eq_classOf]; rfl
  case ftagw => simp only [readLow_eq_low32]

end Sys2Proof.Claims
end

section
/-! Lane operations (R171 to R177): the moves, the votes, and the fixed tree of R65 with its prefixes. -/

namespace Sys2Proof.Claims

open Sys2Proof.Machine

/-! ### The fixed tree (R65) -/

section
variable (f : RedNode → RedNode → RedNode)

/-- One level of pairs halves a level of the tree. -/
theorem redPairs_map_range (g : Nat → RedNode) (n : Nat) :
    redPairs f ((List.range (2 * n)).map g) = (List.range n).map fun k => f (g (2 * k)) (g (2 * k + 1)) := by
  induction n generalizing g with
  | zero => rfl
  | succ n ih =>
    rw [Nat.mul_succ, List.range_succ_eq_map, List.range_succ_eq_map, List.range_succ_eq_map]
    simpa [redPairs, Function.comp_def, Nat.mul_succ] using ih fun k => g (k + 2)

variable (leaf : Nat → RedNode)

/-- A level of R65's tree over 2^5 lanes. -/
def treeLevel (level : Nat) : List RedNode :=
  (List.range (2 ^ (5 - level))).map fun k => treeNode f leaf level (k * 2 ^ level)

theorem redPairs_treeLevel {level : Nat} (h : level < 5) :
    redPairs f (treeLevel f leaf level) = treeLevel f leaf (level + 1) := by
  have hsize : 2 ^ (5 - level) = 2 * 2 ^ (5 - (level + 1)) := by
    rw [← Nat.pow_succ', ← Nat.sub_sub, Nat.succ_eq_add_one, Nat.sub_add_cancel (Nat.sub_pos_of_lt h)]
  rw [treeLevel, hsize, redPairs_map_range]
  refine List.map_congr_left fun k _ => ?_
  have hleft : 2 * k * 2 ^ level = k * 2 ^ (level + 1) := by rw [Nat.pow_succ']; ring
  rw [treeNode, Nat.add_mul (2 * k), Nat.one_mul, hleft]

theorem redLevels_eq : redLevels f (laneList.map leaf) = (List.range 6).map (treeLevel f leaf) := by
  have hfoot : laneList.map leaf = treeLevel f leaf 0 := by simp [treeLevel, laneList, treeNode]
  simp only [redLevels, hfoot, redPairs_treeLevel, Nat.reduceLT, Nat.reduceAdd]
  rfl

/-- A node of the model's tree. -/
theorem getElem?_redLevels {level k : Nat} (hlevel : level ≤ 5) (hk : k < 2 ^ (5 - level)) :
    ((redLevels f (laneList.map leaf))[level]?.getD [])[k]? = some (treeNode f leaf level (k * 2 ^ level)) := by
  have hlt : level < 6 := Nat.lt_succ_of_le hlevel
  simp [redLevels_eq, hlt, treeLevel, hk]

/-! ### Prefixes (R65) -/

/-- The model's step along the binary digits of i + 1: at digit `b`, the next block of 2^b lanes, if it is one. -/
def prefixStep (levels : List (List RedNode)) (i : Nat) (st : Nat × Option RedNode) (b : Nat) : Nat × Option RedNode :=
  if (i + 1) / 2 ^ b % 2 = 1 then
    (st.1 + 2 ^ b, Option.merge f st.2 (levels[b]?.getD [])[st.1 / 2 ^ b]?)
  else st

theorem redPrefix_eq (levels : List (List RedNode)) (i : Nat) :
    redPrefix f levels i = ((List.range 6).reverse.foldl (prefixStep f levels i) (0, none)).2 := by
  unfold redPrefix
  congr 2
  funext st b
  unfold prefixStep
  split
  · rcases st.2 with _ | x <;> rcases (levels[b]?.getD [])[st.1 / 2 ^ b]? with _ | y <;> rfl
  · rfl

/-- Below digit `n`, with the lanes of the digits above covered, both go on alike. -/
theorem foldl_prefixStep {i : Nat} (hi : i < 32) {n : Nat} (hn : n ≤ 6) (acc : Option RedNode) :
    ((List.range n).reverse.foldl (prefixStep f (redLevels f (laneList.map leaf)) i) ((i + 1) / 2 ^ n * 2 ^ n, acc)).2 =
      prefixNode f leaf i n ((i + 1) / 2 ^ n * 2 ^ n) acc := by
  induction n generalizing acc with
  | zero => rfl
  | succ n ih =>
    have hn5 : n ≤ 5 := Nat.le_of_succ_le_succ hn
    have hstart : (i + 1) / 2 ^ (n + 1) * 2 ^ (n + 1) = 2 * ((i + 1) / 2 ^ n / 2) * 2 ^ n := by
      rw [Nat.pow_succ, ← Nat.div_div_eq_div_mul]; ring
    rw [List.range_succ, List.reverse_append, List.reverse_singleton, List.singleton_append, List.foldl_cons, prefixNode,
      prefixStep, Nat.testBit_eq_decide_div_mod_eq, hstart]
    simp only [decide_eq_true_eq]
    split
    next hbit =>
      have hq : (i + 1) / 2 ^ n = 2 * ((i + 1) / 2 ^ n / 2) + 1 := by omega
      have hnext : 2 * ((i + 1) / 2 ^ n / 2) * 2 ^ n + 2 ^ n = (i + 1) / 2 ^ n * 2 ^ n := by
        rw [← Nat.succ_mul, Nat.succ_eq_add_one, ← hq]
      have hblock : 2 * ((i + 1) / 2 ^ n / 2) < 2 ^ (5 - n) := by
        have hle : (i + 1) / 2 ^ n ≤ 2 ^ (5 - n) :=
          (Nat.div_le_div_right (c := 2 ^ n) (Nat.succ_le_of_lt hi)).trans_eq (Nat.pow_div hn5 Nat.two_pos)
        omega
      rw [Nat.mul_div_cancel _ (Nat.two_pow_pos n), getElem?_redLevels f leaf hn5 hblock, hnext, ih (by omega)]
      cases acc <;> rfl
    next hbit =>
      have hq : (i + 1) / 2 ^ n = 2 * ((i + 1) / 2 ^ n / 2) := by omega
      rw [← hq]
      exact ih (by omega) acc

theorem redPrefix_redLevels {i : Nat} (hi : i < 32) :
    redPrefix f (redLevels f (laneList.map leaf)) i = prefixNode f leaf i 6 0 none := by
  have hzero : (i + 1) / 2 ^ 6 * 2 ^ 6 = 0 := by omega
  have h := foldl_prefixStep f leaf hi (n := 6) le_rfl none
  rwa [hzero, ← redPrefix_eq] at h

end

/-! ### SHFL (R171) -/

/-- The model's source of a SHFL mode. -/
def ShuffleMode.source : ShuffleMode → Nat → Nat → Option Nat
  | .idx => srcIdx | .up => srcUp | .down => srcDown | .xor => srcXor

/-- The model's source is R171's lane, unless that lies below lane 0. -/
theorem ShuffleMode.source_eq (o : ShuffleMode) (lane k : Nat) :
    o.source lane k = if 0 ≤ o.lane lane k then some (o.lane lane k).toNat else none := by
  cases o with
  | idx => exact (if_pos (Int.natCast_nonneg _)).symm
  | up => simp only [source, srcUp, ShuffleMode.lane, Int.sub_nonneg, Int.ofNat_le, Int.toNat_sub]
  | down => exact (if_pos (Int.natCast_nonneg (lane + k))).symm
  | xor => exact (if_pos (Int.natCast_nonneg _)).symm

section
variable {i : Instr} {s : State} {c : Ctx}

/-- A form whose destination must be a window register runs lane by lane (R23). -/
theorem Issues.not_uniform (h : Issues i s c) {d : Code} {w : WidthSpec}
    (hd : (operandsOf i).find? (·.writes) = some (dV d w)) : uniformIssue i = false := by
  have hok := h.operandOk (List.mem_of_find?_eq_some hd)
  have hlt : d.toNat < 64 := by
    by_contra hge
    simp [Machine.operandOk, dV, hge] at hok
  simp [uniformIssue, hd, dV, hlt]

/-- The writes of a lane move that runs lane by lane. -/
theorem laneMoves_of_not_uniform (hu : uniformIssue i = false) (d : Code) (v : Nat → BitVec 64 × Tag) :
    laneMoves s c i d v = laneWrites (issueActive s c) fun lane => putMoved c d lane (v lane) :=
  if_neg (by simp [hu])

/-- The lane's own value stands in for one that is not in ACTIVE, or is no lane. -/
theorem shuffle_of_issues (h : Issues i s c) {d : Code} (hd : (operandsOf i).find? (·.writes) = some (dV d .move))
    (a : Code) (o : ShuffleMode) {index : Ctx → Nat → Nat} {k : Nat → Nat} (hk : ∀ lane, index c lane = k lane) :
    shuffle i d a s index o.source = .next (shuffled c i s d a o k) := by
  refine (h.issueForm_eq _).trans (congrArg (fun x => Host.Outcome.next (complete c i s x))
    ((laneMoves_of_not_uniform (h.not_uniform hd) d _).trans (laneWrites_congr fun lane _ => congrArg _ ?_)))
  rw [hk, o.source_eq]
  by_cases hneg : 0 ≤ o.lane lane (k lane)
  · have hle : (o.lane lane (k lane)).toNat ≤ 31 ↔ o.lane lane (k lane) ≤ 31 := Int.toNat_le
    simp only [hneg, if_true, true_and, hle]
    rfl
  · simp only [hneg, if_false, false_and]
    rfl

end

section
variable {w : BitVec 3} {d a : Code} {s : State} {c : Ctx}

theorem exec_shuffleA {e : (BitVec 3 → Code → Code → Src → Instr) × ShuffleMode} (he : e ∈ shufflesA) (b : Src) :
    exec (e.1 w d a b) s = shuffle (e.1 w d a b) d a s (shuffleIndex s b) (ShuffleMode.source e.2) ∧
      (operandsOf (e.1 w d a b)).find? (·.writes) = some (dV d .move) := by
  simp only [shufflesA, List.mem_cons, List.not_mem_nil, or_false] at he
  rcases he with rfl | rfl | rfl | rfl <;> exact ⟨rfl, rfl⟩

theorem exec_shuffleB {e : (BitVec 3 → Code → Code → BitVec 5 → Instr) × ShuffleMode} (he : e ∈ shufflesB)
    (m : BitVec 5) :
    exec (e.1 w d a m) s = shuffle (e.1 w d a m) d a s (fun _ _ => m.toNat) (ShuffleMode.source e.2) ∧
      (operandsOf (e.1 w d a m)).find? (·.writes) = some (dV d .move) := by
  simp only [shufflesB, List.mem_cons, List.not_mem_nil, or_false] at he
  rcases he with rfl | rfl | rfl | rfl <;> exact ⟨rfl, rfl⟩

theorem shuffleIndex_eq (s : State) (b : Src) (c : Ctx) (lane : Nat) :
    shuffleIndex s b c lane = (index32 s c b lane).toNat % 2 ^ 32 := by
  rw [shuffleIndex, readWhole32_eq_index32]

end

/-! ### VOTE (R172) -/

theorem and_eq_zero_iff_forall_lane {x m : Lanes} : x &&& m = 0#32 ↔ ∀ lane ∈ lanesOf m, x.getLsbD lane = false := by
  rw [BitVec.and_comm]
  simp only [mem_lanesOf, BitVec.eq_of_getLsbD_eq_iff, BitVec.getLsbD_and, BitVec.getLsbD_zero, Bool.and_eq_false_imp]
  exact ⟨fun h lane hlane => h lane (BitVec.lt_of_getLsbD hlane) hlane, fun h lane _ => h lane⟩

theorem and_eq_self_iff_forall_lane {x m : Lanes} : x &&& m = m ↔ ∀ lane ∈ lanesOf m, x.getLsbD lane = true := by
  simp only [mem_lanesOf, BitVec.eq_of_getLsbD_eq_iff, BitVec.getLsbD_and, Bool.and_eq_right_iff_imp]
  exact ⟨fun h lane hlane => h lane (BitVec.lt_of_getLsbD hlane) hlane, fun h lane _ => h lane⟩

/-- Each VOTE is a form of the model, whose function of whole lane sets is the one named. -/
theorem exec_vote {e : (BitVec 3 → BitVec 3 → BitVec 3 → Instr) × (List Bool → Bool)} (he : e ∈ votes) (w p q : BitVec 3)
    (s : State) : ∃ f, exec (e.1 w p q) s = voteForm (e.1 w p q) p q s f ∧
      ∀ x m : Lanes, f m (x &&& m) = e.2 ((lanesOf m).map x.getLsbD) := by
  simp only [votes, List.mem_cons, List.not_mem_nil, or_false] at he
  rcases he with rfl | rfl | rfl
  · refine ⟨fun _ held => held != 0, rfl, fun x m => Bool.eq_iff_iff.mpr ?_⟩
    simp [and_eq_zero_iff_forall_lane]
  · refine ⟨fun act held => held == act, rfl, fun x m => Bool.eq_iff_iff.mpr ?_⟩
    simp [and_eq_self_iff_forall_lane]
  · refine ⟨fun act held => held == 0 || held == act, rfl, fun x m => Bool.eq_iff_iff.mpr ?_⟩
    simp [and_eq_self_iff_forall_lane, and_eq_zero_iff_forall_lane, or_comm]

theorem vote_of_issues {e : (BitVec 3 → BitVec 3 → BitVec 3 → Instr) × (List Bool → Bool)} (he : e ∈ votes)
    {w p q : BitVec 3} {s : State} {c : Ctx} (h : Issues (e.1 w p q) s c) :
    exec (e.1 w p q) s = .next (predDone c (e.1 w p q) s p fun _ => voted s c q e.2) := by
  obtain ⟨f, hexec, hf⟩ := exec_vote he w p q s
  rw [hexec, voteForm, h.issueForm_eq, predDone]
  refine congrArg (fun x => Host.Outcome.next (complete c (e.1 w p q) s x)) (writePred_congr fun lane hlane => ?_)
  rw [getLsbD_lanesWhere, hlane, Bool.true_and, voted, ← hf]
  split
  next hv => rw [hv, BitVec.getLsbD_allOnes, decide_eq_true (BitVec.lt_of_getLsbD hlane)]
  next hv => rw [Bool.eq_false_of_not_eq_true hv]; exact BitVec.getLsbD_zero

/-! ### EXECQ (R177) -/

theorem append_eq_ofNat (x y : BitVec 32) : x ++ y = BitVec.ofNat 64 (x.toNat * 2 ^ 32 + y.toNat) := by
  refine BitVec.eq_of_toNat_eq ?_
  rw [BitVec.toNat_append, BitVec.toNat_ofNat, ← Nat.shiftLeft_add_eq_or_of_lt y.isLt, Nat.shiftLeft_eq]
  omega

/-! ### Traps of lanes (R54) -/

/-- A trap depends on its exceptions in ACTIVE, of which the lowest lane at fault is one, and on what the others write. -/
theorem trapLanes_congr {s : State} {c : Ctx} {i : Instr} {exc exc' : Nat → Exc} {writes writes' : Lanes → HistStep}
    (hexc : ∀ lane, (issueActive s c).getLsbD lane = true → exc lane = exc' lane)
    (hwrites : ∀ good, writes good = writes' good) :
    trapLanes s c i (lanesWhere (issueActive s c) fun lane => enabledExc c (exc lane) != 0) exc writes =
      trapLanes s c i (lanesWhere (issueActive s c) fun lane => enabledExc c (exc' lane) != 0) exc' writes' := by
  have hbad := lanesWhere_congr (f := fun lane => enabledExc c (exc lane) != 0)
    (g := fun lane => enabledExc c (exc' lane) != 0) fun lane hlane => by rw [hexc lane hlane]
  rw [hbad, funext hwrites]
  by_cases hnone : lanesWhere (issueActive s c) (fun lane => enabledExc c (exc' lane) != 0) = 0
  · rw [trapLanes_of_eq_zero hnone, trapLanes_of_eq_zero hnone]
  · obtain ⟨hlow, -⟩ := lowestLane_lanesWhere hnone
    rw [trapLanes_of_ne_zero hnone, trapLanes_of_ne_zero hnone, hexc _ hlow]

/-! ### WRED and WSCAN (R173, R174) -/

theorem redLeaves_eq (s : State) (c : Ctx) (a : Code) (o : RedOp) : redLeaves s c a o = laneList.map (leafOf s c a o) := rfl

/-- The root of the model's tree. -/
theorem headD_redLevels (f : RedNode → RedNode → RedNode) (leaf : Nat → RedNode) (x : RedNode) :
    ((redLevels f (laneList.map leaf))[5]?.getD []).headD x = treeNode f leaf 5 0 := by
  have hroot := getElem?_redLevels f leaf (k := 0) le_rfl (Nat.two_pow_pos _)
  rw [List.headD_eq_head?_getD, List.head?_eq_getElem?, hroot]
  rfl

section
variable {w : BitVec 3} {d a : Code} {o : RedOp} {s : State} {c : Ctx}

/-- WRED once it issues: a trap of all of ACTIVE, or its one result. -/
theorem exec_wred (h : Issues (.wred w d a o) s c) :
    let exc := (reduced s c a o).exc ||| (reduced s c a o).sig
    exec (.wred w d a o) s = .next
      (if issueActive s c ≠ 0 ∧ enabledExc c exc ≠ 0 then
        trapLanes s c (.wred w d a o) (issueActive s c) (fun _ => exc) fun _ => {}
      else complete c (.wred w d a o) s (resultWrites s c (.wred w d a o) d (is64 (modeType c.frag.mode)) (modeType c.frag.mode)
        fun _ => ((reduced s c a o).bits, (reduced s c a o).tag))) := by
  dsimp only
  rw [reduced, ← headD_redLevels _ _ (redIdentity (modeType c.frag.mode) o)]
  exact h.issueForm_eq _

theorem redPrefix_redLeaves (s : State) (c : Ctx) (a : Code) (o : RedOp) {lane : Nat} (hlane : lane < 32) :
    (redPrefix (redStep c.frag.mode o) (redLevels (redStep c.frag.mode o) (redLeaves s c a o)) lane).getD
      (redIdentity (modeType c.frag.mode) o) = scanned s c a o lane := by
  rw [redLeaves_eq, redPrefix_redLevels _ _ hlane, scanned]

/-- WSCAN once it issues: the prefixes whose exceptions are enabled trap, the others are written. -/
theorem exec_wscan (h : Issues (.wscan w d a o) s c) :
    let exc (lane : Nat) := (scanned s c a o lane).exc ||| (scanned s c a o lane).sig
    exec (.wscan w d a o) s = .next (trapLanes s c (.wscan w d a o)
      (lanesWhere (issueActive s c) fun lane => enabledExc c (exc lane) != 0) exc fun good => laneWrites good fun lane =>
        writeCode c lane d (is64 (modeType c.frag.mode)) (modeType c.frag.mode) (scanned s c a o lane).bits
          (scanned s c a o lane).tag) := by
  refine (h.issueForm_eq _).trans (congrArg Host.Outcome.next ?_)
  dsimp only
  have hres {m : Lanes} {lane : Nat} (hlane : m.getLsbD lane = true) :=
    redPrefix_redLeaves s c a o (BitVec.lt_of_getLsbD hlane)
  exact trapLanes_congr (fun lane hlane => by rw [hres hlane]) fun good => laneWrites_congr fun lane hlane => by rw [hres hlane]

end

/-- Settles O13: the moves and the votes are the model's lane by lane; WRED is the root of the model's tree and WSCAN its
prefixes. -/
theorem laneResults : Obligations.LaneResults := by
  refine ⟨fun w d a b m s c => ?moves, fun w p q d a o s c => ?combined⟩
  case moves =>
    refine ⟨fun e he h => ?shuffleA, fun e he h => ?shuffleB, fun h => (h.issueForm_eq _).trans ?rdlaneA,
      fun h => (h.issueForm_eq _).trans ?rdlaneB, fun h => (h.issueForm_eq _).trans ?wrlaneA,
      fun h => (h.issueForm_eq _).trans ?wrlaneB, fun h => (h.issueForm_eq _).trans ?wperm, fun h => h.issueForm_eq _,
      fun h => (h.issueForm_eq _).trans ?execq⟩
    case shuffleA =>
      obtain ⟨hexec, hd⟩ := exec_shuffleA he b
      exact hexec.trans (shuffle_of_issues h hd a e.2 (shuffleIndex_eq s b c))
    case shuffleB =>
      obtain ⟨hexec, hd⟩ := exec_shuffleB he m
      exact hexec.trans (shuffle_of_issues h hd a e.2 fun _ => rfl)
    case rdlaneA => simp only [readLow_eq_low32]; rfl
    case rdlaneB => rw [Nat.mod_eq_of_lt m.isLt]; rfl
    case wrlaneA => simp only [readLow_eq_low32]; rfl
    case wrlaneB => rw [Nat.mod_eq_of_lt m.isLt]; rfl
    case wperm => simp only [readLow_eq_low32]; rfl
    case execq => rw [← append_eq_ofNat]; rfl
  case combined =>
    refine ⟨fun e he h => vote_of_issues he h, fun h => h.issueForm_eq _, fun h hquiet => (exec_wred h).trans ?wred,
      fun h hact hraised => (exec_wred h).trans ?wredTrap, fun h hnone => (exec_wscan h).trans ?wscan,
      fun h hsome => (exec_wscan h).trans ?wscanTrap⟩
    case wred => exact congrArg _ (if_neg (not_and_not_right.mpr hquiet))
    case wredTrap => exact congrArg _ ((if_pos ⟨hact, hraised⟩).trans (trapLanes_of_ne_zero hact _ _))
    case wscan => exact congrArg _ (trapLanes_of_eq_zero hnone _ _)
    case wscanTrap => exact congrArg _ (trapLanes_of_ne_zero hsome _ _)

end Sys2Proof.Claims
end

section
/-! Memory forms once they issue (R180 to R201): the shared course of an access that goes through, and each form as that
course. -/

namespace Sys2Proof.Claims

open Sys2Proof.Machine

/-! ### The shared course -/

section
variable {i : Instr} {s : State} {c : Ctx} {f : AccessForm} {r : Rec} {d : Code} {q : Ord} {u : Bool} {ix : Nat → Nat}

/-- An access without a faulting lane ends in what its lanes have done. -/
theorem finishAccess_nil (act : Lanes) (before after : State) : finishAccess c act u [] before after = after := rfl

/-- R184: an access is made for the lanes of ACTIVE alone. -/
theorem performAccess_of_empty (h : issueActive s c = 0) (body : State → List (Nat × Piece) → List Nat → State) :
    performAccess i s c f r d q u ix body = complete c i s {} :=
  if_pos h

/-- An access whose lanes all go through is its body on the bytes that its translations find. -/
theorem performAccess_of_goesThrough (h : GoesThrough s c f r d q u ix)
    (body : State → List (Nat × Piece) → List Nat → State) :
    performAccess i s c f r d q u ix body =
      forced c f r q (afterLocate s c f r d u ix)
        (body (afterLocate s c f r d u ix).state (afterLocate s c f r d u ix).pieces (outsideLanes s c f r d u ix)) := by
  obtain ⟨hactive, hwait, hbad, hbytes⟩ := h
  simp only [performAccess, if_neg hactive, hwait, hbytes, hbad, finishAccess_nil]
  rfl

end

/-! ### Loads -/

section
variable {i : Instr} {s : State} {c : Ctx} {f : AccessForm} {d : Code} {r : BitVec 5} {q : Ord} {u : Bool} {ix : Nat → Nat}

/-- Each load is the model's load of its fields. -/
theorem exec_load (hc : ctxOf s = some c) (hl : loadOf s c i = some (f, d, r, q, u, ix)) :
    ∃ index, exec i s = loadForm i f d r q u s index ∧ index s c = ix := by
  cases i <;> simp only [loadOf, Option.some.injEq, Prod.mk.injEq, reduceCtorEq] at hl
  case ldM | ldsM | ldx =>
    obtain ⟨rfl, rfl, rfl, rfl, rfl, rfl⟩ := hl
    exact ⟨fun s c => recIndex s c _, rfl, rfl⟩
  case ldMi | ldsMi =>
    obtain ⟨rfl, rfl, rfl, rfl, rfl, rfl⟩ := hl
    exact ⟨fun _ _ _ => BitVec.toNat _, rfl, rfl⟩
  case ldu =>
    obtain ⟨rfl, rfl, rfl, rfl, rfl, rfl⟩ := hl
    refine ⟨fun s c => recIndex s c _, ?_, rfl⟩
    simp only [exec, execLdu, hc]

/-- Each store is the model's store of its fields. -/
theorem exec_store {k : Nat} (hc : ctxOf s = some c) (hl : storeOf s c i = some (f, d, r, q, u, ix, k)) :
    ∃ index, exec i s = storeForm i f d r q u k s index ∧ index s c = ix := by
  cases i <;> simp only [storeOf, Option.some.injEq, Prod.mk.injEq, reduceCtorEq] at hl
  case stM | stsM | stx =>
    obtain ⟨rfl, rfl, rfl, rfl, rfl, rfl, rfl⟩ := hl
    exact ⟨fun s c => recIndex s c _, rfl, rfl⟩
  case stMi | stsMi =>
    obtain ⟨rfl, rfl, rfl, rfl, rfl, rfl, rfl⟩ := hl
    exact ⟨fun _ _ _ => BitVec.toNat _, rfl, rfl⟩
  case stu =>
    obtain ⟨rfl, rfl, rfl, rfl, rfl, rfl, rfl⟩ := hl
    refine ⟨fun s c => recIndex s c _, ?_, rfl⟩
    simp only [exec, execStu, hc]

end

/-- Settles O14: a load is the shared course with the reads of its lanes for a body. -/
theorem loadResults : Obligations.LoadResults := by
  intro i s c f d r q u ix h hl hgo
  obtain ⟨index, hexec, rfl⟩ := exec_load h.ctxOf_eq hl
  rw [hexec, loadForm, h.issueForm_eq]
  exact congrArg Host.Outcome.next (performAccess_of_goesThrough hgo _)

/-- A store that is not posted is performed at issue. -/
theorem storeForm_of_performed {i : Instr} {s : State} {c : Ctx} {f : AccessForm} {d : Code} {r : BitVec 5} {q : Ord}
    {u : Bool} {k : Nat} (h : Issues i s c) (index : State → Ctx → Nat → Nat)
    (hp : recSpace (c.record r) ≠ 0 ∨ modePstore c.frag.mode = true ∨ issueActive s c = 0) :
    storeForm i f d r q u k s index =
      .next (performAccess i s c f (c.record r) d q u (index s c) fun s' pieces _ =>
        let x := accessStore c (c.record r)
        let t := f.elem (c.record r)
        complete c i (x.cover (pieces.foldl (fun st e =>
          writeElem x (x.touch st e.2.bytes) t e.2 (storeValue s c d t e.1).1 (storeValue s c d t e.1).2) s')
          (pieces.flatMap fun e => e.2.bytes)) {}) := by
  rw [storeForm, h.issueForm_eq]
  refine congrArg Host.Outcome.next (if_neg ?_)
  rcases hp with hp | hp | hp <;> simp [hp]

/-- Settles O15: a performed store is the shared course with the writes of its lanes for a body. -/
theorem performedStoreResults : Obligations.PerformedStoreResults := by
  intro i s c f d r q u ix k h hl hp hgo
  obtain ⟨index, hexec, rfl⟩ := exec_store h.ctxOf_eq hl
  rw [hexec, storeForm_of_performed h index (hp.imp_right .inl)]
  exact congrArg Host.Outcome.next (performAccess_of_goesThrough hgo _)

/-! ### Atomics (R194) -/

/-- Each ATOM is the model's ATOM with its operation. -/
theorem exec_atom {e : (BitVec 3 → Code → BitVec 5 → Ord → Code → Instr) × Bool × (Nat → BitVec 64 → BitVec 64 → BitVec 64)}
    (he : e ∈ atoms) (w : BitVec 3) (d : Code) (r : BitVec 5) (q : Ord) (a : Code) (s : State) :
    exec (e.1 w d r q a) s = atomOp (e.1 w d r q a) e.2.1 d r q a s e.2.2 := by
  simp only [atoms, List.mem_cons, List.not_mem_nil, or_false] at he
  rcases he with rfl | rfl | rfl | rfl | rfl | rfl | rfl | rfl <;> rfl

theorem exec_cas (w : BitVec 3) (d : Code) (r : BitVec 5) (q : Ord) (a : Code) (s : State) :
    exec (.cas w d r q a) s = execCas w d r q a s := rfl

theorem atomForm_of_goesThrough {i : Instr} {s : State} {c : Ctx} {f : AccessForm} {d : Code} {r : BitVec 5} {q : Ord}
    {a : Code} (h : Issues i s c) (hgo : GoesThrough s c f (c.record r) d q (uniformIssue i) (recIndex s c a))
    (op : Ctx → Nat → Nat → BitVec 64 → Option (BitVec 64)) :
    atomForm i f d r q a s op =
      .next (atomDone c i s f (c.record r) d q (recIndex s c a) (op c (recFormat (c.record r)))) := by
  rw [atomForm, h.issueForm_eq]
  exact congrArg Host.Outcome.next (performAccess_of_goesThrough hgo _)

/-- Settles O18: ATOM and CAS are one read-modify-write form, each with its operation. -/
theorem atomicResults : Obligations.AtomicResults := by
  intro w d r q a s c
  refine ⟨fun e he h hgo => ?atom, fun h hgo => ?cas⟩
  case atom =>
    rw [exec_atom he]
    exact atomForm_of_goesThrough h hgo _
  case cas =>
    rw [exec_cas, execCas]
    exact atomForm_of_goesThrough h hgo _

/-! ### An empty ACTIVE (R184) -/

theorem performSum_of_empty {s : State} {c : Ctx} (h0 : issueActive s c = 0) (i : Instr) (rc : Rec) (d : Code) (q : Ord)
    (a : Code) (writes : Bool) (body : State → List (Nat × Piece) → List Nat → State × List (Nat × LaneFault)) :
    performSum i s c rc d q a writes body = complete c i s {} :=
  if_pos h0

section
variable {i : Instr} {s : State} {c : Ctx} (h : Issues i s c) (h0 : issueActive s c = 0)
include h h0

theorem load_of_empty (hl : (loadOf s c i).isSome = true) : exec i s = .next (complete c i s {}) := by
  obtain ⟨⟨f, d, r, q, u, ix⟩, hl⟩ := Option.isSome_iff_exists.mp hl
  obtain ⟨index, hexec, rfl⟩ := exec_load h.ctxOf_eq hl
  rw [hexec, loadForm, h.issueForm_eq]
  exact congrArg Host.Outcome.next (performAccess_of_empty h0 _)

theorem store_of_empty (hl : (storeOf s c i).isSome = true) : exec i s = .next (complete c i s {}) := by
  obtain ⟨⟨f, d, r, q, u, ix, k⟩, hl⟩ := Option.isSome_iff_exists.mp hl
  obtain ⟨index, hexec, rfl⟩ := exec_store h.ctxOf_eq hl
  rw [hexec, storeForm_of_performed h index (.inr (.inr h0))]
  exact congrArg Host.Outcome.next (performAccess_of_empty h0 _)

theorem cacheForm_of_empty (r : BitVec 5) (a : Code) (writesBack : Bool) :
    cacheForm i r a writesBack s = .next (complete c i s {}) := by
  rw [cacheForm, h.issueForm_eq]
  exact congrArg Host.Outcome.next (if_pos h0)

theorem atomForm_of_empty (f : AccessForm) (d : Code) (r : BitVec 5) (q : Ord) (a : Code)
    (op : Ctx → Nat → Nat → BitVec 64 → Option (BitVec 64)) :
    atomForm i f d r q a s op = .next (complete c i s {}) := by
  rw [atomForm, h.issueForm_eq]
  exact congrArg Host.Outcome.next (performAccess_of_empty h0 _)

theorem performSum_form_of_empty {d : Code} {r : BitVec 5} {q : Ord} {a : Code} {writes : Bool}
    {body : Ctx → State → List (Nat × Piece) → List Nat → State × List (Nat × LaneFault)}
    (hexec : exec i s = issueForm i s fun c => performSum i s c (c.record r) d q a writes (body c)) :
    exec i s = .next (complete c i s {}) := by
  rw [hexec, h.issueForm_eq, performSum_of_empty h0]

/-- R184: every memory form is without effect. -/
theorem memoryForm_of_empty (hi : (loadOf s c i).isSome ∨ (storeOf s c i).isSome ∨
    (∃ w r a, i = .pref w r a ∨ i = .cwb w r a ∨ i = .cinv w r a) ∨
    (∃ w d r q a, i = .cas w d r q a ∨ i = .fatom w d r q a ∨ i = .fatomq w d r q a ∨ ∃ e ∈ atoms, i = e.1 w d r q a)) :
    exec i s = .next (complete c i s {}) := by
  rcases hi with hl | hl | ⟨w, r, a, rfl | rfl | rfl⟩ | ⟨w, d, r, q, a, rfl | rfl | rfl | ⟨e, he, rfl⟩⟩
  · exact load_of_empty h h0 hl
  · exact store_of_empty h h0 hl
  · exact cacheForm_of_empty h h0 r a false
  · exact cacheForm_of_empty h h0 r a true
  · exact cacheForm_of_empty h h0 r a true
  · exact (exec_cas w d r q a s).trans (atomForm_of_empty h h0 casAccess d r q a _)
  · exact performSum_form_of_empty h h0 rfl
  · exact performSum_form_of_empty h h0 rfl
  · exact (exec_atom he w d r q a s).trans (atomForm_of_empty h h0 (atomAccess e.2.1) d r q a _)

end

/-! ### Cache forms, FENCE and DRAINS (R190, R193, R201) -/

section
variable {i : Instr} {s : State} {c : Ctx} (h : Issues i s c)
include h

/-- A cache form through another SPACE than 0 has no effect. -/
theorem cacheForm_of_sram {r : BitVec 5} {a : Code} {writesBack : Bool} (hactive : issueActive s c ≠ 0)
    (hspace : recSpace (c.record r) ≠ 0)
    (hbad : (planAccess s c cacheAccess (c.record r) 96 false (issueActive s c) (recIndex s c a)).bad = []) :
    cacheForm i r a writesBack s = .next (complete c i s {}) := by
  rw [cacheForm, h.issueForm_eq]
  simp only [if_neg hactive, if_pos hspace, hbad, finishAccess_nil]

/-- A prefetch leaves what its translations leave. -/
theorem prefetch_of_located {r : BitVec 5} {a : Code} (hactive : issueActive s c ≠ 0) (hspace : recSpace (c.record r) = 0)
    (hbad : (planAccess s c cacheAccess (c.record r) 96 false (issueActive s c) (recIndex s c a)).bad = []) :
    cacheForm i r a false s = .next (complete c i
      (locateAll s c cacheAccess (c.record r)
        (planAccess s c cacheAccess (c.record r) 96 false (issueActive s c) (recIndex s c a))).state {}) := by
  rw [cacheForm, h.issueForm_eq]
  simp only [if_neg hactive, if_neg (not_not.mpr hspace), hbad, finishAccess_nil, Bool.false_eq_true, if_false]

/-- A write-back retires the exact sums that its bytes meet. -/
theorem writeBack_of_located {r : BitVec 5} {a : Code} (hactive : issueActive s c ≠ 0) (hspace : recSpace (c.record r) = 0)
    (hbad : (locateAll s c cacheAccess (c.record r)
      (planAccess s c cacheAccess (c.record r) 96 false (issueActive s c) (recIndex s c a))).bad = []) :
    cacheForm i r a true s = .next (complete c i (writtenBack c (c.record r) (locateAll s c cacheAccess (c.record r)
      (planAccess s c cacheAccess (c.record r) 96 false (issueActive s c) (recIndex s c a)))) {}) := by
  rw [cacheForm, h.issueForm_eq]
  simp only [if_neg hactive, if_neg (not_not.mpr hspace), hbad, finishAccess_nil, if_true, writtenBack]

end

/-- Settles O17: the clauses are the branches of each form's meaning. -/
theorem cacheFenceAndEmptyForms : Obligations.CacheFenceAndEmptyForms := by
  refine ⟨fun i s c => memoryForm_of_empty, fun w r a s c => ?cache, fun w s c => ?fences⟩
  case cache =>
    refine fun hactive => ⟨fun hspace hbad => ?sram, fun hspace => ⟨fun h hbad => ?pref, fun h hbad => ?cwb,
      fun h hbad => ?cinv⟩⟩
    case sram =>
      simp only [List.mem_cons, List.not_mem_nil, or_false]
      rintro i (rfl | rfl | rfl) h <;> exact cacheForm_of_sram h hactive hspace hbad
    case pref => exact prefetch_of_located h hactive hspace hbad
    case cwb => exact writeBack_of_located h hactive hspace hbad
    case cinv => exact writeBack_of_located h hactive hspace hbad
  case fences =>
    refine ⟨fun h => h.issueForm_eq _, fun h => ?rel, fun h => ?ar, fun h hdone => ?drained, fun h hopen => ?waiting⟩
    case rel => exact (h.issueForm_eq _).trans (by simp only [Bool.true_and, decide_eq_true_eq])
    case ar => exact (h.issueForm_eq _).trans (by simp only [Bool.true_and, decide_eq_true_eq])
    case drained => exact (h.issueForm_eq _).trans (congrArg _ (if_pos hdone))
    case waiting => exact (h.issueForm_eq _).trans (congrArg _ (if_neg (by simp [hopen])))

end Sys2Proof.Claims
end

section
/-! Buffer records (R35, R36, R202 to R204): a record bit by bit, and the record forms. -/

namespace Sys2Proof.Claims

open Sys2Proof.Machine

/-! ### Fields of a record -/

/-- RECMOD writes its field's bits alone (R203). -/
theorem getLsbD_setRecField (r : Rec) (lo n v : Nat) {k : Nat} (hk : k < 256) :
    (setRecField r lo n v).getLsbD k = if lo ≤ k ∧ k < lo + n then v.testBit (k - lo) else r.getLsbD k := by
  rw [setRecField, BitVec.getLsbD_or, BitVec.getLsbD_and, BitVec.getLsbD_not, BitVec.getLsbD_ofNat, BitVec.getLsbD_ofNat,
    testBit_mul_two_pow_mask, Nat.testBit_mul_two_pow, Nat.testBit_mod_two_pow, decide_eq_true hk]
  split
  next hin =>
    have hlt : k - lo < n := by omega
    simp [hin, hlt]
  next hout =>
    by_cases hlo : lo ≤ k
    · have hge : ¬k - lo < n := by omega
      simp [hout, hge]
    · simp [hlo]

/-- The bits of a field from `lo` on. -/
theorem getLsbD_recBits (r : Rec) (lo n : Nat) {j : Nat} (hj : j < 64) :
    ((r.extractLsb' lo 64) &&& BitVec.ofNat 64 (2 ^ n - 1)).getLsbD j = (decide (j < n) && r.getLsbD (lo + j)) := by
  rw [BitVec.getLsbD_and, BitVec.getLsbD_extractLsb', BitVec.getLsbD_ofNat, Nat.testBit_two_pow_sub_one,
    decide_eq_true hj, Bool.true_and, Bool.true_and, Bool.and_comm]

/-- Two records whose bits of a field agree read alike. -/
theorem recBits_congr {r r' : Rec} {lo n : Nat} (h : ∀ j < n, r'.getLsbD (lo + j) = r.getLsbD (lo + j)) :
    (r'.extractLsb' lo 64) &&& BitVec.ofNat 64 (2 ^ n - 1) = (r.extractLsb' lo 64) &&& BitVec.ofNat 64 (2 ^ n - 1) := by
  refine BitVec.eq_of_getLsbD_eq fun j hj => ?_
  rw [getLsbD_recBits r' lo n hj, getLsbD_recBits r lo n hj]
  by_cases hn : j < n
  · rw [h j hn]
  · simp [hn]

/-- What was put into a field is read there. -/
theorem recBits_setRecField (r : Rec) {lo n : Nat} (hfit : lo + n ≤ 256) (v : BitVec 64) :
    ((setRecField r lo n v.toNat).extractLsb' lo 64) &&& BitVec.ofNat 64 (2 ^ n - 1) =
      v &&& BitVec.ofNat 64 (2 ^ n - 1) := by
  refine BitVec.eq_of_getLsbD_eq fun j hj => ?_
  rw [getLsbD_recBits _ lo n hj, BitVec.getLsbD_and, BitVec.getLsbD_ofNat, Nat.testBit_two_pow_sub_one, decide_eq_true hj,
    Bool.true_and, Bool.and_comm]
  by_cases hn : j < n
  · rw [getLsbD_setRecField r lo n _ (by omega), if_pos (by omega), Nat.add_sub_cancel_left, BitVec.testBit_toNat]
  · simp [hn]

theorem extractLsb'_masked (v : BitVec 64) {n : Nat} (hn : n ≤ 64) :
    (v &&& BitVec.ofNat 64 (2 ^ n - 1)).extractLsb' 0 n = v.extractLsb' 0 n := by
  refine BitVec.eq_of_getLsbD_eq fun j hj => ?_
  rw [BitVec.getLsbD_extractLsb', BitVec.getLsbD_extractLsb', BitVec.getLsbD_and, BitVec.getLsbD_ofNat,
    Nat.testBit_two_pow_sub_one, Nat.zero_add, decide_eq_true hj, decide_eq_true (Nat.lt_of_lt_of_le hj hn)]
  simp

/-- The selectors of fields: each names one, in a record, and no two share a bit (R203). -/
theorem recField_isSome {sel : Nat} (h : sel ≤ 12) : ∃ lo n, recField sel = some (lo, n) ∧ lo + n ≤ 256 := by
  interval_cases sel <;> exact ⟨_, _, rfl, by decide⟩

theorem recField_disjoint {j k : Nat} (hj : j ≤ 12) (hk : k ≤ 12) (hne : j ≠ k) :
    ∀ a b, recField j = some a → recField k = some b → a.1 + a.2 ≤ b.1 ∨ b.1 + b.2 ≤ a.1 := by
  have key : ∀ j ≤ 12, ∀ k ≤ 12, j ≠ k → ∀ a ∈ recField j, ∀ b ∈ recField k, a.1 + a.2 ≤ b.1 ∨ b.1 + b.2 ≤ a.1 := by decide
  exact fun a b ha hb => key j hj k hk hne a ha b hb

theorem recGot_of_field {r : Rec} {sel lo n : Nat} (h : recField sel = some (lo, n)) (hsel : sel ≤ 12) :
    recGot r sel = some (if sel = 7 ∨ sel = 8 ∨ sel = 12 then
      (((r.extractLsb' lo 64) &&& BitVec.ofNat 64 (2 ^ n - 1)).extractLsb' 0 40).signExtend 64
      else (r.extractLsb' lo 64) &&& BitVec.ofNat 64 (2 ^ n - 1)) := by
  rw [recGot, if_neg (by omega), h]

/-- Settles O21: a field reads its own bits, which the write of another field leaves. -/
theorem recordFieldsReadBack : Obligations.RecordFieldsReadBack := by
  intro r r' sel v hsel hmod
  obtain ⟨lo, n, hfield, hfit⟩ := recField_isSome hsel
  obtain rfl : setRecField r lo n v.toNat = r' := by
    rw [recModified, if_neg (by omega), hfield] at hmod
    exact Option.some.inj hmod
  refine ⟨fun k hk hne => ?others, lo, n, hfield, ?own⟩
  case others =>
    obtain ⟨lo', n', hfield', hfit'⟩ := recField_isSome hk
    have hapart := recField_disjoint hk hsel hne _ _ hfield' hfield
    rw [recGot_of_field hfield' hk, recGot_of_field hfield' hk,
      recBits_congr fun j hj => (getLsbD_setRecField r lo n _ (by omega)).trans (if_neg (by simp at hapart; omega))]
  case own =>
    rw [recGot_of_field hfield hsel, recBits_setRecField r hfit v]
    split
    next hsigned =>
      obtain rfl : n = 40 := by rcases hsigned with rfl | rfl | rfl <;> cases hfield <;> rfl
      rw [extractLsb'_masked v (by decide)]
    next => rfl

/-! ### The forms -/

section
variable {s : State} {c : Ctx} {v : Rec}

theorem writeSlot_of_legal (hv : recCheck v = none) (i : Instr) (r : BitVec 5) :
    writeSlot c i s r v = setSlot (complete c i s {}) c r v := by
  rw [writeSlot, hv]

theorem writeSlot_of_illegal {code : Nat} (hv : recCheck v = some code) (i : Instr) (r : BitVec 5) :
    writeSlot c i s r v = fragmentFault c code (openInfo s) s := by
  rw [writeSlot, hv]

theorem exec_recmod {w : BitVec 3} {d a : Code} {r : BitVec 5} (h : Issues (.recmod w d r a) s c)
    (hv : recModified (c.record r) (src s c 32 a 0).toNat (src s c 64 d 0) = some v) :
    exec (.recmod w d r a) s = .next (writeSlot c (.recmod w d r a) s r v) := by
  refine (h.issueForm_eq _).trans ?_
  simp only [src] at hv
  simp only [hv]

end

/-- Settles O20: RECSET and RECMOD end in one checked write of the slot. -/
theorem recordFormResults : Obligations.RecordFormResults := by
  intro w d a r v x s c
  refine ⟨fun hv h => ?recset, fun hv h => ?recmod, fun hv h => ?recmodNone, fun hx h => ?recgetNone, fun hx h => ?recget⟩
  case recset =>
    have hexec : exec (.recset w d r) s = .next (writeSlot c (.recset w d r) s r v) := hv ▸ h.issueForm_eq _
    exact ⟨fun hlegal => hexec.trans (by rw [writeSlot_of_legal hlegal]; rfl),
      fun code hbad => hexec.trans (by rw [writeSlot_of_illegal hbad]; rfl)⟩
  case recmod =>
    exact ⟨fun hlegal => (exec_recmod h hv).trans (by rw [writeSlot_of_legal hlegal]; rfl),
      fun code hbad => (exec_recmod h hv).trans (by rw [writeSlot_of_illegal hbad]; rfl)⟩
  case recmodNone =>
    refine (h.issueForm_eq _).trans ?_
    simp only [src] at hv
    simp only [hv]
    rfl
  case recgetNone =>
    refine (h.issueForm_eq _).trans ?_
    simp only [src] at hx
    simp only [hx]
    rfl
  case recget =>
    refine (h.issueForm_eq _).trans ?_
    simp only [src] at hx
    simp only [hx]
    rfl

end Sys2Proof.Claims
end

section
/-! FIFOP (R206, R207, R281 to R283, R289): the model's rows are those of R207's table, and each way in which a FIFOP ends. -/

namespace Sys2Proof.Claims

open Sys2Proof.Machine

/-- The model's row and the table's name the same counters, slot and limits: in the first phase the limit is waited for, in the
second it is a check. -/
theorem fifoMove_eq (f : Fifo) (produce second : Bool) (k : Nat) :
    fifoMove f produce second k =
      { ready := second || decide (k ≤ (fifoRow f produce second k).limit)
        legal := !second || decide (k ≤ (fifoRow f produce second k).limit)
        next := (fifoRow f produce second k).next
        result := (fifoRow f produce second k).slot } := by
  cases produce <;> cases second <;> rfl

/-- Each FIFOP is the model's form with its role. -/
theorem exec_fifop {e : (BitVec 3 → Code → BitVec 5 → Code → Instr) × Bool} (he : e ∈ fifoForms) (w : BitVec 3) (d : Code)
    (r : BitVec 5) (a : Code) (s : State) : exec (e.1 w d r a) s = fifoForm (e.1 w d r a) e.2 d r a s := by
  simp only [fifoForms, List.mem_cons, List.not_mem_nil, or_false] at he
  rcases he with rfl | rfl | rfl | rfl <;> rfl

/-- A wait that is not the scoreboard's keeps the check that was made (R288, R289). -/
theorem waitChecked_of_passed {s : State} {c : Ctx} {w : Wait} (hw : ∀ lo hi b f n, w ≠ .scoreboard lo hi b f n) :
    waitChecked s c w = withFrag (waitEvent s c w) c fun g =>
      { g with sbBound := if g.sbBound.isSome then g.sbBound else some (sbBoundAt (coreOf s c.core) s.cycle) } := by
  have hbound : sbBoundAt (coreOf (waitEvent s c w) c.core) (waitEvent s c w).cycle = sbBoundAt (coreOf s c.core) s.cycle := by
    rw [waitEvent, coreOf_modFrag, if_pos rfl]
    rfl
  unfold waitChecked
  dsimp only
  split
  next => exact absurd rfl (hw _ _ _ _ _)
  next => rw [hbound]

section
variable {i : Instr} {produce : Bool} {d a : Code} {r : BitVec 5} {s : State} {c : Ctx} (h : Issues i s c)
include h

theorem fifoForm_of_empty (h0 : issueActive s c = 0) : fifoForm i produce d r a s = .next (complete c i s {}) :=
  (h.issueForm_eq _).trans (congrArg _ (if_pos h0))

variable (hactive : issueActive s c ≠ 0)
include hactive

theorem fifoForm_of_space (hspace : recSpace (c.record r) ≠ 2) :
    fifoForm i produce d r a s =
      .next (takeFault c { code := 0x05, lanes := issueActive s c, info := src s c 32 a 0 } s s) :=
  (h.issueForm_eq _).trans (congrArg _ ((if_neg hactive).trans (if_pos hspace)))

variable (hspace : recSpace (c.record r) = 2)
include hspace

theorem fifoForm_of_unbound (hnone : c.blk.fifo? (recBase (c.record r) % 16) = none) :
    fifoForm i produce d r a s =
      .next (takeFault c { code := 0x06, lanes := issueActive s c, info := openInfo s } s s) := by
  refine (h.issueForm_eq _).trans ?_
  simp only [if_neg hactive, if_neg (not_not.mpr hspace), hnone]

/-- A FIFOP of a bound number: the checks, the waits in their order, and the row. -/
theorem fifoForm_of_bound {f : Fifo} (hf : c.blk.fifo? (recBase (c.record r) % 16) = some f) :
    let v := src s c 32 a 0
    let k := (v.extractLsb' 0 16).toNat
    let row := fifoRow f produce (v.getLsbD 16) k
    let core := coreOf s c.core
    let lo := f.bank * 2048
    fifoForm i produce d r a s = .next
      (if 65536 / f.desc.slotBytes < k ∨ v.extractLsb' 17 15 ≠ 0 ∨ (!(!v.getLsbD 16 || decide (k ≤ row.limit))) = true then
         fragmentFault c 0x05 v s
       else if scoreboardBlocks core s.cycle lo (lo + 2048) produce (some produce) c.frag.sbBound = true then
         waitEvent s c (.scoreboard lo (lo + 2048) produce (some produce) (c.frag.sbBound.getD (sbBoundAt core s.cycle)))
       else if (produce && v.getLsbD 16 && !storesSettled s c) = true then waitChecked s c .settled
       else if (!(v.getLsbD 16 || decide (k ≤ row.limit))) = true then
         waitChecked s c (.fifo (recBase (c.record r) % 16) k (!produce))
       else completeLater c i (modBlock s c.core c.ref.block fun b => b.modFifo (recBase (c.record r) % 16) fun _ => row.next)
         (writeCode c 0 d true tyU64 (BitVec.ofNat 64 row.slot) 62)) := by
  refine (h.issueForm_eq _).trans ?_
  simp only [if_neg hactive, if_neg (not_not.mpr hspace), hf]
  rw [fifoMove_eq]
  rfl

end

theorem waits_iff {second : Bool} {k limit : Nat} :
    (!(second || decide (k ≤ limit))) = true ↔ second = false ∧ limit < k := by
  cases second <;> simp

theorem beyond_iff {second : Bool} {k limit : Nat} :
    (!(!second || decide (k ≤ limit))) = true ↔ second = true ∧ limit < k := by
  cases second <;> simp

/-- Settles O22: each clause is one end of a FIFOP. -/
theorem fifoResults : Obligations.FifoResults := by
  intro e he w d r a s c h
  dsimp only
  rw [exec_fifop he]
  refine ⟨fifoForm_of_empty h, fifoForm_of_space h, fifoForm_of_unbound h, fun f hactive hspace hf => ?bound⟩
  rw [fifoForm_of_bound h hactive hspace hf]
  simp only [beyond_iff]
  refine ⟨fun hbad => ?illegal, fun hok hconflict => ?conflict, fun hok hfree hcommit hopen => ?commit,
    fun hok hfree hfirst hfull => ?full, fun hok hfree hsettled hroom => ?done⟩
  case illegal => exact congrArg _ (if_pos hbad)
  case conflict => rw [if_neg hok, if_pos hconflict]
  case commit =>
    rw [if_neg hok, if_neg (by simp [hfree]), if_pos (by rw [hcommit, hopen]; rfl),
      waitChecked_of_passed (fun _ _ _ _ _ => Wait.noConfusion)]
  case full =>
    rw [if_neg hok, if_neg (by simp [hfree]), if_neg (by rw [hfirst, Bool.and_false]; exact Bool.false_ne_true),
      if_pos (waits_iff.mpr ⟨hfirst, hfull⟩), waitChecked_of_passed (fun _ _ _ _ _ => Wait.noConfusion)]
  case done =>
    rw [if_neg hok, if_neg (by simp [hfree]), if_neg (by simpa using hsettled),
      if_neg fun hwait => Nat.not_lt.mpr hroom (waits_iff.mp hwait).2]

end Sys2Proof.Claims
end

section
/-! What operations leave of waves, fragments and registers: updates of a block that keep its waves, waits, and completions. -/

namespace Sys2Proof.Machine

/-! ### Updates that keep the waves -/

section
variable {s t : State}

theorem coreOf_of_cores_eq (h : t.cores = s.cores) (k : Nat) : coreOf t k = coreOf s k := by
  rw [coreOf, coreOf, h]

theorem blockOf_of_cores_eq (h : t.cores = s.cores) (k b : Nat) : blockOf t k b = blockOf s k b := by
  rw [blockOf, blockOf, coreOf_of_cores_eq h]

theorem waveOf_of_cores_eq (h : t.cores = s.cores) (k b w : Nat) : waveOf t k b w = waveOf s k b w := by
  rw [waveOf, waveOf, blockOf_of_cores_eq h]

theorem fragOf_of_waveOf_eq {k : Nat} {r : FragRef} (h : waveOf t k r.block r.wave = waveOf s k r.block r.wave) :
    fragOf t k r = fragOf s k r := by
  rw [fragOf, fragOf, h]

theorem fragOf_of_cores_eq (h : t.cores = s.cores) (k : Nat) (r : FragRef) : fragOf t k r = fragOf s k r :=
  fragOf_of_waveOf_eq (waveOf_of_cores_eq h _ _ _)

/-- The update of a core that keeps its blocks keeps every wave. -/
theorem waveOf_modCore_of_blocks (s : State) (c k b w : Nat) {f : Core → Core} (hf : ∀ x, (f x).blocks = x.blocks) :
    waveOf (modCore s c f) k b w = waveOf s k b w := by
  rw [waveOf, waveOf, blockOf_modCore]
  split
  next hk => rw [hf, hk]; rfl
  next => rfl

/-- The update of a block that keeps its waves keeps every wave. -/
theorem waveOf_modBlock_of_waves (s : State) (c h k b w : Nat) {f : Block → Block} (hf : ∀ x, (f x).waves = x.waves) :
    waveOf (modBlock s c h f) k b w = waveOf s k b w := by
  rw [waveOf, waveOf, blockOf_modBlock]
  split
  next => cases blockOf s k b <;> simp [Block.wave?, hf]
  next => rfl

theorem fragOf_modBlock_of_waves (s : State) (c h k : Nat) (r : FragRef) {f : Block → Block} (hf : ∀ x, (f x).waves = x.waves) :
    fragOf (modBlock s c h f) k r = fragOf s k r :=
  fragOf_of_waveOf_eq (waveOf_modBlock_of_waves _ _ _ _ _ _ hf)

@[simp] theorem waveOf_forceCheckpoint (s : State) (c h k b w : Nat) :
    waveOf (forceCheckpoint s c h) k b w = waveOf s k b w :=
  waveOf_modBlock_of_waves _ _ _ _ _ _ fun x => by split <;> rfl

@[simp] theorem fragOf_forceCheckpoint (s : State) (c h k : Nat) (r : FragRef) :
    fragOf (forceCheckpoint s c h) k r = fragOf s k r :=
  fragOf_of_waveOf_eq (waveOf_forceCheckpoint _ _ _ _ _ _)

@[simp] theorem waveOf_notifyDarner (s : State) (c : Nat) (e : DarnerEvent) (k b w : Nat) :
    waveOf (notifyDarner s c e) k b w = waveOf s k b w :=
  waveOf_modCore_of_blocks _ _ _ _ _ fun _ => rfl

@[simp] theorem fragOf_notifyDarner (s : State) (c : Nat) (e : DarnerEvent) (k : Nat) (r : FragRef) :
    fragOf (notifyDarner s c e) k r = fragOf s k r :=
  fragOf_of_waveOf_eq (waveOf_notifyDarner _ _ _ _ _ _)

@[simp] theorem forceCheckpoint_mem (s : State) (c h : Nat) : (forceCheckpoint s c h).mem = s.mem := rfl

end

/-- A fold whose every step keeps something of the state keeps it. -/
theorem foldl_keeps {α β : Type} {part : State → β} {f : State → α → State} (h : ∀ s a, part (f s a) = part s) (l : List α)
    (s : State) : part (l.foldl f s) = part s := by
  induction l generalizing s with
  | nil => rfl
  | cons a r ih => rw [List.foldl_cons, ih, h]

/-! ### The fragment of a wait -/

section
variable {s : State} {c : Ctx} {f : Fragment}

theorem fragOf_modFrag_self (hf : fragOf s c.core c.ref = some f) {g : Fragment → Fragment} (hg : ∀ x, (g x).id = x.id) :
    fragOf (modFrag s c.core c.ref g) c.core c.ref = some (g f) := by
  rw [fragOf_modFrag _ _ _ _ _ _ hg, if_pos ⟨rfl, rfl⟩, hf]
  rfl

/-- A fragment that waits stands at its instruction (R263). -/
theorem fragOf_waitEvent (hf : fragOf s c.core c.ref = some f) (w : Wait) :
    ∃ g, fragOf (waitEvent s c w) c.core c.ref = some g ∧ g.st = .waitEvent w ∧ g.pc = f.pc :=
  ⟨_, fragOf_modFrag_self hf fun _ => rfl, rfl, rfl⟩

theorem fragOf_waitChecked (hf : fragOf s c.core c.ref = some f) (w : Wait) :
    ∃ g, fragOf (waitChecked s c w) c.core c.ref = some g ∧ g.st = .waitEvent w ∧ g.pc = f.pc := by
  obtain ⟨g, hg, hst, hpc⟩ := fragOf_waitEvent hf w
  unfold waitChecked
  dsimp only
  split
  · exact ⟨g, hg, hst, hpc⟩
  · exact ⟨_, fragOf_modFrag_self hg fun _ => rfl, hst, hpc⟩

@[simp] theorem fragOf_freeLocks (s : State) (o : Owner) (rmw : Bool) (l : List Nat) (k : Nat) (r : FragRef) :
    fragOf (freeLocks s o rmw l) k r = fragOf s k r :=
  foldl_keeps (part := fun s => fragOf s k r) (fun _ _ => fragOf_forceCheckpoint _ _ _ _ _) _ _

@[simp] theorem fragOf_freeHeld (s : State) (c : Nat) (k : Nat) (r : FragRef) : fragOf (freeHeld s c) k r = fragOf s k r := by
  refine foldl_keeps (part := fun s => fragOf s k r) (fun s c => ?_) _ _
  refine foldl_keeps (part := fun s => fragOf s k r) (fun s e => ?_) _ _
  split
  · rfl
  · exact fragOf_forceCheckpoint _ _ _ _ _

theorem fragOf_waitForBytes (hf : fragOf s c.core c.ref = some f) (w : Wait) :
    ∃ g, fragOf (waitForBytes s c w) c.core c.ref = some g ∧ g.st = .waitEvent w ∧ g.pc = f.pc := by
  obtain ⟨g, hg, hst, hpc⟩ := fragOf_waitChecked hf w
  unfold waitForBytes
  dsimp only
  split
  · exact ⟨g, by rwa [fragOf_freeLocks], hst, hpc⟩
  · exact ⟨g, by rwa [fragOf_freeHeld], hst, hpc⟩
  · exact ⟨g, hg, hst, hpc⟩

end

@[simp] theorem freeLocks_mem (s : State) (o : Owner) (rmw : Bool) (l : List Nat) : (freeLocks s o rmw l).mem = s.mem :=
  foldl_keeps (part := State.mem) (fun s (e : Nat × Nat) => forceCheckpoint_mem s e.1 e.2) _ _

@[simp] theorem freeHeld_mem (s : State) (c : Nat) : (freeHeld s c).mem = s.mem := by
  refine foldl_keeps (part := State.mem) (fun s c => foldl_keeps (part := State.mem) (fun s e => ?_) _ _) _ _
  split <;> rfl

@[simp] theorem waitChecked_mem (s : State) (c : Ctx) (w : Wait) : (waitChecked s c w).mem = s.mem := by
  unfold waitChecked
  dsimp only
  split <;> rfl

@[simp] theorem waitForBytes_mem (s : State) (c : Ctx) (w : Wait) : (waitForBytes s c w).mem = s.mem := by
  unfold waitForBytes
  dsimp only
  split <;> simp

end Sys2Proof.Machine

namespace Sys2Proof.Claims

open Sys2Proof.Machine

/-! ### Registers that stay -/

section
variable {s t : State} {c : Ctx}

theorem keepsRegisters_ctx (hc : ctxOf s = some c) : KeepsRegisters c s := by
  obtain ⟨-, hb, hw, hf⟩ := ctxOf_eq_some hc
  exact ⟨c.wave, c.frag, waveOf_ctx hc, hf, rfl, rfl, rfl, rfl, rfl, rfl, fun _ _ => rfl⟩

theorem KeepsRegisters.of_waveOf_eq (h : KeepsRegisters c s)
    (he : waveOf t c.core c.ref.block c.ref.wave = waveOf s c.core c.ref.block c.ref.wave) : KeepsRegisters c t := by
  obtain ⟨w, f, hw, hrest⟩ := h
  exact ⟨w, f, he.trans hw, hrest⟩

/-- The update of the issuing wave that keeps its registers and changes of its fragments the issuing one alone, and none of its
registers. -/
theorem KeepsRegisters.modWave (h : KeepsRegisters c s) {g : Wave → Wave} (hidx : ∀ w, (g w).idx = w.idx)
    (hregs : ∀ w, (g w).regs = w.regs) (hpreds : ∀ w, (g w).preds = w.preds) {k : Fragment → Fragment}
    (hfrag : ∀ w n, (g w).frag? n = if n = c.ref.frag then (w.frag? n).map k else w.frag? n)
    (hk : ∀ f, (k f).s = f.s ∧ (k f).mode = f.mode ∧ (k f).exec = f.exec ∧ (k f).members = f.members) :
    KeepsRegisters c (Machine.modWave s c.core c.ref.block c.ref.wave g) := by
  obtain ⟨w, f, hw, hf, hr, hp, hs, hmode, hexec, hmembers, hother⟩ := h
  obtain ⟨ks, kmode, kexec, kmembers⟩ := hk f
  refine ⟨g w, k f, waveOf_modWave_self hw hidx, ?_, (hregs w).trans hr, (hpreds w).trans hp, ks.trans hs,
    kmode.trans hmode, kexec.trans hexec, kmembers.trans hmembers, fun n hn => ?_⟩
  · rw [hfrag, if_pos rfl, hf]; rfl
  · rw [hfrag, if_neg hn, hother n hn]

theorem KeepsRegisters.modFrag (h : KeepsRegisters c s) {k : Fragment → Fragment} (hid : ∀ f, (k f).id = f.id)
    (hk : ∀ f, (k f).s = f.s ∧ (k f).mode = f.mode ∧ (k f).exec = f.exec ∧ (k f).members = f.members) :
    KeepsRegisters c (Machine.modFrag s c.core c.ref k) :=
  h.modWave (fun _ => rfl) (fun _ => rfl) (fun _ => rfl) (fun w n => Wave.frag?_modFrag w _ n k hid) hk

/-- A completion is an update of the issuing wave, of which it changes the granules' stamps, what it writes, and the issuing
fragment. -/
theorem completeWith_eq_modWave (c : Ctx) (i : Instr) (s : State) (x : HistStep) (pc : BitVec 64) (load : Option PendingLoad) :
    ∃ k : Fragment → Fragment,
      Machine.completeWith c i s x pc load = { Machine.modWave s c.core c.ref.block c.ref.wave (fun w =>
        (applyWrites (nameGranules w c.frag.members (namedWindow i (modeType c.frag.mode)) s.cycle) c.ref.frag x).modFrag
          c.ref.frag k) with freeCtr := s.freeCtr + 1 } ∧
      ∀ f, (k f).id = f.id ∧ (k f).s = f.s ∧ (k f).mode = f.mode ∧ (k f).exec = f.exec ∧ (k f).members = f.members :=
  ⟨_, rfl, fun _ => ⟨rfl, rfl, rfl, rfl, rfl⟩⟩

/-- Writes of nothing change nothing. -/
theorem applyWrites_empty (w : Wave) (n : Nat) : applyWrites w n {} = w := by
  have hfrags : (w.frags.map fun f => if f.id = n then { f with s := cellSetAll {} [] f.s } else f) = w.frags := by
    refine (List.map_congr_left fun f _ => ?_).trans (List.map_id _)
    split <;> rfl
  exact congrArg (fun l => { w with frags := l }) hfrags

/-- A completion that writes nothing when it issues keeps every register (R104). -/
theorem KeepsRegisters.completeWith (h : KeepsRegisters c s) (i : Instr) (pc : BitVec 64) (load : Option PendingLoad) :
    KeepsRegisters c (Machine.completeWith c i s {} pc load) := by
  obtain ⟨k, he, hk⟩ := completeWith_eq_modWave c i s {} pc load
  have hnamed (w : Wave) := nameGranules_eq w c.frag.members (namedWindow i (modeType c.frag.mode)) s.cycle
  rw [he]
  refine KeepsRegisters.of_waveOf_eq (h.modWave ?idx ?regs ?preds (k := k) ?frag fun f => (hk f).2)
    (waveOf_of_cores_eq rfl _ _ _)
  case idx | regs | preds =>
    intro w
    obtain ⟨n, hn⟩ := hnamed w
    rw [applyWrites_empty, hn]
    rfl
  case frag =>
    intro w n
    obtain ⟨named, hn⟩ := hnamed w
    rw [applyWrites_empty, hn, Wave.frag?_modFrag _ _ _ _ fun f => (hk f).1]
    rfl

end

end Sys2Proof.Claims
end

section
/-! Posted stores at their issue (R191, R192, R350, R430): when one waits, and what it leaves when it is posted. -/

namespace Sys2Proof.Machine

/-- A forced checkpoint marks its block, if that is resilient (R430), and keeps its waves. -/
theorem blockOf_forceCheckpoint_self {s : State} {core h : Nat} {b : Block} (hb : blockOf s core h = some b) :
    ∃ b', blockOf (forceCheckpoint s core h) core h = some b' ∧ b'.waves = b.waves ∧
      (b.hdr.resilient = true → b'.ckpt.due = true) := by
  refine ⟨if b.hdr.resilient then { b with ckpt := { b.ckpt with due := true } } else b, ?_, ?_, fun hr => ?_⟩
  · rw [forceCheckpoint, blockOf_modBlock, if_pos ⟨rfl, rfl⟩, hb]
    rfl
  · split <;> rfl
  · rw [if_pos hr]

/-- A posted store waits exactly while it may not join the wave's stores (R192, R350) or lacks room (R430). -/
theorem postWait_eq_none_iff {s : State} {c : Ctx} {q : Ord} {p : AccessPlan} (hgo : p.go ≠ []) :
    postWait s c q p = none ↔
      ((Ord.releases q = true → storesSettled s c = true) ∧ c.wave.posted.length < 16 ∧
        heldByStores c.wave (waveRecords s c) (p.go.flatMap (·.2.ranges)) = false) ∧
      heldOver s c.core c.ref.block (postedLines p) = false := by
  simp only [postWait, if_neg hgo]
  split_ifs <;> simp_all

end Sys2Proof.Machine

namespace Sys2Proof.Claims

open Sys2Proof.Machine

theorem storeForm_of_posted {i : Instr} {s : State} {c : Ctx} {f : AccessForm} {d : Code} {r : BitVec 5} {q : Ord} {u : Bool}
    {k : Nat} (h : Issues i s c) (index : State → Ctx → Nat → Nat) (hspace : recSpace (c.record r) = 0)
    (hstore : modePstore c.frag.mode = false) (hactive : issueActive s c ≠ 0)
    (hbad : (planAccess s c f (c.record r) d u (issueActive s c) (index s c)).bad = []) :
    storeForm i f d r q u k s index =
      .next (match postWait s c q (planAccess s c f (c.record r) d u (issueActive s c) (index s c)) with
        | some w => waitForBytes s c w
        | none => postStore i s c f (c.record r) d q k
            (planAccess s c f (c.record r) d u (issueActive s c) (index s c))) := by
  have hcond : (recSpace (c.record r) = 0 && !modePstore c.frag.mode && issueActive s c != 0) = true := by
    rw [hspace, hstore, bne_iff_ne.mpr hactive]
    rfl
  rw [storeForm, h.issueForm_eq]
  refine congrArg Host.Outcome.next ((if_pos hcond).trans ?_)
  dsimp only
  rw [hbad]
  rfl

/-- A wave that has posted a store (R191). -/
def joinStore (o : StoreOp) (w : Wave) : Wave := { w with posted := w.posted ++ [o] }

/-- The state in which a store has been posted and completed (R191). -/
def storePosted (i : Instr) (s : State) (c : Ctx) (o : StoreOp) : State :=
  modWave { complete c i s {} with nextIdent := s.nextIdent + 1 } c.core c.ref.block c.ref.wave (joinStore o)

/-- A posted store is one completion that joins the store to its wave's, and a release's checkpoint (R430). -/
theorem postStore_eq {i : Instr} {s : State} {c : Ctx} {f : AccessForm} {r : Rec} {d : Code} {q : Ord} {k : Nat}
    {p : AccessPlan} (hspace : recSpace r = 0) (hgo : p.go ≠ []) :
    ∃ o : StoreOp, postStore i s c f r d q k p =
        (if (Ord.releases q && decide (4 ≤ modeScope c.frag.mode)) = true then
          forceCheckpoint (storePosted i s c o) c.core c.ref.block else storePosted i s c o) ∧
      o.pc = c.frag.pc ∧ o.kind = k ∧ o.lanes = storeLanes s c d (f.elem r) p.go ∧ o.failed = none ∧
      o.scope = modeScope c.frag.mode :=
  ⟨_, if_neg hgo, rfl, rfl, rfl, rfl, if_pos hspace⟩

section
variable {i : Instr} {s : State} {c : Ctx} (hc : ctxOf s = some c) (o : StoreOp)
include hc

theorem blockOf_storePosted :
    ∃ b, blockOf (storePosted i s c o) c.core c.ref.block = some b ∧ b.hdr = c.blk.hdr ∧
      b.wave? c.ref.wave = some (joinStore o (c.completedWave i s {} (nextPc c i) c.wave)) := by
  have hblock : blockOf { complete c i s {} with nextIdent := s.nextIdent + 1 } c.core c.ref.block = _ :=
    blockOf_completeAt_ctx i {} (nextPc c i) hc
  refine ⟨(c.blk.modWave c.ref.wave (c.completedWave i s {} (nextPc c i))).modWave c.ref.wave (joinStore o), ?_, rfl, ?_⟩
  · rw [storePosted, modWave, blockOf_modBlock, if_pos ⟨rfl, rfl⟩, hblock]
    rfl
  · rw [Block.wave?_modWave _ _ _ (joinStore o) fun _ => rfl, if_pos rfl,
      wave?_modWave_completedWave_ctx i {} (nextPc c i) hc]
    rfl

theorem keepsRegisters_storePosted : KeepsRegisters c (storePosted i s c o) := by
  refine KeepsRegisters.modWave (k := id) (KeepsRegisters.of_waveOf_eq
    ((keepsRegisters_ctx hc).completeWith i (nextPc c i) none) (waveOf_of_cores_eq rfl _ _ _))
    (fun _ => rfl) (fun _ => rfl) (fun _ => rfl) (fun w n => ?_) fun _ => ⟨rfl, rfl, rfl, rfl⟩
  rw [Option.map_id, id, ite_self]
  rfl

end

/-- Settles O16: the store's wait is none exactly when it is ready and has room. -/
theorem postedStoreResults : Obligations.PostedStoreResults := by
  intro i s c f d r q u ix k h hl hspace hstore p ranges ready room hactive hbad hgo
  have hc := h.ctxOf_eq
  obtain ⟨index, hexec, rfl⟩ := exec_store hc hl
  rw [hexec, storeForm_of_posted h index hspace hstore hactive hbad]
  refine ⟨fun hready hroom => ?posted, fun hwait => ?waits⟩
  case posted =>
    have hnone : postWait s c q p = none := (postWait_eq_none_iff hgo).mpr ⟨hready, hroom⟩
    obtain ⟨o, ho, hpc, hkind, hlanes, hfailed, hscope⟩ :=
      postStore_eq (i := i) (s := s) (c := c) (f := f) (d := d) (q := q) (k := k) hspace hgo
    obtain ⟨b, hb, hhdr, hw⟩ := blockOf_storePosted (i := i) hc o
    have hkeeps := keepsRegisters_storePosted (i := i) hc o
    rw [hnone, ho]
    split_ifs with hrel
    · obtain ⟨b', hb', hwaves, hdue⟩ := blockOf_forceCheckpoint_self hb
      exact ⟨_, b', _, o, rfl, rfl, hb', (congrArg (List.find? _) hwaves).trans hw, rfl, hpc, hkind, hlanes, hfailed, hscope,
        fun hr _ _ => hdue (hhdr ▸ hr), hkeeps.of_waveOf_eq (waveOf_forceCheckpoint _ _ _ _ _ _)⟩
    · refine ⟨_, b, _, o, rfl, rfl, hb, hw, rfl, hpc, hkind, hlanes, hfailed, hscope, fun _ hq hs => absurd ?_ hrel, hkeeps⟩
      rw [hq, decide_eq_true hs]
      rfl
  case waits =>
    obtain ⟨w, hw⟩ := Option.ne_none_iff_exists'.mp (mt (postWait_eq_none_iff hgo).mp hwait)
    obtain ⟨g, hg, hst, hpc⟩ := fragOf_waitForBytes (fragOf_ctx hc) w
    rw [hw]
    exact ⟨_, g, w, rfl, waitForBytes_mem s c w, hg, hpc, hst⟩

end Sys2Proof.Claims
end

section
/-! Messages that a fragment sends and takes (R208 to R211, R224). -/

namespace Sys2Proof.Machine

section
variable {s : State} {c : Ctx} {f : Fragment}

/-- A wait on a reply starts now, at its instruction (R263, R351). -/
theorem fragOf_enterReply (hf : fragOf s c.core c.ref = some f) (i : Instr) (w : Wait) :
    ∃ g, fragOf (enterReply c i s w) c.core c.ref = some g ∧ g.st = .waitEvent w ∧ g.pc = f.pc ∧ g.waitSince = s.timebase := by
  have hwait : fragOf (enterWait c i s (.waitEvent w)) c.core c.ref = _ :=
    fragOf_modFrag_self (s := { s with freeCtr := s.freeCtr + 1 }) ((fragOf_of_cores_eq rfl _ _).trans hf) fun _ => rfl
  exact ⟨_, fragOf_modFrag_self hwait fun _ => rfl, rfl, rfl, rfl⟩

theorem fragOf_postMsg (t payload : BitVec 64) (confirm held : Bool) :
    fragOf (postMsg s c t payload confirm held) c.core c.ref = fragOf s c.core c.ref :=
  fragOf_of_cores_eq rfl _ _

end

theorem dstBad_eq_false_iff (b : Block) (dst : BitVec 64) : dstBad b dst = false ↔ Claims.dstLegal b dst := by
  simp only [dstBad, Bool.or_eq_false_iff, bne_eq_false_iff_eq, decide_eq_false_iff_not, not_le, Bool.and_eq_false_imp,
    beq_iff_eq, and_assoc]
  rfl

theorem dstBad_of_not_legal {b : Block} {dst : BitVec 64} (h : ¬ Claims.dstLegal b dst) : dstBad b dst = true :=
  Bool.eq_true_of_not_eq_false fun hbad => h ((dstBad_eq_false_iff b dst).mp hbad)

end Sys2Proof.Machine

namespace Sys2Proof.Claims

open Sys2Proof.Machine

/-! ### Starting to send (R208, R209) -/

section
variable {i : Instr} {s : State} {c : Ctx} (h : Issues i s c) (a : Code) (b : Src) (body : Ctx → BitVec 64 → BitVec 64 → State)
include h

theorem sendForm_of_malformed (hbad : ¬ dstLegal c.blk (src s c 64 a 0)) :
    sendForm i a b s body = .next (parkAll c s 0x01 (src s c 64 a 0)) := by
  rw [sendForm, h.issueForm_eq]
  exact congrArg Host.Outcome.next (if_pos (dstBad_of_not_legal hbad))

theorem sendForm_of_ready (hlegal : dstLegal c.blk (src s c 64 a 0)) (hready : releaseReady s c (src s c 64 a 0)) :
    sendForm i a b s body = .next (body c (src s c 64 a 0) (srcB s c 64 b 0)) := by
  have hsettled : ¬ (dstRel (src s c 64 a 0) && !storesSettled s c) = true := by
    rw [Bool.and_eq_true, Bool.not_eq_true']
    rintro ⟨hrel, hopen⟩
    exact Bool.false_ne_true (hopen.symm.trans (hready hrel))
  rw [sendForm, h.issueForm_eq]
  exact congrArg Host.Outcome.next
    ((if_neg (ne_true_of_eq_false ((dstBad_eq_false_iff _ _).mpr hlegal))).trans (if_neg hsettled))

end

/-! ### What a post leaves -/

/-- A state in which the fragment has posted its message, which changes no byte of memory and no register. -/
def Posted (s : State) (c : Ctx) (dst payload : BitVec 64) (confirm held : Bool) (t : State) : Prop :=
  ∃ m : NetMsg, t.net = s.net ++ [m] ∧ m.msg = userMsg c dst payload ∧ m.launch = c.blk.launch ∧ m.lin = dstLin c.blk dst ∧
    m.port = (dst.extractLsb' 0 5).toNat ∧ m.confirm = confirm ∧ m.held = held ∧ m.ident = s.nextIdent ∧ m.answer = none ∧
    t.mem = s.mem ∧ KeepsRegisters c t

/-- A resilient block's message is an effect of its next commit (R430). -/
def holdMessage (s : State) (c : Ctx) : State :=
  modBlock s c.core c.ref.block fun k =>
    { k with ckpt := { k.ckpt with effects := k.ckpt.effects ++ [.message s.nextIdent], due := true } }

section
variable {s : State} {c : Ctx} (hc : ctxOf s = some c) (dst payload : BitVec 64) (confirm held : Bool)
include hc

theorem posted_postMsg : Posted s c dst payload confirm held (postMsg s c dst payload confirm held) :=
  ⟨_, rfl, rfl, rfl, rfl, rfl, rfl, rfl, rfl, rfl, rfl, (keepsRegisters_ctx hc).of_waveOf_eq (waveOf_of_cores_eq rfl _ _ _)⟩

theorem fragOf_holdMessage : fragOf (postMsg (holdMessage s c) c dst payload confirm held) c.core c.ref = some c.frag :=
  have hheld : fragOf (holdMessage s c) c.core c.ref = fragOf s c.core c.ref :=
    fragOf_modBlock_of_waves _ _ _ _ _ fun _ => rfl
  (fragOf_postMsg _ _ _ _).trans (hheld.trans (fragOf_ctx hc))

theorem posted_holdMessage : Posted s c dst payload confirm held (postMsg (holdMessage s c) c dst payload confirm held) := by
  have hheld : KeepsRegisters c (holdMessage s c) :=
    (keepsRegisters_ctx hc).of_waveOf_eq (waveOf_modBlock_of_waves _ _ _ _ _ _ fun _ => rfl)
  exact ⟨_, rfl, rfl, rfl, rfl, rfl, rfl, rfl, rfl, rfl, rfl, hheld.of_waveOf_eq (waveOf_of_cores_eq rfl _ _ _)⟩

end

section
variable {s t : State} {c : Ctx} {dst payload : BitVec 64} {confirm held : Bool}

theorem Posted.complete (h : Posted s c dst payload confirm held t) (i : Instr) :
    Posted s c dst payload confirm held (complete c i t {}) := by
  obtain ⟨m, hnet, hmsg, hlaunch, hlin, hport, hconfirm, hheld, hident, hanswer, hmem, hkeeps⟩ := h
  exact ⟨m, hnet, hmsg, hlaunch, hlin, hport, hconfirm, hheld, hident, hanswer, hmem, hkeeps.completeWith i _ none⟩

theorem Posted.enterReply (h : Posted s c dst payload confirm held t) (i : Instr) (w : Wait) :
    Posted s c dst payload confirm held (enterReply c i t w) := by
  obtain ⟨m, hnet, hmsg, hlaunch, hlin, hport, hconfirm, hheld, hident, hanswer, hmem, hkeeps⟩ := h
  have hstalled : KeepsRegisters c { t with freeCtr := t.freeCtr + 1 } := hkeeps.of_waveOf_eq (waveOf_of_cores_eq rfl _ _ _)
  have hwaits : KeepsRegisters c (enterWait c i t (.waitEvent w)) :=
    hstalled.modFrag (fun _ => rfl) fun _ => ⟨rfl, rfl, rfl, rfl⟩
  exact ⟨m, hnet, hmsg, hlaunch, hlin, hport, hconfirm, hheld, hident, hanswer, hmem,
    hwaits.modFrag (fun _ => rfl) fun _ => ⟨rfl, rfl, rfl, rfl⟩⟩

/-- A completion leaves its fragment running at the next instruction (R97). -/
theorem fragOf_complete (hf : fragOf t c.core c.ref = some c.frag) (i : Instr) :
    ∃ f, fragOf (Machine.complete c i t {}) c.core c.ref = some f ∧ f.st = .run ∧ f.pc = nextPc c i := by
  obtain ⟨w, hw, hfrag⟩ := Option.bind_eq_some_iff.mp hf
  refine ⟨c.completedFragment i t {} (nextPc c i) c.frag, ?_, rfl, rfl⟩
  have hwave : waveOf (Machine.complete c i t {}) c.core c.ref.block c.ref.wave =
      some (c.completedWave i t {} (nextPc c i) w) := by
    rw [Machine.complete, completeAt_eq]
    exact (waveOf_of_cores_eq rfl _ _ _).trans (waveOf_modWave_self hw fun _ => rfl)
  rw [fragOf, hwave, Option.bind_some, completedWave_frag?, if_pos rfl, hfrag]
  rfl

end

/-! ### SEND and SENDP -/

/-- A SEND that posts waits for its reply, which a port answers (R209). -/
theorem startsWait_enterReply_postMsg {s : State} {c : Ctx} (hc : ctxOf s = some c) (dst payload : BitVec 64) (held : Bool)
    (i : Instr) (w : Wait) : StartsWait (enterReply c i (postMsg s c dst payload true held) w) s c w :=
  fragOf_enterReply (s := postMsg s c dst payload true held) ((fragOf_postMsg _ _ _ _).trans (fragOf_ctx hc)) i w

theorem exec_send (w : BitVec 3) (a : Code) (b : Src) (s : State) : exec (.send w a b) s = execSend w a b s := rfl

theorem exec_sendp (w : BitVec 3) (a : Code) (b : Src) (s : State) : exec (.sendp w a b) s = execSendp w a b s := rfl

/-- A message is held for the commit when it leaves a resilient block (R430). -/
def heldMessage (c : Ctx) (dst : BitVec 64) : Bool := c.blk.hdr.resilient && leavesBlock c.blk dst

theorem exec_sendp_of_ready {w : BitVec 3} {a : Code} {b : Src} {s : State} {c : Ctx} (h : Issues (.sendp w a b) s c)
    (hlegal : dstLegal c.blk (src s c 64 a 0)) (hready : releaseReady s c (src s c 64 a 0)) :
    exec (.sendp w a b) s = .next (complete c (.sendp w a b)
      (postMsg (if heldMessage c (src s c 64 a 0) then holdMessage s c else s) c (src s c 64 a 0) (srcB s c 64 b 0) false
        (heldMessage c (src s c 64 a 0))) {}) := by
  rw [exec_sendp, execSendp, sendForm_of_ready h a b _ hlegal hready]
  rfl

section
variable {w : BitVec 3} {a : Code} {b : Src} {s : State} {c : Ctx} (h : Issues (.send w a b) s c)
  (hlegal : dstLegal c.blk (src s c 64 a 0)) (hready : releaseReady s c (src s c 64 a 0)) (hkept : nothingKept c)
include h hlegal hready hkept

theorem exec_send_of_resident {core block : Nat}
    (hplace : placeOfBlock s c.blk.launch (dstLin c.blk (src s c 64 a 0)) = .resident core block) :
    exec (.send w a b) s = .next (
      if heldMessage c (src s c 64 a 0) then
        complete c (.send w a b) (postMsg (holdMessage s c) c (src s c 64 a 0) (srcB s c 64 b 0) false
          (heldMessage c (src s c 64 a 0))) {}
      else enterReply c (.send w a b) (postMsg s c (src s c 64 a 0) (srcB s c 64 b 0) true
        (heldMessage c (src s c 64 a 0))) (.sendReply s.nextIdent (src s c 64 a 0) (instrBytes (.send w a b)))) := by
  rw [exec_send, execSend, sendForm_of_ready h a b _ hlegal hready, hkept, Option.bind_none]
  dsimp only
  rw [hplace]
  by_cases hheld : heldMessage c (src s c 64 a 0) = true
  · rw [if_pos hheld, hheld]
    exact congrArg Host.Outcome.next (if_pos hheld)
  · rw [if_neg hheld, eq_false_of_ne_true hheld]
    exact congrArg Host.Outcome.next (if_neg hheld)

theorem exec_send_of_gone (hplace : placeOfBlock s c.blk.launch (dstLin c.blk (src s c 64 a 0)) = .gone) :
    exec (.send w a b) s = .next (parkAll c s 0x11 (src s c 64 a 0 ||| 0x8000000000000000)) := by
  rw [exec_send, execSend, sendForm_of_ready h a b _ hlegal hready, hkept, Option.bind_none]
  dsimp only
  rw [hplace]
  rfl

theorem exec_send_of_absent (hplace : placeOfBlock s c.blk.launch (dstLin c.blk (src s c 64 a 0)) = .notPlaced ∨
    placeOfBlock s c.blk.launch (dstLin c.blk (src s c 64 a 0)) = .swappedOut) :
    exec (.send w a b) s = .next (waitEvent s c (.sendTarget (dstLin c.blk (src s c 64 a 0)))) := by
  rw [exec_send, execSend, sendForm_of_ready h a b _ hlegal hready, hkept, Option.bind_none]
  dsimp only
  rcases hplace with hplace | hplace <;> rw [hplace]

end

/-- DST's target block (R208), by its field. -/
theorem dstLin_eq (b : Block) (dst : BitVec 64) :
    (if dst.extractLsb' 6 2 = 1 then (dst.extractLsb' 8 32).toNat else b.lin) = dstLin b dst :=
  if_congr BitVec.toNat_inj.symm rfl rfl

/-- Settles O28: the clauses are the branches of SEND and SENDP behind DST's check. -/
theorem sendResults : Obligations.SendResults := by
  intro w a b s c dst payload lin held posts passed
  have hlin : lin = dstLin c.blk dst := dstLin_eq c.blk dst
  have hheld : held = heldMessage c dst := by rw [heldMessage, leavesBlock, ← hlin]
  clear_value lin held
  subst hlin hheld
  have hcompleted {t : State} {confirm : Bool} (i : Instr) (h : Posted s c dst payload confirm (heldMessage c dst) t)
      (hf : fragOf t c.core c.ref = some c.frag) (hi : nextPc c i = nextPc c (.sendp w a b)) :
      posts (complete c i t {}) confirm ∧ passed (complete c i t {}) := by
    obtain ⟨f, hdone, hst, hpc⟩ := fragOf_complete hf i
    exact ⟨h.complete i, f, hdone, hst, hpc.trans hi⟩
  refine ⟨fun hbad => ⟨fun h => ?_, fun h => ?_⟩, fun hlegal hready => ⟨fun h => ?sendp, fun h hkept =>
    ⟨fun _ _ hplace hheld => ?wait, fun _ _ hplace hheld => ?hold, exec_send_of_gone h hlegal hready hkept,
      exec_send_of_absent h hlegal hready hkept⟩⟩⟩
  · rw [exec_send, execSend, sendForm_of_malformed h a b _ hbad]
  · rw [exec_sendp, execSendp, sendForm_of_malformed h a b _ hbad]
  case sendp =>
    have hexec := exec_sendp_of_ready h hlegal hready
    have hc := h.ctxOf_eq
    by_cases hheld : heldMessage c dst = true
    · rw [if_pos hheld] at hexec
      exact ⟨_, hexec, hcompleted _ (posted_holdMessage hc dst payload false _) (fragOf_holdMessage hc _ _ _ _) rfl⟩
    · rw [if_neg hheld] at hexec
      exact ⟨_, hexec, hcompleted _ (posted_postMsg hc dst payload false _)
        ((fragOf_postMsg _ _ _ _).trans (fragOf_ctx hc)) rfl⟩
  case wait =>
    have hexec := exec_send_of_resident h hlegal hready hkept hplace
    rw [if_neg (ne_true_of_eq_false hheld)] at hexec
    exact ⟨_, hexec, (posted_postMsg h.ctxOf_eq dst payload true _).enterReply _ _,
      startsWait_enterReply_postMsg h.ctxOf_eq _ _ _ _ _⟩
  case hold =>
    have hexec := exec_send_of_resident h hlegal hready hkept hplace
    rw [if_pos hheld] at hexec
    exact ⟨_, hexec, hcompleted _ (posted_holdMessage h.ctxOf_eq dst payload false _)
      (fragOf_holdMessage h.ctxOf_eq _ _ _ _) rfl⟩

/-! ### RECV (R211, R224) -/

theorem exec_recv (w : BitVec 3) (d a : Code) (s : State) : exec (.recv w d a) s = execRecv w d a s := rfl

theorem not_recvLegal_iff (b : Block) (v : BitVec 64) :
    ¬ recvLegal b v ↔ v &&& ~~~ (0x31F : BitVec 64) ≠ 0 ∨ b.hdr.ports ≤ (v.extractLsb' 0 5).toNat ∨
      (b.counting (v.extractLsb' 0 5).toNat).isSome = true := by
  rw [not_and_or, not_and_or, not_lt, Bool.not_eq_true, Option.isNone_eq_false_iff]

theorem failed_eq_true_iff (m : Msg) : m.failed = true ↔ m.kind = 1 ∧ m.status ≠ 0 ∧ m.status ≠ 1 := by
  simp only [Msg.failed, Bool.and_eq_true, beq_iff_eq, bne_iff_ne, and_assoc]

section
variable {w : BitVec 3} {d a : Code} {s : State} {c : Ctx} (h : Issues (.recv w d a) s c)
include h

/-- RECV's destination is an s-register (R211). -/
theorem sRegister_of_recv : 64 ≤ d.toNat := by
  by_contra hlt
  have hok : operandOk c.blk.hdr (modeType c.frag.mode) (dSEven d) = true := h.operandOk (List.mem_cons_self ..)
  rw [operandOk, if_pos (show (dSEven d).code.toNat < 64 from not_le.mp hlt)] at hok
  exact Bool.false_ne_true hok

theorem exec_recv_of_illegal (hbad : ¬ recvLegal c.blk (src s c 64 a 0)) :
    exec (.recv w d a) s = .next (parkAll c s 0x01 (src s c 64 a 0)) := by
  rw [exec_recv, execRecv, h.issueForm_eq]
  exact congrArg Host.Outcome.next (if_pos ((not_recvLegal_iff _ _).mp hbad))

variable (hlegal : recvLegal c.blk (src s c 64 a 0))
include hlegal

theorem exec_recv_of_empty (hnone : c.blk.visible s.cycle ((src s c 64 a 0).extractLsb' 0 5).toNat = []) :
    exec (.recv w d a) s = .next (if (src s c 64 a 0).getLsbD 9 then
      complete c (.recv w d a) s { ss := [(d.toNat - 64, ⟨0, 62⟩), (d.toNat - 64 + 1, ⟨0x8000000000000000, 62⟩)] }
      else waits c (.recv w d a) s
        (.waitEvent (.recv ((src s c 64 a 0).extractLsb' 0 5).toNat d ((src s c 64 a 0).getLsbD 8)))) := by
  have hdest : d.toNat - 64 + 1 = d.toNat - 63 := by have := sRegister_of_recv h; omega
  rw [exec_recv, execRecv, h.issueForm_eq, hdest]
  refine congrArg Host.Outcome.next ((if_neg (mt (not_recvLegal_iff _ _).mpr (not_not.mpr hlegal))).trans ?_)
  unfold src at hnone
  rw [hnone]
  rfl

theorem exec_recv_of_shown {m : Msg} {rest : List Msg}
    (hcons : c.blk.visible s.cycle ((src s c 64 a 0).extractLsb' 0 5).toNat = m :: rest) :
    exec (.recv w d a) s = .next (consume c (.recv w d a) (modBlock s c.core c.ref.block fun b =>
      b.modPort ((src s c 64 a 0).extractLsb' 0 5).toNat fun x => { x with msgs := rest }) (recvWrites d m)
        (if m.failed then some m else none)) := by
  rw [exec_recv, execRecv, h.issueForm_eq]
  refine congrArg Host.Outcome.next ((if_neg (mt (not_recvLegal_iff _ _).mpr (not_not.mpr hlegal))).trans ?_)
  unfold src at hcons
  rw [hcons]
  rfl

end

/-- Settles O29: RECV is its check, then the first message that the port shows. -/
theorem receiveResults : Obligations.ReceiveResults := by
  intro w d a s c h i v p k two
  refine ⟨exec_recv_of_illegal h, exec_recv_of_empty h, fun hlegal m rest hcons => ⟨fun hgood => ?taken, fun hk h0 h1 => ?failed⟩⟩
  case taken =>
    have hfailed : ¬ m.failed = true := fun hf => by
      obtain ⟨hk, h0, h1⟩ := (failed_eq_true_iff m).mp hf
      exact hgood.elim (absurd hk) (Or.rec h0 h1)
    have hexec := exec_recv_of_shown h hlegal hcons
    rw [if_neg hfailed] at hexec
    exact hexec
  case failed =>
    have hexec := exec_recv_of_shown h hlegal hcons
    rw [if_pos ((failed_eq_true_iff m).mpr ⟨hk, h0, h1⟩)] at hexec
    exact hexec

end Sys2Proof.Claims
end

section
/-! Join patterns, barriers, ports and traps (R212 to R217, R254), and service calls (R253, R400 to R402). -/

namespace Sys2Proof.Claims

open Sys2Proof.Machine

/-! ### PATEN, JWAIT, BAR and SBAR (R212, R213, R215, R216) -/

section
variable {i : Instr} {s : State} {c : Ctx} (h : Issues i s c)
include h

theorem patenForm_of_none {k : BitVec 4} (on : Bool) (hk : c.blk.patterns.length ≤ k.toNat) :
    patenForm i k on s = .next (parkAll c s 0x01 (Config.freeWord s.freeCtr)) := by
  rw [patenForm, h.issueForm_eq]
  exact congrArg Host.Outcome.next (if_pos hk)

theorem patenForm_of_pattern {k : BitVec 4} (on : Bool) (hk : k.toNat < c.blk.patterns.length) :
    ∃ t b, patenForm i k on s = .next t ∧ blockOf t c.core c.ref.block = some b ∧
      b.patterns = c.blk.patterns.modify k.toNat fun p => { p with enabled := on } := by
  rw [patenForm, h.issueForm_eq, if_neg hk.not_ge]
  have hdone := blockOf_completeAt_ctx i {} (nextPc c i) h.ctxOf_eq
  refine ⟨_, _, rfl, (blockOf_modBlock _ _ _ _ _ _).trans ((if_pos ⟨rfl, rfl⟩).trans (congrArg (Option.map _) hdone)), rfl⟩

theorem paten_settled {k : BitVec 4} (on : Bool) :
    (k.toNat < c.blk.patterns.length → ∃ t b, patenForm i k on s = .next t ∧ blockOf t c.core c.ref.block = some b ∧
      b.patterns.length = c.blk.patterns.length ∧
      ∀ j, b.patterns[j]? = if j = k.toNat then c.blk.patterns[j]?.map fun p => { p with enabled := on }
        else c.blk.patterns[j]?) ∧
    (c.blk.patterns.length ≤ k.toNat → patenForm i k on s = .next (parkAll c s 0x01 (Config.freeWord s.freeCtr))) := by
  refine ⟨fun hk => ?_, patenForm_of_none h on⟩
  obtain ⟨t, b, ht, hb, hpatterns⟩ := patenForm_of_pattern h on hk
  refine ⟨t, b, ht, hb, by rw [hpatterns, List.length_modify], fun j => ?_⟩
  rw [hpatterns, List.getElem?_modify]
  by_cases hj : j = k.toNat
  · simp [hj]
  · simp [hj, Ne.symm hj]

end

theorem exec_jwait (w : BitVec 3) (k : BitVec 4) (s : State) : exec (.jwait w k) s = execJwait w k s := rfl

section
variable {w : BitVec 3} {k : BitVec 4} {s : State} {c : Ctx} (h : Issues (.jwait w k) s c)
include h

theorem exec_jwait_of_wake {p : Pattern} (hp : c.blk.patterns[k.toNat]? = some p) (hwake : p.wake = true) :
    exec (.jwait w k) s = .next (waits c (.jwait w k) s (.waitEvent (.jwait k.toNat))) := by
  rw [exec_jwait, execJwait, h.issueForm_eq, hp]
  exact congrArg Host.Outcome.next (if_pos hwake)

theorem exec_jwait_of_not_wake (hp : ∀ p, c.blk.patterns[k.toNat]? = some p → p.wake = false) :
    exec (.jwait w k) s = .next (parkAll c s 0x01 (Config.freeWord s.freeCtr)) := by
  rw [exec_jwait, execJwait, h.issueForm_eq]
  cases hget : c.blk.patterns[k.toNat]? with
  | none => rfl
  | some p => exact congrArg Host.Outcome.next (if_neg (ne_true_of_eq_false (hp p hget)))

end

/-- Settles O30: each clause is a branch of its form. -/
theorem patternsAndBarriers : Obligations.PatternsAndBarriers := by
  refine ⟨fun e he w k s c h => ?paten, fun w k s c => ⟨fun h => ⟨fun p => exec_jwait_of_wake h, exec_jwait_of_not_wake h⟩,
    fun h => ?bar, fun h => ?sbar⟩⟩
  case paten =>
    simp only [List.mem_cons, List.not_mem_nil, or_false] at he
    rcases he with rfl | rfl
    · exact paten_settled h true
    · exact paten_settled h false
  case bar => exact (h.issueForm_eq _).trans rfl
  case sbar => exact (h.issueForm_eq _).trans rfl

/-! ### PORTQ (R214) -/

theorem exec_portq (w : BitVec 3) (d a : Code) (s : State) : exec (.portq w d a) s = execPortq w d a s := rfl

/-- PORTQ's words (R214). -/
theorem decodeWords_portq (w : BitVec 3) (d a : Code) (b : BitVec 7) :
    decodeWords (w ++ 0xC5#8 ++ d ++ a ++ b) 0 0 = if b = 0 then .ok (.portq w d a) else .error .reservedField := by
  have hb : b &&& 127#7 = b := BitVec.and_allOnes
  simp [decodeWords, decodeClass6, hb]

/-- PORTQ's destination is an s-register or c0 (R214). -/
theorem dest_of_decodeOk_portq {h : Header} {m : BitVec 32} {w : BitVec 3} {d a : Code}
    (hok : decodeOk h m (.portq w d a) = true) : (64 ≤ d.toNat ∧ d.toNat < 96) ∨ d = 0x60 := by
  simp only [decodeOk, Bool.and_eq_true, List.all_eq_true] at hok
  obtain ⟨⟨⟨-, hops⟩, -⟩, -⟩ := hok
  have hd : operandOk h (modeType m) (dS d) = true := hops (dS d) (List.mem_cons_self ..)
  simp only [operandOk, dS] at hd
  by_cases hv : d.toNat < 64
  · simp [hv] at hd
  by_cases hs : d.toNat < 96
  · exact .inl ⟨not_lt.mp hv, hs⟩
  · by_cases hc0 : d.toNat = 96
    · exact .inr (BitVec.eq_of_toNat_eq hc0)
    · simp [hv, hs, hc0] at hd

theorem getLsbD_of_extractLsb' {x : BitVec 64} {n : Nat} {v : Bool} (h : x.extractLsb' n 1 = BitVec.ofBool v) :
    x.getLsbD n = v := by
  simpa using congrArg (·.getLsbD 0) h

/-- The layout of PORTQ's word (R214). -/
theorem portWord_fields (b : Block) (p : Nat) :
    (portWord b p).extractLsb' 32 32 = 0 ∧ (portWord b p).extractLsb' 16 16 = BitVec.ofNat 16 (b.port p).drops ∧
      (portWord b p).extractLsb' 10 6 = 0 ∧ (portWord b p).getLsbD 9 = (b.counting p).isSome ∧
      (portWord b p).getLsbD 8 = (b.port p).ovf ∧ (portWord b p).extractLsb' 4 4 = BitVec.ofNat 4 (b.port p).rsv ∧
      (b.counting p = none → (portWord b p).extractLsb' 0 4 = BitVec.ofNat 4 (b.port p).msgs.length) ∧
      (∀ f th, b.counting p = some (f, th) → (portWord b p).extractLsb' 0 4 = if th ≤ f.filled then 1 else 0) := by
  unfold portWord
  refine ⟨?_, ?_, ?_, getLsbD_of_extractLsb' ?_, getLsbD_of_extractLsb' ?_, ?_, fun hn => ?_, fun f th hn => ?_⟩
  case refine_7 | refine_8 => rw [hn]; simp
  all_goals simp

theorem not_portLegal_iff (b : Block) (v : BitVec 64) :
    ¬ (v &&& ~~~ (0x11F : BitVec 64) = 0 ∧ (v.extractLsb' 0 5).toNat < b.hdr.ports) ↔
      v &&& ~~~ (0x11F : BitVec 64) ≠ 0 ∨ b.hdr.ports ≤ (v.extractLsb' 0 5).toNat := by
  rw [not_and_or, not_lt]

/-- Settles O31: a legal PORTQ delivers the word of its port. -/
theorem portQueries : Obligations.PortQueries := by
  refine ⟨fun w d a s c h => ?exec, decodeWords_portq, fun h m w d a => dest_of_decodeOk_portq⟩
  intro v p x legal
  rw [exec_portq, execPortq, h.issueForm_eq]
  exact ⟨fun hbad => congrArg Host.Outcome.next (if_pos ((not_portLegal_iff c.blk v).mp hbad)), fun hlegal =>
    ⟨portWord c.blk p, congrArg Host.Outcome.next (if_neg (mt (not_portLegal_iff c.blk v).mpr (not_not.mpr hlegal))),
      portWord_fields c.blk p⟩⟩

/-! ### TRAP and BKPT (R217, R254) -/

theorem trapForm_settled {i : Instr} {s : State} {c : Ctx} (h : Issues i s c) (code : Nat) (k : BitVec 14) :
    (issueActive s c = 0 → trapForm i code k s = .next (complete c i s {})) ∧
    (issueActive s c ≠ 0 → trapForm i code k s = .next
      (takeFault c { code := code, lanes := issueActive s c, info := k.setWidth 64 } s (complete c i s {}))) := by
  rw [trapForm, h.issueForm_eq]
  exact ⟨fun h0 => congrArg Host.Outcome.next (if_pos h0), fun h0 => congrArg Host.Outcome.next (if_neg h0)⟩

/-! ### Service calls (R253, R400 to R402) -/

theorem darner_modBlock (s : State) (core b k : Nat) (f : Block → Block) :
    (coreOf (modBlock s core b f) k).darner = (coreOf s k).darner := by
  rw [modBlock, coreOf_modCore]
  split
  next hk => rw [hk]; rfl
  next => rfl

section
variable {s t : State} {c : Ctx}

theorem darner_enterReply (i : Instr) (w : Wait) (k : Nat) :
    (coreOf (enterReply c i s w) k).darner = (coreOf s k).darner :=
  ((darner_modBlock _ _ _ _ _).trans (darner_modBlock _ _ _ _ _)).trans
    (congrArg Core.darner (coreOf_of_cores_eq rfl k))

theorem blockOf_modFrag_ckpt {core : Nat} {r : FragRef} {b : Block} (hb : blockOf s core r.block = some b)
    (f : Fragment → Fragment) : ∃ b', blockOf (modFrag s core r f) core r.block = some b' ∧ b'.ckpt = b.ckpt := by
  refine ⟨b.modWave r.wave fun w => w.modFrag r.frag f, ?_, rfl⟩
  rw [modFrag, modWave, blockOf_modBlock, if_pos ⟨rfl, rfl⟩, hb]
  rfl

theorem blockOf_enterReply {b : Block} (hb : blockOf s c.core c.ref.block = some b) (i : Instr) (w : Wait) :
    ∃ b', blockOf (enterReply c i s w) c.core c.ref.block = some b' ∧ b'.ckpt = b.ckpt := by
  obtain ⟨b1, hb1, h1⟩ := blockOf_modFrag_ckpt (s := { s with freeCtr := s.freeCtr + 1 })
    ((blockOf_of_cores_eq rfl _ _).trans hb) fun f =>
      { f with st := .waitEvent w, waitSince := s.cycle, stallUntil := s.cycle + 1 + stallCount i, hist := {} :: f.hist.take 7,
               noCompare := false }
  obtain ⟨b2, hb2, h2⟩ := blockOf_modFrag_ckpt hb1 fun f => { f with waitSince := s.timebase }
  exact ⟨b2, hb2, h2.trans h1⟩

/-- A service that the Darner serves: the fragment waits, and the Darner is notified (R402). -/
theorem served_of (hf : fragOf t c.core c.ref = some c.frag) (ht : t.timebase = s.timebase)
    (hd : (coreOf t c.core).darner = (coreOf s c.core).darner) (i : Instr) (n : Nat) :
    StartsWait (notifyDarner (enterReply c i t (.service n)) c.core (.service c.ref n)) s c (.service n) ∧
    (coreOf (notifyDarner (enterReply c i t (.service n)) c.core (.service c.ref n)) c.core).darner.events =
      (coreOf s c.core).darner.events ++ [.service c.ref n] := by
  obtain ⟨g, hg, hst, hpc, hsince⟩ := fragOf_enterReply hf i (.service n)
  refine ⟨⟨g, (fragOf_notifyDarner _ _ _ _ _).trans hg, hst, hpc, hsince.trans ht⟩, ?_⟩
  rw [notifyDarner, coreOf_modCore, if_pos rfl]
  exact congrArg (·.events ++ _) ((darner_enterReply _ _ _).trans hd)

/-- A resilient block's service waits for the commit, of which the request is an effect (R430). -/
theorem held_of (hc : ctxOf s = some c) (i : Instr) (n : Nat) :
    ∃ b, StartsWait (enterReply c i (holdService s c n) .svcHeld) s c .svcHeld ∧
      blockOf (enterReply c i (holdService s c n) .svcHeld) c.core c.ref.block = some b ∧
      b.ckpt.effects = c.blk.ckpt.effects ++ [.svc c.ref n] ∧ b.ckpt.due = true := by
  obtain ⟨-, hblk, -, -⟩ := ctxOf_eq_some hc
  have hf : fragOf (holdService s c n) c.core c.ref = fragOf s c.core c.ref :=
    fragOf_modBlock_of_waves _ _ _ _ _ fun _ => rfl
  have hb : blockOf (holdService s c n) c.core c.ref.block = _ :=
    (blockOf_modBlock _ _ _ _ _ _).trans ((if_pos ⟨rfl, rfl⟩).trans (congrArg (Option.map _) hblk))
  obtain ⟨b, hb', hckpt⟩ := blockOf_enterReply hb i .svcHeld
  exact ⟨b, fragOf_enterReply (hf.trans (fragOf_ctx hc)) i .svcHeld, hb', by rw [hckpt], by rw [hckpt]⟩

end

section
variable {i : Instr} {s : State} {c : Ctx} (h : Issues i s c) (hsettled : storesSettled s c = true)
include h hsettled

theorem svcForm_of_supervisor (hsuper : c.frag.super = true) (n : Nat) (body : Ctx → State) :
    svcForm i n s body = .next (waits c i (emit s (.diborRequest c.core n)) (.waitEvent (.service n))) := by
  rw [svcForm, h.issueForm_eq]
  exact congrArg Host.Outcome.next ((if_neg (by rw [hsettled]; exact Bool.false_ne_true)).trans (if_pos hsuper))

variable (huser : c.frag.super = false)
include huser

theorem svcForm_of_user (n : Nat) (body : Ctx → State) : svcForm i n s body = .next (body c) := by
  rw [svcForm, h.issueForm_eq]
  exact congrArg Host.Outcome.next
    ((if_neg (by rw [hsettled]; exact Bool.false_ne_true)).trans (if_neg (ne_true_of_eq_false huser)))

theorem deviceService_of_refused {ok : Ctx → Bool} (n : Nat) (hok : (ok c && channelSizeOk s c.core c.blk.asid) = false) :
    deviceService i n s ok = .next (parkAll c s 0x01 (Config.freeWord s.freeCtr)) := by
  rw [deviceService, svcForm_of_user h hsettled huser]
  exact congrArg Host.Outcome.next (if_pos (by rw [hok]; rfl))

theorem deviceService_of_held {ok : Ctx → Bool} {n : Nat} (hok : (ok c && channelSizeOk s c.core c.blk.asid) = true)
    (hn : (c.blk.hdr.resilient && decide (n < 0x3F83)) = true) :
    deviceService i n s ok = .next (enterReply c i (holdService s c n) .svcHeld) := by
  rw [deviceService, svcForm_of_user h hsettled huser]
  exact congrArg Host.Outcome.next ((if_neg (by rw [hok]; exact Bool.false_ne_true)).trans (if_pos hn))

theorem deviceService_of_served {ok : Ctx → Bool} {n : Nat} (hok : (ok c && channelSizeOk s c.core c.blk.asid) = true)
    (hn : (c.blk.hdr.resilient && decide (n < 0x3F83)) = false) :
    deviceService i n s ok = .next (notifyDarner
      (enterReply c i (forceCheckpoint s c.core c.ref.block) (.service n)) c.core (.service c.ref n)) := by
  rw [deviceService, svcForm_of_user h hsettled huser]
  exact congrArg Host.Outcome.next
    ((if_neg (by rw [hok]; exact Bool.false_ne_true)).trans (if_neg (ne_true_of_eq_false hn)))

end

theorem served_forceCheckpoint {s : State} {c : Ctx} (hc : ctxOf s = some c) (i : Instr) (n : Nat) :
    StartsWait (notifyDarner (enterReply c i (forceCheckpoint s c.core c.ref.block) (.service n)) c.core (.service c.ref n))
      s c (.service n) ∧
    (coreOf (notifyDarner (enterReply c i (forceCheckpoint s c.core c.ref.block) (.service n)) c.core
      (.service c.ref n)) c.core).darner.events = (coreOf s c.core).darner.events ++ [.service c.ref n] :=
  served_of (s := s) ((fragOf_forceCheckpoint _ _ _ _ _).trans (fragOf_ctx hc)) rfl (darner_modBlock _ _ _ _ _) i n

/-! #### Host services (R401) -/

theorem exec_svc (w : BitVec 3) (k : BitVec 14) (s : State) : exec (.svc w k) s = execSvc w k s := rfl

section
variable {w : BitVec 3} {k : BitVec 14} {s : State} {c : Ctx} (h : Issues (.svc w k) s c)
  (hsettled : storesSettled s c = true) (huser : c.frag.super = false)
include h hsettled huser

theorem exec_svc_of_device (hk : 0x3F80 ≤ k.toNat) :
    exec (.svc w k) s = .next (parkAll c s 0x01 (Config.freeWord s.freeCtr)) := by
  rw [exec_svc, execSvc, svcForm_of_user h hsettled huser]
  exact congrArg Host.Outcome.next (if_pos hk)

variable (hkept : nothingKept c) (hk : k.toNat < 0x3F80)
include hkept hk

theorem exec_svc_of_resilient (hr : c.blk.hdr.resilient = true) :
    exec (.svc w k) s = .next (enterReply c (.svc w k) (holdService s c k.toNat) .svcHeld) := by
  rw [exec_svc, execSvc, svcForm_of_user h hsettled huser, if_neg hk.not_ge, hkept, Option.bind_none]
  exact congrArg Host.Outcome.next (if_pos hr)

variable (hr : c.blk.hdr.resilient = false)
include hr

theorem exec_svc_of_done {t : State} {tag : Nat}
    (hreq : svcRequest s c.core c.blk c.wave.idx c.frag k.toNat = .done t tag) :
    exec (.svc w k) s = .next (enterReply c (.svc w k) t (.svcReply tag)) := by
  rw [exec_svc, execSvc, svcForm_of_user h hsettled huser, if_neg hk.not_ge, hkept, Option.bind_none]
  dsimp only
  rw [if_neg (ne_true_of_eq_false hr), hreq]

theorem exec_svc_of_full (hreq : svcRequest s c.core c.blk c.wave.idx c.frag k.toNat = .full) :
    exec (.svc w k) s = .next (waitEvent s c .svcSpace) := by
  rw [exec_svc, execSvc, svcForm_of_user h hsettled huser, if_neg hk.not_ge, hkept, Option.bind_none]
  dsimp only
  rw [if_neg (ne_true_of_eq_false hr), hreq]

theorem exec_svc_of_fault {code access : Nat} {info : BitVec 64} {walk : Bool}
    (hreq : svcRequest s c.core c.blk c.wave.idx c.frag k.toNat = .fault code info access walk) :
    exec (.svc w k) s = .next (svcFault c code info access walk s) := by
  rw [exec_svc, execSvc, svcForm_of_user h hsettled huser, if_neg hk.not_ge, hkept, Option.bind_none]
  dsimp only
  rw [if_neg (ne_true_of_eq_false hr), hreq]

end

/-! #### Device services (R402) -/

theorem exec_service {e : (BitVec 3 → Instr) × Nat} (he : e ∈ services) (w : BitVec 3) (s : State) :
    exec (e.1 w) s = deviceService (e.1 w) e.2 s (fun _ => true) ∧ e.2 < 0x3F83 := by
  simp only [services, List.mem_cons, List.not_mem_nil, or_false] at he
  rcases he with rfl | rfl | rfl
  · exact ⟨rfl, by decide⟩
  · exact ⟨rfl, by decide⟩
  · exact ⟨rfl, by decide⟩

/-- The signal table's RETCODE makes a code the context's SIGRET (R402, R406). -/
def sigretOk (k : BitVec 14) (s : State) (c : Ctx) : Bool :=
  match sigTable s c.core c.blk.asid with
  | none => false
  | some t => 0x3F84 ≤ k.toNat && sigRetcode t == k.toNat

theorem exec_sigret (w : BitVec 3) (k : BitVec 14) (s : State) :
    exec (.svcSigret w k) s = deviceService (.svcSigret w k) k.toNat s (sigretOk k s) := rfl

theorem sigretOk_of_table {k : BitVec 14} {s : State} {c : Ctx} {t : _} (ht : sigTable s c.core c.blk.asid = some t)
    (hcode : sigRetcode t = k.toNat) (hk : 0x3F84 ≤ k.toNat) : sigretOk k s c = true := by
  rw [sigretOk, ht]
  simp [hcode, hk]

theorem sigretOk_of_not_table {k : BitVec 14} {s : State} {c : Ctx}
    (hcode : ∀ t, sigTable s c.core c.blk.asid = some t → sigRetcode t ≠ k.toNat) : sigretOk k s c = false := by
  unfold sigretOk
  cases ht : sigTable s c.core c.blk.asid with
  | none => rfl
  | some t => simp [hcode t ht]

/-- Every service call starts alike (R253). -/
theorem exec_eq_svcForm {w : BitVec 3} {k : BitVec 14} {i : Instr} {n : Nat}
    (hi : (i, n) ∈ services.map (fun e => (e.1 w, e.2)) ++ [(.svc w k, k.toNat), (.svcSigret w k, k.toNat)]) (s : State) :
    ∃ body, exec i s = svcForm i n s body := by
  simp only [services, List.map_cons, List.map_nil, List.cons_append, List.nil_append, List.mem_cons, List.not_mem_nil,
    or_false, Prod.mk.injEq] at hi
  rcases hi with ⟨rfl, rfl⟩ | ⟨rfl, rfl⟩ | ⟨rfl, rfl⟩ | ⟨rfl, rfl⟩ | ⟨rfl, rfl⟩
  · exact ⟨_, (execSvcWdog.eq_1 w s).trans (deviceService.eq_1 ..)⟩
  · exact ⟨_, (execSvcDebug.eq_1 w s).trans (deviceService.eq_1 ..)⟩
  · exact ⟨_, (execSvcCollreg.eq_1 w s).trans (deviceService.eq_1 ..)⟩
  · exact ⟨_, (exec_svc w k s).trans (execSvc.eq_1 w k s)⟩
  · exact ⟨_, (exec_sigret w k s).trans (deviceService.eq_1 ..)⟩

/-- Settles O32: the clauses are the branches of TRAP, BKPT and the services. -/
theorem trapsAndServiceCalls : Obligations.TrapsAndServiceCalls := by
  refine ⟨fun e he w k s c h => ?traps, fun w k s c hsettled => ?services⟩
  case traps =>
    simp only [List.mem_cons, List.not_mem_nil, or_false] at he
    rcases he with rfl | rfl
    · exact trapForm_settled h 0x14 k
    · exact trapForm_settled h 0x13 k
  case services =>
    intro free served held
    have hserved (i : Instr) (n : Nat) (hc : ctxOf s = some c) (hexec : exec i s = _) : served i n :=
      ⟨_, hexec, served_forceCheckpoint hc i n⟩
    have hheld (i : Instr) (n : Nat) (hc : ctxOf s = some c)
        (hexec : exec i s = .next (enterReply c i (holdService s c n) .svcHeld)) : held i n := by
      obtain ⟨b, hwait, hb, heffects, hdue⟩ := held_of hc i n
      exact ⟨_, b, hexec, hwait, hb, heffects, hdue⟩
    refine ⟨fun hsuper i n hi h => ?supervisor, fun huser hkept => ⟨fun h => exec_svc_of_device h hsettled huser,
      fun h hk hr => hheld _ _ h.ctxOf_eq (exec_svc_of_resilient h hsettled huser hkept hk hr), fun h hk hr =>
        ⟨fun t tag hreq => ?request, exec_svc_of_full h hsettled huser hkept hk hr,
          fun code info access walk => exec_svc_of_fault h hsettled huser hkept hk hr⟩,
      fun e he h => ?device, fun h => ?sigret⟩⟩
    case supervisor =>
      obtain ⟨body, hexec⟩ := exec_eq_svcForm hi s
      exact hexec.trans (svcForm_of_supervisor h hsettled hsuper n body)
    case request =>
      refine ⟨_, exec_svc_of_done h hsettled huser hkept hk hr hreq, rfl, rfl, fun f hf => ?_⟩
      exact fragOf_enterReply hf _ _
    case device =>
      obtain ⟨hexec, hn⟩ := exec_service he w s
      refine ⟨fun hok hr => hserved _ _ h.ctxOf_eq ?_, fun hok hr => hheld _ _ h.ctxOf_eq ?_, fun hok => ?_⟩
      · exact hexec.trans (deviceService_of_served h hsettled huser hok (by rw [hr, Bool.false_and]))
      · exact hexec.trans (deviceService_of_held h hsettled huser hok (by rw [hr, decide_eq_true hn]; rfl))
      · exact hexec.trans (deviceService_of_refused h hsettled huser _ hok)
    case sigret =>
      refine ⟨fun t ht hcode hk hok => hserved _ _ h.ctxOf_eq ?_, fun hcode => ?_⟩
      · refine (exec_sigret w k s).trans (deviceService_of_served h hsettled huser ?_ ?_)
        · rw [sigretOk_of_table ht hcode hk, hok, Bool.and_self]
        · rw [decide_eq_false (by omega), Bool.and_false]
      · refine (exec_sigret w k s).trans (deviceService_of_refused h hsettled huser _ ?_)
        rw [sigretOk_of_not_table hcode, Bool.false_and]

end Sys2Proof.Claims
end

section
/-! Delivery of messages and of a SEND's answer (R209 to R211, R311, R318, R319, R322). -/

namespace Sys2Proof.Machine

/-- What a write puts into a sparse table is read back there, in a table of any form, but for the default. -/
theorem cellGet_cellSet_self {α : Type} [DecidableEq α] {d v : α} (hv : v ≠ d) (k : Nat) (l : Cells α) :
    cellGet d k (cellSet d k v l) = v := by
  induction l with
  | nil => simp [cellSet, cellGet, hv]
  | cons e r ih =>
    obtain ⟨a, x⟩ := e
    rcases Nat.lt_trichotomy k a with hka | rfl | hka
    · simp [cellSet, cellGet, hka, hv]
    · simp [cellSet, cellGet, hv]
    · simp [cellSet, cellGet, ih, Nat.not_lt.mpr hka.le, hka.ne', hka.ne]

theorem port_putMsg (b : Block) (p : Nat) (m : Msg) :
    (b.putMsg p m).port p = { b.port p with msgs := (b.port p).msgs ++ [m] } :=
  cellGet_cellSet_self (fun h => List.append_ne_nil_of_right_ne_nil _ (List.cons_ne_nil _ _) (congrArg Port.msgs h)) _ _

/-- A fragment can be placed in focus exactly as its parts are found. -/
theorem placeCtx_of_parts {s : State} {core : Nat} {r : FragRef} {b : Block} {w : Wave} {f : Fragment}
    (hb : blockOf s core r.block = some b) (hw : b.wave? r.wave = some w) (hf : w.frag? r.frag = some f) :
    placeCtx s core r = some ⟨core, r, b, w, f⟩ := by
  have hb' : blockOf { s with focus := some ⟨core, r⟩ } core r.block = some b := (blockOf_of_cores_eq rfl _ _).trans hb
  rw [placeCtx, ctxOf]
  dsimp only
  rw [hb']
  dsimp only
  rw [hw]
  dsimp only
  rw [hf]

/-! ### A message at its port (R311, R319) -/

section
variable {s : State} {c h : Nat} {b : Block} (hb : blockOf s c h = some b) {p : Nat}
include hb

theorem offerPort_of_noRoom (hroom : b.hasRoom p = false) (m : Msg) (outside : Bool) :
    offerPort s c h p m outside = (s, false) := by
  rw [offerPort, hb]
  exact if_neg (ne_true_of_eq_false hroom)

theorem offerPort_of_room (hroom : b.hasRoom p = true) (m : Msg) (outside : Bool) :
    ∃ t b', offerPort s c h p m outside = (t, true) ∧ blockOf t c h = some b' ∧ t.net = s.net ∧
      (b'.port p).msgs = (b.port p).msgs ++ [{ m with seen := s.cycle + 1 }] := by
  rw [offerPort, hb]
  refine ⟨_, _, if_pos hroom, (blockOf_modBlock _ _ _ _ _ _).trans ((if_pos ⟨rfl, rfl⟩).trans (congrArg (Option.map _) hb)),
    rfl, ?_⟩
  dsimp only
  split <;> exact congrArg Port.msgs (port_putMsg b p _)

end

section
variable {s : State} {m : NetMsg} (harrive : mayArrive s m = true)
include harrive

theorem deliverMessage_of_room {c h : Nat} (hplace : placeOfBlock s m.launch m.lin = .resident c h) {t : State}
    (hoffer : offerPort s c h m.port m.msg (m.lin != m.senderLin) = (t, true)) :
    deliverMessage s m = settleNet t m false false := by
  rw [deliverMessage, if_pos harrive, hplace]
  dsimp only
  rw [hoffer]

theorem deliverMessage_of_noRoom {c h : Nat} (hplace : placeOfBlock s m.launch m.lin = .resident c h) {t : State}
    (hoffer : offerPort s c h m.port m.msg (m.lin != m.senderLin) = (t, false)) :
    deliverMessage s m = settleNet (if m.confirm then t else dropAtPort t c h m.port) m true false := by
  rw [deliverMessage, if_pos harrive, hplace]
  dsimp only
  rw [hoffer]

theorem deliverMessage_of_gone (hplace : placeOfBlock s m.launch m.lin = .gone) :
    deliverMessage s m = settleNet (if m.confirm then s else notifySender s m) m true true := by
  rw [deliverMessage, if_pos harrive, hplace]

end

/-! ### The answer at the sender (R209, R318) -/

section
variable {s : State} {core : Nat} {r : FragRef} {x : Fragment} {n bytes : Nat} {dst : BitVec 64} {full retired : Bool}

theorem awaits_of_sendReply (hst : x.st = .waitEvent (.sendReply n dst bytes)) : x.awaits n = some (dst, bytes) := by
  rw [Fragment.awaits, hst]
  exact if_pos rfl

/-- The answer ends the wait of the fragment that it reaches. -/
theorem confirmTo_of_waiting {c : Ctx} (hc : placeCtx s core r = some c) (hst : c.frag.st = .waitEvent (.sendReply n dst bytes)) :
    confirmTo s core r n full retired =
      if full then sendFull c dst retired s else modFrag s core r fun f => passWait f bytes := by
  rw [confirmTo, hc]
  dsimp only
  rw [awaits_of_sendReply hst]

end

end Sys2Proof.Machine

namespace Sys2Proof.Claims

open Sys2Proof.Machine

theorem exec_messageDelivery {s : State} {m : NetMsg} (hm : netMsgOf s s.subject.ident = some m) :
    exec .messageDelivery s = .next (deliverMessage s m) := by
  rw [show exec .messageDelivery s = execMessageDelivery s from rfl, execMessageDelivery, hm]

theorem exec_sendConfirmation {s : State} {m : NetMsg} (hm : netMsgOf s s.subject.ident = some m) {full retired : Bool}
    {core block : Nat} {w : Wave} {x : Fragment} (hanswer : m.answer = some (full, retired))
    (hplace : residentBlock s m.senderLaunch m.senderLin = some (core, block))
    (hw : waveOf s core block m.sender.wave = some w)
    (hx : (w.frags.find? fun g => (g.awaits m.ident).isSome || g.keeps true m.ident) = some x) :
    exec .sendConfirmation s =
      .next (confirmTo (dropNet s m.ident) core ⟨block, m.sender.wave, x.id⟩ m.ident full retired) := by
  have hplace' : residentBlock (dropNet s m.ident) m.senderLaunch m.senderLin = some (core, block) := hplace
  have hw' : waveOf (dropNet s m.ident) core block m.sender.wave = some w := (waveOf_of_cores_eq rfl _ _ _).trans hw
  rw [show exec .sendConfirmation s = execSendConfirmation s from rfl, execSendConfirmation, hm]
  dsimp only
  rw [hanswer]
  dsimp only
  rw [hplace']
  dsimp only
  rw [hw', Option.bind_some, hx]

/-- Settles O38: the clauses are the branches of a delivery and of a confirmation. -/
theorem messageEvents : Obligations.MessageEvents := by
  refine ⟨fun s => ⟨⟨_, rfl⟩, _, rfl⟩, fun s m hm => ?_⟩
  intro full taken
  refine ⟨fun harrive => ⟨?room, ?noRoom, ?goneSend, ?goneSendp⟩, ?answer⟩
  case room =>
    intro c h b hplace hb hroom
    obtain ⟨t, b', hoffer, hb', hnet, hmsgs⟩ := offerPort_of_room hb hroom m.msg (m.lin != m.senderLin)
    refine ⟨settleNet t m false false, b', ?_, ?_, hmsgs, ?_⟩
    · exact (exec_messageDelivery hm).trans (congrArg _ (deliverMessage_of_room harrive hplace hoffer))
    · unfold settleNet
      split
      · exact (blockOf_of_cores_eq rfl _ _).trans hb'
      · exact (blockOf_of_cores_eq rfl _ _).trans hb'
    · unfold settleNet
      split
      · exact congrArg (List.map _) hnet
      · exact congrArg (List.filter _) hnet
  case noRoom =>
    intro c h b hplace hb hroom
    have hoffer := offerPort_of_noRoom hb hroom m.msg (m.lin != m.senderLin)
    rw [exec_messageDelivery hm, deliverMessage_of_noRoom harrive hplace hoffer, settleNet]
    cases m.confirm <;> rfl
  case goneSend =>
    intro hplace hconfirm
    rw [exec_messageDelivery hm, deliverMessage_of_gone harrive hplace, settleNet, hconfirm]
    rfl
  case goneSendp =>
    intro hplace hconfirm told
    have htold : notifySender s m = told := by
      unfold notifySender
      dsimp only [told]
      cases residentBlock s m.senderLaunch m.senderLin <;> rfl
    rw [exec_messageDelivery hm, deliverMessage_of_gone harrive hplace, settleNet, hconfirm, htold]
    rfl
  case answer =>
    intro f r core block w x hanswer hplace hw hx
    have hexec := exec_sendConfirmation hm hanswer hplace hw hx
    refine ⟨hexec, fun dst bytes hfrag hst => ?_⟩
    obtain ⟨b, hb, hwave⟩ := Option.bind_eq_some_iff.mp hw
    have hc : placeCtx taken core ⟨block, m.sender.wave, x.id⟩ = some ⟨core, _, b, w, x⟩ :=
      placeCtx_of_parts ((blockOf_of_cores_eq rfl _ _).trans hb) hwave hfrag
    have hdone := hexec.trans (congrArg _ (confirmTo_of_waiting hc hst))
    refine ⟨fun hf => ?_, fun hf c' hc' => ?_⟩
    · subst hf
      exact hdone
    · subst hf
      obtain rfl : _ = c' := Option.some.inj (hc.symm.trans hc')
      exact hdone

end Sys2Proof.Claims
end

section
/-! FRAMES of memory operations: what a write, a retirement of exact sums, a read-modify-write and a translation leave of the
cores and of memory. -/

namespace Sys2Proof.Machine

/-! ### Device pages and the record of replaced words -/

theorem regroup_keeps (s : State) (q : Nat) (d : BitVec 256) :
    (regroup s q d).cores = s.cores ∧ (regroup s q d).exactSums = s.exactSums := by
  unfold regroup
  split
  · exact ⟨rfl, rfl⟩
  · dsimp only
    split <;> exact ⟨rfl, rfl⟩

theorem governQueue_keeps (s : State) (q : Nat) :
    (governQueue s q).cores = s.cores ∧ (governQueue s q).exactSums = s.exactSums := by
  unfold governQueue
  split
  · exact ⟨rfl, rfl⟩
  · exact regroup_keeps (modQueue s q Queue.governed) q _

theorem dropPost_keeps (s : State) (p : DevicePage) :
    (dropPost s p).cores = s.cores ∧ (dropPost s p).exactSums = s.exactSums := by
  cases p <;> exact ⟨rfl, rfl⟩

/-- A write to a device page reaches no core and no exact sum. -/
theorem deviceWrite_keeps (s : State) (pa : Nat) (bs : List Byte) :
    (deviceWrite s pa bs).cores = s.cores ∧ (deviceWrite s pa bs).exactSums = s.exactSums := by
  unfold deviceWrite
  split
  · split
    · exact governQueue_keeps s _
    · exact ⟨rfl, rfl⟩
  · split
    · exact dropPost_keeps s _
    · exact ⟨rfl, rfl⟩

/-! ### Exact sums -/

@[simp] theorem retireSum_cores (s : State) (x : ExactSum) : (retireSum s x).cores = s.cores := rfl

@[simp] theorem retireRange_cores (s : State) (pa n : Nat) : (retireRange s pa n).cores = s.cores :=
  foldl_keeps (part := State.cores) retireSum_cores _ _

theorem exactSums_foldl_retireSum (l : List ExactSum) (s : State) :
    (l.foldl retireSum s).exactSums = s.exactSums.filter fun x => !l.contains x := by
  induction l generalizing s with
  | nil => exact (List.filter_eq_self.mpr fun _ _ => rfl).symm
  | cons y r ih =>
    rw [List.foldl_cons, ih]
    refine (List.filter_filter ..).trans (List.filter_congr fun x _ => ?_)
    rw [List.contains_cons, Bool.not_or, Bool.and_comm]
    rfl

/-- A retirement leaves the exact sums that its range does not meet (R199). -/
theorem mem_exactSums_retireRange {s : State} {pa n : Nat} {x : ExactSum} :
    x ∈ (retireRange s pa n).exactSums ↔ x ∈ s.exactSums ∧ rangesMeet pa n x.pa x.size = false := by
  rw [retireRange, exactSums_foldl_retireSum, List.mem_filter]
  refine and_congr_right fun hx => ?_
  simp [hx]

end Sys2Proof.Machine

namespace Sys2Proof.Claims

open Sys2Proof.Machine

/-! ### Cores -/

/-- What a memory operation leaves of the cores: the waves, the store-fault records, and core SRAM but for the bytes `r` of each
core. -/
structure CoreFrame (r : Nat → Set Nat) (s t : State) : Prop where
  waves : ∀ k b w, waveOf t k b w = waveOf s k b w
  records : ∀ k, (coreOf t k).records = (coreOf s k).records
  popped : ∀ k, (coreOf t k).popped = (coreOf s k).popped
  sram : ∀ k, r k = ∅ → (coreOf t k).sram = (coreOf s k).sram
  sramWf : ∀ k, cellsWf 0 (coreOf s k).sram = true → cellsWf 0 (coreOf t k).sram = true
  sramByte : ∀ k a, cellsWf 0 (coreOf s k).sram = true → a ∉ r k →
    cellGet 0 a (coreOf t k).sram = cellGet 0 a (coreOf s k).sram

/-- Core SRAM stays as it is. -/
abbrev noSram (_ : Nat) : Set Nat := ∅

namespace CoreFrame

variable {r : Nat → Set Nat} {s t u : State}

theorem refl (r : Nat → Set Nat) (s : State) : CoreFrame r s s :=
  ⟨fun _ _ _ => rfl, fun _ => rfl, fun _ => rfl, fun _ _ => rfl, fun _ => id, fun _ _ _ _ => rfl⟩

theorem trans (h : CoreFrame r s t) (h' : CoreFrame r t u) : CoreFrame r s u where
  waves k b w := (h'.waves k b w).trans (h.waves k b w)
  records k := (h'.records k).trans (h.records k)
  popped k := (h'.popped k).trans (h.popped k)
  sram k hk := (h'.sram k hk).trans (h.sram k hk)
  sramWf k hk := h'.sramWf k (h.sramWf k hk)
  sramByte k a hk ha := (h'.sramByte k a (h.sramWf k hk) ha).trans (h.sramByte k a hk ha)

/-- What keeps all of core SRAM keeps it outside any bytes. -/
theorem weaken (h : CoreFrame noSram s t) : CoreFrame r s t where
  waves := h.waves
  records := h.records
  popped := h.popped
  sram k _ := h.sram k rfl
  sramWf := h.sramWf
  sramByte k a hk _ := h.sramByte k a hk (Set.notMem_empty a)

/-- A state in which every core's waves, records and SRAM are the same. -/
theorem of_eq (hwaves : ∀ k b w, waveOf t k b w = waveOf s k b w)
    (hcores : ∀ k, (coreOf t k).records = (coreOf s k).records ∧ (coreOf t k).popped = (coreOf s k).popped ∧
      (coreOf t k).sram = (coreOf s k).sram) : CoreFrame r s t where
  waves := hwaves
  records k := (hcores k).1
  popped k := (hcores k).2.1
  sram k _ := (hcores k).2.2
  sramWf k hk := (hcores k).2.2.symm ▸ hk
  sramByte k a _ _ := congrArg (cellGet 0 a) (hcores k).2.2

theorem of_cores_eq (h : t.cores = s.cores) : CoreFrame r s t :=
  of_eq (waveOf_of_cores_eq h) fun k => by rw [coreOf_of_cores_eq h]; exact ⟨rfl, rfl, rfl⟩

/-- The update of a core in other parts. -/
theorem modCore (c : Nat) {f : Core → Core} (hf : ∀ x, (f x).blocks = x.blocks ∧ (f x).records = x.records ∧
    (f x).popped = x.popped ∧ (f x).sram = x.sram) : CoreFrame r s (Machine.modCore s c f) := by
  refine of_eq (fun k b w => waveOf_modCore_of_blocks s c k b w fun x => (hf x).1) fun k => ?_
  rw [coreOf_modCore]
  split
  next hk => rw [hk]; exact (hf _).2
  next => exact ⟨rfl, rfl, rfl⟩

/-- The update of a block that keeps its waves. -/
theorem modBlock (c b : Nat) {f : Block → Block} (hf : ∀ x, (f x).waves = x.waves) :
    CoreFrame r s (Machine.modBlock s c b f) := by
  refine of_eq (fun k j w => waveOf_modBlock_of_waves s c b k j w hf) fun k => ?_
  rw [Machine.modBlock, coreOf_modCore]
  split
  next hk => rw [hk]; exact ⟨rfl, rfl, rfl⟩
  next => exact ⟨rfl, rfl, rfl⟩

theorem foldl {α : Type} {f : State → α → State} (h : ∀ s a, CoreFrame r s (f s a)) (l : List α) (s : State) :
    CoreFrame r s (l.foldl f s) := by
  induction l generalizing s with
  | nil => exact refl r s
  | cons a l ih => exact (h s a).trans (ih _)

end CoreFrame

section
variable {r : Nat → Set Nat} (s : State)

theorem coreFrame_clearL1 (c : Nat) (f : List Nat → List Nat) :
    CoreFrame r s (if (coreOf s c).l1Poison.isEmpty then s else modCore s c fun k => { k with l1Poison := f k.l1Poison }) := by
  split
  · exact .refl r s
  · exact .modCore c fun _ => ⟨rfl, rfl, rfl, rfl⟩

theorem coreFrame_noteWrite (o : Owner) (pa : Nat) (bs : List Byte) : CoreFrame r s (noteWrite s o pa bs) := by
  cases o with
  | none => exact .refl r s
  | some e =>
    have hnote : CoreFrame r s (match blockOf s e.1 e.2 with
        | some k => noteWords s k.launch (if k.hdr.resilient then some k else none) pa bs
        | none => s) := by
      split
      · exact .of_cores_eq rfl
      · exact .refl r s
    exact hnote.trans (coreFrame_clearL1 _ e.1 fun l => clearPoison 4 l pa bs.length)

theorem coreFrame_physPut (o : Owner) (pa : Nat) (bs : List Byte) : CoreFrame r s (physPut s o pa bs) := by
  unfold physPut
  split
  · exact .modBlock _ _ fun _ => by dsimp only; split <;> rfl
  · split
    · exact .of_cores_eq (deviceWrite_keeps s pa bs).1
    · exact .of_cores_eq (retireRange_cores s pa bs.length)

theorem coreFrame_physWrite (o : Owner) (pa : Nat) (bs : List Byte) : CoreFrame r s (physWrite s o pa bs) := by
  have hnote : CoreFrame r s (if paRegion pa = 3 then s else noteWrite s o pa bs) := by
    split
    · exact .refl r s
    · exact coreFrame_noteWrite s o pa bs
  exact hnote.trans (coreFrame_physPut _ o pa bs)

end

/-! ### Memory -/

/-- What a memory operation leaves of memory: its form, and, at an address outside `m` to which no exact sum is bound, the byte,
to which none is bound then. -/
structure MemFrame (m : Set Nat) (s t : State) : Prop where
  memOk : s.memOk → t.memOk
  sums : ∀ a, a ∉ m → noSumAt s a → noSumAt t a
  bytes : s.memOk → ∀ a, a ∉ m → noSumAt s a → t.byteAt a = s.byteAt a

namespace MemFrame

variable {m n : Set Nat} {s t u : State}

theorem refl (m : Set Nat) (s : State) : MemFrame m s s := ⟨id, fun _ _ => id, fun _ _ _ _ => rfl⟩

theorem trans (h : MemFrame m s t) (h' : MemFrame m t u) : MemFrame m s u where
  memOk hs := h'.memOk (h.memOk hs)
  sums a ha hx := h'.sums a ha (h.sums a ha hx)
  bytes hs a ha hx := (h'.bytes (h.memOk hs) a ha (h.sums a ha hx)).trans (h.bytes hs a ha hx)

theorem mono (h : MemFrame m s t) (hmn : m ⊆ n) : MemFrame n s t where
  memOk := h.memOk
  sums a ha := h.sums a fun hm => ha (hmn hm)
  bytes hs a ha := h.bytes hs a fun hm => ha (hmn hm)

theorem of_eq (hmem : t.mem = s.mem) (hsums : ∀ x ∈ t.exactSums, x ∈ s.exactSums) : MemFrame m s t where
  memOk hs := memOk_of_mem_eq hmem hs
  sums _ _ hx x hm := hx x (hsums x hm)
  bytes _ a _ _ := congrArg (cellGet unwrittenByte a) hmem

end MemFrame

theorem exactSums_physPut {s : State} {o : Owner} {pa : Nat} {bs : List Byte} {x : ExactSum}
    (h : x ∈ (physPut s o pa bs).exactSums) : x ∈ s.exactSums := by
  unfold physPut at h
  split at h
  · exact h
  · split at h
    · rwa [(deviceWrite_keeps s pa bs).2] at h
    · exact (mem_exactSums_retireRange.mp h).1

/-- A write of an agent adds no exact sum. -/
theorem exactSums_physWrite {s : State} {o : Owner} {pa : Nat} {bs : List Byte} {x : ExactSum}
    (h : x ∈ (physWrite s o pa bs).exactSums) : x ∈ s.exactSums := by
  have hput := exactSums_physPut h
  split at hput
  · exact hput
  · rwa [noteWrite_exactSums] at hput

theorem memFrame_physWrite (s : State) (o : Owner) (pa : Nat) (bs : List Byte) :
    MemFrame {a | pa ≤ a ∧ a < pa + bs.length} s (physWrite s o pa bs) where
  memOk := physWrite_memOk o pa bs
  sums _ _ hx x hm := hx x (exactSums_physWrite hm)
  bytes hs a ha hx := byteAt_physWrite_outside hs o (by by_contra hno; exact ha ⟨by omega, by omega⟩) hx

theorem memFrame_retireRange (m : Set Nat) (s : State) (pa n : Nat) : MemFrame m s (retireRange s pa n) where
  memOk := retireRange_memOk pa n
  sums _ _ hx x hm := hx x (mem_exactSums_retireRange.mp hm).1
  bytes hs _ _ hx := byteAt_retireRange hs hx

/-! ### Accesses of a store -/

/-- The bytes of memory that an access at `l` may change. -/
def memoryAt (x : Store) (l : Set Nat) : Set Nat :=
  match x with
  | .phys _ => l
  | .sram _ => ∅

/-- The bytes of core SRAM that an access at `l` may change. -/
def sramAt (x : Store) (l : Set Nat) (k : Nat) : Set Nat :=
  match x with
  | .phys _ => ∅
  | .sram c => if k = c then l else ∅

/-- What an access at the bytes `l` of a store leaves. -/
structure StoreFrame (x : Store) (l : Set Nat) (s t : State) : Prop where
  cores : CoreFrame (sramAt x l) s t
  mem : MemFrame (memoryAt x l) s t

namespace StoreFrame

variable {x : Store} {l m : Set Nat} {s t u : State}

theorem refl (x : Store) (l : Set Nat) (s : State) : StoreFrame x l s s := ⟨.refl _ s, .refl _ s⟩

theorem trans (h : StoreFrame x l s t) (h' : StoreFrame x l t u) : StoreFrame x l s u :=
  ⟨h.cores.trans h'.cores, h.mem.trans h'.mem⟩

theorem phys {o : Owner} (hc : CoreFrame noSram s t) (hm : MemFrame l s t) : StoreFrame (.phys o) l s t := ⟨hc, hm⟩

theorem mono (h : StoreFrame x l s t) (hlm : l ⊆ m) : StoreFrame x m s t := by
  cases x with
  | phys o => exact ⟨h.cores, h.mem.mono hlm⟩
  | sram c =>
    refine ⟨{ h.cores with sram := fun k hk => h.cores.sram k ?_, sramByte := fun k a hwf ha => h.cores.sramByte k a hwf ?_ },
      h.mem⟩
    · unfold sramAt at hk ⊢
      dsimp only at hk ⊢
      split
      next hkc => rw [if_pos hkc] at hk; exact Set.subset_eq_empty hlm hk
      next => rfl
    · unfold sramAt at ha ⊢
      dsimp only at ha ⊢
      split
      next hkc => rw [if_pos hkc] at ha; exact fun hl => ha (hlm hl)
      next => exact id

theorem foldl {α : Type} {f : State → α → State} {r : List α} (h : ∀ e ∈ r, ∀ s, StoreFrame x l s (f s e)) (s : State) :
    StoreFrame x l s (r.foldl f s) := by
  induction r generalizing s with
  | nil => exact refl x l s
  | cons e r ih => exact (h e List.mem_cons_self s).trans (ih (fun e he => h e (List.mem_cons_of_mem _ he)) _)

end StoreFrame

/-- The bytes from `a` on, `n` of them. -/
abbrev byteRun (a n : Nat) : Set Nat := {j | a ≤ j ∧ j < a + n}

/-- The bytes of a list. -/
abbrev bytesOf (l : List Nat) : Set Nat := {j | j ∈ l}

theorem coreFrame_sramWrite (s : State) (c a : Nat) (bs : List Byte) :
    CoreFrame (sramAt (.sram c) (byteRun a bs.length)) s (sramWrite s c a bs) where
  waves k b w := waveOf_modCore_of_blocks s c k b w fun _ => rfl
  records k := by rw [sramWrite, coreOf_modCore]; split <;> simp_all
  popped k := by rw [sramWrite, coreOf_modCore]; split <;> simp_all
  sram k hk := by
    rw [sramWrite, coreOf_modCore]
    split
    next hkc =>
      have hnil : bs = [] := by
        by_contra hne
        have hlt := List.length_pos_iff.mpr hne
        rw [sramAt, if_pos hkc] at hk
        exact (Set.eq_empty_iff_forall_notMem.mp hk a) ⟨le_rfl, by omega⟩
      rw [hnil, hkc]
      rfl
    next => rfl
  sramWf k hk := by
    rw [sramWrite, coreOf_modCore]
    split
    next hkc => exact memWf_writeBytes (hkc ▸ hk)
    next => exact hk
  sramByte k j hk hj := by
    rw [sramWrite, coreOf_modCore]
    split
    next hkc =>
      rw [sramAt, if_pos hkc] at hj
      rw [hkc] at hk ⊢
      exact cellGet_writeBytes_outside hk (by by_contra hno; exact hj ⟨by omega, by omega⟩)
    next => rfl

section
variable (x : Store) (s : State)

theorem storeFrame_put (a : Nat) (bs : List Byte) : StoreFrame x (byteRun a bs.length) s (x.put s a bs) := by
  cases x with
  | phys o => exact ⟨coreFrame_physWrite s o a bs, memFrame_physWrite s o a bs⟩
  | sram c => exact ⟨coreFrame_sramWrite s c a bs, .of_eq rfl fun _ => id⟩

theorem storeFrame_putList {l : List Nat} {bs : List Byte} (hlen : bs.length ≤ l.length) :
    StoreFrame x (bytesOf l) s (x.putList s l bs) := by
  unfold Store.putList
  split
  · exact .refl x _ s
  · next a r =>
    split
    next hrun =>
      refine (storeFrame_put x s a bs).mono fun j hj => ?_
      rw [bytesOf, Set.mem_ofPred_eq, hrun]
      exact List.mem_map.mpr ⟨j - a, List.mem_range.mpr (by have := hj.1; have := hj.2; omega), by have := hj.1; omega⟩
    next =>
      refine .foldl (fun e he t => (storeFrame_put x t e.1 [e.2]).mono fun j hj => ?_) s
      have hj' : j = e.1 := by have := hj.1; have := hj.2; simp only [List.length_singleton] at this; omega
      rw [hj']
      exact (List.of_mem_zip he).1

theorem storeFrame_touch (m : Set Nat) (l : List Nat) : StoreFrame x m s (x.touch s l) := by
  cases x with
  | phys o => exact .foldl (fun a _ t => .phys (.of_cores_eq (retireRange_cores t a 1)) (memFrame_retireRange m t a 1)) s
  | sram c => exact .refl _ m s

theorem storeFrame_lock (m : Set Nat) (l : List Nat) : StoreFrame x m s (x.lock s l) := by
  cases x with
  | phys o =>
    show StoreFrame (.phys o) m s (lockHeld s o l)
    unfold lockHeld
    split
    · exact .phys (.modBlock _ _ fun _ => rfl) (.of_eq rfl fun _ => id)
    · exact .refl _ m s
  | sram c => exact .refl _ m s

/-- The poison of memory that a covered sector loses. -/
theorem storeFrame_clearMemory (o : Owner) (m : Set Nat) (l : List Nat) :
    StoreFrame (.phys o) m s (if s.poison.isEmpty then s
      else match o, resilientOwner s o with
      | some (c, b), some _ =>
        modBlock s c b fun k =>
          let out := s.poison.filter fun u => coversUnit l 32 u && !k.ckpt.cleared.contains u
          { k with ckpt := { k.ckpt with cleared := k.ckpt.cleared ++ out } }
      | _, _ => { s with poison := s.poison.filter fun u => !coversUnit l 32 u }) := by
  split
  · exact .refl _ m s
  · split
    · exact .phys (.modBlock _ _ fun _ => rfl) (.of_eq rfl fun _ => id)
    · exact .phys (.of_cores_eq rfl) (.of_eq rfl fun _ => id)

theorem storeFrame_cover (m : Set Nat) (l : List Nat) : StoreFrame x m s (x.cover s l) := by
  cases x with
  | phys o =>
    have hl1 : StoreFrame (.phys o) m s (match o with
        | some (c, _) =>
          if (coreOf s c).l1Poison.isEmpty then s
          else modCore s c fun k => { k with l1Poison := k.l1Poison.filter fun u => !coversUnit l 4 u }
        | none => s) := by
      split
      · refine .phys (coreFrame_clearL1 s _ _) ?_
        split
        · exact .refl m s
        · exact .of_eq rfl fun _ => id
      · exact .refl _ m s
    exact hl1.trans (storeFrame_clearMemory _ o m l)
  | sram c =>
    show StoreFrame (.sram c) m s (if (coreOf s c).sramPoison.isEmpty then s
      else modCore s c fun k => { k with sramPoison := k.sramPoison.filter fun u => !coversUnit l 4 u })
    split
    · exact .refl _ m s
    · exact ⟨.modCore c fun _ => ⟨rfl, rfl, rfl, rfl⟩, .of_eq rfl fun _ => id⟩

/-- A piece whose scale pair, if it has one, is two bytes. -/
def PieceOk (p : Piece) : Prop := p.scale.length = 0 ∨ p.scale.length = 2

/-- A write of an element changes the piece's bytes alone. -/
theorem storeFrame_writeElem (t : Nat) {p : Piece} (hp : PieceOk p) (v : BitVec 64) (tag : Tag) :
    StoreFrame x (bytesOf p.bytes) s (writeElem x s t p v tag) := by
  have hdata (st : State) (n : Nat) : StoreFrame x (bytesOf p.bytes) st (x.putList st p.data (leBytes n p.data.length)) :=
    (storeFrame_putList x st (leBytes_length _ _).le).mono fun j hj =>
      List.mem_append_left _ (List.mem_append_left _ hj)
  have hscale (st : State) (n : Nat) : StoreFrame x (bytesOf p.bytes) st (x.putList st p.scale (leBytes n 2)) := by
    rcases hp with h0 | h2
    · rw [List.length_eq_zero_iff.mp h0]
      exact .refl _ _ _
    · exact (storeFrame_putList x st (by rw [leBytes_length, h2])).mono fun j hj =>
        List.mem_append_left _ (List.mem_append_right _ hj)
  have htag (st : State) (bs : List Byte) (hbs : bs.length = 1) :
      StoreFrame x (bytesOf p.bytes) st (match p.tag with | a :: _ => x.put st a bs | [] => st) := by
    split
    next a r ha =>
      refine (storeFrame_put x st a bs).mono fun j hj => ?_
      have hj' : j = a := by have := hj.1; have := hj.2; omega
      exact List.mem_append_right _ (by rw [hj', ha]; exact List.mem_cons_self)
    next => exact .refl _ _ _
  have hlock (st : State) :
      StoreFrame x (bytesOf p.bytes) st (if elemBits t = 8 then st else x.lock st p.data) := by
    split
    · exact .refl _ _ _
    · exact storeFrame_lock x _ _ _
  unfold writeElem
  refine .trans ?_ (htag _ _ rfl)
  split
  · exact (hdata s _).trans ((hlock _).trans (hscale _ _))
  · exact hdata s _

/-- A read-modify-write changes the bytes of its lanes alone (R194). -/
theorem storeFrame_applyLanes (t : Nat) (op : Nat → BitVec 64 → Option (BitVec 64)) {pieces : List (Nat × Piece)}
    (hp : ∀ e ∈ pieces, PieceOk e.2) {m : Set Nat} (hm : ∀ e ∈ pieces, bytesOf e.2.bytes ⊆ m) :
    StoreFrame x m s (applyLanes x t op pieces s).1 := by
  induction pieces generalizing s with
  | nil => exact .refl x m s
  | cons e r ih =>
    have hrest (st : State) := ih st (fun e he => hp e (List.mem_cons_of_mem _ he)) fun e he => hm e (List.mem_cons_of_mem _ he)
    refine (storeFrame_touch x s m e.2.bytes).trans (.trans ?_ (hrest _))
    split
    · exact ((storeFrame_writeElem x _ t (hp e List.mem_cons_self) _ _).mono (hm e List.mem_cons_self)).trans
        (storeFrame_lock x _ m _)
    · exact .refl x m _

/-- A store's lanes change their bytes alone (R185). -/
theorem storeFrame_stores {α : Type} (t : Nat) (piece : α → Piece) (value : α → BitVec 64 × Tag) {l : List α}
    (hp : ∀ e ∈ l, PieceOk (piece e)) :
    StoreFrame x (bytesOf (l.flatMap fun e => (piece e).bytes)) s
      (x.cover (l.foldl (fun st e =>
        writeElem x (x.touch st (piece e).bytes) t (piece e) (value e).1 (value e).2) s) (l.flatMap fun e => (piece e).bytes)) := by
  refine .trans (.foldl (fun e he st => ?_) s) (storeFrame_cover x _ _ _)
  refine (storeFrame_touch x st _ _).trans ((storeFrame_writeElem x _ t (hp e he) _ _).mono fun j hj => ?_)
  exact List.mem_flatMap.mpr ⟨e, he, hj⟩

end

/-! ### Translations (R383, R385) -/

/-- What a translation leaves: the cores but for their caches, the exact sums, and the form of memory. -/
structure TranslateFrame (s t : State) : Prop where
  cores : CoreFrame noSram s t
  sums : t.exactSums = s.exactSums
  memOk : s.memOk → t.memOk

namespace TranslateFrame

variable {s t u : State}

theorem refl (s : State) : TranslateFrame s s := ⟨.refl _ s, rfl, id⟩

theorem trans (h : TranslateFrame s t) (h' : TranslateFrame t u) : TranslateFrame s u :=
  ⟨h.cores.trans h'.cores, h'.sums.trans h.sums, fun hs => h'.memOk (h.memOk hs)⟩

end TranslateFrame

/-- An event counts in its partition alone. -/
theorem countEvent_eq (s : State) (core code n : Nat) : ∃ p, countEvent s core code n = { s with partitions := p } := by
  unfold countEvent
  dsimp only
  repeat' split
  all_goals exact ⟨_, rfl⟩

theorem countMisses_eq (s : State) (core salt : Nat) (miss : Bool) :
    ∃ p, countMisses s core salt miss = { s with partitions := p } := by
  have hmiss : ∃ p, (if miss then countEvent s core 13 1 else s) = { s with partitions := p } := by
    split
    · exact countEvent_eq s core 13 1
    · exact ⟨_, rfl⟩
  obtain ⟨p0, h0⟩ := hmiss
  obtain ⟨p1, h1⟩ := countEvent_eq { s with partitions := p0 } core 6 (choose { s with partitions := p0 } (salt + 0x10000) 2)
  obtain ⟨p2, h2⟩ := countEvent_eq { s with partitions := p1 } core 7 (choose { s with partitions := p0 } (salt + 0x20000) 2)
  refine ⟨p2, ?_⟩
  unfold countMisses
  dsimp only
  rw [h0, h1, h2]

section
variable (s : State)

theorem translateFrame_countMisses (core salt : Nat) (miss : Bool) : TranslateFrame s (countMisses s core salt miss) := by
  obtain ⟨p, hp⟩ := countMisses_eq s core salt miss
  rw [hp]
  exact ⟨.of_cores_eq rfl, rfl, id⟩

theorem translateFrame_touchLeaf (addr : Nat) (e : BitVec 64) : TranslateFrame s (touchLeaf s addr e) := by
  unfold touchLeaf
  split
  · exact .refl s
  · exact ⟨.of_cores_eq rfl, rfl, memWrite_memOk addr _⟩

theorem translateFrame_serveStale (x : Nat × Option (Nat × BitVec 64)) : TranslateFrame s (serveStale s x).1 := by
  unfold serveStale
  split
  · exact .refl s
  · split
    · exact translateFrame_touchLeaf s _ _
    · exact .refl s

theorem translateFrame_fillCaches (core : Nat) (k : Context) (va : Nat) (e : BitVec 64) (pa size : Nat) :
    TranslateFrame s (fillCaches s core k va e pa size) := by
  refine ⟨?_, rfl, id⟩
  unfold fillCaches
  refine .trans (t := { s with walkCache := (fillCaches s core k va e pa size).walkCache }) (.of_cores_eq rfl) ?_
  exact .modCore core fun _ => ⟨rfl, rfl, rfl, rfl⟩

theorem translateFrame_translateOwn (core asid : Nat) (own : List TlbEntry) (va : BitVec 64) (access salt : Nat) :
    TranslateFrame s (translateOwn s core asid own va access salt).1 := by
  unfold translateOwn
  split
  · split <;> exact .refl s
  · next k _ =>
    have hmiss := translateFrame_countMisses s core salt (tlbHit (coreOf s core) k.asid (va.toNat % 2 ^ 57) access).isNone
    dsimp only
    generalize countMisses s core salt (tlbHit (coreOf s core) k.asid (va.toNat % 2 ^ 57) access).isNone = st at hmiss ⊢
    refine hmiss.trans ?_
    split
    · split
      · exact translateFrame_serveStale _ _
      · split
        · exact .refl _
        · exact (translateFrame_touchLeaf _ _ _).trans (translateFrame_fillCaches _ _ _ _ _ _ _)
    · split
      · exact translateFrame_serveStale _ _
      · exact .refl _

theorem translateFrame_translateBytes (core asid access salt va n : Nat) :
    TranslateFrame s (translateBytes s core asid access salt va n).1 := by
  unfold translateBytes
  induction n generalizing s va with
  | zero => exact .refl s
  | succ n ih =>
    have hfirst := translateFrame_translateOwn s core asid [] (BitVec.ofNat 64 (va % 2 ^ 57)) access salt
    unfold translateBytesOwn
    split
    next h => rw [h] at hfirst; exact hfirst
    next t pa h =>
      rw [h] at hfirst
      dsimp only
      split
      · exact hfirst
      · have hrest := ih t (va + 1)
        split
        next h' => rw [h'] at hrest; exact hfirst.trans hrest
        next => exact hfirst.trans hrest

/-- A range translates to as many bytes as it has. -/
theorem length_translateBytes {core asid access salt va n : Nat} {l : List Nat}
    (h : (translateBytes s core asid access salt va n).2 = .ok l) : l.length = n := by
  unfold translateBytes at h
  induction n generalizing s va l with
  | zero => injection h with h; rw [← h]; rfl
  | succ n ih =>
    unfold translateBytesOwn at h
    split at h
    next => cases h
    next t pa _ =>
      dsimp only at h
      split at h
      · injection h with h
        rw [← h, List.length_map, List.length_range]
      · split at h
        next t' l' h' =>
          injection h with h
          rw [← h, List.length_cons, ih t (va := va + 1) (by rw [h'])]
        next hno =>
          exact (hno (translateBytesOwn t core asid [] access salt (va + 1) n).1 l (Prod.ext rfl h)).elim

/-- The part of an element that a place may lack. -/
def translatePart (s : State) (core asid access salt : Nat) (a : Option Nat) (n : Nat) : State × Except (Nat × Nat) (List Nat) :=
  match a with
  | some a => translateBytes s core asid access salt a n
  | none => (s, .ok [])

theorem translateFrame_translatePart (core asid access salt : Nat) (a : Option Nat) (n : Nat) :
    TranslateFrame s (translatePart s core asid access salt a n).1 := by
  cases a with
  | none => exact .refl s
  | some a => exact translateFrame_translateBytes s core asid access salt a n

theorem length_translatePart {core asid access salt n : Nat} {a : Option Nat} {l : List Nat}
    (h : (translatePart s core asid access salt a n).2 = .ok l) : l.length = 0 ∨ l.length = n := by
  cases a with
  | none => injection h with h; exact .inl (by rw [← h]; rfl)
  | some a => exact .inr (length_translateBytes s h)

/-- An access finds its element, then its scale pair, then its tag byte. -/
theorem locate_eq (core asid access salt : Nat) (p : Place) :
    locate s core asid access salt p =
      match translateBytes s core asid access salt p.addr p.len with
      | (s, .error e) => (s, .error e)
      | (s, .ok data) =>
        match translatePart s core asid access salt p.scale 2 with
        | (s, .error e) => (s, .error e)
        | (s, .ok scale) =>
          match translatePart s core asid access salt p.tag 1 with
          | (s, .error e) => (s, .error e)
          | (s, .ok tag) => (s, .ok ⟨data, p.bit, scale, tag⟩) := rfl

/-- The place of an element leaves what translations leave, and its scale pair is two bytes. -/
theorem translateFrame_locate (core asid access salt : Nat) (p : Place) :
    TranslateFrame s (locate s core asid access salt p).1 ∧
      ∀ x, (locate s core asid access salt p).2 = .ok x → PieceOk x := by
  rw [locate_eq]
  have hdata := translateFrame_translateBytes s core asid access salt p.addr p.len
  split
  next h => rw [h] at hdata; exact ⟨hdata, fun x hx => nomatch hx⟩
  next s1 data h =>
    rw [h] at hdata
    have hscale := translateFrame_translatePart s1 core asid access salt p.scale 2
    split
    next h1 => rw [h1] at hscale; exact ⟨hdata.trans hscale, fun x hx => nomatch hx⟩
    next s2 scale h1 =>
      have hlen := length_translatePart s1 (congrArg Prod.snd h1)
      rw [h1] at hscale
      have htag := translateFrame_translatePart s2 core asid access salt p.tag 1
      split
      next h2 => rw [h2] at htag; exact ⟨(hdata.trans hscale).trans htag, fun x hx => nomatch hx⟩
      next s3 tag h2 =>
        rw [h2] at htag
        refine ⟨(hdata.trans hscale).trans htag, fun x hx => ?_⟩
        injection hx with hx
        rw [← hx]
        exact hlen

/-- The lanes of a posted store find their bytes by translations. -/
theorem translateFrame_locateLanes (core asid : Nat) (op : StoreOp) :
    TranslateFrame s (locateLanes s core asid op).1 ∧ ∀ e ∈ (locateLanes s core asid op).2.1, PieceOk e.2 := by
  unfold locateLanes
  have key : ∀ (l : List StoreLane) (x : State × List (StoreLane × Piece) × List (StoreLane × Nat)),
      TranslateFrame s x.1 → (∀ e ∈ x.2.1, PieceOk e.2) →
      let y := l.foldl (fun (x : State × List (StoreLane × Piece) × List (StoreLane × Nat)) l =>
        match locate x.1 core asid accWrite (0x7000 + l.lane) (l.place op) with
        | (s, .ok p) => (s, x.2.1 ++ [(l, p)], x.2.2)
        | (s, .error (code, _)) => (s, x.2.1, x.2.2 ++ [(l, code)])) x
      TranslateFrame s y.1 ∧ ∀ e ∈ y.2.1, PieceOk e.2 := by
    intro l
    induction l with
    | nil => exact fun x hs hp => ⟨hs, hp⟩
    | cons a l ih =>
      intro x hs hp
      obtain ⟨hloc, hok⟩ := translateFrame_locate x.1 core asid accWrite (0x7000 + a.lane) (a.place op)
      rw [List.foldl_cons]
      split
      next t p h =>
        rw [h] at hloc hok
        refine ih _ (hs.trans hloc) fun e he => ?_
        rcases List.mem_append.mp he with he | he
        · exact hp e he
        · rw [List.mem_singleton.mp he]
          exact hok p rfl
      next t code va h =>
        rw [h] at hloc
        exact ih _ (hs.trans hloc) hp
  exact key op.lanes _ (.refl s) fun e he => absurd he List.not_mem_nil

/-- The pieces of an access come from translations, or from an offset of core SRAM. -/
theorem translateFrame_locateAll (c : Ctx) (f : AccessForm) (r : Rec) (p : AccessPlan) :
    TranslateFrame s (locateAll s c f r p).state ∧ ∀ e ∈ (locateAll s c f r p).pieces, PieceOk e.2 := by
  unfold locateAll
  generalize hl : p.go = l
  generalize hx : (⟨s, p.bad, []⟩ : Located) = x
  have hs : TranslateFrame s x.state := by subst hx; exact .refl s
  have hp : ∀ e ∈ x.pieces, PieceOk e.2 := by subst hx; exact fun e he => absurd he List.not_mem_nil
  clear hl hx
  induction l generalizing x with
  | nil => exact ⟨hs, hp⟩
  | cons a l ih =>
    rw [List.foldl_cons]
    have hstep : TranslateFrame x.state (if recSpace r = 0 then locate x.state c.core c.blk.asid f.kind a.1 a.2
          else (x.state, .ok (sramPiece c.blk r a.2))).1 ∧
        ∀ y, (if recSpace r = 0 then locate x.state c.core c.blk.asid f.kind a.1 a.2
          else (x.state, .ok (sramPiece c.blk r a.2))).2 = .ok y → PieceOk y := by
      split
      · exact translateFrame_locate x.state c.core c.blk.asid f.kind a.1 a.2
      · refine ⟨.refl _, fun y hy => ?_⟩
        injection hy with hy
        rw [← hy]
        unfold sramPiece PieceOk
        cases a.2.scale <;> simp
    dsimp only
    generalize (if recSpace r = 0 then locate x.state c.core c.blk.asid f.kind a.1 a.2
      else (x.state, .ok (sramPiece c.blk r a.2))) = y at hstep ⊢
    obtain ⟨hframe, hok⟩ := hstep
    obtain ⟨t, res⟩ := y
    cases res with
    | error e => exact ih _ (hs.trans hframe) hp
    | ok z =>
      dsimp only
      cases (if f.reads then (accessStore c r).poisonAt t a.2 z else none) with
      | some n => exact ih _ (hs.trans hframe) hp
      | none =>
        refine ih _ (hs.trans hframe) fun e he => ?_
        rcases List.mem_append.mp he with he | he
        · exact hp e he
        · rw [List.mem_singleton.mp he]
          exact hok z rfl

end

end Sys2Proof.Claims
end

section
/-! Posted stores on their way (R192, R327), store-fault records (R348) and SFQ (R251). -/

namespace Sys2Proof.Machine

/-! ### The acceptance of a posted store -/

/-- What an accepted store leaves once its lanes are performed. -/
def storeDone (s : State) (c h : Nat) (b : Block) (o : StoreOp) : State :=
  { performLanes (locateStore s c b.asid o).1 c h o (locateStore s c b.asid o).2.1 with
    freeCtr := (performLanes (locateStore s c b.asid o).1 c h o (locateStore s c b.asid o).2.1).freeCtr + 1 }

section
variable {s : State} {c h n ident : Nat} {b : Block} {w : Wave} {o : StoreOp} (hb : blockOf s c h = some b)
  (hw : b.wave? n = some w) (ho : w.store? ident = some o) (hfailed : o.failed = none)
include hb hw ho hfailed

/-- An unaccepted store either waits, or is performed where its lanes are found (R192, R348). -/
theorem acceptStore_eq : acceptStore s c h n ident =
    if !mayAccept s c h b w o ((locateStore s c b.asid o).2.1.flatMap fun e => e.2.bytes) then
      freeLocks s (some (c, h)) (isBx o.fmt) ((locateStore s c b.asid o).2.1.flatMap fun e => e.2.bytes)
    else
      match (locateStore s c b.asid o).2.2 with
      | [] => settleFences (modWave (countEvent (storeDone s c h b o) c 12 1) c h n fun v =>
          { v with posted := v.posted.flatMap fun y => if y.ident = ident then [] else [y] }) c h n
      | e :: _ => modWave (storeDone s c h b o) c h n fun v =>
          { v with posted := v.posted.flatMap fun y => if y.ident = ident then
            [{ o with lanes := (locateStore s c b.asid o).2.2.map (·.1), failed := some e.2 }] else [y] } := by
  rw [acceptStore, hb]
  dsimp only
  rw [hw]
  dsimp only
  rw [ho]
  dsimp only
  rw [hfailed]
  rfl

theorem acceptStore_of_held
    (hmay : mayAccept s c h b w o ((locateStore s c b.asid o).2.1.flatMap fun e => e.2.bytes) = false) :
    acceptStore s c h n ident = freeLocks s (some (c, h)) (isBx o.fmt)
      ((locateStore s c b.asid o).2.1.flatMap fun e => e.2.bytes) := by
  rw [acceptStore_eq hb hw ho hfailed, hmay]
  rfl

variable (hmay : mayAccept s c h b w o ((locateStore s c b.asid o).2.1.flatMap fun e => e.2.bytes) = true)
include hmay

theorem acceptStore_of_found (hl : (locateStore s c b.asid o).2.2 = []) : acceptStore s c h n ident =
    settleFences (modWave (countEvent (storeDone s c h b o) c 12 1) c h n fun v =>
      { v with posted := v.posted.flatMap fun y => if y.ident = ident then [] else [y] }) c h n := by
  rw [acceptStore_eq hb hw ho hfailed, hmay, hl]
  rfl

theorem acceptStore_of_failed {e : StoreLane × Nat} (hl : (locateStore s c b.asid o).2.2.head? = some e) :
    acceptStore s c h n ident = modWave (storeDone s c h b o) c h n fun v =>
      { v with posted := v.posted.flatMap fun y => if y.ident = ident then
        [{ o with lanes := (locateStore s c b.asid o).2.2.map (·.1), failed := some e.2 }] else [y] } := by
  obtain ⟨r, hr⟩ := List.head?_eq_some_iff.mp hl
  rw [acceptStore_eq hb hw ho hfailed, hmay, hr]
  rfl

end

/-- A lane whose request came back with poison fails with 0x17 (R422). -/
theorem poisoned_lane_fails {s : State} {c asid : Nat} {o : StoreOp} {e : StoreLane} (he : e ∈ o.lanes)
    (hit : o.hit.getLsbD e.lane = true) : (e, 0x17) ∈ (locateStore s c asid o).2.2 := by
  have hbad : (o.lanes.filter fun l => o.hit &&& laneBit l.lane != 0).contains e = true := by
    rw [List.contains_iff_mem, List.mem_filter, bne_iff_ne]
    refine ⟨he, fun h0 => ?_⟩
    have hlt : e.lane < 32 := BitVec.lt_of_getLsbD hit
    have hbit : (o.hit &&& laneBit e.lane).getLsbD e.lane = true := by
      rw [BitVec.getLsbD_and, hit, Claims.getLsbD_laneBit, decide_eq_true hlt, decide_eq_true rfl]
      rfl
    rw [h0] at hbit
    simp at hbit
  exact List.mem_filterMap.mpr ⟨e, he, if_pos hbad⟩

/-- A store behind a barrier waits for the stores before it (R327). -/
theorem mayAccept_of_storesBelow {s : State} {c h m : Nat} {b : Block} {w : Wave} {o : StoreOp} {bytes : List Nat}
    (hm : m ∈ b.barBounds) (hle : m ≤ o.ident) (hw : w.handler = false) (hbelow : (coreOf s c).storesBelow h b m = true) :
    mayAccept s c h b w o bytes = false := by
  have hbehind : behindBarriers s c h b o.ident = false := by
    rw [behindBarriers, Bool.and_eq_false_iff]
    refine .inl (List.all_eq_false.mpr ⟨m, hm, ?_⟩)
    rw [hbelow, decide_eq_false hle.not_gt]
    exact Bool.false_ne_true
  rw [mayAccept, hw, hbehind]
  simp

/-- A store that an earlier one of its wave comes before waits for it (R192). -/
theorem mayAccept_of_earlier {s : State} {c h : Nat} {b : Block} {w : Wave} {o x : StoreOp} {bytes : List Nat}
    (hx : x ∈ w.posted.takeWhile fun y => y.ident != o.ident)
    (hafter : o.fenced = true ∨ ∃ e ∈ o.ranges, ∃ y ∈ x.lanes, y.meets x.size e.1 e.2 = true) :
    mayAccept s c h b w o bytes = false := by
  have hstore : storeAfter s c b.asid o x bytes = true := by
    rw [storeAfter, Bool.or_eq_true, Bool.or_eq_true]
    refine .inl (hafter.imp_right fun ⟨e, he, y, hy, hmeets⟩ => ?_)
    exact List.any_eq_true.mpr ⟨e, he, List.any_eq_true.mpr ⟨y, hy, hmeets⟩⟩
  have hany : (((w.posted.takeWhile fun y => y.ident != o.ident) ++ (unresolved (coreOf s c) h w.idx).map (·.op)).any
      fun y => storeAfter s c b.asid o y bytes) = true :=
    List.any_eq_true.mpr ⟨x, List.mem_append_left _ hx, hstore⟩
  rw [mayAccept, hany]
  rfl

/-! ### Records -/

theorem records_modBlock (s : State) (core b k : Nat) (f : Block → Block) :
    (coreOf (modBlock s core b f) k).records = (coreOf s k).records := by
  rw [modBlock, coreOf_modCore]
  split
  next hk => rw [hk]; rfl
  next => rfl

theorem records_settleFences (s : State) (core b w k : Nat) :
    (coreOf (settleFences s core b w) k).records = (coreOf s k).records := by
  unfold settleFences
  split
  · exact records_modBlock _ _ _ _ _
  · rfl

theorem records_popRecord (s : State) (core : Nat) (r : StoreRecord) :
    (coreOf (popRecord s core r) core).records = (coreOf s core).records.tail := by
  rw [popRecord, records_settleFences, coreOf_modCore, if_pos rfl]

theorem takeRecord_core (s : State) (core : Nat) (r : StoreRecord) :
    (coreOf (takeRecord s core r) core).records = (coreOf s core).records.tail ∧
      (coreOf (takeRecord s core r) core).popped = (coreOf s core).popped ++ [r] := by
  rw [takeRecord, coreOf_modCore, if_pos rfl]
  exact ⟨rfl, rfl⟩

/-- SFQ's answer says in bit 16 whether a replay has faulted again (R251). -/
theorem sfqWord_refault (s : State) (core : Nat) (refault : Bool) : (sfqWord s core false refault).getLsbD 16 = refault := by
  have hlt : (coreOf s core).records.length % 64 < 64 := Nat.mod_lt _ (by decide)
  rw [sfqWord, BitVec.getLsbD_ofNat, Nat.testBit_eq_decide_div_mod_eq]
  cases refault
  · simp; omega
  · simp; omega

theorem sfqWord_empty {s : State} {core : Nat} (h : (coreOf s core).records = []) : sfqWord s core true false = 256 := by
  rw [sfqWord, h]
  rfl

end Sys2Proof.Machine

namespace Sys2Proof.Claims

open Sys2Proof.Machine

/-! ### What the queue keeps through memory's operations -/

theorem coreFrame_performLanes (s : State) (core block : Nat) (o : StoreOp) {l : List (StoreLane × Piece)}
    (hl : ∀ e ∈ l, PieceOk e.2) : CoreFrame noSram s (performLanes s core block o l) :=
  (storeFrame_stores (.phys (some (core, block))) s o.fmt (fun e : StoreLane × Piece => e.2)
    (fun e => (e.1.data, e.1.tag)) hl).cores

/-! ### SFQ (R251) -/

section
variable {s : State} {core : Nat} {r : StoreRecord} {rest : List StoreRecord} (h : (coreOf s core).records = r :: rest)
  (va : Nat)
include h

theorem sfqOp_peek : (sfqOp s core 0 va).1 = physWrite s none va (recordBytes r) := by rw [sfqOp, h]; rfl

theorem sfqOp_pop : (sfqOp s core 1 va).1 = takeRecord (physWrite s none va (recordBytes r)) core r := by rw [sfqOp, h]; rfl

theorem sfqOp_discard : (sfqOp s core 3 va).1 = popRecord s core r := by rw [sfqOp, h]; rfl

theorem sfqOp_replay : sfqOp s core 2 va =
    ((replayRecord s core r).1, sfqWord (replayRecord s core r).1 core false (replayRecord s core r).2) := by rw [sfqOp, h]; rfl

theorem records_sfqOp_peek : (coreOf (sfqOp s core 0 va).1 core).records = r :: rest := by
  rw [sfqOp_peek h, (coreFrame_physWrite (r := noSram) s none va _).records, h]

theorem records_sfqOp_pop : (coreOf (sfqOp s core 1 va).1 core).records = rest ∧
    (coreOf (sfqOp s core 1 va).1 core).popped = (coreOf s core).popped ++ [r] := by
  have hwrite := coreFrame_physWrite (r := noSram) s none va (recordBytes r)
  obtain ⟨hrecords, hpopped⟩ := takeRecord_core (physWrite s none va (recordBytes r)) core r
  rw [sfqOp_pop h]
  exact ⟨by rw [hrecords, hwrite.records, h]; rfl, by rw [hpopped, hwrite.popped]⟩

theorem records_sfqOp_discard : (coreOf (sfqOp s core 3 va).1 core).records = rest := by
  rw [sfqOp_discard h, records_popRecord, h]
  rfl

variable {b : Block} (hb : blockOf s core r.block = some b)
include hb

theorem sfqOp_replay_of_located {t : State} {good : List (StoreLane × Piece)}
    (hl : locateLanes s core b.asid r.op = (t, good, [])) :
    (coreOf (sfqOp s core 2 va).1 core).records = rest ∧ (sfqOp s core 2 va).2.getLsbD 16 = false := by
  have hreplay : replayRecord s core r = (popRecord (performLanes t core r.block r.op good) core r, false) := by
    rw [replayRecord, hb]
    dsimp only
    rw [hl]
  obtain ⟨hloc, hok⟩ := translateFrame_locateLanes s core b.asid r.op
  rw [hl] at hloc hok
  rw [sfqOp_replay h, hreplay]
  refine ⟨?_, sfqWord_refault _ _ _⟩
  rw [records_popRecord, (coreFrame_performLanes t core r.block r.op hok).records, hloc.cores.records, h]
  rfl

theorem sfqOp_replay_of_fault (hl : (locateLanes s core b.asid r.op).2.2 ≠ []) :
    (sfqOp s core 2 va).1 = s ∧ (sfqOp s core 2 va).2.getLsbD 16 = true := by
  have hreplay : replayRecord s core r = (s, true) := by
    rw [replayRecord, hb]
    dsimp only
    split
    next hl' => exact absurd (by rw [hl']) hl
    next => rfl
  rw [sfqOp_replay h, hreplay]
  exact ⟨rfl, sfqWord_refault _ _ _⟩

end

theorem exec_sfq {w : BitVec 3} {d a : Code} {b : Src} {i : Instr}
    (hi : i ∈ [Instr.sfqPeek w d a b, .sfqPop w d a b, .sfqReplay w d a b, .sfqDiscard w d a b]) (s : State) :
    exec i s = sfqForm i d a b s := by
  simp only [List.mem_cons, List.not_mem_nil, or_false] at hi
  rcases hi with rfl | rfl | rfl | rfl <;> rfl

section
variable {i : Instr} {s : State} {c : Ctx} (h : Issues i s c) (d : Code) {a : Code} {b : Src}
include h

theorem sfqForm_of_misaligned (ha : (sysArg s c a).toNat % 64 ≠ 0) :
    sfqForm i d a b s = .next (parkAll c s 0x01 (sysArg s c a)) := by
  rw [sfqForm, h.issueForm_eq]
  exact congrArg Host.Outcome.next (if_pos ha)

variable (ha : (sysArg s c a).toNat % 64 = 0)
include ha

theorem sfqForm_of_reserved (hb : 4 ≤ (readSrcWord s c b).toNat) :
    sfqForm i d a b s = .next (parkAll c s 0x01 (readSrcWord s c b)) := by
  rw [sfqForm, h.issueForm_eq]
  exact congrArg Host.Outcome.next ((if_neg (not_not.mpr ha)).trans (if_pos hb))

theorem sfqForm_of_held (hb : (readSrcWord s c b).toNat = 2) {rmw : Bool} {l : List Nat}
    (hheld : replayHeld s c.core = some (rmw, l)) :
    sfqForm i d a b s = .next (waitForBytes s c (.locked rmw l)) := by
  have h2 : readSrcWord s c b = 2 := BitVec.eq_of_toNat_eq hb
  rw [sfqForm, h.issueForm_eq]
  refine congrArg Host.Outcome.next ((if_neg (not_not.mpr ha)).trans ((if_neg (by omega)).trans ?_))
  rw [if_pos h2, hheld]

theorem sfqForm_of_free (hb : (readSrcWord s c b).toNat < 4)
    (hfree : (readSrcWord s c b).toNat = 2 → replayHeld s c.core = none) :
    sfqForm i d a b s = .next (completeLater c i (sfqOp s c.core (readSrcWord s c b).toNat (sysArg s c a).toNat).1
      (sysResult c d (sfqOp s c.core (readSrcWord s c b).toNat (sysArg s c a).toNat).2)) := by
  have hnone : (if readSrcWord s c b = 2 then replayHeld s c.core else none) = none := by
    split
    next h2 => exact hfree (by rw [h2]; rfl)
    next => rfl
  rw [sfqForm, h.issueForm_eq]
  refine congrArg Host.Outcome.next ((if_neg (not_not.mpr ha)).trans ((if_neg (by omega)).trans ?_))
  rw [hnone]
  rfl

end

/-! ### The events -/

/-- The failed lanes of a wave's oldest store become a record while the queue has room (R348). -/
theorem exec_storeFaultRecord {s : State} {b : Block} {w : Wave} {o : StoreOp} {rest : List StoreOp} {code : Nat}
    (hb : blockOf s s.subject.core s.subject.block = some b) (hw : b.wave? s.subject.wave = some w)
    (hposted : w.posted = o :: rest) (hfailed : o.failed = some code) (hroom : (coreOf s s.subject.core).records.length < 32) :
    exec .storeFaultRecord s = .next (notifyDarner (modWave
      (modCore s s.subject.core fun k =>
        { k with records := k.records ++ [⟨s.subject.block, s.subject.wave, code, { o with failed := none, hit := 0 }⟩] })
      s.subject.core s.subject.block s.subject.wave fun v => { v with posted := v.posted.tail }) s.subject.core
      (.storeFault s.subject.block s.subject.wave)) := by
  have hhead : ((waveOf s s.subject.core s.subject.block s.subject.wave).bind fun x => x.posted.head?) = some o := by
    rw [waveOf, hb, Option.bind_some, hw, Option.bind_some, hposted]
    rfl
  rw [show exec .storeFaultRecord s = execStoreFaultRecord s from rfl, execStoreFaultRecord]
  dsimp only
  rw [hhead]
  dsimp only
  rw [hfailed]
  exact congrArg Host.Outcome.next (if_neg hroom.not_ge)

/-- Settles O40: the clauses are the branches of an acceptance, of a record's making and of SFQ. -/
theorem storeEventsAndQueue : Obligations.StoreEventsAndQueue := by
  refine ⟨fun s b w o => ?events, fun w d a b s c i hi h => ?queue⟩
  case events =>
    intro c h n l bytes done put hb hw
    refine ⟨fun ho hfailed => ⟨fun hmay => ⟨fun hnone => ?done, fun e he => ?failed⟩, fun hheld => ?held,
      fun e he hit => poisoned_lane_fails he hit, fun m hm hle hh hbelow => mayAccept_of_storesBelow hm hle hh hbelow,
      fun x hx hafter => mayAccept_of_earlier hx hafter⟩, fun rest code => exec_storeFaultRecord hb hw⟩
    case done => exact congrArg _ (acceptStore_of_found hb hw ho hfailed hmay hnone)
    case failed => exact congrArg _ (acceptStore_of_failed hb hw ho hfailed hmay he)
    case held => exact congrArg _ (acceptStore_of_held hb hw ho hfailed hheld)
  case queue =>
    intro va vb empty
    rw [exec_sfq hi]
    refine ⟨sfqForm_of_misaligned h d, sfqForm_of_reserved h d, fun ha hb hempty => ?empty,
      fun ha hb rmw l => sfqForm_of_held h d ha hb, fun ha hb hfree r rest hr => ⟨sfqForm_of_free h d ha hb hfree,
        fun _ => records_sfqOp_discard hr _, fun _ => records_sfqOp_pop hr _, fun _ => records_sfqOp_peek hr _,
        fun _ blk hblk => ⟨fun t good => sfqOp_replay_of_located hr _ hblk, sfqOp_replay_of_fault hr _ hblk⟩⟩⟩
    case empty =>
      have hheld : replayHeld s c.core = none := by rw [replayHeld, hempty]; rfl
      have hop (n x : Nat) : sfqOp s c.core n x = (s, 256) := by rw [sfqOp, hempty, sfqWord_empty hempty]
      rw [sfqForm_of_free h d ha hb fun _ => hheld, hop]

end Sys2Proof.Claims
end

section
/-! Exact sums: FATOM and FATOMQ (R197, R198). -/

namespace Sys2Proof.Claims

open Sys2Proof.Machine

/-- A form on exact sums with its bytes found. -/
def sumLocated (i : Instr) (s : State) (c : Ctx) (rc : Rec) (d a : Code) (writes : Bool) : Located :=
  afterLocate s c (sumAccess writes) rc d (uniformIssue i) (recIndex s c a)

/-- The lanes of a form on exact sums all go through. -/
structure SumGoes (i : Instr) (s : State) (c : Ctx) (rc : Rec) (d : Code) (q : Ord) (a : Code) (writes : Bool) : Prop where
  active : issueActive s c ≠ 0
  wait : accessWait s c (sumAccess writes) rc q
    (planAccess s c (sumAccess writes) rc d (uniformIssue i) (issueActive s c) (recIndex s c a)) = none
  bad : (sumLocated i s c rc d a writes).bad = []
  bytes : physWait s c true false (pieceBytes (sumLocated i s c rc d a writes)) = none
  peer : writes = true → ∀ e ∈ (sumLocated i s c rc d a writes).pieces, paRegion e.2.pa ≠ 2

/-- The partition whose store lacks room for the sums of a form, if there is one (R200). -/
def sumRoom (i : Instr) (s : State) (c : Ctx) (rc : Rec) (d a : Code) (writes : Bool) : Option Nat :=
  sumsShort s (sumsNeeded s (partitionOf c.core) (tySize (recFormat rc)) writes (sumLocated i s c rc d a writes).pieces)

section
variable {i : Instr} {s : State} {c : Ctx} {rc : Rec} {d : Code} {q : Ord} {a : Code} {writes : Bool}

/-- No lane of the form faults for reaching peer memory (R197). -/
theorem SumGoes.noPeer (h : SumGoes i s c rc d q a writes) {α : Type} (f : Nat × Piece → α) :
    (if writes then ((sumLocated i s c rc d a writes).pieces.filter fun e => paRegion e.2.pa == 2).map f else []) = [] := by
  cases hw : writes with
  | false => rfl
  | true =>
    rw [if_pos rfl, List.map_eq_nil_iff, List.filter_eq_nil_iff]
    intro e he hpeer
    subst hw
    exact h.peer rfl e he (beq_iff_eq.mp hpeer)

theorem SumGoes.keptPieces (h : SumGoes i s c rc d q a writes) :
    (if writes then (sumLocated i s c rc d a writes).pieces.filter fun e => paRegion e.2.pa != 2
      else (sumLocated i s c rc d a writes).pieces) = (sumLocated i s c rc d a writes).pieces := by
  cases hw : writes with
  | false => rfl
  | true =>
    subst hw
    exact (if_pos rfl).trans (List.filter_eq_self.mpr fun e he => bne_iff_ne.mpr (h.peer rfl e he))

/-- A form on exact sums that goes through waits for room in the store, or is its body on the filled sums. -/
theorem performSum_of_goes (h : SumGoes i s c rc d q a writes)
    (body : State → List (Nat × Piece) → List Nat → State × List (Nat × LaneFault)) :
    performSum i s c rc d q a writes body =
      match sumRoom i s c rc d a writes with
      | some part => notifyDarner (waitEvent s c .accumulator) c.core (.exactSum c.ref part)
      | none =>
        let r := body (fillSums (sumLocated i s c rc d a writes).state (tySize (recFormat rc))
          (sumLocated i s c rc d a writes).pieces) (sumLocated i s c rc d a writes).pieces
          (outsideLanes s c (sumAccess writes) rc d (uniformIssue i) (recIndex s c a))
        finishAccess c (issueActive s c) (uniformIssue i) r.2 s (forceCheckpoint r.1 c.core c.ref.block) := by
  have hpieces := h.keptPieces
  have hpeer (f : Nat × Piece → Nat × LaneFault) := h.noPeer f
  have hbad := h.bad
  have hbytes := h.bytes
  unfold pieceBytes at hbytes
  unfold sumRoom outsideLanes
  unfold sumLocated afterLocate at *
  rw [performSum, if_neg h.active]
  dsimp only
  rw [h.wait]
  dsimp only
  rw [hbytes]
  dsimp only
  rw [hpieces, hpeer, hbad]
  rfl

theorem performSum_of_short (h : SumGoes i s c rc d q a writes) {part : Nat} (hroom : sumRoom i s c rc d a writes = some part)
    (body : State → List (Nat × Piece) → List Nat → State × List (Nat × LaneFault)) :
    performSum i s c rc d q a writes body = notifyDarner (waitEvent s c .accumulator) c.core (.exactSum c.ref part) := by
  rw [performSum_of_goes h, hroom]

theorem performSum_of_room (h : SumGoes i s c rc d q a writes) (hroom : sumRoom i s c rc d a writes = none)
    {body : State → List (Nat × Piece) → List Nat → State × List (Nat × LaneFault)} {after : State}
    (hbody : body (fillSums (sumLocated i s c rc d a writes).state (tySize (recFormat rc))
      (sumLocated i s c rc d a writes).pieces) (sumLocated i s c rc d a writes).pieces
      (outsideLanes s c (sumAccess writes) rc d (uniformIssue i) (recIndex s c a)) = (after, [])) :
    performSum i s c rc d q a writes body = forceCheckpoint after c.core c.ref.block := by
  rw [performSum_of_goes h, hroom]
  dsimp only
  rw [hbody]
  rfl

end

theorem exec_fatom (w : BitVec 3) (d : Code) (r : BitVec 5) (q : Ord) (a : Code) (s : State) :
    exec (.fatom w d r q a) s = execFatom w d r q a s := rfl

theorem exec_fatomq (w : BitVec 3) (d : Code) (r : BitVec 5) (q : Ord) (a : Code) (s : State) :
    exec (.fatomq w d r q a) s = execFatomq w d r q a s := rfl

/-- The value that FATOM adds in a lane (R197). -/
def addend (s : State) (c : Ctx) (d : Code) (lane : Nat) : BitVec 64 :=
  encodeF (modeType c.frag.mode) (inF (modeType c.frag.mode) c.frag.mode
    (src s c (tyBits (modeType c.frag.mode)) d lane))

section
variable {w : BitVec 3} {d : Code} {r : BitVec 5} {q : Ord} {a : Code} {s : State} {c : Ctx}

theorem exec_fatom_of_short (h : Issues (.fatom w d r q a) s c)
    (hgo : SumGoes (.fatom w d r q a) s c (c.record r) d q a true) {part : Nat}
    (hroom : sumRoom (.fatom w d r q a) s c (c.record r) d a true = some part) :
    exec (.fatom w d r q a) s =
      .next (notifyDarner (waitEvent s c .accumulator) c.core (.exactSum c.ref part)) := by
  rw [exec_fatom, execFatom, h.issueForm_eq]
  exact congrArg Host.Outcome.next (performSum_of_short hgo hroom _)

theorem exec_fatom_of_room (h : Issues (.fatom w d r q a) s c)
    (hgo : SumGoes (.fatom w d r q a) s c (c.record r) d q a true)
    (hroom : sumRoom (.fatom w d r q a) s c (c.record r) d a true = none) :
    exec (.fatom w d r q a) s = .next (forceCheckpoint (complete c (.fatom w d r q a)
      ((sumLocated (.fatom w d r q a) s c (c.record r) d a true).pieces.foldl
        (fun st e => contribute st c (tySize (recFormat (c.record r))) (modeType c.frag.mode) e.2 (addend s c d e.1))
        (fillSums (sumLocated (.fatom w d r q a) s c (c.record r) d a true).state (tySize (recFormat (c.record r)))
          (sumLocated (.fatom w d r q a) s c (c.record r) d a true).pieces)) {}) c.core c.ref.block) := by
  rw [exec_fatom, execFatom, h.issueForm_eq]
  exact congrArg Host.Outcome.next (performSum_of_room hgo hroom rfl)

end

/-- Lanes that raise no enabled exception all deliver (R54). -/
theorem filter_quiet {c : Ctx} {l : List (Nat × LaneRes)} (h : ∀ e ∈ l, e.2.exc &&& modeTrapEn c.frag.mode = 0) :
    (l.filter fun e => enabledExc c e.2.exc == 0) = l ∧ (l.filter fun e => enabledExc c e.2.exc != 0) = [] := by
  refine ⟨List.filter_eq_self.mpr fun e he => ?_, List.filter_eq_nil_iff.mpr fun e he => ?_⟩
  · rw [enabledExc, h e he]; rfl
  · rw [enabledExc, h e he]; exact Bool.false_ne_true

/-- The state in which FATOMQ reads: the elements without a sum have their bytes retired (R199). -/
def sumsRead (c : Ctx) (rc : Rec) (l : Located) : State :=
  let s1 := fillSums l.state (tySize (recFormat rc)) l.pieces
  (l.pieces.filter fun e => (boundSum s1 e.2.pa (tySize (recFormat rc))).isNone).foldl
    (fun st e => (accessStore c rc).touch st e.2.bytes) s1

section
variable {w : BitVec 3} {d : Code} {r : BitVec 5} {q : Ord} {a : Code} {s : State} {c : Ctx}

theorem exec_fatomq_of_room (h : Issues (.fatomq w d r q a) s c)
    (hgo : SumGoes (.fatomq w d r q a) s c (c.record r) d q a false)
    (hroom : sumRoom (.fatomq w d r q a) s c (c.record r) d a false = none)
    {l : Located} (hl : l = sumLocated (.fatomq w d r q a) s c (c.record r) d a false)
    {lanes : List (Nat × LaneRes)} (hlanes : lanes = l.pieces.map fun e =>
      (e.1, sumValue (sumsRead c (c.record r) l) c (accessStore c (c.record r)) (recFormat (c.record r)) e.2))
    (hquiet : ∀ e ∈ lanes, e.2.exc &&& modeTrapEn c.frag.mode = 0) :
    exec (.fatomq w d r q a) s = .next (forceCheckpoint (completeLater c (.fatomq w d r q a) (sumsRead c (c.record r) l)
      ((lanes ++ (outsideLanes s c (sumAccess false) (c.record r) d (uniformIssue (.fatomq w d r q a))
          (recIndex s c a)).map fun lane => ((lane, ⟨0, freshTag (modeType c.frag.mode), 0⟩) : Nat × LaneRes)).foldl
        (fun (h : HistStep) e => h.append (writeCode c e.1 d (is64 (modeType c.frag.mode)) (modeType c.frag.mode) e.2.bits e.2.tag)) {}))
      c.core c.ref.block) := by
  obtain ⟨hgood, hfault⟩ := filter_quiet hquiet
  subst hl
  subst hlanes
  rw [exec_fatomq, execFatomq, h.issueForm_eq]
  refine congrArg Host.Outcome.next (performSum_of_room hgo hroom ?_)
  dsimp only
  unfold sumsRead at hgood hfault ⊢
  dsimp only at hgood hfault ⊢
  rw [hgood, hfault]
  rfl

end

/-- Settles O19: each form is the shared course with its body. -/
theorem exactSumResults : Obligations.ExactSumResults := by
  intro w d r q a s c rc t size value room reached
  refine ⟨fun h => ?fatom, fun h => ?fatomq⟩
  case fatom =>
    intro u l hreached hpeer hroom
    obtain ⟨hactive, hwait, hbad, hbytes⟩ := hreached
    have hgo : SumGoes (.fatom w d r q a) s c rc d q a true := ⟨hactive, hwait, hbad, hbytes, fun _ => hpeer⟩
    exact exec_fatom_of_room h hgo hroom
  case fatomq =>
    intro u l s1 s2 got hreached hroom out all hquiet
    obtain ⟨hactive, hwait, hbad, hbytes⟩ := hreached
    have hgo : SumGoes (.fatomq w d r q a) s c rc d q a false := ⟨hactive, hwait, hbad, hbytes, nofun⟩
    exact exec_fatomq_of_room h hgo hroom rfl rfl (List.forall_mem_map.mpr hquiet)

end Sys2Proof.Claims
end

section
/-! An element that a store writes reads back (R185). -/

namespace Sys2Proof.Claims

open Sys2Proof.Machine

section
variable {s : State} {a : Nat} {bs : List Byte}

theorem get_phys_none (s : State) (ha : paRegion a ≠ 3) : Store.get (.phys none) s a = s.byteAt a :=
  if_neg ha

/-- A write by an agent without uncommitted stores enters memory once the sums that it meets are retired (R199). -/
theorem put_phys_none (s : State) (ha : paRegion a ≠ 3) (bs : List Byte) :
    Store.put (.phys none) s a bs = memWrite (retireRange s a bs.length) a bs := by
  show physPut (if paRegion a = 3 then s else s) none a bs = _
  rw [ite_self]
  exact if_neg ha

theorem noSumAt_put (ha : paRegion a ≠ 3) (b : Byte) : noSumAt (Store.put (.phys none) s a [b]) a := by
  intro x hx
  rw [put_phys_none s ha] at hx
  obtain ⟨-, hmeet⟩ := mem_exactSums_retireRange.mp hx
  simp only [rangesMeet, List.length_singleton, Bool.and_eq_false_iff, decide_eq_false_iff_not, not_lt] at hmeet
  omega

theorem byteAt_put (hs : s.memOk) (ha : paRegion a ≠ 3) {j : Nat} (hj : j < bs.length) :
    (Store.put (.phys none) s a bs).byteAt (a + j) = bs[j] := by
  rw [put_phys_none s ha, byteAt_memWrite (retireRange_memOk a _ hs), if_pos (Nat.le_add_right a j), Nat.add_sub_cancel_left,
    List.getElem?_eq_getElem hj]
  rfl

end

/-- Single bytes that are put at distinct addresses all stand there. -/
theorem byteAt_foldl_put {l : List (Nat × Byte)} (hnodup : (l.map (·.1)).Nodup) (hregion : ∀ e ∈ l, paRegion e.1 ≠ 3)
    {s : State} (hs : s.memOk) {e : Nat × Byte} (he : e ∈ l) :
    (l.foldl (fun s e => Store.put (.phys none) s e.1 [e.2]) s).byteAt e.1 = e.2 := by
  induction l generalizing s with
  | nil => cases he
  | cons f r ih =>
    obtain ⟨hf, hr⟩ := List.nodup_cons.mp hnodup
    have hput := storeFrame_put (.phys none) s f.1 [f.2]
    have hregionF := hregion f List.mem_cons_self
    rw [List.foldl_cons]
    rcases List.mem_cons.mp he with rfl | he
    · have hrest : StoreFrame (.phys none) (bytesOf (r.map (·.1))) (Store.put (.phys none) s e.1 [e.2])
          (r.foldl (fun s e => Store.put (.phys none) s e.1 [e.2]) (Store.put (.phys none) s e.1 [e.2])) := by
        refine .foldl (fun g hg t => (storeFrame_put (.phys none) t g.1 [g.2]).mono fun j hj => ?_) _
        have hj' : j = g.1 := by have := hj.1; have := hj.2; simp only [List.length_singleton] at this; omega
        rw [hj']
        exact List.mem_map_of_mem hg
      rw [hrest.mem.bytes (hput.mem.memOk hs) e.1 hf (noSumAt_put hregionF e.2)]
      exact byteAt_put (bs := [e.2]) hs hregionF (j := 0) Nat.one_pos
    · exact ih hr (fun g hg => hregion g (List.mem_cons_of_mem _ hg)) (hput.mem.memOk hs) he

/-- A list of bytes put at distinct addresses reads back. -/
theorem map_byteAt_putList {s : State} (hs : s.memOk) {l : List Nat} (hnodup : l.Nodup) (hregion : ∀ a ∈ l, paRegion a ≠ 3)
    {bs : List Byte} (hlen : bs.length = l.length) :
    l.map (Store.putList (.phys none) s l bs).byteAt = bs := by
  cases l with
  | nil => exact (List.length_eq_zero_iff.mp hlen).symm
  | cons a r =>
    have hput : Store.putList (.phys none) s (a :: r) bs =
        if a :: r = (List.range (a :: r).length).map (a + ·) then Store.put (.phys none) s a bs
        else ((a :: r).zip bs).foldl (fun s e => Store.put (.phys none) s e.1 [e.2]) s := rfl
    have hkeys : ((a :: r).zip bs).map (·.1) = a :: r := List.map_fst_zip hlen.ge
    rw [hput]
    refine List.ext_getElem (by rw [List.length_map, hlen]) fun j hj hj' => ?_
    have hjl : j < (a :: r).length := by rwa [List.length_map] at hj
    rw [List.getElem_map]
    split
    next hrun =>
      have hget : (a :: r)[j] = a + j := by rw [List.getElem_of_eq hrun hjl]; simp
      rw [hget]
      exact byteAt_put hs (hregion a List.mem_cons_self) hj'
    next =>
      have hmem : ((a :: r)[j], bs[j]) ∈ (a :: r).zip bs := by
        rw [← List.getElem_zip (h := by rw [List.length_zip]; omega)]
        exact List.getElem_mem _
      exact byteAt_foldl_put (by rwa [hkeys]) (fun e he => hregion e.1 (List.of_mem_zip he).1) hs hmem

/-- Settles O24: the bytes of the element stand where they were put, and make up its value. -/
theorem storedElementsReadBack : Obligations.StoredElementsReadBack := by
  intro s t p v tag hs hbx hnodup _ htag hregion
  have hwrite : writeElem (.phys none) s t p v tag = Store.putList (.phys none) s p.data (leBytes v.toNat p.data.length) := by
    rw [writeElem, htag, if_neg (ne_true_of_eq_false hbx)]
  have hget : p.data.map (Store.get (.phys none) (Store.putList (.phys none) s p.data (leBytes v.toNat p.data.length))) =
      leBytes v.toNat p.data.length :=
    (List.map_congr_left fun a ha => get_phys_none _ (hregion a ha)).trans
      (map_byteAt_putList hs hnodup hregion (leBytes_length v.toNat p.data.length))
  rw [hwrite, readElem, if_neg (ne_true_of_eq_false hbx), Store.nat, hget, leNat_leBytes]

end Sys2Proof.Claims
end

section
/-! What memory forms leave when they issue (R104, R185, R192, R194, R197). -/

namespace Sys2Proof.Machine

/-! ### States with the same bytes -/

/-- Memory and core SRAM hold the same bytes. -/
structure SameBytes (s t : State) : Prop where
  mem : t.mem = s.mem
  sram : ∀ k, (coreOf t k).sram = (coreOf s k).sram

namespace SameBytes

variable {s t u : State}

theorem refl (s : State) : SameBytes s s := ⟨rfl, fun _ => rfl⟩

theorem trans (h : SameBytes s t) (h' : SameBytes t u) : SameBytes s u :=
  ⟨h'.mem.trans h.mem, fun k => (h'.sram k).trans (h.sram k)⟩

theorem of_eq (hmem : t.mem = s.mem) (hcores : t.cores = s.cores) : SameBytes s t :=
  ⟨hmem, fun k => congrArg Core.sram (coreOf_of_cores_eq hcores k)⟩

theorem modCore (s : State) (c : Nat) {f : Core → Core} (hf : ∀ x, (f x).sram = x.sram) :
    SameBytes s (Machine.modCore s c f) := by
  refine ⟨rfl, fun k => ?_⟩
  rw [coreOf_modCore]
  split
  next hk => rw [hk]; exact hf _
  next => rfl

theorem modBlock (s : State) (c b : Nat) (f : Block → Block) : SameBytes s (Machine.modBlock s c b f) :=
  .modCore s c fun _ => rfl

theorem modWave (s : State) (c b w : Nat) (f : Wave → Wave) : SameBytes s (Machine.modWave s c b w f) :=
  .modBlock s c b _

theorem modFrag (s : State) (c : Nat) (r : FragRef) (f : Fragment → Fragment) : SameBytes s (Machine.modFrag s c r f) :=
  .modWave s c r.block r.wave _

theorem foldl {α : Type} {f : State → α → State} (h : ∀ s a, SameBytes s (f s a)) (l : List α) (s : State) :
    SameBytes s (l.foldl f s) := by
  induction l generalizing s with
  | nil => exact refl s
  | cons a l ih => exact (h s a).trans (ih _)

end SameBytes

section
variable (s : State) (c : Ctx)

theorem sameBytes_forceCheckpoint (core b : Nat) : SameBytes s (forceCheckpoint s core b) := .modBlock s core b _

theorem sameBytes_completeWith (i : Instr) (x : HistStep) (pc : BitVec 64) (l : Option PendingLoad) :
    SameBytes s (completeWith c i s x pc l) :=
  (SameBytes.modWave s c.core c.ref.block c.ref.wave _).trans (.of_eq rfl rfl)

theorem sameBytes_makeEntry (core asid launch : Nat) (e : HamperEntry) :
    SameBytes s (makeEntry s core asid launch e) := by
  refine ⟨makeEntry_mem s core asid launch e, fun k => ?_⟩
  rw [coreOf_makeEntry]
  split
  next hk => rw [hk]
  next => rfl

theorem sameBytes_darnerFault (core code : Nat) (pc info : BitVec 64) : SameBytes s (darnerFault s core code pc info) := by
  have hstopped : SameBytes s (modCore s core fun k =>
      { k with darner := { k.darner with stopped := some (code, pc, info) } }) := .modCore s core fun _ => rfl
  exact hstopped.trans (.of_eq rfl rfl)

variable {s} in
/-- A fault moves no byte that what completes before it does not move. -/
theorem sameBytes_takeFault (fi : FaultInfo) {after : State} (h : SameBytes s after) :
    SameBytes s (takeFault c fi s after) := by
  unfold takeFault
  split
  · exact sameBytes_darnerFault s c.core _ _ _
  · split
    · exact .modFrag s _ _ _
    · dsimp only
      split
      · refine .trans (.trans ?_ (.modFrag _ _ _ _)) (sameBytes_makeEntry _ _ _ _ _)
        split
        · exact h
        · exact .refl s
      · split
        · exact h
        · exact (h.trans (.modWave _ _ _ _ _)).trans (sameBytes_makeEntry _ _ _ _ _)

theorem sameBytes_freeLocks (o : Owner) (rmw : Bool) (l : List Nat) : SameBytes s (freeLocks s o rmw l) :=
  .foldl (fun s (e : Nat × Nat) => sameBytes_forceCheckpoint s e.1 e.2) _ s

theorem sameBytes_freeHeld (core : Nat) : SameBytes s (freeHeld s core) :=
  .foldl (fun s c => .foldl (fun s e => by
    split
    · exact .refl s
    · exact sameBytes_forceCheckpoint s c e.1) _ s) _ s

theorem sameBytes_waitChecked (w : Wait) : SameBytes s (waitChecked s c w) := by
  unfold waitChecked
  dsimp only
  split
  · exact .modFrag s _ _ _
  · exact .trans (.modFrag s c.core c.ref _) (.modFrag _ _ _ _)

theorem sameBytes_waitForBytes (w : Wait) : SameBytes s (waitForBytes s c w) := by
  have hwait := sameBytes_waitChecked s c w
  unfold waitForBytes
  dsimp only
  split
  · exact hwait.trans (sameBytes_freeLocks _ _ _ _)
  · exact hwait.trans (sameBytes_freeHeld _ _)
  · exact hwait

variable {s} in
theorem sameBytes_finishAccess (act : Lanes) (u : Bool) (bad : List (Nat × LaneFault)) {after : State}
    (h : SameBytes s after) : SameBytes s (finishAccess c act u bad s after) := by
  unfold finishAccess
  split
  · exact h
  · next fi _ =>
    have hfault := sameBytes_takeFault c fi h
    split
    · refine hfault.trans ?_
      unfold notePoison
      split <;> exact .of_eq rfl rfl
    · exact hfault

theorem sameBytes_postStore (i : Instr) (f : AccessForm) (r : Rec) (d : Code) (q : Ord) (k : Nat) (p : AccessPlan) :
    SameBytes s (postStore i s c f r d q k p) := by
  have hdone : SameBytes s (complete c i s {}) := sameBytes_completeWith s c i {} _ none
  unfold postStore
  dsimp only
  split
  · exact hdone
  · have hcounted : SameBytes s { complete c i s {} with nextIdent := s.nextIdent + 1 } := hdone.trans (.of_eq rfl rfl)
    have hjoined (g : Wave → Wave) := hcounted.trans (.modWave _ c.core c.ref.block c.ref.wave g)
    split
    · exact (hjoined _).trans (sameBytes_forceCheckpoint _ _ _)
    · exact hjoined _

variable {s c} in
/-- An issue moves no byte that the instruction's meaning does not move. -/
theorem sameBytes_issueForm {i : Instr} {body : Ctx → State} {t : State} (hc : ctxOf s = some c) (hbody : SameBytes s (body c))
    (h : issueForm i s body = .next t) : SameBytes s t := by
  unfold issueForm at h
  rw [hc] at h
  dsimp only at h
  split at h
  · injection h with h
    rw [← h]
    exact sameBytes_takeFault c _ (.refl s)
  · split at h
    · injection h with h
      rw [← h]
      exact .modFrag s _ _ _
    · split at h
      · injection h with h
        rw [← h]
        exact sameBytes_takeFault c _ (.refl s)
      · injection h with h
        rw [← h]
        exact hbody

end

end Sys2Proof.Machine

namespace Sys2Proof.Claims

open Sys2Proof.Machine

/-- A store without PSTORE to SPACE 0 moves no byte when it issues (R191, R192). -/
theorem sameBytes_storeForm_of_posted {i : Instr} {s t : State} {c : Ctx} {f : AccessForm} {d : Code} {r : BitVec 5} {q : Ord}
    {u : Bool} {k : Nat} {index : State → Ctx → Nat → Nat} (hc : ctxOf s = some c) (hspace : recSpace (c.record r) = 0)
    (hstore : modePstore c.frag.mode = false) (h : storeForm i f d r q u k s index = .next t) : SameBytes s t := by
  refine sameBytes_issueForm hc ?_ h
  dsimp only
  by_cases h0 : issueActive s c = 0
  · rw [if_neg (by simp [h0]), performAccess_of_empty h0]
    exact sameBytes_completeWith s c i {} _ none
  · rw [if_pos (by rw [hspace, hstore, bne_iff_ne.mpr h0]; rfl)]
    split
    · exact sameBytes_waitForBytes s c _
    · exact sameBytes_finishAccess c _ _ _ (sameBytes_postStore s c i f _ d q k _)

/-! ### An access that has gone through -/

section
variable {s u t : State} {c : Ctx} {rc : Rec} {l : Located} {m : Set Nat}

theorem sameBytes_forced (c : Ctx) (f : AccessForm) (rc : Rec) (q : Ord) (l : Located) (t : State) :
    SameBytes t (forced c f rc q l t) := by
  unfold forced
  split
  · exact sameBytes_forceCheckpoint t _ _
  · exact .refl t

theorem KeepsRegisters.forced (h : KeepsRegisters c t) (f : AccessForm) (rc : Rec) (q : Ord) (l : Located) :
    KeepsRegisters c (Claims.forced c f rc q l t) := by
  unfold Claims.forced
  split
  · exact h.of_waveOf_eq (waveOf_forceCheckpoint _ _ _ _ _ _)
  · exact h

/-- A completion moves no byte, and what it delivers arrives later (R104). -/
theorem completed_frame {r : Nat → Set Nat} (hc : ctxOf s = some c) (hu : CoreFrame r s u) (i : Instr) (pc : BitVec 64)
    (load : Option PendingLoad) :
    SameBytes u (completeWith c i u {} pc load) ∧ KeepsRegisters c (completeWith c i u {} pc load) :=
  ⟨sameBytes_completeWith u c i {} pc load,
    ((keepsRegisters_ctx hc).of_waveOf_eq (hu.waves _ _ _)).completeWith i pc load⟩

theorem completed_access {r : Nat → Set Nat} (hc : ctxOf s = some c) (hu : CoreFrame r s u) (i : Instr) (f : AccessForm)
    (q : Ord) (pc : BitVec 64) (load : Option PendingLoad) :
    SameBytes u (forced c f rc q l (completeWith c i u {} pc load)) ∧
      KeepsRegisters c (forced c f rc q l (completeWith c i u {} pc load)) := by
  obtain ⟨hbytes, hkeeps⟩ := completed_frame hc hu i pc load
  exact ⟨hbytes.trans (sameBytes_forced _ _ _ _ _ _), hkeeps.forced f rc q l⟩

variable (hl : TranslateFrame s l.state) (hu : StoreFrame (accessStore c rc) m l.state u) (ht : SameBytes u t)
include hl hu ht

/-- In memory an access changes the bytes of its lanes alone, and those of exact sums (R185, R199). -/
theorem byteAt_of_access (hs : s.memOk) {a : Nat} (hsum : noSumAt s a) (ha : recSpace rc = 0 → a ∉ m) :
    t.byteAt a = l.state.byteAt a := by
  have hsum' : noSumAt l.state a := fun x hx => hsum x (hl.sums ▸ hx)
  have hout : a ∉ memoryAt (accessStore c rc) m := by
    unfold accessStore
    split
    next h0 => exact ha h0
    next => exact id
  have hbyte := hu.mem.bytes (hl.memOk hs) a hout hsum'
  rw [State.byteAt, ht.mem]
  exact hbyte

/-- In core SRAM an access through SPACE 1 or 2 changes the bytes of its lanes alone, on its own core. -/
theorem sram_of_access (hs : cellsWf 0 (coreOf s c.core).sram = true) {core a : Nat}
    (ha : core = c.core → recSpace rc ≠ 0 → a ∉ m) :
    cellGet 0 a (coreOf t core).sram = cellGet 0 a (coreOf s core).sram := by
  rw [ht.sram, ← hl.cores.sram core rfl]
  by_cases hcore : core = c.core ∧ recSpace rc ≠ 0
  · obtain ⟨rfl, h0⟩ := hcore
    refine hu.cores.sramByte c.core a (hl.cores.sramWf c.core hs) ?_
    rw [accessStore, if_neg h0, sramAt, if_pos rfl]
    exact ha rfl h0
  · refine congrArg (cellGet 0 a) (hu.cores.sram core ?_)
    unfold accessStore
    split
    next => rfl
    next h0 => exact if_neg fun hc => hcore ⟨hc, h0⟩

end

/-- What a store or a read-modify-write that has gone through leaves (R185, R194). -/
theorem access_frame {s u : State} {c : Ctx} {rc : Rec} {l : Located} {m : Set Nat} (hc : ctxOf s = some c) (hs : s.memOk)
    (hwf : cellsWf 0 (coreOf s c.core).sram = true) (hl : TranslateFrame s l.state)
    (hu : StoreFrame (accessStore c rc) m l.state u) (i : Instr) (f : AccessForm) (q : Ord) (pc : BitVec 64)
    (load : Option PendingLoad) :
    let t := forced c f rc q l (completeWith c i u {} pc load)
    (∀ a, noSumAt s a → (recSpace rc = 0 → a ∉ m) → t.byteAt a = l.state.byteAt a) ∧
      (∀ core a, (core = c.core → recSpace rc ≠ 0 → a ∉ m) →
        cellGet 0 a (coreOf t core).sram = cellGet 0 a (coreOf s core).sram) ∧ KeepsRegisters c t := by
  intro t
  have hall : CoreFrame (sramAt (accessStore c rc) m) s u := hl.cores.weaken.trans hu.cores
  obtain ⟨ht, hkeeps⟩ := completed_access (l := l) (rc := rc) hc hall i f q pc load
  exact ⟨fun a hsum ha => byteAt_of_access hl hu ht hs hsum ha, fun core a ha => sram_of_access hl hu ht hwf ha, hkeeps⟩

theorem performedStore_frame {i : Instr} {s t : State} {c : Ctx} {f : AccessForm} {d : Code} {r : BitVec 5} {q : Ord} {u : Bool}
    {ix : Nat → Nat} {k : Nat} (hs : s.memOk) (hwf : cellsWf 0 (coreOf s c.core).sram = true) (h : Issues i s c)
    (hl : storeOf s c i = some (f, d, r, q, u, ix, k))
    (hp : recSpace (c.record r) ≠ 0 ∨ modePstore c.frag.mode = true) (hgo : GoesThrough s c f (c.record r) d q u ix)
    (ht : exec i s = .next t) :
    let l := afterLocate s c f (c.record r) d u ix
    (∀ a, noSumAt s a → (recSpace (c.record r) = 0 → a ∉ pieceBytes l) → t.byteAt a = l.state.byteAt a) ∧
      (∀ core a, (core = c.core → recSpace (c.record r) ≠ 0 → a ∉ pieceBytes l) →
        cellGet 0 a (coreOf t core).sram = cellGet 0 a (coreOf s core).sram) ∧ KeepsRegisters c t := by
  intro l
  obtain ⟨hlocated, hok⟩ := translateFrame_locateAll s c f (c.record r) (planAccess s c f (c.record r) d u (issueActive s c) ix)
  have hstored : StoreFrame (accessStore c (c.record r)) (bytesOf (pieceBytes l)) l.state
      (storedLanes s c f (c.record r) d l) :=
    storeFrame_stores (accessStore c (c.record r)) l.state (f.elem (c.record r)) (fun e : Nat × Piece => e.2)
      (fun e => storeValue s c d (f.elem (c.record r)) e.1) hok
  obtain rfl : _ = t := Host.Outcome.next.inj ((performedStoreResults i s c f d r q u ix k h hl hp hgo).symm.trans ht)
  exact access_frame h.ctxOf_eq hs hwf hlocated hstored i f q _ none

/-- A read-modify-write that has gone through changes the bytes of its lanes alone (R194). -/
theorem atomDone_frame {i : Instr} {s : State} {c : Ctx} {f : AccessForm} {rc : Rec} {d : Code} {q : Ord} {ix : Nat → Nat}
    (hc : ctxOf s = some c) (hs : s.memOk) (hwf : cellsWf 0 (coreOf s c.core).sram = true)
    (op : Nat → BitVec 64 → Option (BitVec 64)) :
    let l := afterLocate s c f rc d (uniformIssue i) ix
    let t := atomDone c i s f rc d q ix op
    (∀ a, noSumAt s a → (recSpace rc = 0 → a ∉ pieceBytes l) → t.byteAt a = l.state.byteAt a) ∧
      (∀ core a, (core = c.core → recSpace rc ≠ 0 → a ∉ pieceBytes l) →
        cellGet 0 a (coreOf t core).sram = cellGet 0 a (coreOf s core).sram) ∧ KeepsRegisters c t := by
  intro l
  obtain ⟨hlocated, hok⟩ := translateFrame_locateAll s c f rc
    (planAccess s c f rc d (uniformIssue i) (issueActive s c) ix)
  have happlied : StoreFrame (accessStore c rc) (bytesOf (pieceBytes l)) l.state
      (applyLanes (accessStore c rc) (recFormat rc) op l.pieces l.state).1 :=
    storeFrame_applyLanes (accessStore c rc) l.state (recFormat rc) op hok
      fun e he j hj => List.mem_flatMap.mpr ⟨e, he, hj⟩
  exact access_frame hc hs hwf hlocated happlied i f q _ _

/-! ### Loads (R199) -/

theorem storeFrame_retired (c : Ctx) (rc : Rec) (l : Located) :
    StoreFrame (accessStore c rc) ∅ l.state (retired c rc l) :=
  .foldl (fun e _ t => storeFrame_touch (accessStore c rc) t ∅ e.2.bytes) _

theorem sramAt_empty (x : Store) : sramAt x ∅ = noSram := by
  cases x with
  | phys o => rfl
  | sram c => exact funext fun _ => ite_self _

theorem load_frame {i : Instr} {s t : State} {c : Ctx} {f : AccessForm} {d : Code} {r : BitVec 5} {q : Ord} {u : Bool}
    {ix : Nat → Nat} (hs : s.memOk) (h : Issues i s c) (hl : loadOf s c i = some (f, d, r, q, u, ix))
    (hgo : GoesThrough s c f (c.record r) d q u ix) (ht : exec i s = .next t) :
    (∀ a, noSumAt s a → t.byteAt a = (afterLocate s c f (c.record r) d u ix).state.byteAt a) ∧
      (∀ core, (coreOf t core).sram = (coreOf s core).sram) ∧ KeepsRegisters c t := by
  obtain ⟨hlocated, -⟩ := translateFrame_locateAll s c f (c.record r)
    (planAccess s c f (c.record r) d u (issueActive s c) ix)
  have hretired := storeFrame_retired c (c.record r) (afterLocate s c f (c.record r) d u ix)
  have hall : CoreFrame noSram s (retired c (c.record r) (afterLocate s c f (c.record r) d u ix)) :=
    hlocated.cores.trans (sramAt_empty (accessStore c (c.record r)) ▸ hretired.cores)
  obtain rfl : _ = t := Host.Outcome.next.inj ((loadResults i s c f d r q u ix h hl hgo).symm.trans ht)
  obtain ⟨hbytes, hkeeps⟩ := completed_access (l := afterLocate s c f (c.record r) d u ix) (rc := c.record r) h.ctxOf_eq hall i f q
    (nextPc c i) _
  exact ⟨fun a hsum => byteAt_of_access hlocated hretired hbytes hs hsum fun _ => Set.notMem_empty a,
    fun core => (hbytes.sram core).trans (hall.sram core rfl), hkeeps⟩

/-! ### FATOM (R197) -/

theorem boundSum_eq_some {s : State} {pa size : Nat} {x : ExactSum} (h : boundSum s pa size = some x) :
    x ∈ s.exactSums ∧ x.pa = pa ∧ x.size = size := by
  have hx := List.find?_some h
  rw [Bool.and_eq_true, beq_iff_eq, beq_iff_eq] at hx
  exact ⟨List.mem_of_find?_eq_some h, hx⟩

theorem ExactSum.add_place (x : ExactSum) (v : FVal) : (x.add v).pa = x.pa ∧ (x.add v).size = x.size := by
  cases v with
  | nan _ => exact ⟨rfl, rfl⟩
  | inf neg => cases neg <;> exact ⟨rfl, rfl⟩
  | fin _ _ _ => exact ⟨rfl, rfl⟩

/-- Putting an accumulator binds none beside its element (R197). -/
theorem storeFrame_putSum (s : State) {x : ExactSum} {m : Set Nat} (hm : byteRun x.pa x.size ⊆ m ∨ ∃ y ∈ s.exactSums,
    y.pa = x.pa ∧ y.size = x.size) : StoreFrame (.phys none) m s (putSum s x) := by
  refine .phys (.of_cores_eq rfl) ⟨id, fun a ha hsum y hy => ?_, fun _ _ _ _ => rfl⟩
  rcases List.mem_append.mp hy with hy | hy
  · exact hsum y (List.mem_of_mem_filter hy)
  · rw [List.mem_singleton.mp hy]
    rcases hm with hm | ⟨z, hz, hpa, hsize⟩
    · by_contra hno
      exact ha (hm ⟨by omega, by omega⟩)
    · rw [← hpa, ← hsize]
      exact hsum z hz

theorem storeFrame_fillSums (s : State) (size : Nat) (pieces : List (Nat × Piece)) (m : Set Nat) :
    StoreFrame (.phys none) m s (fillSums s size pieces) := by
  refine .foldl (fun e _ t => ?_) s
  split
  next x hx =>
    split
    · exact storeFrame_putSum t (.inr ⟨x, (boundSum_eq_some hx).1, rfl, rfl⟩)
    · exact .refl _ m t
  next => exact .refl _ m t

theorem storeFrame_addToSum (s : State) (pa size partition asid launch t : Nat) (bits : BitVec 64) :
    StoreFrame (.phys none) (byteRun pa size) s (addToSum s pa size partition asid launch t bits) := by
  unfold addToSum
  cases hx : boundSum s pa size with
  | some x =>
    obtain ⟨hmem, hpa, hsize⟩ := boundSum_eq_some hx
    obtain ⟨haddPa, haddSize⟩ := ExactSum.add_place x (decodeF t bits)
    exact storeFrame_putSum s (.inr ⟨x, hmem, haddPa.symm, haddSize.symm⟩)
  | none =>
    dsimp only
    generalize hnew : bindSum (retireRange s pa size) pa size partition asid launch _ = x
    have hplace : x.pa = pa ∧ x.size = size := by subst hnew; exact ExactSum.add_place _ _
    obtain ⟨haddPa, haddSize⟩ := ExactSum.add_place x (decodeF t bits)
    refine .trans (.phys (.of_cores_eq (retireRange_cores s pa size)) (memFrame_retireRange _ s pa size))
      (storeFrame_putSum _ (.inl ?_))
    dsimp only
    rw [haddPa, haddSize, hplace.1, hplace.2]

theorem storeFrame_contribute (s : State) (c : Ctx) (size t : Nat) (p : Piece) (bits : BitVec 64) :
    StoreFrame (.phys none) (byteRun p.pa size) s (contribute s c size t p bits) := by
  unfold contribute
  split
  · exact .phys (.modBlock _ _ fun _ => rfl) (.of_eq rfl fun _ => id)
  · exact storeFrame_addToSum s _ _ _ _ _ _ _

/-- The bytes of the elements to which a form of some size adds. -/
def sumBytes (l : Located) (size : Nat) : Set Nat := {x | ∃ e ∈ l.pieces, x ∈ byteRun e.2.pa size}

/-- A FATOM changes at most the bytes of its elements, and those of exact sums that it retires. -/
theorem fatom_frame {w : BitVec 3} {d : Code} {r : BitVec 5} {q : Ord} {a : Code} {s t : State} {c : Ctx} (hs : s.memOk)
    (h : Issues (.fatom w d r q a) s c) (hgo : SumGoes (.fatom w d r q a) s c (c.record r) d q a true)
    (ht : exec (.fatom w d r q a) s = .next t) :
    let l := sumLocated (.fatom w d r q a) s c (c.record r) d a true
    (∀ x, noSumAt s x → (∀ e ∈ l.pieces, x < e.2.pa ∨ e.2.pa + tySize (recFormat (c.record r)) ≤ x) →
        t.byteAt x = l.state.byteAt x ∨ t.byteAt x = s.byteAt x) ∧
      (∀ core, (coreOf t core).sram = (coreOf s core).sram) ∧ KeepsRegisters c t := by
  intro l
  have hc := h.ctxOf_eq
  cases hroom : sumRoom (.fatom w d r q a) s c (c.record r) d a true with
  | some part =>
    have hwaits : SameBytes s (notifyDarner (waitEvent s c .accumulator) c.core (.exactSum c.ref part)) :=
      (SameBytes.modFrag s _ _ _).trans (.modCore _ _ fun _ => rfl)
    have hkept : KeepsRegisters c (waitEvent s c .accumulator) :=
      (keepsRegisters_ctx hc).modFrag (fun _ => rfl) fun _ => ⟨rfl, rfl, rfl, rfl⟩
    have hkeeps := hkept.of_waveOf_eq (waveOf_notifyDarner _ c.core (.exactSum c.ref part) _ _ _)
    obtain rfl : _ = t := Host.Outcome.next.inj ((exec_fatom_of_short h hgo hroom).symm.trans ht)
    exact ⟨fun x _ _ => .inr (congrArg (cellGet unwrittenByte x) hwaits.mem), hwaits.sram, hkeeps⟩
  | none =>
    obtain ⟨hlocated, -⟩ := translateFrame_locateAll s c (sumAccess true) (c.record r)
      (planAccess s c (sumAccess true) (c.record r) d (uniformIssue (.fatom w d r q a)) (issueActive s c) (recIndex s c a))
    have hlane (e : Nat × Piece) (he : e ∈ l.pieces) (st : State) (v : BitVec 64) :
        StoreFrame (.phys none) (sumBytes l (tySize (recFormat (c.record r)))) st
          (contribute st c (tySize (recFormat (c.record r))) (modeType c.frag.mode) e.2 v) :=
      (storeFrame_contribute st c _ _ e.2 v).mono fun x hx => ⟨e, he, hx⟩
    have hadded := (storeFrame_fillSums l.state (tySize (recFormat (c.record r))) l.pieces _).trans
      (.foldl (fun e he st => hlane e he st (addend s c d e.1)) _)
    have hall := hlocated.cores.trans hadded.cores
    obtain ⟨hbytes, hkeeps⟩ := completed_frame hc hall (.fatom w d r q a) (nextPc c (.fatom w d r q a)) none
    have hdone := hbytes.trans (sameBytes_forceCheckpoint _ c.core c.ref.block)
    obtain rfl : _ = t := Host.Outcome.next.inj ((exec_fatom_of_room h hgo hroom).symm.trans ht)
    refine ⟨fun x hsum hx => .inl ?_, fun core => (hdone.sram core).trans (hall.sram core rfl),
      hkeeps.of_waveOf_eq (waveOf_forceCheckpoint _ _ _ _ _ _)⟩
    refine (congrArg (cellGet unwrittenByte x) hdone.mem).trans (hadded.mem.bytes (hlocated.memOk hs) x ?_ ?_)
    · rintro ⟨e, he, hlo, hhi⟩
      have := hx e he
      omega
    · exact fun y hy => hsum y (hlocated.sums ▸ hy)

end Sys2Proof.Claims
end

section
/-! A translation changes at most the byte of the leaf's entry that holds its accessed and dirty bits (R383). -/

namespace Sys2Proof.Machine

/-! ### Bytes and numbers -/

theorem leNat_lt (l : List Byte) : leNat l < 256 ^ l.length := by
  induction l with
  | nil => exact Nat.one_pos
  | cons b r ih =>
    have hb : b.toNat < 256 := b.isLt
    rw [leNat, List.length_cons, pow_succ]
    omega

theorem leBytes_leNat (l : List Byte) : leBytes (leNat l) l.length = l := by
  induction l with
  | nil => rfl
  | cons b r ih =>
    have hb : b.toNat < 256 := b.isLt
    have hhead : BitVec.ofNat 8 (b.toNat + 256 * leNat r) = b := by
      apply BitVec.eq_of_toNat_eq
      rw [BitVec.toNat_ofNat]
      omega
    have htail : (b.toNat + 256 * leNat r) / 256 = leNat r := by omega
    rw [leNat, List.length_cons, leBytes, hhead, htail, ih]

theorem getElem?_leBytes_succ (v n j : Nat) : (leBytes v (n + 1))[j + 1]? = (leBytes (v / 256) n)[j]? := rfl

/-! ### Leaves -/

/-- The leaf of a walk is the entry that was read there, at a level of its size. -/
theorem walkFrom_leaf {read : Nat → Nat → Option (BitVec 64)} {ok : Nat → Bool} {va level table addr pa size : Nat} {e : BitVec 64}
    (h : walkFrom read ok va level table = .leaf addr e pa size) : ∃ n, read n addr = some e ∧ size = levelSize n := by
  induction level generalizing table with
  | zero =>
    unfold walkFrom at h
    dsimp only at h
    split_ifs at h
    split at h
    · cases h
    next hread =>
      split_ifs at h
      injection h with haddr he hpa hsize
      subst haddr he
      exact ⟨0, hread, hsize.symm⟩
  | succ n ih =>
    unfold walkFrom at h
    dsimp only at h
    split_ifs at h
    split at h
    · cases h
    next hread =>
      split_ifs at h
      · injection h with haddr he hpa hsize
        subst haddr he
        exact ⟨n + 1, hread, hsize.symm⟩
      · exact ih h

theorem walk_leaf {s : State} {k : Context} {read : Nat → Nat → Option (BitVec 64)} {va access addr pa size : Nat} {e : BitVec 64}
    (h : walk s k read va access = .leaf addr e pa size) : ∃ n, read n addr = some e ∧ size = levelSize n := by
  unfold walk at h
  split at h
  · cases h
  · split at h
    · cases h
    next hfrom =>
      split at h
      · injection h with haddr he hpa hsize
        subst haddr he hpa hsize
        exact walkFrom_leaf hfrom
      · cases h

/-- The update that goes with a cached walk is of the entry that memory holds: a cached leaf has none. -/
theorem staleWalk_update {s : State} {k : Context} {va access pa addr : Nat} {e : BitVec 64}
    (h : staleWalk s k va access = some (pa, some (addr, e))) :
    ∃ x, memEntry s 0 addr = some x ∧ e = touchedEntry x access := by
  unfold staleWalk at h
  split at h
  · cases h
  next addr' x pa' size hwalk =>
    split at h
    · split at h <;> simp at h
    next hcached =>
      injection h with h
      injection h with _ h
      injection h with h
      injection h with haddr he
      subst haddr
      obtain ⟨n, hread, hsize⟩ := walk_leaf hwalk
      refine ⟨x, ?_, he.symm⟩
      unfold cachedEntry at hread
      split at hread
      next y hy =>
        have hkey := List.find?_some hy
        simp only [Bool.and_eq_true, beq_iff_eq] at hkey
        obtain ⟨⟨hasid, hlevel⟩, haddr⟩ := hkey
        refine absurd (List.any_eq_true.mpr ⟨y, List.mem_of_find?_eq_some hy, ?_⟩) hcached
        rw [hasid, hlevel, haddr, hsize]
        simp
      next => exact hread

/-- The accessed and dirty bits lie in an entry's first byte. -/
theorem touchedEntry_div (e : BitVec 64) (access : Nat) : (touchedEntry e access).toNat / 256 = e.toNat / 256 := by
  unfold touchedEntry
  have hbits : ∀ x : BitVec 64, x = 0 ∨ x = 1#64 <<< 6 → (e ||| 1#64 <<< 5 ||| x).toNat / 256 = e.toNat / 256 := by
    intro x hx
    rw [BitVec.toNat_or, BitVec.toNat_or]
    change _ / 2 ^ 8 = _ / 2 ^ 8
    rw [← Nat.shiftRight_eq_div_pow, ← Nat.shiftRight_eq_div_pow, Nat.shiftRight_or_distrib, Nat.shiftRight_or_distrib]
    rcases hx with rfl | rfl <;> simp
  split
  · exact hbits _ (.inr rfl)
  · exact hbits _ (.inl rfl)

/-- Setting those bits changes no byte but the entry's first. -/
theorem byteAt_touchLeaf {s : State} (hs : s.memOk) {n addr a access : Nat} {e : BitVec 64} (he : memEntry s n addr = some e)
    (ha : a ≠ addr) : (touchLeaf s addr (touchedEntry e access)).byteAt a = s.byteAt a := by
  have hentry : e = BitVec.ofNat 64 (leNat (readBytes s.mem addr 8)) := by
    unfold memEntry at he
    split at he
    · cases he
    · exact (Option.some.inj he).symm
  have hnat : e.toNat = leNat (readBytes s.mem addr 8) := by
    have hlt := leNat_lt (readBytes s.mem addr 8)
    rw [readBytes_length] at hlt
    rw [hentry, BitVec.toNat_ofNat]
    exact Nat.mod_eq_of_lt hlt
  have hbytes : leBytes e.toNat 8 = readBytes s.mem addr 8 := by
    have hround := leBytes_leNat (readBytes s.mem addr 8)
    rwa [readBytes_length, ← hnat] at hround
  unfold touchLeaf
  split
  · rfl
  · rw [byteAt_memWrite hs]
    split
    next hle =>
      obtain ⟨j, hj⟩ : ∃ j, a - addr = j + 1 := ⟨a - addr - 1, by omega⟩
      have htail : (leBytes (touchedEntry e access).toNat 8)[j + 1]? = (leBytes e.toNat 8)[j + 1]? := by
        rw [getElem?_leBytes_succ, getElem?_leBytes_succ, touchedEntry_div]
      rw [hj, htail, hbytes, ← hj, readBytes_getElem?]
      split
      · rw [Nat.add_sub_cancel' hle]
        rfl
      · rfl
    next => rfl

/-- A stale translation that serves changes at most the byte of its leaf's entry. -/
theorem byteAt_serveStale {s : State} (hs : s.memOk) {core a va access : Nat} {k : Context} {own : Option Nat}
    (ha : ∀ pa addr e, staleWalk s k va access = some (pa, some (addr, e)) → a ≠ addr)
    {x : Nat × Option (Nat × BitVec 64)} (hx : x ∈ staleHits s core k [] va access own) :
    (serveStale s x).1.byteAt a = s.byteAt a := by
  unfold serveStale
  split
  · rfl
  · split
    next addr e hupdate =>
      obtain ⟨pa, update⟩ := x
      obtain rfl : update = some (addr, e) := hupdate
      have hwalk : staleWalk s k va access = some (pa, some (addr, e)) := by
        rcases List.mem_append.mp (List.mem_of_mem_filter hx) with hheld | hstale
        · obtain ⟨_, _, heq⟩ := List.mem_map.mp hheld
          cases heq
        · exact Option.mem_toList.mp hstale
      obtain ⟨y, hy, rfl⟩ := staleWalk_update hwalk
      exact byteAt_touchLeaf hs hy (ha pa addr _ hwalk)
    next => rfl

/-- The translation that a free choice takes from some stale ones is one of them. -/
theorem mem_of_chosen {α : Type} [DecidableEq α] {l : List α} {n : Nat} {x : α}
    (h : (if l = [] then none else l[n]?) = some x) : x ∈ l := by
  split at h
  · cases h
  · exact List.mem_of_getElem? h

end Sys2Proof.Machine

namespace Sys2Proof.Claims

open Sys2Proof.Machine

theorem byteAt_translateOwn {s : State} (hs : s.memOk) {core asid access salt a : Nat} {va : BitVec 64}
    (ha : ∀ k, contextOf s asid = some k →
      (∀ addr e pa size, walk s k (memEntry s) (va.toNat % 2 ^ 57) access = .leaf addr e pa size → a ≠ addr) ∧
      (∀ pa addr e, staleWalk s k (va.toNat % 2 ^ 57) access = some (pa, some (addr, e)) → a ≠ addr)) :
    (translateOwn s core asid [] va access salt).1.byteAt a = s.byteAt a := by
  unfold translateOwn
  split
  · split <;> rfl
  next k hk =>
    obtain ⟨hleaf, hstale⟩ := ha k hk
    obtain ⟨p, hp⟩ := countMisses_eq s core salt (tlbHit (coreOf s core) k.asid (va.toNat % 2 ^ 57) access).isNone
    have hbytes : State.byteAt { s with partitions := p } a = s.byteAt a := rfl
    have hs' : State.memOk { s with partitions := p } := hs
    have hleaf' : ∀ addr e pa size, walk { s with partitions := p } k (memEntry { s with partitions := p })
      (va.toNat % 2 ^ 57) access = .leaf addr e pa size → a ≠ addr := hleaf
    have hstale' : ∀ pa addr e, staleWalk { s with partitions := p } k (va.toNat % 2 ^ 57) access =
      some (pa, some (addr, e)) → a ≠ addr := hstale
    dsimp only
    rw [hp, ← hbytes]
    generalize ({ s with partitions := p } : State) = u at hs' hleaf' hstale' ⊢
    split
    next addr e pa size hwalk =>
      split
      next old hold => exact byteAt_serveStale hs' hstale' (mem_of_chosen hold)
      next =>
        split
        · rfl
        · obtain ⟨n, hread, -⟩ := walk_leaf hwalk
          exact byteAt_touchLeaf hs' hread (hleaf' addr e pa size hwalk)
    next =>
      split
      next old hold => exact byteAt_serveStale hs' hstale' (mem_of_chosen hold)
      next => rfl

/-- Settles O23: the frames of performed stores, of read-modify-writes, of FATOM, of loads, of posted stores and of translations. -/
theorem memoryFrames : Obligations.MemoryFrames := by
  refine ⟨fun i s c f d r q u ix k t hs hwf h hl hp hgo ht => performedStore_frame hs hwf h hl hp hgo ht,
    fun i w d r q a s c f t hs hwf h hi => ?atoms, fun w d r q a s c t hs h => ?fatom,
    fun i s c f d r q u ix t hs h hl hgo ht => load_frame hs h hl hgo ht,
    fun i s c f d r q u ix k t hc hl hspace hstore ht => ?posted,
    fun s core asid va access salt a hs ha => byteAt_translateOwn hs ha⟩
  case atoms =>
    intro u hgo ht
    obtain ⟨hatoms, hcas⟩ := atomicResults w d r q a s c
    rcases hi with ⟨e, he, rfl, rfl⟩ | ⟨rfl, rfl⟩
    · obtain rfl : _ = t := Host.Outcome.next.inj ((hatoms e he h hgo).symm.trans ht)
      exact atomDone_frame h.ctxOf_eq hs hwf _
    · obtain rfl : _ = t := Host.Outcome.next.inj ((hcas h hgo).symm.trans ht)
      exact atomDone_frame h.ctxOf_eq hs hwf _
  case fatom =>
    intro hactive u l hwait hbad hbytes hpeer ht
    have hgo : SumGoes (.fatom w d r q a) s c (c.record r) d q a true := ⟨hactive, hwait, hbad, hbytes, fun _ => hpeer⟩
    exact fatom_frame hs h hgo ht
  case posted =>
    obtain ⟨index, hexec, -⟩ := exec_store hc hl
    obtain ⟨hmem, hsram⟩ := sameBytes_storeForm_of_posted hc hspace hstore (hexec.symm.trans ht)
    exact ⟨hmem, hsram⟩

end Sys2Proof.Claims
end

section
/-! The iron (R231, R232, R298, R318, R328): who takes it, who waits for it, and who passes or drops it. -/

namespace Sys2Proof.Claims

open Sys2Proof.Machine

/-! ### Parameter words -/

theorem bitVec_and_not_eq_zero_iff {n : Nat} (x m : BitVec n) : x &&& ~~~ m = 0 ↔ x &&& m = x := by
  constructor <;> intro h <;> ext i hi <;> have hbit := congrArg (·.getLsbD i) h <;>
    simp [hi] at hbit ⊢ <;> exact hbit

/-- IRON reserves the bits above bit 5 (R231). -/
theorem iron_reserved_iff (p : BitVec 64) : p &&& ~~~ 0x3F#64 = 0 ↔ p.toNat < 64 := by
  have hlow : (p &&& 0x3F#64).toNat = p.toNat % 64 := by
    rw [BitVec.toNat_and]
    exact Nat.and_two_pow_sub_one_eq_mod p.toNat 6
  rw [bitVec_and_not_eq_zero_iff, ← BitVec.toNat_inj, hlow]
  omega

theorem exec_iron (w : BitVec 3) (k : Code) (s : State) : exec (.iron w k) s = execIron w k s := rfl

theorem exec_ironp (w : BitVec 3) (k : Code) (s : State) : exec (.ironp w k) s = execIronp w k s := rfl

/-- The state behind an iron that has changed hands: the block's iron, the message that a posting form puts into its port, and the
pin of the block's tile (R231, R232, R298). -/
def ironPut (c : Ctx) (i : Instr) (s : State) (p : BitVec 64) (iron : Option Nat) (m : Msg) : State :=
  pinTile (modBlock (complete c i s {}) c.core c.ref.block fun b =>
    let b := { b with iron := iron }
    if pPost p then b.putMsg (pPort p) m else b) c.core c.ref.block

/-- A condition on a posting form's port that nothing of the port meets. -/
theorem post_and_ne_true {p : BitVec 64} {b : Bool} (h : pPost p = true → b = false) : ¬ (pPost p && b) = true := by
  rw [Bool.and_eq_true]
  exact fun hb => Bool.false_ne_true ((h hb.1).symm.trans hb.2)

theorem not_eq_false_of_imp {a : Prop} {b : Bool} (h : a → b = true) (ha : a) : (!b) = false := by rw [h ha]; rfl

/-! ### IRON (R231, R318) -/

section
variable {w : BitVec 3} {k : Code} {s : State} {c : Ctx} {p : BitVec 64} (h : Issues (.iron w k) s c)
  (hp : (readS s c (k.toNat - 64)).val = p)
include h hp

theorem exec_iron_of_malformed (hbad : 64 ≤ p.toNat ∨ portBad c.blk p = true) :
    exec (.iron w k) s = .next (parkAll c s 0x01 p) := by
  subst hp
  rw [exec_iron, execIron, h.issueForm_eq]
  exact congrArg Host.Outcome.next (if_pos (hbad.imp_left fun hp => mt (iron_reserved_iff _).mp hp.not_gt))

variable (hlegal : p.toNat < 64) (hport : portBad c.blk p = false)
include hlegal hport

/-- What an IRON with a legal operand does, in the order of its checks. -/
theorem exec_iron_of_legal : exec (.iron w k) s = .next (
    if c.blk.iron.any fun v => v != c.wave.idx then waitEvent s c .iron
    else if pPost p && sentBefore s c (pPort p) then waitEvent s c (.sent (pPort p))
    else if pPost p && !c.blk.hasRoom (pPort p) then waitEvent s c (.ironPort (pPort p))
    else ironPut c (.iron w k) s p (some c.wave.idx) (fromSystem s c (BitVec.ofNat 64 c.wave.idx) none)) := by
  subst hp
  rw [exec_iron, execIron, h.issueForm_eq]
  refine congrArg Host.Outcome.next (if_neg (not_or.mpr ⟨not_not.mpr ?_, ne_true_of_eq_false hport⟩))
  exact (iron_reserved_iff _).mpr hlegal

theorem exec_iron_of_held (hheld : ∃ v, c.blk.iron = some v ∧ v ≠ c.wave.idx) :
    exec (.iron w k) s = .next (waitEvent s c .iron) := by
  obtain ⟨v, hv, hne⟩ := hheld
  rw [exec_iron_of_legal h hp hlegal hport, hv]
  exact congrArg Host.Outcome.next (if_pos (bne_iff_ne.mpr hne))

variable (hfree : ∀ v, c.blk.iron = some v → v = c.wave.idx)
include hfree

theorem exec_iron_of_free : exec (.iron w k) s = .next (
    if pPost p && sentBefore s c (pPort p) then waitEvent s c (.sent (pPort p))
    else if pPost p && !c.blk.hasRoom (pPort p) then waitEvent s c (.ironPort (pPort p))
    else ironPut c (.iron w k) s p (some c.wave.idx) (fromSystem s c (BitVec.ofNat 64 c.wave.idx) none)) := by
  rw [exec_iron_of_legal h hp hlegal hport, if_neg]
  rw [Option.any_eq_true]
  rintro ⟨v, hv, hne⟩
  exact bne_iff_ne.mp hne (hfree v hv)

theorem exec_iron_taken (hafter : pPost p = true → sentBefore s c (pPort p) = false)
    (hroom : pPost p = true → c.blk.hasRoom (pPort p) = true) :
    exec (.iron w k) s =
      .next (ironPut c (.iron w k) s p (some c.wave.idx) (fromSystem s c (BitVec.ofNat 64 c.wave.idx) none)) := by
  rw [exec_iron_of_free h hp hlegal hport hfree, if_neg (post_and_ne_true hafter),
    if_neg (post_and_ne_true (not_eq_false_of_imp hroom))]

variable (hpost : pPost p = true)
include hpost

theorem exec_iron_of_sent (hsent : sentBefore s c (pPort p) = true) :
    exec (.iron w k) s = .next (waitEvent s c (.sent (pPort p))) := by
  rw [exec_iron_of_free h hp hlegal hport hfree, if_pos (by rw [hpost, hsent]; rfl)]

theorem exec_iron_of_full (hsent : sentBefore s c (pPort p) = false) (hfull : c.blk.hasRoom (pPort p) = false) :
    exec (.iron w k) s = .next (waitEvent s c (.ironPort (pPort p))) := by
  rw [exec_iron_of_free h hp hlegal hport hfree, if_neg (post_and_ne_true fun _ => hsent),
    if_pos (by rw [hpost, hfull]; rfl)]

end

/-! ### IRONP (R232, R318, R328) -/

/-- IRONP's operand is legal (R232): no reserved bit, no target with a drop, a wave of the block, a port that takes posts. -/
abbrev ironpLegal (c : Ctx) (p : BitVec 64) : Prop :=
  p &&& 0xFFFFFFFFFFFF80C0 = 0 ∧ (p.getLsbD 14 = true → pField p 8 6 = 0) ∧
    pField p 8 6 < c.blk.hdr.waves + c.blk.hdr.handlers ∧ portBad c.blk p = false

theorem not_ironpLegal_iff (c : Ctx) (p : BitVec 64) :
    ¬ ironpLegal c p ↔ (p &&& 0xFFFFFFFFFFFF80C0 ≠ 0 ∨ (p.getLsbD 14 = true ∧ pField p 8 6 ≠ 0) ∨
      c.blk.hdr.waves + c.blk.hdr.handlers ≤ pField p 8 6 ∨ portBad c.blk p = true) := by
  rw [not_and_or, not_and_or, not_and_or, Classical.not_imp, not_lt, Bool.not_eq_false]

section
variable {w : BitVec 3} {k : Code} {s : State} {c : Ctx} {p : BitVec 64} (h : Issues (.ironp w k) s c)
  (hp : (readS s c (k.toNat - 64)).val = p)
include h hp

theorem exec_ironp_of_malformed (hbad : ¬ ironpLegal c p) : exec (.ironp w k) s = .next (parkAll c s 0x01 p) := by
  subst hp
  rw [exec_ironp, execIronp, h.issueForm_eq]
  exact congrArg Host.Outcome.next (if_pos ((not_ironpLegal_iff _ _).mp hbad))

variable (hlegal : ironpLegal c p)
include hlegal

/-- What an IRONP with a legal operand does, in the order of its checks. -/
theorem exec_ironp_of_legal : exec (.ironp w k) s = .next (
    if c.blk.iron ≠ some c.wave.idx then parkAll c s 0x0F p
    else if pPost p && !storesSettled s c then waitEvent s c .settled
    else if pPost p && sentBefore s c (pPort p) then waitEvent s c (.sent (pPort p))
    else if pPost p && !c.blk.hasRoom (pPort p) then parkAll c s 0x11 p
    else ironPut c (.ironp w k) s p (if p.getLsbD 14 then none else some (pField p 8 6))
      (fromSystem s c (if p.getLsbD 14 then 0x8000000000000000 else BitVec.ofNat 64 (pField p 8 6)) (some 1))) := by
  subst hp
  rw [exec_ironp, execIronp, h.issueForm_eq]
  exact congrArg Host.Outcome.next (if_neg (mt (not_ironpLegal_iff _ _).mpr (not_not.mpr hlegal)))

theorem exec_ironp_of_not_held (hiron : c.blk.iron ≠ some c.wave.idx) :
    exec (.ironp w k) s = .next (parkAll c s 0x0F p) := by
  rw [exec_ironp_of_legal h hp hlegal, if_pos hiron]

variable (hiron : c.blk.iron = some c.wave.idx)
include hiron

theorem exec_ironp_of_unsettled (hpost : pPost p = true) (hopen : storesSettled s c = false) :
    exec (.ironp w k) s = .next (waitEvent s c .settled) := by
  rw [exec_ironp_of_legal h hp hlegal, if_neg (not_not.mpr hiron), if_pos (by rw [hpost, hopen]; rfl)]

variable (hsettled : pPost p = true → storesSettled s c = true)
include hsettled

theorem exec_ironp_of_settled : exec (.ironp w k) s = .next (
    if pPost p && sentBefore s c (pPort p) then waitEvent s c (.sent (pPort p))
    else if pPost p && !c.blk.hasRoom (pPort p) then parkAll c s 0x11 p
    else ironPut c (.ironp w k) s p (if p.getLsbD 14 then none else some (pField p 8 6))
      (fromSystem s c (if p.getLsbD 14 then 0x8000000000000000 else BitVec.ofNat 64 (pField p 8 6)) (some 1))) := by
  rw [exec_ironp_of_legal h hp hlegal, if_neg (not_not.mpr hiron),
    if_neg (post_and_ne_true (not_eq_false_of_imp hsettled))]

theorem exec_ironp_passed (hafter : pPost p = true → sentBefore s c (pPort p) = false)
    (hroom : pPost p = true → c.blk.hasRoom (pPort p) = true) :
    exec (.ironp w k) s = .next (ironPut c (.ironp w k) s p (if p.getLsbD 14 then none else some (pField p 8 6))
      (fromSystem s c (if p.getLsbD 14 then 0x8000000000000000 else BitVec.ofNat 64 (pField p 8 6)) (some 1))) := by
  rw [exec_ironp_of_settled h hp hlegal hiron hsettled, if_neg (post_and_ne_true hafter),
    if_neg (post_and_ne_true (not_eq_false_of_imp hroom))]

variable (hpost : pPost p = true)
include hpost

theorem exec_ironp_of_sent (hsent : sentBefore s c (pPort p) = true) :
    exec (.ironp w k) s = .next (waitEvent s c (.sent (pPort p))) := by
  rw [exec_ironp_of_settled h hp hlegal hiron hsettled, if_pos (by rw [hpost, hsent]; rfl)]

theorem exec_ironp_of_full (hsent : sentBefore s c (pPort p) = false) (hfull : c.blk.hasRoom (pPort p) = false) :
    exec (.ironp w k) s = .next (parkAll c s 0x11 p) := by
  rw [exec_ironp_of_settled h hp hlegal hiron hsettled, if_neg (post_and_ne_true fun _ => hsent),
    if_pos (by rw [hpost, hfull]; rfl)]

end

/-- Settles O26: each clause is a branch of IRON or IRONP. -/
theorem ironResults : Obligations.IronResults := by
  intro w k s c
  exact ⟨fun h hlegal hport hfree hafter hroom => exec_iron_taken h rfl hlegal hport hfree hafter hroom,
    fun h hlegal hport hheld => exec_iron_of_held h rfl hlegal hport hheld,
    fun h hlegal hiron hsettled hafter hroom => exec_ironp_passed h rfl hlegal hiron hsettled hafter hroom,
    fun h hlegal hiron hpost hopen => exec_ironp_of_unsettled h rfl hlegal hiron hpost hopen,
    fun h hlegal hiron => exec_ironp_of_not_held h rfl hlegal hiron,
    fun h hbad => exec_iron_of_malformed h rfl hbad,
    fun h hlegal hport hfree hpost => ⟨exec_iron_of_sent h rfl hlegal hport hfree hpost,
      exec_iron_of_full h rfl hlegal hport hfree hpost⟩,
    fun h hbad => exec_ironp_of_malformed h rfl hbad,
    fun h hlegal hiron hpost hsettled => ⟨exec_ironp_of_sent h rfl hlegal hiron (fun _ => hsettled) hpost,
      exec_ironp_of_full h rfl hlegal hiron (fun _ => hsettled) hpost⟩⟩

end Sys2Proof.Claims
end

section
/-! The queries of operations (R239, R240): CANCEL, OPQ, OPWAIT and the state word. -/

namespace Sys2Proof.Claims

open Sys2Proof.Machine

/-! ### The state word (R240) -/

/-- STATE, STATUS and PROGRESS as the word holds them (R240). -/
theorem stateWord_fields (o : Op) (hstatus : o.status < 256) :
    (stateWord (some o)).extractLsb' 0 8 = (match o.st with | .queued => 0 | .running => 1 | .stalled => 2 | .done => 3) ∧
      (stateWord (some o)).extractLsb' 8 8 = (if o.st = .done then BitVec.ofNat 8 o.status else 0) ∧
      (stateWord (some o)).extractLsb' 16 32 = BitVec.ofNat 32 o.progress := by
  have hprogress := Nat.mod_lt o.progress (Nat.two_pow_pos 32)
  cases hst : o.st <;>
    refine ⟨BitVec.eq_of_toNat_eq ?_, BitVec.eq_of_toNat_eq ?_, BitVec.eq_of_toNat_eq ?_⟩ <;>
      simp [stateWord, hst, BitVec.extractLsb'_toNat, Nat.shiftRight_eq_div_pow] <;> omega

/-! ### CANCEL, OPQ and OPWAIT (R239, R240) -/

theorem exec_cancel (w : BitVec 3) (a : Code) (s : State) : exec (.cancel w a) s = execCancel w a s := rfl

theorem exec_opq (w : BitVec 3) (d a : Code) (s : State) : exec (.opq w d a) s = execOpq w d a s := rfl

theorem exec_opwait (w : BitVec 3) (d a : Code) (s : State) : exec (.opwait w d a) s = execOpwait w d a s := rfl

/-- CANCEL marks a live operation whose work is not over (R239). -/
theorem exec_cancel_of_issues {w : BitVec 3} {a : Code} {s : State} {c : Ctx} (h : Issues (.cancel w a) s c) :
    exec (.cancel w a) s = .next (modBlock (complete c (.cancel w a) s {}) c.core c.ref.block fun b =>
      { b with ops := b.ops.map fun o =>
          if opId o.form o.slot o.seq = src s c 64 a 0 ∧ o.st ≠ .done ∧ o.ended = false then { o with cancel := true }
          else o }) := by
  have hmark (o : Op) : (opId o.form o.slot o.seq = src s c 64 a 0 ∧ o.live ∧ !o.ended) ↔
      (opId o.form o.slot o.seq = src s c 64 a 0 ∧ o.st ≠ .done ∧ o.ended = false) := by simp [Op.live]
  rw [exec_cancel, execCancel, h.issueForm_eq]
  simp only [← hmark]
  rfl

theorem exec_opq_of_issues {w : BitVec 3} {d a : Code} {s : State} {c : Ctx} (h : Issues (.opq w d a) s c) :
    exec (.opq w d a) s = .next (completeLater c (.opq w d a) s { ss := [
      (d.toNat - 64, ⟨stateWord (c.blk.opOf (src s c 64 a 0)), 62⟩),
      (d.toNat - 63, ⟨match c.blk.opOf (src s c 64 a 0) with
        | some o => if o.st = .done then o.info else 0 | none => 0, 62⟩)] }) := by
  rw [exec_opq, execOpq, h.issueForm_eq]
  rfl

section
variable {w : BitVec 3} {d a : Code} {s : State} {c : Ctx} (h : Issues (.opwait w d a) s c)
include h

theorem exec_opwait_of_none (ho : c.blk.opOf (src s c 64 a 0) = none) :
    exec (.opwait w d a) s = .next (completeLater c (.opwait w d a) s (writeCode c 0 d true tyU64 4 62)) := by
  rw [exec_opwait, execOpwait, h.issueForm_eq]
  dsimp only
  rw [show c.blk.opOf (readCode s c (modeType c.frag.mode) 64 a 0).1 = none from ho]
  rfl

variable {o : Op} (ho : c.blk.opOf (src s c 64 a 0) = some o)
include ho

theorem exec_opwait_of_live (hlive : o.st ≠ .done) :
    exec (.opwait w d a) s = .next (waitEvent s c (.opwait (src s c 64 a 0))) := by
  rw [exec_opwait, execOpwait, h.issueForm_eq]
  dsimp only
  rw [show c.blk.opOf (readCode s c (modeType c.frag.mode) 64 a 0).1 = some o from ho]
  exact congrArg Host.Outcome.next (if_pos (bne_iff_ne.mpr hlive))

/-- What OPWAIT does once the operation is DONE (R224, R240). -/
theorem exec_opwait_of_done (hdone : o.st = .done) :
    exec (.opwait w d a) s = .next (
      let done := completeLater c (.opwait w d a) s (writeCode c 0 d true tyU64 (stateWord (some o)) 62)
      if !pPost o.param && o.status != 0 && o.status != 1 && o.status != 7 && issueActive s c != 0 then
        takeFault c { code := 0x16, lanes := issueActive s c, info := src s c 64 a 0, pc := some (c.frag.pc + 4) } s done
      else done) := by
  have hlive : ¬ o.live = true := by simp [Op.live, hdone]
  rw [exec_opwait, execOpwait, h.issueForm_eq]
  dsimp only
  rw [show c.blk.opOf (readCode s c (modeType c.frag.mode) 64 a 0).1 = some o from ho]
  exact congrArg Host.Outcome.next (if_neg hlive)

end

/-- Settles O27: the branches of each form, and the fields of the state word. -/
theorem operationQueries : Obligations.OperationQueries := by
  refine ⟨fun w d a s c => ⟨fun h => exec_cancel_of_issues h, fun h => exec_opq_of_issues h, fun h =>
    ⟨exec_opwait_of_none h, fun o => exec_opwait_of_live h, fun o ho hdone hquiet => ?quiet,
      fun o ho hdone hfailed hactive => ?failed⟩⟩, rfl, stateWord_fields⟩
  case quiet =>
    rw [exec_opwait_of_done h ho hdone]
    refine congrArg Host.Outcome.next (if_neg fun hcond => ?_)
    rw [Bool.and_eq_true] at hcond
    rcases hquiet with hq | hq
    · exact Bool.false_ne_true (hq.symm.trans hcond.1)
    · exact bne_iff_ne.mp hcond.2 hq
  case failed =>
    rw [exec_opwait_of_done h ho hdone]
    exact congrArg Host.Outcome.next (if_pos (Bool.and_eq_true_iff.mpr ⟨hfailed, bne_iff_ne.mpr hactive⟩))

end Sys2Proof.Claims
end

section
/-! A translation, and the read of COPY's list, changes of the cores their translation caches alone (R234, R385). -/

namespace Sys2Proof.Machine

/-- Every core is as it was but for its translation cache. -/
def CachesOnly (s t : State) : Prop := ∀ k, ∃ l, coreOf t k = { coreOf s k with tlb := l }

namespace CachesOnly

variable {s t u : State}

theorem of_cores_eq (h : t.cores = s.cores) : CachesOnly s t := fun k => ⟨(coreOf s k).tlb, by rw [coreOf_of_cores_eq h]⟩

theorem refl (s : State) : CachesOnly s s := of_cores_eq rfl

theorem trans (h : CachesOnly s t) (h' : CachesOnly t u) : CachesOnly s u := fun k => by
  obtain ⟨l, hl⟩ := h k
  obtain ⟨m, hm⟩ := h' k
  exact ⟨m, by rw [hm, hl]⟩

theorem blockOf_eq (h : CachesOnly s t) (k b : Nat) : blockOf t k b = blockOf s k b := by
  obtain ⟨l, hl⟩ := h k
  rw [blockOf, hl, blockOf]

theorem sb_eq (h : CachesOnly s t) (k : Nat) : (coreOf t k).sb = (coreOf s k).sb := by
  obtain ⟨l, hl⟩ := h k
  rw [hl]

end CachesOnly

section
variable (s : State)

theorem cachesOnly_countMisses (core salt : Nat) (miss : Bool) : CachesOnly s (countMisses s core salt miss) := by
  obtain ⟨p, hp⟩ := Claims.countMisses_eq s core salt miss
  rw [hp]
  exact .of_cores_eq rfl

theorem cachesOnly_touchLeaf (addr : Nat) (e : BitVec 64) : CachesOnly s (touchLeaf s addr e) := by
  unfold touchLeaf
  split <;> exact .of_cores_eq rfl

theorem cachesOnly_serveStale (x : Nat × Option (Nat × BitVec 64)) : CachesOnly s (serveStale s x).1 := by
  unfold serveStale
  split
  · exact .refl s
  · split
    · exact cachesOnly_touchLeaf s _ _
    · exact .refl s

theorem cachesOnly_fillCaches (core : Nat) (k : Context) (va : Nat) (e : BitVec 64) (pa size : Nat) :
    CachesOnly s (fillCaches s core k va e pa size) := by
  intro j
  unfold fillCaches
  rw [coreOf_modCore]
  split
  next hj => rw [hj]; exact ⟨_, rfl⟩
  next => exact ⟨_, rfl⟩

theorem cachesOnly_translateOwn (core asid : Nat) (own : List TlbEntry) (va : BitVec 64) (access salt : Nat) :
    CachesOnly s (translateOwn s core asid own va access salt).1 := by
  unfold translateOwn
  split
  · split <;> exact .refl s
  · next k _ =>
    have hmiss := cachesOnly_countMisses s core salt (tlbHit (coreOf s core) k.asid (va.toNat % 2 ^ 57) access).isNone
    dsimp only
    generalize countMisses s core salt (tlbHit (coreOf s core) k.asid (va.toNat % 2 ^ 57) access).isNone = st at hmiss ⊢
    refine hmiss.trans ?_
    split
    · split
      · exact cachesOnly_serveStale _ _
      · split
        · exact .refl _
        · exact (cachesOnly_touchLeaf _ _ _).trans (cachesOnly_fillCaches _ _ _ _ _ _ _)
    · split
      · exact cachesOnly_serveStale _ _
      · exact .refl _

theorem cachesOnly_translateBytes (core asid access salt va n : Nat) :
    CachesOnly s (translateBytes s core asid access salt va n).1 := by
  unfold translateBytes
  induction n generalizing s va with
  | zero => exact .refl s
  | succ n ih =>
    have hfirst := cachesOnly_translateOwn s core asid [] (BitVec.ofNat 64 (va % 2 ^ 57)) access salt
    unfold translateBytesOwn
    split
    next h => rw [h] at hfirst; exact hfirst
    next t pa h =>
      rw [h] at hfirst
      dsimp only
      split
      · exact hfirst
      · have hrest := ih t (va + 1)
        split
        next h' => rw [h'] at hrest; exact hfirst.trans hrest
        next => exact hfirst.trans hrest

theorem cachesOnly_touch (x : Store) (l : List Nat) : CachesOnly s (x.touch s l) := by
  refine .of_cores_eq ?_
  cases x with
  | phys o => exact foldl_keeps (part := State.cores) (fun s a => retireRange_cores s a 1) l s
  | sram c => rfl

/-- The read of COPY's list, when it delivers (R234). -/
theorem cachesOnly_readList {s' : State} {xs : List XDim} (c : Ctx) (da dw : Rec) (va n : Nat)
    (h : readList s c da dw va n = .ok s' xs) : CachesOnly s s' := by
  induction n generalizing s va xs with
  | zero =>
    obtain ⟨rfl, -⟩ := ListRead.ok.inj h
    exact .refl s
  | succ n ih =>
    have hbytes := cachesOnly_translateBytes s c.core c.blk.asid accRead 0 va 16
    unfold readList at h
    split at h
    next => cases h
    next t l ht =>
      rw [ht] at hbytes
      dsimp only at h
      split at h
      next => cases h
      next =>
        split at h
        next => cases h
        next d _ =>
          split at h
          next => cases h
          next =>
            split at h
            next u r hrest =>
              obtain ⟨rfl, -⟩ := ListRead.ok.inj h
              exact (hbytes.trans (cachesOnly_touch t _ l)).trans (ih _ _ hrest)
            next hno => exact (hno _ _ h).elim

end

end Sys2Proof.Machine
end

section
/-! The issue of a queued engine form (R219 to R222, R234): its copies and checks, its waits, and the operation that it puts into its
block's table. -/

namespace Sys2Proof.Machine

/-! ### A completion whose result arrives later -/

/-- A fragment after the completion of `i` at `pc` that awaits the result `l` (R104). -/
def Ctx.awaitingFragment (c : Ctx) (i : Instr) (s : State) (pc : BitVec 64) (l : PendingLoad) (f : Fragment) : Fragment :=
  { c.completedFragment i s {} pc f with
    s := f.s
    hist := oldValues c.wave c.frag (HistStep.append {} (awaited (some l))) :: f.hist.take 7
    loads := f.loads ++ [{ l with active := issueActive s c, ident := s.nextIdent }] }

/-- A wave after that completion. -/
def Ctx.awaitingWave (c : Ctx) (i : Instr) (s : State) (pc : BitVec 64) (l : PendingLoad) (w : Wave) : Wave :=
  { w.modFrag c.ref.frag (c.awaitingFragment i s pc l) with
    named := (nameGranules w c.frag.members (namedWindow i (modeType c.frag.mode)) s.cycle).named }

section
variable {s : State} {c : Ctx} {b : Block} {f : Fragment}

theorem completeWith_load_eq (i : Instr) (pc : BitVec 64) (l : PendingLoad) :
    completeWith c i s {} pc (some l) =
      { modWave s c.core c.ref.block c.ref.wave (c.awaitingWave i s pc l) with freeCtr := s.freeCtr + 1 } := by
  refine congrArg (fun g => { modWave s c.core c.ref.block c.ref.wave g with freeCtr := s.freeCtr + 1 }) (funext fun w => ?_)
  obtain ⟨named, hn⟩ := nameGranules_eq w c.frag.members (namedWindow i (modeType c.frag.mode)) s.cycle
  dsimp only
  rw [Ctx.awaitingWave, Claims.applyWrites_empty, hn]
  rfl

/-- A completion changes of its block the waves alone. -/
theorem blockOf_completeWith (i : Instr) (x : HistStep) (pc : BitVec 64) (load : Option PendingLoad)
    (hb : blockOf s c.core c.ref.block = some b) :
    ∃ l, blockOf (completeWith c i s x pc load) c.core c.ref.block = some { b with waves := l } :=
  ⟨_, (blockOf_modBlock _ _ _ _ _ _).trans ((if_pos ⟨rfl, rfl⟩).trans (congrArg (Option.map _) hb))⟩

theorem sb_completeWith (i : Instr) (x : HistStep) (pc : BitVec 64) (load : Option PendingLoad) (k : Nat) :
    (coreOf (completeWith c i s x pc load) k).sb = (coreOf s k).sb := by
  refine (congrArg Core.sb (coreOf_of_cores_eq (s := modWave s c.core c.ref.block c.ref.wave _) rfl k)).trans ?_
  rw [coreOf_modWave]
  split
  next hk => rw [hk]; rfl
  next => rfl

theorem fragOf_completeWith_load (i : Instr) (pc : BitVec 64) (l : PendingLoad) (hf : fragOf s c.core c.ref = some f) :
    fragOf (completeWith c i s {} pc (some l)) c.core c.ref = some (c.awaitingFragment i s pc l f) := by
  obtain ⟨w, hw, hwf⟩ := Option.bind_eq_some_iff.mp hf
  have hwave : waveOf (completeWith c i s {} pc (some l)) c.core c.ref.block c.ref.wave = some (c.awaitingWave i s pc l w) := by
    rw [completeWith_load_eq]
    exact waveOf_modWave_self hw fun _ => rfl
  rw [fragOf, hwave]
  exact (Wave.frag?_modFrag w _ _ (c.awaitingFragment i s pc l) fun _ => rfl).trans ((if_pos rfl).trans (congrArg (Option.map _) hwf))

end

/-! ### The operation enters its queue (R220, R222, R284) -/

/-- A block whose table has taken an operation. -/
def Block.enqueue (b : Block) (op : Op) : Block :=
  let b := if pPost op.param then b.modPort (pPort op.param) fun q => { q with rsv := q.rsv + 1 } else b
  { b with
    ops := (b.ops.filter fun o => o.slot != op.slot) ++ [op]
    opSeq := b.opSeq + 1
    opFree := b.opFree.filter (· != op.slot)
    pairings := if op.form = .coll then
        (b.pairings.filter fun e => e.1 != collGroup op.param) ++ [(collGroup op.param, op.pairing + 1)]
      else b.pairings }

/-- The scoreboard entries of an operation's footprints (R284). -/
def newEntries (k : Core) (block slot made : Nat) (fs : List Footprint) : List SbEntry :=
  fs.zipIdx.map fun e =>
    ⟨block, slot, e.1.role, e.1.lo, e.1.hi, e.1.write, e.1.fifo, e.2 < reservedFree k block, k.sbSeq + e.2, made⟩

/-- The state when an operation has entered its queue, before the instruction completes. -/
def queued (s : State) (c : Ctx) (op : Op) (fs : List Footprint) : State :=
  let t := modBlock (modCore s c.core fun k =>
    { k with sb := k.sb ++ newEntries k c.ref.block op.slot s.cycle fs, sbSeq := k.sbSeq + fs.length }) c.core c.ref.block
    fun b => b.enqueue op
  if op.form = .coll then forceCheckpoint t c.core c.ref.block else t

theorem enqueueOp_eq (i : Instr) (s : State) (c : Ctx) (x : Code) (op : Op) (fs : List Footprint) :
    enqueueOp i s c x op fs =
      completeLater c i (queued s c op fs) { ss := [(x.toNat - 64, ⟨opId op.form op.slot op.seq, 62⟩)] } := rfl

section
variable {s : State} {c : Ctx} {b : Block} (op : Op) (fs : List Footprint)

@[simp] theorem Block.enqueue_waves (b : Block) : (b.enqueue op).waves = b.waves := by
  unfold Block.enqueue
  split <;> rfl

@[simp] theorem Block.enqueue_opSeq (b : Block) : (b.enqueue op).opSeq = b.opSeq + 1 := by
  unfold Block.enqueue
  split <;> rfl

@[simp] theorem Block.getLast?_enqueue_ops (b : Block) : (b.enqueue op).ops.getLast? = some op :=
  List.getLast?_concat ..

/-- The port of a posting form loses a slot (R220). -/
theorem Block.rsv_enqueue (b : Block) (hpost : pPost op.param = true) :
    ((b.enqueue op).port (pPort op.param)).rsv = (b.port (pPort op.param)).rsv + 1 := by
  have hport : (b.enqueue op).port (pPort op.param) =
      { b.port (pPort op.param) with rsv := (b.port (pPort op.param)).rsv + 1 } := by
    unfold Block.enqueue
    rw [if_pos hpost]
    exact cellGet_cellSet_self (fun h => Nat.succ_ne_zero _ (congrArg Port.rsv h)) _ _
  rw [hport]

theorem queued_mem : (queued s c op fs).mem = s.mem := by
  unfold queued
  dsimp only
  split <;> rfl

theorem waveOf_queued (k h w : Nat) : waveOf (queued s c op fs) k h w = waveOf s k h w := by
  have hplain : waveOf (modBlock (modCore s c.core fun k =>
      { k with sb := k.sb ++ newEntries k c.ref.block op.slot s.cycle fs, sbSeq := k.sbSeq + fs.length }) c.core c.ref.block
      fun b => b.enqueue op) k h w = waveOf s k h w :=
    (waveOf_modBlock_of_waves _ _ _ _ _ _ fun b => b.enqueue_waves op).trans (waveOf_modCore_of_blocks _ _ _ _ _ fun _ => rfl)
  unfold queued
  dsimp only
  split
  · rw [waveOf_forceCheckpoint, hplain]
  · exact hplain

/-- The block has the operation; a COLL has forced its checkpoint (R430). -/
theorem blockOf_queued (hb : blockOf s c.core c.ref.block = some b) :
    ∃ k, blockOf (queued s c op fs) c.core c.ref.block = some { b.enqueue op with ckpt := k } := by
  have hplain : blockOf (modBlock (modCore s c.core fun k =>
      { k with sb := k.sb ++ newEntries k c.ref.block op.slot s.cycle fs, sbSeq := k.sbSeq + fs.length }) c.core c.ref.block
      fun b => b.enqueue op) c.core c.ref.block = some (b.enqueue op) := by
    rw [blockOf_modBlock, if_pos ⟨rfl, rfl⟩, blockOf_modCore, if_pos rfl]
    exact congrArg (Option.map _) hb
  unfold queued
  dsimp only
  split
  · rw [forceCheckpoint, blockOf_modBlock, if_pos ⟨rfl, rfl⟩, hplain, Option.map_some]
    split
    · exact ⟨_, rfl⟩
    · exact ⟨_, rfl⟩
  · exact ⟨_, hplain⟩

theorem sb_queued : (coreOf (queued s c op fs) c.core).sb =
    (coreOf s c.core).sb ++ newEntries (coreOf s c.core) c.ref.block op.slot s.cycle fs := by
  unfold queued
  dsimp only
  split <;> simp [forceCheckpoint, modBlock, Core.modBlock]

end

/-! ### The issue of a queued form -/

/-- Every queued form is the shared course of R220. -/
theorem exec_queuedForm {i : Instr} {f : OpForm} {x : Code} {ra rw : BitVec 5} {flags : Nat}
    (h : Claims.queuedForm i = some (f, x, ra, rw, flags)) (s : State) :
    exec i s = engineForm i f x ra rw flags s ∧ instrBytes i = 4 := by
  unfold Claims.queuedForm at h
  split at h <;> cases h <;> exact ⟨rfl, rfl⟩

end Sys2Proof.Machine
end

section
/-! What a queued form ends in (R220 to R222). -/

namespace Sys2Proof.Claims

open Sys2Proof.Machine

/-- The operation that an issue makes (R220, R222). -/
def issuedOp (s : State) (c : Ctx) (f : OpForm) (k : IssueCopies) (flags : Nat) (xs : List XDim) : Op :=
  { slot := (c.blk.freeSlot (engineOf f)).getD 0, seq := c.blk.opSeq, form := f, param := k.p, mode := c.frag.mode
    flags := flags, da := k.da, dw := k.dw, irec := k.irec, xdims := xs, wave := c.wave.idx
    pairing := if f = .coll then nextPairing c.blk (collGroup k.p) else 0, after := s.nextIdent }

/-- The footprints of that operation (R284). -/
def issuedFootprints (c : Ctx) (f : OpForm) (k : IssueCopies) (ra rw : BitVec 5) (xs : List XDim) : List Footprint :=
  footprints c.blk f k.da k.dw k.irec xs ra.toNat rw.toNat (gatherRec k.p)

theorem issueOp_eq (i : Instr) (s : State) (c : Ctx) (f : OpForm) (x : Code) (k : IssueCopies) (ra rw : BitVec 5)
    (flags : Nat) (l : Option (List XDim)) (xs : List XDim) :
    issueOp i s c f x k.p ra rw flags (k.kept l) xs =
      match issueWait s c f k.p (issuedFootprints c f k ra rw xs).length with
      | some w => waitCopied s c w (k.kept (some xs))
      | none => enqueueOp i s c x (issuedOp s c f k flags xs) (issuedFootprints c f k ra rw xs) := rfl

/-- COPY's list behind the checks: its waits, and what reading it gives (R234). -/
theorem issueListed_eq (i : Instr) (s : State) (c : Ctx) (f : OpForm) (x : Code) (k : IssueCopies) (ra rw : BitVec 5)
    (flags : Nat) :
    issueListed i s c f x k.p ra rw flags (k.kept none) =
      match listHeld s c f k with
      | some w => waitCopied s c w (k.kept none)
      | none =>
        match listAt s c f k with
        | .bad code info walk =>
          takeFault c { code := code, lanes := c.frag.members, info := if code = 5 then k.p else info, whole := true,
                        walk := walk, access := if walk then accRead else 0 } s s
        | .poison s' info =>
          if hamperRoom s c then takeFault c { code := 0x17, lanes := c.frag.members, info := info, whole := true } s' s'
          else takeFault c { code := 0x17, lanes := c.frag.members, info := info, whole := true } s s
        | .ok s' xs => issueOp i s' c f x k.p ra rw flags (k.kept none) xs := rfl

/-- What the issue of an operation leaves (R220, R222). -/
def Enqueued (s t : State) (c : Ctx) (o : Op) (fs : List Footprint) (x : Code) : Prop :=
  ∃ b fr l, blockOf t c.core c.ref.block = some b ∧ b.ops.getLast? = some o ∧ b.opSeq = c.blk.opSeq + 1 ∧
    (pPost o.param = true → (b.port (pPort o.param)).rsv = (c.blk.port (pPort o.param)).rsv + 1) ∧
    (coreOf t c.core).sb.length = (coreOf s c.core).sb.length + fs.length ∧
    fragOf t c.core c.ref = some fr ∧ fr.pc = c.frag.pc + 4 ∧ fr.st = .run ∧ fr.copied = none ∧
    fr.loads = c.frag.loads ++ [l] ∧ l.vs = [] ∧ l.ss = [(x.toNat - 64, ⟨opId o.form o.slot o.seq, 62⟩)] ∧ l.fail = [] ∧
    KeepsRegisters c t

theorem enqueued_enqueueOp {i : Instr} {s s' : State} {c : Ctx} (hc : ctxOf s = some c) (hs : CachesOnly s s')
    (hbytes : instrBytes i = 4) (x : Code) (o : Op) (fs : List Footprint) :
    Enqueued s (enqueueOp i s' c x o fs) c o fs x := by
  obtain ⟨-, hb, hw, hf⟩ := ctxOf_eq_some hc
  obtain ⟨k, hqueued⟩ := blockOf_queued o fs ((hs.blockOf_eq _ _).trans hb)
  have hwave : waveOf (queued s' c o fs) c.core c.ref.block c.ref.wave = waveOf s c.core c.ref.block c.ref.wave := by
    rw [waveOf_queued, waveOf, hs.blockOf_eq, waveOf]
  have hfrag : fragOf (queued s' c o fs) c.core c.ref = some c.frag := (fragOf_of_waveOf_eq hwave).trans (fragOf_ctx hc)
  have hkeeps : KeepsRegisters c (queued s' c o fs) := (keepsRegisters_ctx hc).of_waveOf_eq hwave
  let l : PendingLoad :=
    { vs := [], ss := [(x.toNat - 64, ⟨opId o.form o.slot o.seq, 62⟩)]
      ready := (queued s' c o fs).cycle + 1 + choose (queued s' c o fs) 0xFFFF 512, pc := c.frag.pc }
  have hdone : enqueueOp i s' c x o fs = completeWith c i (queued s' c o fs) {} (nextPc c i) (some l) := by
    rw [enqueueOp_eq, completeLater, completeAfter, if_neg (fun he => List.cons_ne_nil _ _ he.2)]
  obtain ⟨waves, hblock⟩ := blockOf_completeWith i {} (nextPc c i) (some l) hqueued
  rw [hdone]
  refine ⟨_, _, _, hblock, Block.getLast?_enqueue_ops o c.blk, Block.enqueue_opSeq o c.blk, Block.rsv_enqueue o c.blk, ?sb,
    fragOf_completeWith_load i (nextPc c i) l hfrag, ?pc, rfl, rfl, rfl, rfl, rfl, rfl, hkeeps.completeWith i _ _⟩
  case sb => rw [sb_completeWith, sb_queued, List.length_append, newEntries, List.length_map, List.length_zipIdx, hs.sb_eq]
  case pc => exact congrArg (fun n => c.frag.pc + BitVec.ofNat 64 n) hbytes

section
variable {i : Instr} {s s' : State} {c : Ctx} {f : OpForm} {x : Code} {ra rw : BitVec 5} {flags : Nat} {xs : List XDim}
  (h : Issues i s c) (hform : queuedForm i = some (f, x, ra, rw, flags))
include h hform

theorem exec_queued_of_bad (hcopied : c.frag.copied = none) {code : Nat}
    (hbad : issueCheck s c.blk f flags (copiesOf s c f x ra rw).p (copiesOf s c f x ra rw).da (copiesOf s c f x ra rw).dw
      (copiesOf s c f x ra rw).irec = some code) :
    exec i s = .next (takeFault c { code := code, lanes := c.frag.members, info := (copiesOf s c f x ra rw).p, whole := true,
                                    access := if code = 8 then accWrite else 0 } s s) := by
  rw [(exec_queuedForm hform s).1, engineForm, h.issueForm_eq]
  simp only [copiesOf, hcopied] at hbad ⊢
  simp only [engineCopy, hbad]

variable (hgood : c.frag.copied = none → issueCheck s c.blk f flags (copiesOf s c f x ra rw).p (copiesOf s c f x ra rw).da
  (copiesOf s c f x ra rw).dw (copiesOf s c f x ra rw).irec = none)
include hgood

/-- Behind its checks a form reads COPY's list, unless it has read it before a wait. -/
theorem exec_queued_of_good : exec i s = .next (
    match c.frag.copied.bind (·.xdims) with
    | some l => issueOp i s c f x (copiesOf s c f x ra rw).p ra rw flags ((copiesOf s c f x ra rw).kept (some l)) l
    | none => issueListed i s c f x (copiesOf s c f x ra rw).p ra rw flags ((copiesOf s c f x ra rw).kept none)) := by
  rw [(exec_queuedForm hform s).1, engineForm, h.issueForm_eq]
  cases hcopied : c.frag.copied with
  | none =>
    have hcheck := hgood hcopied
    simp only [copiesOf, hcopied] at hcheck ⊢
    simp only [engineCopy, hcheck]
    rfl
  | some k =>
    obtain ⟨da, dw, irec, l⟩ := k
    simp only [copiesOf, hcopied]
    cases l <;> rfl

theorem exec_queued_of_listReady (hlist : ListReady s c f (copiesOf s c f x ra rw) s' xs) :
    ∃ l, exec i s = .next (issueOp i s' c f x (copiesOf s c f x ra rw).p ra rw flags ((copiesOf s c f x ra rw).kept l) xs) := by
  rw [exec_queued_of_good h hform hgood]
  unfold ListReady at hlist
  cases hl : c.frag.copied.bind (·.xdims) with
  | some l =>
    rw [hl] at hlist
    obtain ⟨rfl, rfl⟩ := hlist
    exact ⟨some xs, rfl⟩
  | none =>
    rw [hl] at hlist
    obtain ⟨hheld, hread⟩ := hlist
    exact ⟨none, congrArg Host.Outcome.next ((issueListed_eq ..).trans (by rw [hheld, hread]))⟩

/-- What a form that reads its list now comes to (R234). -/
theorem exec_queued_of_unread (hnew : c.frag.copied.bind (·.xdims) = none) :
    exec i s = .next (issueListed i s c f x (copiesOf s c f x ra rw).p ra rw flags ((copiesOf s c f x ra rw).kept none)) := by
  rw [exec_queued_of_good h hform hgood, hnew]

end

/-- The read of the list changes translation caches alone. -/
theorem ListReady.cachesOnly {s s' : State} {c : Ctx} {f : OpForm} {k : IssueCopies} {xs : List XDim}
    (h : ListReady s c f k s' xs) : CachesOnly s s' := by
  unfold ListReady at h
  split at h
  next => rw [h.1]; exact .refl s
  next => exact cachesOnly_readList s c k.da k.dw _ _ h.2

theorem freeSlot_isSome_of_issueWait {s : State} {c : Ctx} {f : OpForm} {p : BitVec 64} {n : Nat}
    (h : issueWait s c f p n = none) : (c.blk.freeSlot (engineOf f)).isSome = true := by
  unfold issueWait at h
  split at h
  · cases h
  · split at h
    · cases h
    · next hslot => simpa [Option.isSome_iff_ne_none] using hslot

/-- Settles O25: behind the checks and the list, the form waits or its operation enters the table. -/
theorem engineIssueForms : Obligations.EngineIssueForms := by
  refine ⟨fun i s c f x ra rw flags s' xs h hform => ?issue, fun i s c f x ra rw flags h hform => ?fault⟩
  case issue =>
    intro k fs hgood hlist
    obtain ⟨l, hexec⟩ := exec_queued_of_listReady h hform hgood hlist
    rw [issueOp_eq] at hexec
    refine ⟨fun hready => ?ready, fun w hwait => ?wait⟩
    case wait => rw [hexec, show issueWait s' c f (copiesOf s c f x ra rw).p (issuedFootprints c f _ ra rw xs).length = _ from hwait]
    case ready =>
      rw [show issueWait s' c f (copiesOf s c f x ra rw).p (issuedFootprints c f _ ra rw xs).length = _ from hready] at hexec
      obtain ⟨slot, hslot⟩ := Option.isSome_iff_exists.mp (freeSlot_isSome_of_issueWait hready)
      obtain ⟨b, fr, l, hb, hlast, hseq, hport, hsb, hf, hpc, hst, hcopied, hloads, hvs, hss, hfail, hkeeps⟩ :=
        enqueued_enqueueOp h.ctxOf_eq hlist.cachesOnly (exec_queuedForm hform s).2 x (issuedOp s' c f k flags xs) fs
      exact ⟨_, b, _, fr, l, hexec, hb, hlast, by rw [issuedOp, hslot]; rfl, rfl, hseq, rfl, rfl, rfl, rfl, rfl, rfl, rfl, rfl, rfl, rfl,
        hport, hsb, hf, hpc, hst, hcopied, hloads, hvs, hss, hfail, queued_mem _ _, hkeeps⟩
  case fault =>
    intro k park
    refine ⟨fun hcopied code hbad => exec_queued_of_bad h hform hcopied hbad, fun hgood hnew => ?_⟩
    rw [exec_queued_of_unread h hform hgood hnew, issueListed_eq]
    refine ⟨fun w hheld => ?held, fun hheld code info walk hbad => ?bad, fun hheld hroom s' info hpoison => ?poison⟩
    case held => rw [show listHeld s c f (copiesOf s c f x ra rw) = _ from hheld]
    case bad =>
      rw [show listHeld s c f (copiesOf s c f x ra rw) = _ from hheld, show listAt s c f (copiesOf s c f x ra rw) = _ from hbad]
    case poison =>
      rw [show listHeld s c f (copiesOf s c f x ra rw) = _ from hheld, show listAt s c f (copiesOf s c f x ra rw) = _ from hpoison]
      exact congrArg Host.Outcome.next (if_pos hroom)

end Sys2Proof.Claims
end

section
/-! RDSYS and WRSYS (R41, R243): the target of the Darner's event after an update of it, and the registers that read back. -/

namespace Sys2Proof.Machine

/-! ### The target after an update -/

theorem tabGet_map_snd {α β : Type} (g : α → β) (k : Nat) (l : List (Nat × α)) :
    tabGet k (l.map fun e => (e.1, g e.2)) = (tabGet k l).map g := by
  induction l with
  | nil => rfl
  | cons e r ih =>
    rw [List.map_cons, tabGet, tabGet, ih]
    split <;> rfl

/-- The target, taken apart. -/
theorem targetPlace_eq_some_iff {s : State} {core : Nat} {r : FragRef} {b : Block} {w : Wave} {f : Fragment} :
    targetPlace s core = some (r, b, w, f) ↔
      targetOf (coreOf s core) = some r ∧ blockOf s core r.block = some b ∧ b.wave? r.wave = some w ∧
        w.frag? r.frag = some f := by
  simp only [targetPlace, Option.bind_eq_some_iff, Option.map_eq_some_iff, Prod.mk.injEq]
  constructor
  · rintro ⟨r, hr, b, hb, w, hw, f, hf, rfl, rfl, rfl, rfl⟩
    exact ⟨hr, hb, hw, hf⟩
  · rintro ⟨hr, hb, hw, hf⟩
    exact ⟨r, hr, b, hb, w, hw, f, hf, rfl, rfl, rfl, rfl⟩

section
variable {s t : State} {core : Nat} {r : FragRef} {b : Block} {w : Wave} {f : Fragment}

theorem targetPlace_of_cores_eq (h : t.cores = s.cores) (core : Nat) : targetPlace t core = targetPlace s core := by
  simp only [targetPlace, coreOf_of_cores_eq h, blockOf_of_cores_eq h]

variable (hp : targetPlace s core = some (r, b, w, f))
include hp

theorem targetPlace_modWave {g : Wave → Wave} (hidx : ∀ x, (g x).idx = x.idx) {f' : Fragment}
    (hf' : (g w).frag? r.frag = some f') :
    targetPlace (modWave s core r.block r.wave g) core = some (r, b.modWave r.wave g, g w, f') := by
  obtain ⟨hr, hb, hw, -⟩ := targetPlace_eq_some_iff.mp hp
  refine targetPlace_eq_some_iff.mpr ⟨?_, ?_, ?_, hf'⟩
  · rw [coreOf_modWave, if_pos rfl]
    exact hr
  · rw [modWave, blockOf_modBlock, if_pos ⟨rfl, rfl⟩, hb]
    rfl
  · rw [Block.wave?_modWave _ _ _ _ hidx, if_pos rfl, hw]
    rfl

theorem targetPlace_modFrag {g : Fragment → Fragment} (hid : ∀ x, (g x).id = x.id) :
    targetPlace (modFrag s core r g) core =
      some (r, b.modWave r.wave fun w => w.modFrag r.frag g, w.modFrag r.frag g, g f) := by
  obtain ⟨-, -, -, hf⟩ := targetPlace_eq_some_iff.mp hp
  refine targetPlace_modWave hp (g := fun w => w.modFrag r.frag g) (fun _ => rfl) ?_
  rw [Wave.frag?_modFrag _ _ _ _ hid, if_pos rfl, hf]
  rfl

theorem targetContext_eq : targetContext s core = contextOf s b.asid := by
  rw [targetContext, hp]
  rfl

end

theorem asid_of_contextOf {s : State} {asid : Nat} {k : Context} (h : contextOf s asid = some k) : k.asid = asid := by
  simpa using List.find?_some h

/-- The target's context after an update of it. -/
theorem targetContext_modContext {s : State} {core : Nat} {k : Context} (h : targetContext s core = some k)
    {g : Context → Context} (hg : ∀ x, (g x).asid = x.asid) :
    targetContext (modContext s k.asid g) core = some (g k) := by
  obtain ⟨⟨r, b, w, f⟩, hp, hk⟩ := Option.bind_eq_some_iff.mp h
  rw [targetContext_eq ((targetPlace_of_cores_eq (t := modContext s k.asid g) rfl core).trans hp),
    contextOf_modContext _ _ _ _ hg, if_pos (asid_of_contextOf hk).symm]
  exact congrArg (Option.map g) hk

/-! ### A context that takes another identifier (R398) -/

/-- A block of the context `old`, once it goes by `new`. -/
def Block.renamed (old new : Nat) (b : Block) : Block := { b with asid := if b.asid = old then new else b.asid }

/-- A core whose blocks of the context `old` go by `new`. -/
def Core.renamed (old new : Nat) (k : Core) : Core := { k with blocks := k.blocks.map fun e => (e.1, e.2.renamed old new) }

section
variable {s : State} {core old new : Nat}

theorem coreOf_renameContext (s : State) (core old new : Nat) :
    coreOf (renameContext s old new) core = (coreOf s core).renamed old new := by
  have hget : coreOf (renameContext s old new) core = ((tabGet core s.cores).map (Core.renamed old new)).getD {} :=
    congrArg (fun o => Option.getD o ({} : Core)) (tabGet_map_snd (Core.renamed old new) core s.cores)
  rw [hget, coreOf]
  cases tabGet core s.cores <;> rfl

theorem targetPlace_renameContext {r : FragRef} {b : Block} {w : Wave} {f : Fragment}
    (hp : targetPlace s core = some (r, b, w, f)) :
    targetPlace (renameContext s old new) core = some (r, b.renamed old new, w, f) := by
  obtain ⟨hr, hb, hw, hf⟩ := targetPlace_eq_some_iff.mp hp
  refine targetPlace_eq_some_iff.mpr ⟨?_, ?_, hw, hf⟩
  · rw [coreOf_renameContext]
    exact hr
  · rw [blockOf, coreOf_renameContext]
    exact (tabGet_map_snd (Block.renamed old new) r.block (coreOf s core).blocks).trans (congrArg (Option.map _) hb)

/-- The target's context goes by its new identifier. -/
theorem targetContext_renameContext {k : Context} (h : targetContext s core = some k) (new : Nat) :
    ∃ k', targetContext (renameContext s k.asid new) core = some k' ∧ k'.asid = new := by
  obtain ⟨⟨r, b, w, f⟩, hp, hk⟩ := Option.bind_eq_some_iff.mp h
  have hfound : (contextOf (renameContext s k.asid new) new).isSome = true := by
    refine List.find?_isSome.mpr ⟨{ k with asid := if k.asid = k.asid then new else k.asid }, ?_, ?_⟩
    · exact List.mem_map.mpr ⟨k, List.mem_of_find?_eq_some hk, rfl⟩
    · simp
  obtain ⟨k', hk'⟩ := Option.isSome_iff_exists.mp hfound
  refine ⟨k', ?_, asid_of_contextOf hk'⟩
  rw [targetContext_eq (targetPlace_renameContext hp), Block.renamed, if_pos (asid_of_contextOf hk).symm]
  exact hk'

end

end Sys2Proof.Machine

namespace Sys2Proof.Claims

open Sys2Proof.Machine

/-! ### What a write of a system register comes to (R41, R243) -/

/-- The write of a register of the target's context. -/
def contextWrite (s : State) (core : Nat) (g : Context → Context) : SysWrite :=
  match targetContext s core with
  | none => .bad 0x01 none
  | some k => .ok (modContext s k.asid g)

/-- The write of a register of the target fragment, which must be parked or wait on a service: `u` is the state then. -/
def fragmentWrite (s : State) (core : Nat) (u : FragRef → State) : SysWrite :=
  match targetPlace s core with
  | none => .bad 0x01 none
  | some (r, _, _, x) => if writableTarget x then .ok (u r) else .bad 0x01 none

section
variable {s t : State} {core : Nat} {v : BitVec 64}

/-- A context register that was written reads back. -/
theorem read_of_contextWrite {g : Context → Context} (f : Context → BitVec 64) {y : BitVec 64} (hg : ∀ x, (g x).asid = x.asid)
    (hread : ∀ x, f (g x) = y) (h : contextWrite s core g = .ok t) : (targetContext t core).map f = some y := by
  unfold contextWrite at h
  split at h
  next => cases h
  next k hk =>
    rw [← SysWrite.ok.inj h, targetContext_modContext hk hg]
    exact congrArg some (hread k)

theorem renamed_of_writeSys (h : writeSys s core 0x010 v = .ok t) :
    ∃ k, targetContext s core = some k ∧ t = renameContext s k.asid (v.extractLsb' 0 16).toNat := by
  change (match targetContext s core with
    | none => .bad 0x01 none
    | some k => if mayRename s k.asid (v.extractLsb' 0 16).toNat then
        .ok (renameContext s k.asid (v.extractLsb' 0 16).toNat) else .bad 0x01 none) = SysWrite.ok t at h
  split at h
  next => cases h
  next k hk =>
    split at h
    · exact ⟨k, hk, (SysWrite.ok.inj h).symm⟩
    · cases h

variable {r : FragRef} {b : Block} {w : Wave} {x : Fragment} (hp : targetPlace s core = some (r, b, w, x))
include hp

theorem eq_of_fragmentWrite {u : FragRef → State} (h : fragmentWrite s core u = .ok t) : t = u r := by
  rw [fragmentWrite, hp] at h
  dsimp only at h
  split at h
  · exact (SysWrite.ok.inj h).symm
  · cases h

/-- The target fragment after a write of a register of its. -/
theorem targetPlace_of_fragmentWrite {g : Fragment → Fragment} (hid : ∀ x, (g x).id = x.id)
    (h : fragmentWrite s core (fun r => modFrag s core r g) = .ok t) : ∃ b' w', targetPlace t core = some (r, b', w', g x) :=
  ⟨_, _, eq_of_fragmentWrite hp h ▸ targetPlace_modFrag hp hid⟩

theorem readSys_exec_of_writeSys (h : writeSys s core 0x001 v = .ok t) :
    readSys t core 0x001 0 = some ((v.extractLsb' 0 32 &&& x.members).setWidth 64) := by
  obtain ⟨b', w', hp'⟩ := targetPlace_of_fragmentWrite (g := fun f => { f with exec := v.extractLsb' 0 32 &&& f.members })
    hp (fun _ => rfl) h
  exact congrArg (Option.map fun y => (y.2.2.2.exec).setWidth 64) hp'

theorem readSys_mode_of_writeSys (h : writeSys s core 0x000 v = .ok t) :
    readSys t core 0x000 0 = some ((v.extractLsb' 0 32).setWidth 64) := by
  change (if modeLegal (v.extractLsb' 0 32) then
    fragmentWrite s core (fun r => modFrag s core r fun f => { f with mode := v.extractLsb' 0 32 })
    else .bad 0x01 (some v)) = .ok t at h
  split at h
  · obtain ⟨b', w', hp'⟩ := targetPlace_of_fragmentWrite (g := fun f => { f with mode := v.extractLsb' 0 32 })
      hp (fun _ => rfl) h
    exact congrArg (Option.map fun y => (y.2.2.2.mode).setWidth 64) hp'
  · cases h

theorem readSys_pc_of_writeSys (h : writeSys s core 0x002 v = .ok t) :
    readSys t core 0x002 0 = some v ∧ v.toNat % 4 = 0 := by
  change (if v.toNat % 4 ≠ 0 then .bad 0x04 (some v)
    else fragmentWrite s core (fun r => modFrag s core r fun f => { f with pc := v })) = .ok t at h
  split at h
  · cases h
  · next haligned =>
    obtain ⟨b', w', hp'⟩ := targetPlace_of_fragmentWrite (g := fun f => { f with pc := v }) hp (fun _ => rfl) h
    exact ⟨congrArg (Option.map fun y : FragRef × Block × Wave × Fragment => y.2.2.2.pc) hp', not_not.mp haligned⟩

theorem readSys_winb_of_writeSys (hwf : cellsWf 0 w.wb = true) (h : writeSys s core 0x003 v = .ok t) :
    readSys t core 0x003 (v.extractLsb' 32 5).toNat = some ((v.extractLsb' 0 32).setWidth 64) := by
  let g : Wave → Wave := fun w => { w with wb := cellSet 0 (v.extractLsb' 32 5).toNat (v.extractLsb' 0 32).toNat w.wb }
  obtain ⟨-, -, -, hx⟩ := targetPlace_eq_some_iff.mp hp
  have ht := eq_of_fragmentWrite (u := fun r => modWave s core r.block r.wave g) hp h
  have hp' : targetPlace t core = some (r, b.modWave r.wave g, g w, x) := ht ▸ targetPlace_modWave hp (g := g) (fun _ => rfl) hx
  refine (congrArg (Option.map fun y => BitVec.ofNat 64 (y.2.2.1.wbOf (v.extractLsb' 32 5).toNat)) hp').trans ?_
  refine congrArg (fun n => some (BitVec.ofNat 64 n)) ((cellGet_cellSet hwf _ _ _).trans (if_pos rfl)) |>.trans ?_
  exact congrArg some (BitVec.ofNat_toNat 64 _)

end

theorem readSys_asid_of_writeSys {s t : State} {core : Nat} {v : BitVec 64} (h : writeSys s core 0x010 v = .ok t) :
    readSys t core 0x010 0 = some ((v.extractLsb' 0 16).setWidth 64) := by
  obtain ⟨k, hk, rfl⟩ := renamed_of_writeSys h
  obtain ⟨k', hk', hasid⟩ := targetContext_renameContext hk (v.extractLsb' 0 16).toNat
  refine (congrArg (Option.map fun k => BitVec.ofNat 64 k.asid) hk').trans (congrArg some ?_)
  dsimp only
  rw [hasid]
  exact BitVec.ofNat_toNat 64 _

/-! ### The forms -/

theorem exec_rdsys (w : BitVec 3) (d : Code) (n : BitVec 12) (s : State) : exec (.rdsys w d n) s = execRdsys w d n s := rfl

theorem exec_wrsys (w : BitVec 3) (d : Code) (n : BitVec 12) (s : State) : exec (.wrsys w d n) s = execWrsys w d n s := rfl

theorem exec_rdsys_of_issues {w : BitVec 3} {d : Code} {n : BitVec 12} {s : State} {c : Ctx} (h : Issues (.rdsys w d n) s c) :
    exec (.rdsys w d n) s = .next (match readSys s c.core n.toNat ((sysArg s c d).extractLsb' 0 5).toNat with
      | none => parkAll c s 0x01 (Config.freeWord s.freeCtr)
      | some v => completeLater c (.rdsys w d n) s (sysResult c d v)) := by
  rw [exec_rdsys, execRdsys, h.issueForm_eq]
  rfl

theorem exec_wrsys_of_issues {w : BitVec 3} {d : Code} {n : BitVec 12} {s : State} {c : Ctx} (h : Issues (.wrsys w d n) s c) :
    exec (.wrsys w d n) s = .next (match writeSys s c.core n.toNat (sysArg s c d) with
      | .bad code info => parkAll c s code (info.getD (Config.freeWord s.freeCtr))
      | .ok t => complete c (.wrsys w d n) t {}) := by
  rw [exec_wrsys, execWrsys, h.issueForm_eq]
  rfl

/-- Settles O33: the two forms deliver what `readSys` and `writeSys` answer, and what `writeSys` has written `readSys` answers. -/
theorem systemRegisters : Obligations.SystemRegisters := by
  refine ⟨fun w d n s c => ⟨fun h => ⟨fun v hv => ?read, fun hnone => ?none⟩, fun h => ⟨fun t ht => ?write, fun code info hbad => ?bad⟩⟩,
    fun s t core v hplace => ?readBack, fun s t core v hcore h => ?pmcsel⟩
  case read => rw [exec_rdsys_of_issues h, hv]
  case none => rw [exec_rdsys_of_issues h, hnone]
  case write => rw [exec_wrsys_of_issues h, ht]
  case bad => rw [exec_wrsys_of_issues h, hbad]
  case pmcsel =>
    have ht : t = writePmcsel s (partitionOf core) (v.extractLsb' 0 32) := by
      have hwrite : writeSys s core 0x050 v = .ok (writePmcsel s (partitionOf core) (v.extractLsb' 0 32)) :=
        if_neg (ne_true_of_eq_false hcore)
      exact SysWrite.ok.inj (h.symm.trans hwrite)
    refine congrArg some ((if_neg (ne_true_of_eq_false hcore)).trans ?_)
    rw [ht, writePmcsel, partState_modPart, if_pos rfl]
  case readBack =>
    obtain ⟨⟨r, b, w, f⟩, hp⟩ := Option.isSome_iff_exists.mp hplace
    refine ⟨fun n hn hctx h => ?wide, fun n hn hctx h => ?narrow, readSys_mode_of_writeSys hp, readSys_pc_of_writeSys hp,
      fun r b w f hp => ⟨readSys_exec_of_writeSys hp, readSys_winb_of_writeSys hp⟩, readSys_asid_of_writeSys⟩
    case wide =>
      simp only [List.mem_cons, List.not_mem_nil, or_false] at hn
      rcases hn with rfl | rfl | rfl | rfl
      · exact read_of_contextWrite (g := fun k => { k with ptroot := v }) (·.ptroot) (fun _ => rfl) (fun _ => rfl) h
      · exact read_of_contextWrite (g := fun k => { k with spillBase := v }) (·.spillBase) (fun _ => rfl) (fun _ => rfl) h
      · exact read_of_contextWrite (g := fun k => { k with sigTab := v }) (·.sigTab) (fun _ => rfl) (fun _ => rfl) h
      · exact read_of_contextWrite (g := fun k => { k with svcCh := v }) (·.svcCh) (fun _ => rfl) (fun _ => rfl) h
    case narrow =>
      simp only [List.mem_cons, List.not_mem_nil, or_false] at hn
      rcases hn with rfl | rfl
      · exact read_of_contextWrite (g := fun k => { k with spillSize := v.extractLsb' 0 32 }) (·.spillSize.setWidth 64)
          (fun _ => rfl) (fun _ => rfl) h
      · exact read_of_contextWrite (g := fun k => { k with spillSlots := v.extractLsb' 0 32 }) (·.spillSlots.setWidth 64)
          (fun _ => rfl) (fun _ => rfl) h

end Sys2Proof.Claims
end

section
/-! Page requests whose waiters go, and the end of a block (R247, R387, R388). -/

namespace Sys2Proof.Machine

/-! ### Page requests -/

/-- Requests that are sent again change the requests and what the device sends out, and nothing else (R387). -/
theorem resendRequests_eq (s : State) (before : List PageRequest) :
    ∃ p o, resendRequests s before = { s with pageRequests := p, outbox := o } := by
  have key : ∀ (l : List PageRequest) (f : State → PageRequest → State),
      (∀ t r, ∃ p o, f t r = { t with pageRequests := p, outbox := o }) →
      ∀ t, ∃ p o, l.foldl f t = { t with pageRequests := p, outbox := o } := by
    intro l f hf
    induction l with
    | nil => exact fun t => ⟨_, _, rfl⟩
    | cons r l ih =>
      intro t
      obtain ⟨p, o, h⟩ := hf t r
      obtain ⟨p', o', h'⟩ := ih (f t r)
      exact ⟨p', o', by rw [List.foldl_cons, h', h]⟩
  refine key _ _ (fun t r => ?_) s
  dsimp only
  split
  · exact ⟨_, _, rfl⟩
  · exact ⟨_, _, rfl⟩

theorem strikeWaiters_eq (s : State) (entry : Nat × Nat → Bool) (op : Nat × Nat × Nat → Bool) :
    ∃ p o, strikeWaiters s entry op = { s with pageRequests := p, outbox := o } := by
  obtain ⟨p, o, h⟩ := resendRequests_eq { s with pageRequests := s.pageRequests.map fun r =>
    { r with entries := r.entries.filter fun e => !entry e, ops := r.ops.filter fun e => !op e } } s.pageRequests
  exact ⟨p, o, h⟩

@[simp] theorem strikeWaiters_cores (s : State) (entry : Nat × Nat → Bool) (op : Nat × Nat × Nat → Bool) :
    (strikeWaiters s entry op).cores = s.cores := by
  obtain ⟨p, o, h⟩ := strikeWaiters_eq s entry op
  rw [h]

@[simp] theorem strikeWaiters_mem (s : State) (entry : Nat × Nat → Bool) (op : Nat × Nat × Nat → Bool) :
    (strikeWaiters s entry op).mem = s.mem := by
  obtain ⟨p, o, h⟩ := strikeWaiters_eq s entry op
  rw [h]

@[simp] theorem forgetEntry_cores (s : State) (core idx : Nat) : (forgetEntry s core idx).cores = s.cores :=
  strikeWaiters_cores _ _ _

@[simp] theorem forgetEntry_mem (s : State) (core idx : Nat) : (forgetEntry s core idx).mem = s.mem :=
  strikeWaiters_mem _ _ _

/-! ### The end of a block (R247) -/

theorem tabGet_tabErase {α : Type} (k j : Nat) (l : List (Nat × α)) :
    tabGet j (tabErase k l) = if j = k then none else tabGet j l := by
  induction l with
  | nil => simp [tabErase, tabGet]
  | cons e r ih =>
    obtain ⟨a, x⟩ := e
    rw [tabErase] at ih ⊢
    rw [List.filter_cons, tabGet]
    by_cases hak : a = k
    · subst hak
      by_cases hj : j = a
      · subst hj; simpa using ih
      · simp [ih, hj, Ne.symm hj]
    · by_cases hj : a = j
      · subst hj; simp [hak, tabGet]
      · simp [hak, hj, tabGet, ih]

theorem mem_of_tabGet {α : Type} {k : Nat} {x : α} {l : List (Nat × α)} (h : tabGet k l = some x) : (k, x) ∈ l := by
  induction l with
  | nil => cases h
  | cons e r ih =>
    obtain ⟨a, y⟩ := e
    rw [tabGet] at h
    split at h
    next hk => rw [← hk, ← Option.some.inj h]; exact List.mem_cons_self
    next => exact List.mem_cons_of_mem _ (ih h)

theorem coreOf_removeBlock (s : State) (c b k : Nat) :
    (coreOf (removeBlock s c b) k).blocks = if k = c then tabErase b (coreOf s c).blocks else (coreOf s k).blocks := by
  unfold removeBlock
  dsimp only
  rw [coreOf_of_cores_eq (strikeWaiters_cores _ _ _), coreOf_modCore]
  split <;> rfl

theorem endLaunchBlock_cores (s : State) (core launch lin : Nat) (killed : Bool) :
    (endLaunchBlock s core launch lin killed).cores = s.cores := by
  unfold endLaunchBlock
  dsimp only
  split <;> rfl

theorem killBlock_cores {s : State} {c b : Nat} {x : Block} (hb : blockOf s c b = some x) :
    (killBlock s c b).cores = (removeBlock s c b).cores := by
  rw [killBlock, hb]
  exact endLaunchBlock_cores _ _ _ _ _

/-- A kill takes its block away, and no other. -/
theorem blockOf_killBlock (s : State) (c b k j : Nat) :
    blockOf (killBlock s c b) k j = if k = c ∧ j = b then none else blockOf s k j := by
  cases hb : blockOf s c b with
  | none =>
    rw [show killBlock s c b = s by rw [killBlock, hb]]
    split
    next h => rw [h.1, h.2, hb]
    next => rfl
  | some x =>
    rw [blockOf_of_cores_eq (killBlock_cores hb), blockOf, coreOf_removeBlock]
    by_cases hk : k = c
    · subst hk
      simp [tabGet_tabErase, blockOf]
    · simp [hk, blockOf]

theorem blockOf_foldl_killBlock (l : List (Nat × Nat)) (s : State) (k j : Nat) :
    blockOf (l.foldl (fun s e => killBlock s e.1 e.2) s) k j = if (k, j) ∈ l then none else blockOf s k j := by
  induction l generalizing s with
  | nil => simp
  | cons e r ih =>
    rw [List.foldl_cons, ih, blockOf_killBlock]
    by_cases he : (k, j) = e
    · subst he; simp
    · have he' : ¬ (k = e.1 ∧ j = e.2) := fun h => he (Prod.ext h.1 h.2)
      simp [he, he']

theorem mem_residentBlocks {s : State} {f : Block → Bool} {k j : Nat} {b : Block} (hj : j < supervisorHandle)
    (hb : blockOf s k j = some b) (hf : f b = true) : (k, j) ∈ residentBlocks s f := by
  have hblock := mem_of_tabGet hb
  cases hcore : tabGet k s.cores with
  | none => rw [coreOf, hcore] at hblock; cases hblock
  | some x =>
    rw [coreOf, hcore] at hblock
    refine List.mem_flatMap.mpr ⟨(k, x), mem_of_tabGet hcore, List.mem_map.mpr ⟨(j, b), ?_, rfl⟩⟩
    exact List.mem_filter.mpr ⟨hblock, by rw [hf, Bool.and_true]; exact decide_eq_true hj⟩

/-- No program block that satisfies the test is left. -/
theorem eq_false_of_blockOf_killBlocks {s : State} {f : Block → Bool} {k j : Nat} {b : Block} (hj : j < supervisorHandle)
    (hb : blockOf (killBlocks s f) k j = some b) : f b = false := by
  rw [killBlocks, blockOf_foldl_killBlock] at hb
  split at hb
  next => cases hb
  next hout => exact Bool.eq_false_of_not_eq_true fun hf => hout (mem_residentBlocks hj hb hf)

end Sys2Proof.Machine
end

section
/-! Signals (R346, R405): what a delivery leaves, and the writes that it makes. -/

namespace Sys2Proof.Machine

/-- A write of the Darner's in a context reaches no wave. -/
theorem waveOf_ctxWrite {s m : State} {core asid va : Nat} {o : Owner} {bs : List Byte}
    (h : ctxWrite s core o asid va bs = some m) (k b w : Nat) : waveOf m k b w = waveOf s k b w := by
  have hbytes := Claims.translateFrame_translateBytes s core asid accWrite 0xFC00 (va % 2 ^ 57) bs.length
  have hlen := @Claims.length_translateBytes s core asid accWrite 0xFC00 (va % 2 ^ 57) bs.length
  unfold ctxWrite at h
  split at h
  next => cases h
  next t l ht =>
    rw [ht] at hbytes
    have hl : l.length = bs.length := hlen (by rw [ht])
    have hput := (Claims.storeFrame_touch (.phys o) t (Claims.bytesOf l) l).trans
      ((Claims.storeFrame_putList (.phys o) _ hl.ge).trans (Claims.storeFrame_cover (.phys o) _ _ l))
    rw [← Option.some.inj h]
    exact (hput.cores.waves k b w).trans (hbytes.cores.waves k b w)

/-- A fragment that has entered a signal's handler (R405). -/
def Fragment.entered (e : SigEntry) (depth : Nat) (x0 x1 x2 x3 : BitVec 64) (f : Fragment) : Fragment :=
  { f with
    s := cellSetAll {} [(0, ⟨x0, 62⟩), (1, ⟨x1, 62⟩), (2, ⟨x2, 62⟩), (3, ⟨x3, 62⟩)] f.s
    kept := keptOf f depth
    mode := e.hmode, exec := f.members, pc := e.handler, st := .run, prods := [], hist := []
    noCompare := false, sbBound := none, copied := none, released := false }

/-- A wave one of whose fragments has entered a signal's handler. -/
def Wave.entered (e : SigEntry) (frag : Nat) (x0 x1 x2 x3 : BitVec 64) (w : Wave) : Wave :=
  { w.modFrag frag (Fragment.entered e w.depth x0 x1 x2 x3) with depth := w.depth + 1 }

/-- What a delivery has found and done when it succeeds (R346, R405). -/
theorem deliverSignal_eq_some {s t : State} {core signo kind : Nat} {r : FragRef} {x0 x1 x2 x3 : BitVec 64}
    (h : deliverSignal s core r signo kind x0 x1 x2 x3 = some t) :
    let u := modWave s core r.block r.wave fun w => w.landLoads r.frag
    ∃ b w f table e a m, blockOf u core r.block = some b ∧ b.wave? r.wave = some w ∧ w.frag? r.frag = some f ∧
      sigTable u core b.asid = some table ∧ sigEntry table signo = some e ∧ frameAddr table b.lin r.wave w.depth = some a ∧
      w.depth < 4 ∧ ctxWrite u core (some (core, r.block)) b.asid a
        (frameBytes f (f.pc + BitVec.ofNat 64 (lengthAt u core r.block b f.pc.toNat)) x0 x1 x2 signo kind) = some m ∧
      t = modWave m core r.block r.wave (Wave.entered e r.frag x0 x1 x2 x3) := by
  intro u
  unfold deliverSignal at h
  dsimp only at h
  split at h
  next => cases h
  next b hb =>
    split at h
    next w f table hw hf htable =>
      split at h
      next e a he ha =>
        split at h
        next => cases h
        next hdepth =>
          split at h
          next => cases h
          next m hm =>
            have hf' : w.frag? r.frag = some f := by
              rw [fragOf, waveOf, hb, Option.bind_some, hw, Option.bind_some] at hf
              exact hf
            exact ⟨b, w, f, table, e, a, m, hb, hw, hf', htable, he, ha, not_le.mp hdepth, hm, (Option.some.inj h).symm⟩
      next => cases h
    next => cases h

@[simp] theorem Wave.landLoads_idx (w : Wave) (n : Nat) : (w.landLoads n).idx = w.idx := by
  unfold Wave.landLoads
  split <;> rfl

@[simp] theorem Wave.landLoads_sigpend (w : Wave) (n : Nat) : (w.landLoads n).sigpend = w.sigpend := by
  unfold Wave.landLoads
  split <;> rfl

/-- A delivery leaves a signal pending, or none, as it was. -/
theorem sigpend_of_deliverSignal {s t : State} {core signo kind : Nat} {r : FragRef} {x0 x1 x2 x3 : BitVec 64} {v : Wave}
    (h : deliverSignal s core r signo kind x0 x1 x2 x3 = some t) (hv : waveOf s core r.block r.wave = some v) :
    ∃ w, waveOf t core r.block r.wave = some w ∧ w.sigpend = v.sigpend := by
  obtain ⟨b, w, f, table, e, a, m, hb, hw, -, -, -, -, -, hm, rfl⟩ := deliverSignal_eq_some h
  have hlanded : waveOf (modWave s core r.block r.wave fun w => w.landLoads r.frag) core r.block r.wave =
      some (v.landLoads r.frag) := waveOf_modWave_self hv fun w => w.landLoads_idx _
  have hwave : waveOf m core r.block r.wave = some (v.landLoads r.frag) := (waveOf_ctxWrite hm _ _ _).trans hlanded
  exact ⟨_, waveOf_modWave_self hwave fun _ => rfl, v.landLoads_sigpend _⟩

end Sys2Proof.Machine
end

section
/-! Returning from the Hamper (R247, R343, R346, R405): a fragment that an HREL resumes, and its wave. -/

namespace Sys2Proof.Machine

theorem deliverPending_of_none {s : State} {core block wave : Nat} {w : Wave} (hw : waveOf s core block wave = some w)
    (hpend : w.sigpend = none) : deliverPending s core block wave = s := by
  rw [deliverPending, hw]
  dsimp only
  rw [hpend]

theorem entryOf_modWave (s : State) (c b w core idx : Nat) (g : Wave → Wave) :
    entryOf (modWave s c b w g) core idx = entryOf s core idx := by
  rw [entryOf, coreOf_modWave, entryOf]
  split
  next h => rw [h]; rfl
  next => rfl

/-- The fragment of an entry runs again at `pc`, with the registers that it had; its entry is free, and no byte has changed. -/
structure Resumes (s : State) (core : Nat) (e : HamperEntry) (f : Fragment) (t : State) (pc : BitVec 64) : Prop where
  mem : t.mem = s.mem
  entry : entryOf t core e.idx = none
  frag : ∃ g, fragOf t core ⟨e.block, e.wave, e.frag⟩ = some g ∧ g.st = .run ∧ g.pc = pc ∧ g.s = f.s ∧ g.mode = f.mode ∧
    g.exec = f.exec ∧ g.members = f.members
  wave : ∃ w, waveOf t core e.block e.wave = some w ∧ w.sigpend = none

/-- A fragment that runs again at `pc`. -/
def Fragment.resumed (pc : BitVec 64) (noCompare : Bool) (f : Fragment) : Fragment :=
  { f with st := .run, pc := pc, noCompare := noCompare, slot := {} }

/-- The state without an entry of a core. -/
def freeEntry (s : State) (core idx : Nat) : State :=
  modCore s core fun k => { k with hamper := k.hamper.filter fun x => x.idx != idx }

theorem unpark_eq (s : State) (core : Nat) (e : HamperEntry) (pc : BitVec 64) (noCompare : Bool) :
    unpark s core e pc noCompare =
      modFrag (freeEntry s core e.idx) core ⟨e.block, e.wave, e.frag⟩ (Fragment.resumed pc noCompare) := rfl

theorem waveOf_freeEntry (s : State) (core idx k b w : Nat) : waveOf (freeEntry s core idx) k b w = waveOf s k b w :=
  waveOf_modCore_of_blocks _ _ _ _ _ fun _ => rfl

theorem entryOf_freeEntry (s : State) (core idx : Nat) : entryOf (freeEntry s core idx) core idx = none := by
  rw [entryOf, freeEntry, coreOf_modCore, if_pos rfl]
  refine List.find?_eq_none.mpr fun x hx => ?_
  simpa using (List.mem_filter.mp hx).2

section
variable {s : State} {core : Nat} {e : HamperEntry} {w : Wave} {f : Fragment}
  (hw : waveOf s core e.block e.wave = some w) (hf : w.frag? e.frag = some f) (hpend : w.sigpend = none)
include hw hf hpend

theorem resumes_unpark (pc : BitVec 64) (noCompare : Bool) :
    Resumes s core e f (unpark (forgetEntry s core e.idx) core e pc noCompare) pc := by
  have hkept : waveOf (freeEntry (forgetEntry s core e.idx) core e.idx) core e.block e.wave = some w := by
    rw [waveOf_freeEntry, waveOf_of_cores_eq (forgetEntry_cores _ _ _), hw]
  rw [unpark_eq]
  refine ⟨forgetEntry_mem s core e.idx, (entryOf_modWave _ _ _ _ _ _ _).trans (entryOf_freeEntry _ _ _),
    ⟨f.resumed pc noCompare, ?frag, rfl, rfl, rfl, rfl, rfl, rfl⟩,
    ⟨_, waveOf_modWave_self (r := ⟨e.block, e.wave, e.frag⟩) hkept fun _ => rfl, hpend⟩⟩
  case frag =>
    rw [fragOf_modFrag _ _ _ _ _ (Fragment.resumed pc noCompare) fun _ => rfl, if_pos ⟨rfl, rfl⟩, fragOf, hkept, Option.bind_some, hf]
    rfl

omit hw hf hpend in
theorem Resumes.modFrag {t : State} {pc : BitVec 64} (h : Resumes s core e f t pc) {g : Fragment → Fragment}
    (hid : ∀ x, (g x).id = x.id) (hg : ∀ x, (g x).st = x.st ∧ (g x).pc = x.pc ∧ (g x).s = x.s ∧ (g x).mode = x.mode ∧
      (g x).exec = x.exec ∧ (g x).members = x.members) :
    Resumes s core e f (Machine.modFrag t core ⟨e.block, e.wave, e.frag⟩ g) pc := by
  obtain ⟨x, hx, hst, hpc, hs, hmode, hexec, hmembers⟩ := h.frag
  obtain ⟨v, hv, hpend⟩ := h.wave
  obtain ⟨gst, gpc, gs, gmode, gexec, gmembers⟩ := hg x
  refine ⟨h.mem, (entryOf_modWave _ _ _ _ _ _ _).trans h.entry,
    ⟨g x, ?_, gst.trans hst, gpc.trans hpc, gs.trans hs, gmode.trans hmode, gexec.trans hexec, gmembers.trans hmembers⟩,
    ⟨_, waveOf_modWave_self (r := ⟨e.block, e.wave, e.frag⟩) hv fun _ => rfl, hpend⟩⟩
  rw [fragOf_modFrag _ _ _ _ _ _ hid, if_pos ⟨rfl, rfl⟩, hx]
  rfl

omit hw hf hpend in
/-- No signal is pending, so the fragment goes on as it is. -/
theorem Resumes.deliverPending_eq {t : State} {pc : BitVec 64} (h : Resumes s core e f t pc) :
    deliverPending t core e.block e.wave = t := by
  obtain ⟨v, hv, hpend⟩ := h.wave
  exact deliverPending_of_none hv hpend

omit hpend in
theorem fragOf_entry : fragOf s core ⟨e.block, e.wave, e.frag⟩ = some f := by
  rw [fragOf, hw]
  exact hf

theorem resumes_releaseReplay : Resumes s core e f (releaseReplay s core e) f.pc := by
  have hfrag : fragOf (forgetEntry s core e.idx) core ⟨e.block, e.wave, e.frag⟩ = some f :=
    (fragOf_of_cores_eq (forgetEntry_cores _ _ _) _ _).trans (fragOf_entry hw hf)
  have h := resumes_unpark hw hf hpend f.pc (e.code == 0x13)
  rw [releaseReplay, replayEntry, hfrag]
  exact h.deliverPending_eq.symm ▸ h

theorem resumes_releaseSkip {b : Block} (hb : blockOf s core e.block = some b) :
    Resumes s core e f (releaseSkip s core e) (f.pc + BitVec.ofNat 64 (lengthAt s core e.block b f.pc.toNat)) := by
  have h := (resumes_unpark hw hf hpend (f.pc + BitVec.ofNat 64 (lengthAt s core e.block b f.pc.toNat)) false).modFrag
    (g := fun x => { x with kept := x.kept.filter fun k => !(k.back && k.pc == f.pc) })
    (fun _ => rfl) (fun _ => ⟨rfl, rfl, rfl, rfl, rfl, rfl⟩)
  rw [releaseSkip, hb, fragOf_entry hw hf]
  dsimp only
  rw [h.deliverPending_eq]
  exact h

theorem releaseSignal_of_delivered {n : Nat} {t : State}
    (h : deliverSignal (unpark (forgetEntry s core e.idx) core e f.pc false) core ⟨e.block, e.wave, e.frag⟩ n 0 (entryFlt e)
      e.info (e.active.setWidth 64) (BitVec.ofNat 64 n) = some t) : releaseSignal s core e n = t := by
  obtain ⟨v, hv, hvpend⟩ := (resumes_unpark hw hf hpend f.pc false).wave
  obtain ⟨v', hv', hvpend'⟩ := sigpend_of_deliverSignal h hv
  rw [releaseSignal, fragOf_entry hw hf]
  dsimp only
  rw [h]
  exact deliverPending_of_none hv' (hvpend'.trans hvpend)

omit hpend in
theorem releaseSignal_of_undelivered {n : Nat}
    (h : deliverSignal (unpark (forgetEntry s core e.idx) core e f.pc false) core ⟨e.block, e.wave, e.frag⟩ n 0 (entryFlt e)
      e.info (e.active.setWidth 64) (BitVec.ofNat 64 n) = none) :
    releaseSignal s core e n = killBlock (unpark (forgetEntry s core e.idx) core e f.pc false) core e.block := by
  rw [releaseSignal, fragOf_entry hw hf]
  dsimp only
  rw [h]

end

end Sys2Proof.Machine
end

section
/-! ERET, TLBI and HREL (R244, R245, R247). -/

namespace Sys2Proof.Claims

open Sys2Proof.Machine

theorem exec_eret (w : BitVec 3) (s : State) : exec (.eret w) s = execEret w s := rfl

theorem exec_tlbi (w : BitVec 3) (a : Code) (b : Src) (s : State) : exec (.tlbi w a b) s = execTlbi w a b s := rfl

theorem exec_eret_of_issues {w : BitVec 3} {s : State} {c : Ctx} (h : Issues (.eret w) s c) :
    exec (.eret w) s = .next (if (coreOf s c.core).darner.current.isNone then parkAll c s 0x01 (Config.freeWord s.freeCtr)
      else waits c (.eret w) (endEvent s c.core) (.waitEvent .darnerIdle)) := by
  rw [exec_eret, execEret, h.issueForm_eq]
  rfl

/-! ### TLBI (R245) -/

/-- TLBI's operand is legal: no reserved bit, a KIND, and a partition on a Thimble core alone. -/
abbrev tlbiLegal (core : Nat) (v : BitVec 64) : Prop :=
  v.toNat < 2 ^ 24 ∧ (v.extractLsb' 16 2).toNat ≠ 3 ∧ (isThimble core = true ∨ (v.extractLsb' 18 6).toNat = 0)

theorem not_tlbiLegal_iff (core : Nat) (v : BitVec 64) :
    ¬ tlbiLegal core v ↔ v.toNat / 2 ^ 24 ≠ 0 ∨ (v.extractLsb' 16 2).toNat = 3 ∨
      ((!isThimble core) = true ∧ (v.extractLsb' 18 6).toNat ≠ 0) := by
  have hhigh : ¬ v.toNat < 2 ^ 24 ↔ v.toNat / 2 ^ 24 ≠ 0 := by omega
  rw [not_and_or, not_and_or, hhigh, not_not, not_or, Bool.not_eq_true, Bool.not_eq_true']

section
variable {w : BitVec 3} {a : Code} {b : Src} {s : State} {c : Ctx} (h : Issues (.tlbi w a b) s c)
include h

theorem exec_tlbi_of_malformed (hbad : ¬ tlbiLegal c.core (sysArg s c a)) :
    exec (.tlbi w a b) s = .next (parkAll c s 0x01 (sysArg s c a)) := by
  rw [exec_tlbi, execTlbi]
  dsimp only
  rw [h.issueForm_eq]
  exact congrArg Host.Outcome.next (if_pos ((not_tlbiLegal_iff _ _).mp hbad))

/-- The address spaces that a TLBI names (R245). -/
def tlbiNames (s : State) (c : Ctx) (v : BitVec 64) (asid : Nat) : Bool :=
  let here := if isThimble c.core then (v.extractLsb' 18 6).toNat else partitionOf c.core
  if (v.extractLsb' 16 2).toNat = 2 then
    (match contextOf s asid with | some k => k.group ≤ here && here < k.group + 2 ^ k.groupLog2 | none => false)
  else asid == (v.extractLsb' 0 16).toNat

theorem exec_tlbi_of_legal (hlegal : tlbiLegal c.core (sysArg s c a)) :
    let t := dropTranslations s (tlbiNames s c (sysArg s c a))
      (if ((sysArg s c a).extractLsb' 16 2).toNat = 0 then some ((readSrcWord s c b).toNat % 2 ^ 57) else none)
    exec (.tlbi w a b) s = .next (waits c (.tlbi w a b)
      { t with invalidations := t.invalidations ++ [⟨t.nextIdent, false, 0⟩], nextIdent := t.nextIdent + 1 }
      (.waitEvent (.invalidation t.nextIdent (instrBytes (.tlbi w a b))))) := by
  intro t
  rw [exec_tlbi, execTlbi]
  dsimp only
  rw [h.issueForm_eq]
  exact congrArg Host.Outcome.next (if_neg (mt (not_tlbiLegal_iff _ _).mpr (not_not.mpr hlegal)))

end

/-! ### HREL (R247, R343) -/

section
variable {i : Instr} {a : Code} {s : State} {c : Ctx} (h : Issues i s c) {used : BitVec 64} {service : Bool}
  {act : State → Ctx → HamperEntry → BitVec 64 → State}
include h

theorem hrelForm_of_bad (hbad : sysArg s c a &&& ~~~ (0x3F ||| used) ≠ 0 ∨ entryOf s c.core ((sysArg s c a).toNat % 64) = none) :
    hrelForm i a used service s act = .next (parkAll c s 0x01 (sysArg s c a)) := by
  rw [hrelForm, h.issueForm_eq]
  by_cases hused : sysArg s c a &&& ~~~ (0x3F ||| used) ≠ 0
  · exact congrArg Host.Outcome.next (if_pos hused)
  · refine congrArg Host.Outcome.next ((if_neg hused).trans ?_)
    rw [show entryOf s c.core ((readWord s c a).toNat % 64) = none from hbad.resolve_left hused]
    rfl

theorem hrelForm_of_entry {e : HamperEntry} (hused : sysArg s c a &&& ~~~ (0x3F ||| used) = 0)
    (he : entryOf s c.core ((sysArg s c a).toNat % 64) = some e) :
    hrelForm i a used service s act = .next (if service = true ∧ e.st ≠ .service then complete c i s {}
      else act (complete c i s {}) c e (sysArg s c a)) := by
  rw [hrelForm, h.issueForm_eq]
  refine congrArg Host.Outcome.next ((if_neg (not_not.mpr hused)).trans ?_)
  rw [show entryOf s c.core ((readWord s c a).toNat % 64) = some e from he]
  simp only [Bool.and_eq_true, bne_iff_ne]
  rfl

end

/-- The signal number of an HREL (R247). -/
theorem signo_eq (v : BitVec 64) : v.toNat / 256 % 256 = (v.extractLsb' 8 8).toNat := by
  rw [BitVec.extractLsb'_toNat, Nat.shiftRight_eq_div_pow]

/-- An HREL of the table is the shared course with its action. -/
theorem exec_release {e : (BitVec 3 → Code → Instr) × BitVec 64 × Bool × (State → Nat → HamperEntry → BitVec 64 → State)}
    (he : e ∈ releases) (w : BitVec 3) (a : Code) (s : State) :
    exec (e.1 w a) s = hrelForm (e.1 w a) a e.2.1 e.2.2.1 s fun s c x v => e.2.2.2 s c.core x v := by
  simp only [releases, List.mem_cons, List.not_mem_nil, or_false] at he
  rcases he with rfl | rfl | rfl | rfl
  case inr.inr.inl =>
    simp only [← signo_eq]
    rfl
  all_goals rfl

/-- Settles O34: the forms by their branches, and what each HREL's action does to its fragment or block. -/
theorem supervisorForms : Obligations.SupervisorForms := by
  refine ⟨fun w a b s c => ⟨exec_eret_of_issues, fun h => ⟨exec_tlbi_of_malformed h, exec_tlbi_of_legal h⟩, fun e he h => ?hrel⟩,
    fun s core e w f hw hf hpend => ?resume, fun s core e b hb => ?kill,
    fun s p core h b hh hb => eq_false_of_blockOf_killBlocks hh hb⟩
  case hrel =>
    rw [exec_release he]
    exact ⟨hrelForm_of_bad h, fun x hused hx => hrelForm_of_entry h hused hx⟩
  case resume =>
    have hreplay := resumes_releaseReplay hw hf hpend
    refine ⟨⟨hreplay.mem, hreplay.entry, hreplay.frag⟩, fun b hb => ?_, fun n => ⟨fun t => releaseSignal_of_delivered hw hf hpend,
      releaseSignal_of_undelivered hw hf⟩⟩
    have hskip := resumes_releaseSkip hw hf hpend hb
    exact ⟨hskip.mem, hskip.entry, hskip.frag⟩
  case kill =>
    refine ⟨by rw [releaseKill, hb]; rfl, by rw [blockOf_killBlock, if_pos ⟨rfl, rfl⟩], by rw [releaseKill, hb]; rfl⟩

end Sys2Proof.Claims
end

section
/-! Signals to waves (R248, R404 to R406): the fragment that takes one, the bytes of a frame, and what a return restores. -/

namespace Sys2Proof.Machine

/-! ### The fragment that takes a signal (R248) -/

/-- The step of the search for the fragment with the lowest live lane. -/
def lowerFragment (m : Option Fragment) (f : Fragment) : Option Fragment :=
  match m with
  | none => some f
  | some g => if lowestLane f.members < lowestLane g.members then some f else some g

theorem signalTarget_eq (w : Wave) :
    signalTarget w = (w.frags.filter fun f => !f.st.isParked).foldl lowerFragment none := by
  unfold signalTarget
  refine congrArg (fun l => l.foldl lowerFragment none) (List.filter_congr fun f _ => ?_)
  cases f.st <;> rfl

/-- The search ends with a fragment of the list, or the one that it began with, and none has a lower lane. -/
theorem foldl_lowerFragment {l : List Fragment} {m : Option Fragment} {f : Fragment}
    (h : l.foldl lowerFragment m = some f) :
    (f ∈ l ∨ m = some f) ∧ (∀ g ∈ l, lowestLane f.members ≤ lowestLane g.members) ∧
      ∀ g, m = some g → lowestLane f.members ≤ lowestLane g.members := by
  induction l generalizing m with
  | nil => exact ⟨.inr h, fun g hg => absurd hg List.not_mem_nil, fun g hg => by rw [Option.some.inj (h.symm.trans hg)]⟩
  | cons x r ih =>
    obtain ⟨hmem, hlow, hfirst⟩ := ih h
    cases m with
    | none =>
      have hx := hfirst x rfl
      refine ⟨?_, fun g hg => ?_, fun g hg => nomatch hg⟩
      · rcases hmem with hf | hf
        · exact .inl (List.mem_cons_of_mem _ hf)
        · exact .inl (Option.some.inj hf ▸ List.mem_cons_self)
      · rcases List.mem_cons.mp hg with rfl | hg
        · exact hx
        · exact hlow g hg
    | some y =>
      unfold lowerFragment at hmem hfirst
      by_cases hxy : lowestLane x.members < lowestLane y.members
      · simp only [if_pos hxy] at hmem hfirst
        have hx := hfirst x rfl
        refine ⟨?_, fun g hg => ?_, fun g hg => Option.some.inj hg ▸ hx.trans hxy.le⟩
        · rcases hmem with hf | hf
          · exact .inl (List.mem_cons_of_mem _ hf)
          · exact .inl (Option.some.inj hf ▸ List.mem_cons_self)
        · rcases List.mem_cons.mp hg with rfl | hg
          · exact hx
          · exact hlow g hg
      · simp only [if_neg hxy] at hmem hfirst
        have hy := hfirst y rfl
        refine ⟨hmem.imp_left (List.mem_cons_of_mem _), fun g hg => ?_, hfirst⟩
        rcases List.mem_cons.mp hg with rfl | hg
        · exact hy.trans (not_lt.mp hxy)
        · exact hlow g hg

theorem signalTarget_eq_some {w : Wave} {f : Fragment} (h : signalTarget w = some f) :
    f ∈ w.frags ∧ f.st.isParked = false ∧
      ∀ g ∈ w.frags, g.st.isParked = false → lowestLane f.members ≤ lowestLane g.members := by
  obtain ⟨hmem, hlow, -⟩ := foldl_lowerFragment ((signalTarget_eq w).symm.trans h)
  obtain ⟨hf, hst⟩ := List.mem_filter.mp (hmem.resolve_right nofun)
  exact ⟨hf, by simpa using hst, fun g hg hgst => hlow g (List.mem_filter.mpr ⟨hg, by rw [hgst]; rfl⟩)⟩

theorem signalTarget_of_parked {w : Wave} (h : ∀ f ∈ w.frags, f.st.isParked = true) : signalTarget w = none := by
  rw [signalTarget_eq, List.filter_eq_nil_iff.mpr fun f hf => by rw [h f hf]; exact Bool.false_ne_true]
  rfl

section
variable {s : State} {core h k n : Nat} {v : BitVec 64} {w : Wave} (hw : waveOf s core h k = some w)
include hw

theorem postToWave_of_parked (hne : w.frags ≠ []) (hparked : ∀ f ∈ w.frags, f.st.isParked = true) :
    postToWave s core h k n v = modWave s core h k fun w => { w with sigpend := some (n, v) } := by
  rw [postToWave, hw]
  dsimp only
  rw [signalTarget_of_parked hparked]
  exact if_neg (mt List.isEmpty_iff.mp hne)

theorem postToWave_of_target {f : Fragment} (hf : signalTarget w = some f) :
    postToWave s core h k n v =
      (deliverSignal s core ⟨h, k, f.id⟩ n 1 (BitVec.ofNat 64 (f.members.toNat * 2 ^ 32)) 0 (f.exec.setWidth 64)
        ((v &&& ~~~ (0xFF : BitVec 64)) ||| BitVec.ofNat 64 n)).getD (killBlock s core h) := by
  rw [postToWave, hw]
  dsimp only
  rw [hf]
  dsimp only
  split
  next ht => rw [ht]; rfl
  next ht => rw [ht]; rfl

end

/-! ### The actions of the signal table (R404) -/

/-- What the entry of a signal, if there is one, does to a block or a wave of it. -/
def signalEffect (s : State) (core h : Nat) (wave : Option Nat) (n : Nat) (v : BitVec 64) (b : Block) (e : Option SigEntry) : State :=
  match e with
  | none => killBlock s core h
  | some e =>
    match e.action with
    | 0 => (match wave with | some w => postToWave s core h w n v | none => s)
    | 1 => s
    | 2 => killBlock s core h
    | _ => killContext s core b.asid

section
variable {s : State} {core h n : Nat} {b : Block} {wave : Option Nat} {v : BitVec 64} (hb : blockOf s core h = some b)
include hb

/-- Every named wave is passed over that has no live lane (R248). -/
theorem signalAction_of_ended (hended : ∃ w, wave = some w ∧ ∀ x, b.wave? w = some x → x.frags = []) :
    signalAction s core h wave n v = s := by
  obtain ⟨w, rfl, hfrags⟩ := hended
  rw [signalAction, hb]
  refine if_pos ?_
  rw [Option.any_some, Option.all_eq_true]
  exact fun x hx => List.isEmpty_iff.mpr (hfrags x hx)

theorem signalAction_of_live (hlive : ∀ w, wave = some w → ∃ x, b.wave? w = some x ∧ x.frags ≠ []) :
    signalAction s core h wave n v =
      signalEffect s core h wave n v b ((sigTable s core b.asid).bind fun t => sigEntry t n) := by
  have hnot : ¬ (wave.any fun w => (b.wave? w).all fun x => x.frags.isEmpty) = true := by
    rw [Option.any_eq_true]
    rintro ⟨w, hw, hall⟩
    obtain ⟨x, hx, hne⟩ := hlive w hw
    rw [hx, Option.all_some, List.isEmpty_iff] at hall
    exact hne hall
  unfold signalAction
  rw [hb]
  exact if_neg hnot

end

/-! ### Bytes at an offset -/

theorem bytesNat_append_of_le {a b : List Byte} {o : Nat} (n : Nat) (h : a.length ≤ o) :
    bytesNat (a ++ b) o n = bytesNat b (o - a.length) n := by
  rw [bytesNat, List.drop_append, List.drop_eq_nil_of_le h, List.nil_append, bytesNat]

/-- A number that stands in front reads as itself, cut to its bytes (R3). -/
theorem bytesNat_leBytes_append (v n : Nat) (b : List Byte) : bytesNat (leBytes v n ++ b) 0 n = v % 256 ^ n := by
  rw [bytesNat, List.drop_zero, List.take_append_of_le_length (leBytes_length v n).ge,
    List.take_of_length_le (leBytes_length v n).le, leNat_leBytes]

theorem length_flatMap_leBytes (g : Nat → Nat) (m : Nat) (l : List Nat) :
    (l.flatMap fun k => leBytes (g k) m).length = l.length * m := by
  induction l with
  | nil => simp
  | cons a r ih => rw [List.flatMap_cons, List.length_append, ih, leBytes_length, List.length_cons]; ring

/-- Entry `j` of a table of numbers of `m` bytes each. -/
theorem bytesNat_flatMap_leBytes (g : Nat → Nat) (m : Nat) (b : List Byte) {l : List Nat} {j k : Nat} (hj : l[j]? = some k) :
    bytesNat ((l.flatMap fun k => leBytes (g k) m) ++ b) (m * j) m = g k % 256 ^ m := by
  induction l generalizing j with
  | nil => cases hj
  | cons a r ih =>
    rw [List.flatMap_cons, List.append_assoc]
    cases j with
    | zero =>
      obtain rfl : a = k := by simpa using hj
      exact bytesNat_leBytes_append _ _ _
    | succ j =>
      rw [bytesNat_append_of_le _ (by rw [leBytes_length]; exact Nat.le_mul_of_pos_right m j.succ_pos), leBytes_length,
        Nat.mul_succ, Nat.add_sub_cancel]
      exact ih (by simpa using hj)

theorem getElem?_laneList {k : Nat} (hk : k < 32) : laneList[k]? = some k := List.getElem?_range hk

end Sys2Proof.Machine
end

section
/-! The frame of a signal (R405) and the return from it (R406). -/

namespace Sys2Proof.Machine

/-! ### The layout of a frame (R405) -/

/-- The words of a frame before its registers. -/
def frameHead (f : Fragment) (next x0 x1 x2 : BitVec 64) (signo kind : Nat) : List Byte :=
  leBytes f.pc.toNat 8 ++ (leBytes next.toNat 8 ++ (leBytes x0.toNat 8 ++ (leBytes x1.toNat 8 ++ (leBytes x2.toNat 4 ++
    (leBytes f.exec.toNat 4 ++ (leBytes f.members.toNat 4 ++ (leBytes f.mode.toNat 4 ++ (leBytes signo 1 ++
      (leBytes kind 1 ++ leBytes 0 14)))))))))

/-- The values, then the tags, of a frame's registers. -/
def frameValues (f : Fragment) : List Byte := laneList.flatMap fun k => leBytes (cellGet {} k f.s : SReg).val.toNat 8
def frameTags (f : Fragment) : List Byte := laneList.flatMap fun k => leBytes (cellGet {} k f.s : SReg).tag.toNat 1

section
variable (f : Fragment) (next x0 x1 x2 : BitVec 64) (n kind : Nat)

theorem frameBytes_eq : frameBytes f next x0 x1 x2 n kind =
    frameHead f next x0 x1 x2 n kind ++ (frameValues f ++ (frameTags f ++ leBytes 0 32)) := by
  simp only [frameHead, frameBytes, List.append_assoc]
  rfl

theorem length_frameHead : (frameHead f next x0 x1 x2 n kind).length = 64 := by
  simp only [frameHead, List.length_append, leBytes_length]

theorem length_frameValues : (frameValues f).length = 256 := length_flatMap_leBytes _ 8 laneList

theorem length_frameTags : (frameTags f).length = 32 := length_flatMap_leBytes _ 1 laneList

theorem length_frameBytes : (frameBytes f next x0 x1 x2 n kind).length = 384 := by
  rw [frameBytes_eq, List.length_append, length_frameHead, List.length_append, length_frameValues, List.length_append,
    length_frameTags, leBytes_length]

/-- The words before the registers, one behind the other. -/
theorem frameBytes_words :
    let l := frameBytes f next x0 x1 x2 n kind
    bytesNat l 0 8 = f.pc.toNat ∧ bytesNat l 8 8 = next.toNat ∧ bytesNat l 0x10 8 = x0.toNat ∧
      bytesNat l 0x18 8 = x1.toNat ∧ bytesNat l 0x20 4 = x2.toNat % 2 ^ 32 ∧ bytesNat l 0x24 4 = f.exec.toNat ∧
      bytesNat l 0x28 4 = f.members.toNat ∧ bytesNat l 0x2C 4 = f.mode.toNat ∧ bytesNat l 0x30 1 = n % 256 ∧
      bytesNat l 0x31 1 = kind % 256 := by
  intro l
  have hl : l = _ := frameBytes_eq f next x0 x1 x2 n kind
  have hword64 (v : BitVec 64) : v.toNat % 256 ^ 8 = v.toNat := Nat.mod_eq_of_lt v.isLt
  have hword32 (v : BitVec 32) : v.toNat % 256 ^ 4 = v.toNat := Nat.mod_eq_of_lt v.isLt
  refine ⟨?_, ?_, ?_, ?_, ?_, ?_, ?_, ?_, ?_, ?_⟩ <;> rw [hl, frameHead]
  all_goals
    simp only [List.append_assoc, bytesNat_append_of_le, bytesNat_leBytes_append, leBytes_length, Nat.reduceLeDiff, Nat.reduceSub,
      hword64, hword32]
  all_goals rfl

/-- The registers, one table of values and one of tags. -/
theorem frameBytes_registers {k : Nat} (hk : k < 32) :
    bytesNat (frameBytes f next x0 x1 x2 n kind) (0x40 + 8 * k) 8 = (cellGet {} k f.s : SReg).val.toNat ∧
      bytesNat (frameBytes f next x0 x1 x2 n kind) (0x140 + k) 1 = (cellGet {} k f.s : SReg).tag.toNat := by
  have hlane := getElem?_laneList hk
  have htag : (cellGet {} k f.s : SReg).tag.toNat < 64 := BitVec.isLt _
  rw [frameBytes_eq]
  constructor
  · rw [bytesNat_append_of_le _ (by rw [length_frameHead]; omega), length_frameHead, Nat.add_sub_cancel_left, frameValues,
      bytesNat_flatMap_leBytes _ 8 _ hlane]
    exact Nat.mod_eq_of_lt (BitVec.isLt _)
  · rw [bytesNat_append_of_le _ (by rw [length_frameHead]; omega), length_frameHead,
      bytesNat_append_of_le _ (by rw [length_frameValues]; omega), length_frameValues,
      show 0x140 + k - 64 - 256 = 1 * k by omega, frameTags, bytesNat_flatMap_leBytes _ 1 _ hlane]
    exact Nat.mod_eq_of_lt (by omega)

end

/-! ### The return (R406) -/

/-- A read of the Darner's in a context reaches no wave when it delivers. -/
theorem waveOf_ctxRead {s u : State} {core asid va n : Nat} {o : Owner} {l : List Byte}
    (h : ctxRead s core o asid va n = (u, .ok l)) (k b w : Nat) : waveOf u k b w = waveOf s k b w := by
  have hbytes := Claims.translateFrame_translateBytes s core asid accRead 0xFC00 (va % 2 ^ 57) n
  unfold ctxRead at h
  split at h
  next => cases h
  next t l ht =>
    rw [ht] at hbytes
    dsimp only at h
    split at h
    next => cases h
    next =>
      rw [← (Prod.mk.inj h).1]
      exact ((Claims.storeFrame_touch (.phys o) t ∅ l).cores.waves k b w).trans (hbytes.cores.waves k b w)

/-- The registers that a frame holds. -/
def frameRegs (l : List Byte) : List (Nat × SReg) :=
  laneList.map fun k => (k, ⟨BitVec.ofNat 64 (bytesNat l (0x40 + 8 * k) 8), heldTag (BitVec.ofNat 6 (bytesNat l (0x140 + k) 1))⟩)

/-- A fragment that a frame has been restored to. -/
def Fragment.restored (l : List Byte) (depth : Nat) (f : Fragment) : Fragment :=
  { f with
    s := cellSetAll {} (frameRegs l) f.s, mode := BitVec.ofNat 32 (bytesNat l 0x2C 4)
    exec := BitVec.ofNat 32 (bytesNat l 0x24 4) &&& f.members, pc := BitVec.ofNat 64 (bytesNat l 0 8), st := .run
    kept := (keptAfterReturn f depth (BitVec.ofNat 64 (bytesNat l 0 8))).1, prods := [], hist := [] }

theorem Fragment.restored_s (l : List Byte) (depth : Nat) (f : Fragment) :
    (f.restored l depth).s = cellSetAll {} (frameRegs l) f.s := by
  simp only [Fragment.restored]

/-- A restored register is the frame's (R406). -/
theorem cellGet_frameRegs {l : List Byte} {k : Nat} (hk : k < 32) {s : Cells SReg} (hs : cellsWf {} s = true) :
    cellGet {} k (cellSetAll {} (frameRegs l) s) =
      ⟨BitVec.ofNat 64 (bytesNat l (0x40 + 8 * k) 8), heldTag (BitVec.ofNat 6 (bytesNat l (0x140 + k) 1))⟩ := by
  refine cellGet_cellSetAll_of_mem hs (List.mem_map.mpr ⟨k, List.mem_range.mpr hk, rfl⟩) fun e he hek => ?_
  obtain ⟨j, -, rfl⟩ := List.mem_map.mp he
  obtain rfl : j = k := hek
  rfl

/-- The wave of a return. -/
def Wave.restored (l : List Byte) (frag depth : Nat) (w : Wave) : Wave :=
  { w.modFrag frag (Fragment.restored l depth) with depth := depth }

section
variable {s : State} {core : Nat} {r : FragRef} {b : Block} {w : Wave} {f : Fragment} (hb : blockOf s core r.block = some b)
  (hw : b.wave? r.wave = some w)
include hb hw

theorem signalReturn_of_depth (hdepth : w.depth = 0) :
    signalReturn s core r = serviceFault s core r 0x01 (Config.freeWord s.freeCtr) := by
  rw [signalReturn, hb]
  dsimp only
  rw [hw]
  exact if_pos hdepth

variable (hdepth : w.depth ≠ 0)
include hdepth

theorem signalReturn_of_noFrame
    (hframe : ((sigTable s core b.asid).bind fun x => frameAddr x b.lin r.wave (w.depth - 1)) = none) :
    signalReturn s core r = killBlock s core r.block := by
  rw [signalReturn, hb]
  dsimp only
  rw [hw]
  refine (if_neg hdepth).trans ?_
  rw [hframe]

variable (hf : w.frag? r.frag = some f) {a : Nat} {u : State} {l : List Byte}
  (hframe : ((sigTable s core b.asid).bind fun x => frameAddr x b.lin r.wave (w.depth - 1)) = some a)
  (hread : ctxRead s core (some (core, r.block)) b.asid a 384 = (u, .ok l))
include hf hframe hread

/-- A frame that is there is checked, then restored (R406). -/
theorem signalReturn_of_frame :
    signalReturn s core r =
      if (BitVec.ofNat 64 (bytesNat l 0 8)).toNat % 4 ≠ 0 then serviceFault u core r 0x04 (BitVec.ofNat 64 (bytesNat l 0 8))
      else if !modeLegal (BitVec.ofNat 32 (bytesNat l 0x2C 4)) then
        serviceFault u core r 0x01 ((BitVec.ofNat 32 (bytesNat l 0x2C 4)).setWidth 64)
      else
        let t := modWave u core r.block r.wave (Wave.restored l r.frag (w.depth - 1))
        if (keptAfterReturn f (w.depth - 1) (BitVec.ofNat 64 (bytesNat l 0 8))).2 then dropReply t core else t := by
  rw [signalReturn, hb]
  dsimp only
  rw [hw]
  refine (if_neg hdepth).trans ?_
  rw [hframe]
  dsimp only
  rw [hread]
  dsimp only
  rw [hf]
  rfl

theorem signalReturn_restored (haligned : (BitVec.ofNat 64 (bytesNat l 0 8)).toNat % 4 = 0)
    (hlegal : modeLegal (BitVec.ofNat 32 (bytesNat l 0x2C 4)) = true) :
    (signalReturn s core r).mem = u.mem ∧
      waveOf (signalReturn s core r) core r.block r.wave = some (w.restored l r.frag (w.depth - 1)) ∧
      (w.restored l r.frag (w.depth - 1)).frag? r.frag = some (f.restored l (w.depth - 1)) := by
  have hwave : waveOf u core r.block r.wave = some w := by
    rw [waveOf_ctxRead hread, waveOf, hb]
    exact hw
  have hdone : waveOf (modWave u core r.block r.wave (Wave.restored l r.frag (w.depth - 1))) core r.block r.wave =
      some (w.restored l r.frag (w.depth - 1)) := waveOf_modWave_self hwave fun _ => rfl
  have hfrag : (w.restored l r.frag (w.depth - 1)).frag? r.frag = some (f.restored l (w.depth - 1)) := by
    refine (Wave.frag?_modFrag w r.frag r.frag (Fragment.restored l (w.depth - 1)) fun _ => rfl).trans ((if_pos rfl).trans ?_)
    rw [hf]
    rfl
  rw [signalReturn_of_frame hb hw hdepth hf hframe hread, if_neg (not_not.mpr haligned), if_neg (by rw [hlegal]; exact Bool.false_ne_true)]
  dsimp only
  split
  · exact ⟨rfl, (waveOf_of_cores_eq rfl _ _ _).trans hdone, hfrag⟩
  · exact ⟨rfl, hdone, hfrag⟩

end

end Sys2Proof.Machine
end

section
/-! SIGPOST, BANKM and PMCRD (R248, R249, R252, R276). -/

namespace Sys2Proof.Machine

/-! ### Bank modes (R276) -/

/-- A bit of a number that stands in a bank's field. -/
theorem getLsbD_bankField {bank x n : Nat} (hn : n < 32) :
    (BitVec.ofNat 32 (x * 4 ^ bank)).getLsbD n = (decide (2 * bank ≤ n) && x.testBit (n - 2 * bank)) := by
  rw [BitVec.getLsbD_ofNat, decide_eq_true hn, Bool.true_and, show (4 : Nat) ^ bank = 2 ^ (2 * bank) from (Nat.pow_mul 2 2 bank).symm,
    Nat.testBit_mul_two_pow]

/-- A bit of another bank's field. -/
theorem getLsbD_bankField_of_ne {bank x j i : Nat} (hx : x < 4) (hj : j < 16) (hi : i < 2) (hne : j ≠ bank) :
    (BitVec.ofNat 32 (x * 4 ^ bank)).getLsbD (2 * j + i) = false := by
  rw [getLsbD_bankField (by omega)]
  by_cases hlow : 2 * bank ≤ 2 * j + i
  · have hpow : 2 ^ 2 ≤ 2 ^ (2 * j + i - 2 * bank) := Nat.pow_le_pow_right (by decide) (by omega)
    rw [Nat.testBit_lt_two_pow (hx.trans_le hpow), Bool.and_false]
  · rw [decide_eq_false hlow, Bool.false_and]

theorem extract_setBankMode {cfg : BitVec 32} {bank mode j : Nat} (hmode : mode < 4) (hj : j < 16) :
  (setBankMode cfg bank mode).extractLsb' (2 * j) 2 =
      if j = bank then BitVec.ofNat 2 mode else cfg.extractLsb' (2 * j) 2 := by
  refine BitVec.eq_of_getLsbD_eq fun i hi => ?_
  rw [BitVec.getLsbD_extractLsb', setBankMode, Nat.mod_eq_of_lt hmode, BitVec.getLsbD_or, BitVec.getLsbD_and,
    BitVec.getLsbD_not, decide_eq_true hi, decide_eq_true (by omega : 2 * j + i < 32), Bool.true_and, Bool.true_and]
  by_cases hjb : j = bank
  · subst hjb
    have h3 : Nat.testBit 3 i = true := by interval_cases i <;> rfl
    have hn : 2 * j + i < 32 := by omega
    rw [if_pos rfl, getLsbD_bankField hn, getLsbD_bankField hn, BitVec.getLsbD_ofNat, decide_eq_true hi]
    simp [h3]
  · rw [if_neg hjb, getLsbD_bankField_of_ne (by decide) hj hi hjb, getLsbD_bankField_of_ne hmode hj hi hjb,
      BitVec.getLsbD_extractLsb', decide_eq_true hi]
    simp

theorem bankMode_setBankMode {cfg : BitVec 32} {bank mode j : Nat} (hmode : mode < 4) (hj : j < 16) :
    bankMode (setBankMode cfg bank mode) j = if j = bank then mode else bankMode cfg j := by
  rw [bankMode, extract_setBankMode hmode hj]
  split
  · exact Nat.mod_eq_of_lt hmode
  · rfl

theorem not_bankFree {k : Core} {bank mode : Nat} (hmode : mode < 4) :
    (bankHeld k bank || !(List.range 16).any fun j => bankMode (setBankMode k.bankcfg bank mode) j == 0) =
      !Claims.bankFree k bank mode := by
  have hany : ((List.range 16).any fun j => bankMode (setBankMode k.bankcfg bank mode) j == 0) =
      (List.range 16).any fun j => (if j = bank then mode else bankMode k.bankcfg j) == 0 := by
    rw [Bool.eq_iff_iff, List.any_eq_true, List.any_eq_true]
    refine exists_congr fun j => and_congr_right fun hj => ?_
    rw [bankMode_setBankMode hmode (List.mem_range.mp hj)]
  rw [Claims.bankFree, hany]
  cases bankHeld k bank <;> simp

theorem bankcfg_writeBackPoison (s : State) (core : Nat) (l : List Nat) :
    (coreOf (writeBackPoison s core l) core).bankcfg = (coreOf s core).bankcfg := by
  unfold writeBackPoison
  dsimp only
  generalize (coreOf s core).l1Poison.filter _ = out
  split
  · rfl
  · have h := coreOf_modCore s core core fun k => { k with l1Poison := k.l1Poison.filter fun x => !out.contains x }
    rw [if_pos rfl] at h
    exact (congrArg Core.bankcfg h :)

/-- The lines that leave L1 do not change the banks' modes. -/
theorem bankcfg_leaveL1 (s : State) (core : Nat) (cfg : BitVec 32) :
    (coreOf (leaveL1 s core cfg) core).bankcfg = (coreOf s core).bankcfg := by
  unfold leaveL1
  dsimp only
  split
  · exact bankcfg_writeBackPoison s core _
  · rfl

theorem modCore_congr {s : State} {c : Nat} {f g : Core → Core} (h : f (coreOf s c) = g (coreOf s c)) :
    modCore s c f = modCore s c g := by
  rw [modCore, h, modCore]

end Sys2Proof.Machine

namespace Sys2Proof.Claims

open Sys2Proof.Machine

theorem exec_sigpost (w : BitVec 3) (a : Code) (b : Src) (s : State) : exec (.sigpost w a b) s = execSigpost w a b s := rfl

theorem exec_bankm (w : BitVec 3) (d a : Code) (s : State) : exec (.bankm w d a) s = execBankm w d a s := rfl

theorem exec_pmcrd (w : BitVec 3) (d a : Code) (s : State) : exec (.pmcrd w d a) s = execPmcrd w d a s := rfl

section
variable {w : BitVec 3} {a : Code} {b : Src} {s : State} {c : Ctx} (h : Issues (.sigpost w a b) s c)
include h

theorem exec_sigpost_of_none (hb : blockOf s c.core ((sysArg s c a).toNat % 64) = none) :
    exec (.sigpost w a b) s = .next (parkAll c s 0x01 (sysArg s c a)) := by
  rw [exec_sigpost, execSigpost, h.issueForm_eq]
  dsimp only
  rw [show blockOf s c.core ((readWord s c a).toNat % 64) = none from hb]
  rfl

theorem exec_sigpost_of_block {x : Block} (hb : blockOf s c.core ((sysArg s c a).toNat % 64) = some x)
    (hhigh : (sysArg s c a).toNat < 2 ^ 13)
    (hwave : (sysArg s c a).getLsbD 12 = true ∨ (sysArg s c a).toNat / 64 % 64 < x.hdr.waves + x.hdr.handlers) :
    exec (.sigpost w a b) s = .next
      ((if (sysArg s c a).getLsbD 12 then x.waves.map (·.idx) else [(sysArg s c a).toNat / 64 % 64]).foldl
        (fun t n => signalAction t c.core ((sysArg s c a).toNat % 64) (some n) ((readSrcWord s c b).toNat % 256) (readSrcWord s c b))
        (complete c (.sigpost w a b) s {})) := by
  have hlegal : ¬ (2 ^ 13 ≤ (sysArg s c a).toNat ∨
      ((!(sysArg s c a).getLsbD 12) = true ∧ x.hdr.waves + x.hdr.handlers ≤ (sysArg s c a).toNat / 64 % 64)) := by
    rw [not_or, not_and_or, not_le, not_le, Bool.not_eq_true, Bool.not_eq_false']
    exact ⟨hhigh, hwave⟩
  rw [exec_sigpost, execSigpost, h.issueForm_eq]
  dsimp only
  rw [show blockOf s c.core ((readWord s c a).toNat % 64) = some x from hb]
  exact congrArg Host.Outcome.next (if_neg hlegal)

end

section
variable {w : BitVec 3} {d a : Code} {s : State} {c : Ctx} (h : Issues (.bankm w d a) s c)
include h

theorem exec_bankm_of_malformed (hbad : 48 ≤ (sysArg s c a).toNat) :
    exec (.bankm w d a) s = .next (parkAll c s 0x01 (sysArg s c a)) := by
  rw [exec_bankm, execBankm, h.issueForm_eq]
  refine congrArg Host.Outcome.next (if_pos ?_)
  show 64 ≤ (sysArg s c a).toNat ∨ (sysArg s c a).toNat / 16 % 4 = 3
  omega

theorem exec_bankm_of_legal (hlegal : (sysArg s c a).toNat < 48) :
    let v := sysArg s c a
    let cfg := fun k : Core => setBankMode k.bankcfg (v.toNat % 16) (v.toNat / 16)
    exec (.bankm w d a) s = .next (if bankFree (coreOf s c.core) (v.toNat % 16) (v.toNat / 16) then
        completeLater c (.bankm w d a)
          (modCore (leaveL1 s c.core (cfg (coreOf s c.core))) c.core fun k => { k with bankcfg := cfg k }) (sysResult c d 0)
      else completeLater c (.bankm w d a) s (sysResult c d 1)) := by
  intro v cfg
  have hv : v.toNat < 48 := hlegal
  have hmode : v.toNat / 16 % 4 = v.toNat / 16 := Nat.mod_eq_of_lt (by omega)
  have hgood : ¬ (64 ≤ v.toNat ∨ v.toNat / 16 % 4 = 3) := by omega
  have hset : modCore (leaveL1 s c.core (cfg (coreOf s c.core))) c.core (fun k => { k with bankcfg := cfg k }) =
      modCore (leaveL1 s c.core (cfg (coreOf s c.core))) c.core fun k => { k with bankcfg := cfg (coreOf s c.core) } :=
    modCore_congr (by simp only [cfg, bankcfg_leaveL1])
  rw [exec_bankm, execBankm, h.issueForm_eq, hset]
  refine congrArg Host.Outcome.next ((if_neg hgood).trans ?_)
  dsimp only
  rw [show readWord s c a = v from rfl, hmode, not_bankFree (by omega)]
  cases bankFree (coreOf s c.core) (v.toNat % 16) (v.toNat / 16) <;> rfl

end

theorem exec_pmcrd_of_legal {w : BitVec 3} {d a : Code} {s : State} {c : Ctx} (h : Issues (.pmcrd w d a) s c)
    (hbits : sysArg s c a &&& ~~~ (0x7F07 : BitVec 64) = 0)
    (hpart : isThimble c.core = true ∨ (sysArg s c a).extractLsb' 9 6 = 0) :
    let v := sysArg s c a
    let part := if isThimble c.core then (v.extractLsb' 9 6).toNat else partitionOf c.core
    exec (.pmcrd w d a) s = .next (completeLater c (.pmcrd w d a)
      (if v.getLsbD 8 then modPart s part fun x => { x with pmc := cellSet 0 (v.toNat % 8) 0 x.pmc } else s)
      (sysResult c d (cellGet 0 (v.toNat % 8) (partState s part).pmc))) := by
  intro v part
  have hlegal : ¬ (v &&& ~~~ (0x7F07 : BitVec 64) ≠ 0 ∨ ((!isThimble c.core) = true ∧ (v.extractLsb' 9 6).toNat ≠ 0)) := by
    rw [not_or, not_not, not_and_or, not_not, Bool.not_eq_true, Bool.not_eq_false']
    exact ⟨hbits, hpart.imp_right fun hp => congrArg BitVec.toNat hp⟩
  rw [exec_pmcrd, execPmcrd, h.issueForm_eq]
  exact congrArg Host.Outcome.next (if_neg hlegal)

/-- A delivery as R346 and R405 have it. -/
theorem deliversSignal_of_eq_some {s t : State} {core n kind : Nat} {r : FragRef} {x0 x1 x2 x3 : BitVec 64}
    (h : deliverSignal s core r n kind x0 x1 x2 x3 = some t) : DeliversSignal s core r n kind x0 x1 x2 x3 t := by
  obtain ⟨b, w, f, table, e, a, m, hb, hw, hf, htable, he, ha, hdepth, hm, rfl⟩ := deliverSignal_eq_some h
  have hwave : waveOf m core r.block r.wave = some w := by
    rw [waveOf_ctxWrite hm, waveOf, hb]
    exact hw
  refine ⟨b, w, f, table, e, a, m, hb, hw, hf, htable, he, ha, hdepth, hm, rfl, w.entered e r.frag x0 x1 x2 x3,
    f.entered e w.depth x0 x1 x2 x3, waveOf_modWave_self hwave fun _ => rfl, rfl, ?_, rfl, rfl, rfl, rfl, rfl, rfl⟩
  refine (Wave.frag?_modFrag w r.frag r.frag (Fragment.entered e w.depth x0 x1 x2 x3) fun _ => rfl).trans ((if_pos rfl).trans ?_)
  rw [hf]
  rfl

/-- Settles O35: the forms by their branches, the actions of a signal, and the layout and the return of a frame. -/
theorem signalBankAndCounterForms : Obligations.SignalBankAndCounterForms := by
  refine ⟨fun w d a b s c => ⟨fun h => ⟨fun x => exec_sigpost_of_block h, exec_sigpost_of_none h⟩, exec_bankm_of_legal,
      exec_bankm_of_malformed, exec_pmcrd_of_legal⟩,
    fun s core h n b wave v hb => ⟨signalAction_of_ended hb, fun hlive => ?action⟩,
    fun s core h k n v w hw hne => ⟨postToWave_of_parked hw hne, fun f hf => ?target⟩,
    fun s core r n kind x0 x1 x2 x3 t => deliversSignal_of_eq_some,
    fun f next x0 x1 x2 n kind => ?layout,
    fun s core r b w f hb hw hf => ⟨signalReturn_of_depth hb hw, fun hdepth => ⟨signalReturn_of_noFrame hb hw hdepth,
      fun a u l hframe hread => ?frame⟩⟩⟩
  case action =>
    rw [signalAction_of_live hb hlive]
    refine ⟨fun hnone => ?_, fun e he => ?_⟩
    · rw [hnone]; rfl
    · rw [he]
      obtain ⟨action, handler, hmode⟩ := e
      refine ⟨fun h1 => ?_, fun h2 => ?_, fun h3 => ?_, fun h0 w hw => ?_⟩
      · obtain rfl : action = 1 := h1
        rfl
      · obtain rfl : action = 2 := h2
        rfl
      · obtain rfl : action = 3 := h3
        rfl
      · obtain rfl : action = 0 := h0
        rw [hw]
        rfl
  case target =>
    obtain ⟨hmem, hst, hlow⟩ := signalTarget_eq_some hf
    refine ⟨hmem, hst, hlow, fun t ht => ?_, fun hnone => ?_⟩
    · rw [postToWave_of_target hw hf, ht]; rfl
    · rw [postToWave_of_target hw hf, hnone]; rfl
  case layout =>
    obtain ⟨h0, h1, h2, h3, h4, h5, h6, h7, h8, h9⟩ := frameBytes_words f next x0 x1 x2 n kind
    exact ⟨length_frameBytes .., h0, h1, h2, h3, h4, h5, h6, h7, h8, h9, fun k => frameBytes_registers f next x0 x1 x2 n kind⟩
  case frame =>
    intro rpc mode
    have ht := signalReturn_of_frame hb hw hdepth hf hframe hread
    refine ⟨fun hbad => ht.trans (if_pos hbad), fun haligned hillegal => ?_, fun haligned hlegal => ?_⟩
    · exact ht.trans ((if_neg (not_not.mpr haligned)).trans (if_pos (by rw [hillegal]; rfl)))
    · obtain ⟨hmem, hwave, hfrag⟩ := signalReturn_restored hb hw hdepth hf hframe hread haligned hlegal
      refine ⟨hmem, w.restored l r.frag (w.depth - 1), f.restored l (w.depth - 1), hwave, rfl, hfrag, rfl, rfl, rfl, rfl, rfl,
        fun hs k hk => ?_⟩
      rw [Fragment.restored_s]
      exact cellGet_frameRegs hk hs

end Sys2Proof.Claims
end

section
/-! Walks, invalidations, snoops, external accesses and failing links (R238, R344, R383, R389 to R395, R413, R422). -/

namespace Sys2Proof.Machine

/-! ### Walks and invalidations (R383, R389 to R391) -/

section
variable {s t : State} {core asid access : Nat} {va : BitVec 57}

theorem execTranslationWalk_of_ok {p : Nat} (h : translate s core asid (va.setWidth 64) access 0xFB00 = (t, .ok p)) :
    execTranslationWalk core asid va access s =
      .next ((requestsFor t asid (va.toNat / 4096) access).foldl (fun u r => answerRequest u r 0) t) := by
  simp only [execTranslationWalk, h]

theorem execTranslationWalk_of_bad (h : translate s core asid (va.setWidth 64) access 0xFB00 = (t, .bad 9)) :
    execTranslationWalk core asid va access s =
      .next ((requestsFor t asid (va.toNat / 4096) access).foldl (fun u r => answerRequest u r 9) t) := by
  simp only [execTranslationWalk, h, if_pos]

end

theorem execAtsInvalidateRequest_of_unbound {s : State} {pasid : Nat} (va : BitVec 57) (all : Bool)
    (h : ∀ k ∈ s.contexts, k.pasid ≠ pasid) :
    execAtsInvalidateRequest pasid va all s = .next (emit s (.invalidationDone pasid)) := by
  have hnone : (s.contexts.find? fun k => k.pasid == pasid) = none := by simpa using h
  simp only [execAtsInvalidateRequest, hnone]

/-- A fragment once an invalidation is acknowledged: the TLBI that waits for it is done with. -/
def Fragment.pastTlbi (n : Nat) (f : Fragment) : Fragment :=
  match f.awaitsInvalidation n with
  | some bytes => passWait f bytes
  | none => f

/-- A wave once an invalidation is acknowledged. -/
def Wave.pastTlbi (n : Nat) (w : Wave) : Wave := { w with frags := w.frags.map (Fragment.pastTlbi n) }

/-- A block once an invalidation is acknowledged. -/
def Block.pastTlbi (n : Nat) (b : Block) : Block := { b with waves := b.waves.map (Wave.pastTlbi n) }

/-- A core once an invalidation is acknowledged. -/
def Core.pastTlbi (n : Nat) (k : Core) : Core := { k with blocks := k.blocks.map fun b => (b.1, b.2.pastTlbi n) }

theorem passTlbi_eq (s : State) (n : Nat) :
    passTlbi s n = { s with cores := s.cores.map fun c => (c.1, c.2.pastTlbi n) } := rfl

@[simp] theorem Fragment.pastTlbi_id (n : Nat) (f : Fragment) : (f.pastTlbi n).id = f.id := by
  unfold Fragment.pastTlbi
  split <;> rfl

theorem Fragment.pastTlbi_of_waiting {n bytes : Nat} {f : Fragment} (h : f.st = .waitEvent (.invalidation n bytes)) :
    f.pastTlbi n = passWait f bytes := by
  simp [Fragment.pastTlbi, Fragment.awaitsInvalidation, h]

theorem blockOf_passTlbi (s : State) (n c b : Nat) : blockOf (passTlbi s n) c b = (blockOf s c b).map (Block.pastTlbi n) := by
  have hcore : coreOf (passTlbi s n) c = (coreOf s c).pastTlbi n := by
    rw [passTlbi_eq, coreOf, coreOf, tabGet_map_snd]
    cases tabGet c s.cores <;> rfl
  rw [blockOf, blockOf, hcore]
  exact tabGet_map_snd _ _ _

theorem waveOf_passTlbi (s : State) (n c b w : Nat) :
    waveOf (passTlbi s n) c b w = (waveOf s c b w).map (Wave.pastTlbi n) := by
  rw [waveOf, waveOf, blockOf_passTlbi]
  cases blockOf s c b with
  | none => rfl
  | some x => exact List.find?_map

theorem fragOf_passTlbi (s : State) (n c : Nat) (r : FragRef) :
    fragOf (passTlbi s n) c r = (fragOf s c r).map (Fragment.pastTlbi n) := by
  rw [fragOf, fragOf, waveOf_passTlbi]
  cases waveOf s c r.block r.wave with
  | none => rfl
  | some x =>
    have hkey : ((fun f => f.id == r.frag) ∘ Fragment.pastTlbi n) = fun f : Fragment => f.id == r.frag :=
      funext fun f => congrArg (· == r.frag) (f.pastTlbi_id n)
    exact List.find?_map.trans (by rw [hkey]; rfl)

section
variable {s : State} {x : Invalidation} {r : List Invalidation}

theorem execInvalidationAck_of_stores (h : s.invalidations = x :: r) (hb : storesBefore s x.ident = true) :
    execInvalidationAck s = .next s := by
  simp only [execInvalidationAck, h, hb, if_pos]

theorem execInvalidationAck_of_host (h : s.invalidations = x :: r) (hb : storesBefore s x.ident = false) (hhost : x.host = true) :
    execInvalidationAck s = .next (emit { s with invalidations := r } (.invalidationDone x.pasid)) := by
  simp [execInvalidationAck, h, hb, hhost]

theorem execInvalidationAck_of_tlbi (h : s.invalidations = x :: r) (hb : storesBefore s x.ident = false) (hhost : x.host = false) :
    execInvalidationAck s = .next (passTlbi { s with invalidations := r } x.ident) := by
  simp [execInvalidationAck, h, hb, hhost]

end

/-! ### External accesses (R325, R394) -/

@[simp] theorem freeLocks_outbox (s : State) (o : Owner) (rmw : Bool) (l : List Nat) :
    (freeLocks s o rmw l).outbox = s.outbox :=
  foldl_keeps (part := State.outbox) (fun s (x : Nat × Nat) => modBlock_outbox s x.1 x.2 _) _ _

/-- Whether an agent's access has its form: a peer's one of R394, a host's any. -/
def extFormed (e : Agent) (pa : Nat) (a : ExtAccess) : Bool :=
  match e with
  | .peer _ => peerForm pa a
  | .host _ => true

/-- Whether an access reads the bytes that it names. -/
def extReads (a : ExtAccess) : Bool :=
  match a with
  | .write _ => false
  | _ => true

/-- The bytes that an access names. -/
def extNames (pa : Nat) (a : ExtAccess) : List Nat := (List.range (extBytes a)).map (pa + ·)

theorem extReads_eq_false_iff (a : ExtAccess) : extReads a = false ↔ ∃ bs, a = .write bs := by
  cases a <;> simp [extReads]

section
variable {s : State} {e : Agent} {pa : Nat} {a : ExtAccess}

/-- What becomes of an access that is in form and admitted (R325, R335). -/
def admitted (s : State) (e : Agent) (pa : Nat) (a : ExtAccess) : State :=
  if extWrites a && lockedBytes s none (extReads a) (extNames pa a) then
    { freeLocks s none (extReads a) (extNames pa a) with
      inputs := (s.inputs.headD [] ++ [.event s.subject (.externalAccess e pa a)]) :: s.inputs.tail }
  else if extReads a && poisoned s pa (extBytes a) then emit s (.accessError e)
  else performExternal s e pa a

theorem execExternalAccess_of_unbooted (h : s.firmware.booted = false) :
    execExternalAccess e pa a s = .next (emit s (.accessError e)) := by
  simp only [execExternalAccess, h]
  rfl

theorem execExternalAccess_of_outside (h : windowPartition pa = none) :
    execExternalAccess e pa a s = .next (emit s (.accessError e)) := by
  simp only [execExternalAccess, h]
  split <;> rfl

variable {p : Nat} (hbooted : s.firmware.booted = true) (hp : windowPartition pa = some p)
  (hq : windowPartition (pa + extBytes a - 1) = some p)
include hbooted hp hq

theorem execExternalAccess_of_inside : execExternalAccess e pa a s =
    .next (if extFormed e pa a && admits s e p a then admitted { s with freeCtr := s.freeCtr + 1 } e pa a
      else { emit s (.accessError e) with freeCtr := s.freeCtr + 1 }) := by
  have hform : execExternalAccess e pa a s =
      .next (if !extFormed e pa a || !admits s e p a || !admits s e p a then { emit s (.accessError e) with freeCtr := s.freeCtr + 1 }
        else admitted { s with freeCtr := s.freeCtr + 1 } e pa a) := by
    simp only [execExternalAccess, hbooted, hp, hq]
    rfl
  rw [hform]
  cases extFormed e pa a <;> cases admits s e p a <;> rfl

theorem execExternalAccess_of_refused (h : extFormed e pa a = false ∨ admits s e p a = false) :
    execExternalAccess e pa a s = .next { emit s (.accessError e) with freeCtr := s.freeCtr + 1 } := by
  rw [execExternalAccess_of_inside hbooted hp hq, if_neg]
  rcases h with h | h <;> simp [h]

theorem execExternalAccess_of_admitted (hform : extFormed e pa a = true) (hadm : admits s e p a = true) :
    execExternalAccess e pa a s = .next (admitted { s with freeCtr := s.freeCtr + 1 } e pa a) := by
  rw [execExternalAccess_of_inside hbooted hp hq, if_pos]
  simp [hform, hadm]

end

section
variable {s : State} {e : Agent} {pa : Nat} {a : ExtAccess}

theorem admitted_of_locked (hw : extWrites a = true) (hheld : lockedBytes s none (extReads a) (extNames pa a) = true) :
    admitted s e pa a = { freeLocks s none (extReads a) (extNames pa a) with
      inputs := (s.inputs.headD [] ++ [.event s.subject (.externalAccess e pa a)]) :: s.inputs.tail } := by
  simp only [admitted, hw, hheld, Bool.and_self, if_pos]

theorem admitted_of_free (hheld : extWrites a = true → lockedBytes s none (extReads a) (extNames pa a) = false)
    (hclean : extReads a = true → poisoned s pa (extBytes a) = false) : admitted s e pa a = performExternal s e pa a := by
  unfold admitted
  rw [if_neg, if_neg]
  · cases hr : extReads a <;> simp_all
  · cases hw : extWrites a <;> simp_all

theorem retireRange_of_no_sums (h : s.exactSums = []) (n : Nat) : retireRange s pa n = s := by
  simp [retireRange, h]

theorem byteAt_performExternal_write {bs : List Byte} {k : Nat} (hk : k < bs.length) (hsums : s.exactSums = []) (hs : s.memOk) :
    (performExternal s e pa (.write bs)).byteAt (pa + k) = bs.getD k 0 := by
  have hput : performExternal s e pa (.write bs) = emit (memWrite s pa bs) (.accessDone e) := by
    simp only [performExternal, retireRange_of_no_sums hsums]
  rw [hput]
  refine (byteAt_memWrite hs pa (pa + k) bs).trans ?_
  simp [hk]

theorem performExternal_read {n : Nat} (hsums : s.exactSums = []) :
    performExternal s e pa (.read n) = emit s (.accessData e ((List.range n).map fun k => s.byteAt (pa + k))) := by
  have hread : readBytes s.mem pa n = (List.range n).map fun k => s.byteAt (pa + k) := by
    apply List.ext_getElem?
    intro k
    rw [readBytes_getElem?, List.getElem?_map]
    by_cases hk : k < n
    · simp [hk, State.byteAt]
    · simp [hk]
  simp only [performExternal, retireRange_of_no_sums hsums, extBytes, hread]

end

/-! ### Failing links (R238, R413, R422) -/

section
variable (s : State)

@[simp] theorem countEvent_links (core code n : Nat) : (countEvent s core code n).links = s.links := by
  obtain ⟨p, h⟩ := Claims.countEvent_eq s core code n
  rw [h]

@[simp] theorem joinPageRequest_links (a p k : Nat) (e : List (Nat × Nat)) (o : List (Nat × Nat × Nat)) (l t : Nat) :
    (joinPageRequest s a p k e o l t).links = s.links := by
  unfold joinPageRequest
  split
  · rfl
  · dsimp only
    split <;> rfl

@[simp] theorem makeEntry_links (core a l : Nat) (e : HamperEntry) : (makeEntry s core a l e).links = s.links := by
  unfold makeEntry
  dsimp only
  split <;> simp

theorem takeFault_links (c : Ctx) (fi : FaultInfo) : (takeFault c fi s s).links = s.links := by
  unfold takeFault
  dsimp only
  repeat' split
  all_goals simp [darnerFault, waitAt]

theorem endLoad_links (core : Nat) (r : FragRef) (l rest : PendingLoad) (code : Nat) (lanes : Lanes) (info : BitVec 64) :
    (endLoad s core r l rest code lanes info).links = s.links := by
  unfold endLoad
  dsimp only
  split
  · rfl
  · split
    · rfl
    · split
      · rfl
      · split
        · rfl
        · rw [takeFault_links]
          split <;> rfl

@[simp] theorem failLoads_links (port : Nat) : (failLoads s port).links = s.links :=
  foldl_keeps (part := State.links) (fun s (e : Nat × FragRef) => by
    unfold failLoad
    split
    · rfl
    · exact endLoad_links _ _ _ _ _ _ _ _) _ _

end

section
variable {s : State} {port : Nat}

/-- A CXL port once it has failed: down, and without the loads in flight that it held. -/
def cxlLost (s : State) (port : Nat) : State :=
  { s with links := { s.links with
      cxlDown := s.links.cxlDown ++ [port], flights := s.links.flights.filter fun x => x.port != port } }

theorem failCxl_of_up (hport : port < 2) (hup : port ∉ s.links.cxlDown) :
    failCxl s port = logEvent (failLoads (cxlLost s port) port) (900 + port) 4 0xFF 0 0 := by
  have hno : ¬(2 ≤ port ∨ s.links.cxlDown.contains port = true) := by simp [hup]; omega
  rw [failCxl, if_neg hno]
  rfl

theorem failCxl_of_down (h : 2 ≤ port ∨ port ∈ s.links.cxlDown) : failCxl s port = s := by
  rw [failCxl, if_pos (by simpa using h)]

theorem linkFailed_of_cxlDown {x : Nat} (hx : paRegion x = 1) (h : Config.cxlPort (x / 4096) % 2 ∈ s.links.cxlDown) :
    linkFailed s x = true := by
  simp [linkFailed, hx, h]

/-- A member of a collective whose data crosses a station, once that station's link has failed (R238). -/
def Contribution.cut (hit : List (Nat × Nat)) (x : Contribution) : Contribution :=
  if hit.contains (x.asid, x.gid) && x.result.isNone && x.failed.isNone then { x with failed := some stLink } else x

theorem Contribution.settled_cut {hit : List (Nat × Nat)} {x : Contribution}
    (h : hit.contains ((x.cut hit).asid, (x.cut hit).gid) = true) :
    (x.cut hit).result.isSome = true ∨ (x.cut hit).failed.isSome = true := by
  unfold Contribution.cut at *
  split
  · exact .inr rfl
  · rename_i hcond
    rw [if_neg hcond] at h
    rw [h] at hcond
    cases hr : x.result <;> cases hf : x.failed <;> simp_all

theorem execUalinkLinkFailure_of_up (hport : port < 24) (hup : port ∉ s.links.ualinkDown) :
    execUalinkLinkFailure port s = .next (logEvent
      { s with links := { s.links with ualinkDown := s.links.ualinkDown ++ [port] }
               contributions := s.contributions.map (Contribution.cut (groupsAcross s port)) } (902 + port) 4 0xFF 0 0) := by
  have hno : ¬(24 ≤ port ∨ s.links.ualinkDown.contains port = true) := by simp [hup]; omega
  rw [execUalinkLinkFailure, if_neg hno]
  rfl

theorem execEthernetLinkFailure_of_port (hport : port < 2) :
    execEthernetLinkFailure port s = .next (logEvent
      { s with links := { s.links with ethDown := (s.links.ethDown.filter (· != port)) ++ [port] } } (926 + port) 4 0xFF 0 0) := by
  rw [execEthernetLinkFailure, if_neg (by omega)]

end

/-- Settles O49: each clause is what its event's lemma says, a failed CXL port's loads leaving the links as they are. -/
theorem linkEvents : Obligations.LinkEvents := by
  unfold Obligations.LinkEvents
  intro s core asid va access pasid pa size port all e
  refine ⟨fun t p => execTranslationWalk_of_ok, fun t => execTranslationWalk_of_bad,
    execAtsInvalidateRequest_of_unbound va all, ?bound, fun x r => execInvalidationAck_of_stores, ?ack, rfl, rfl, rfl,
    fun h a => execExternalAccess_of_unbooted h, ?access, fun a => execExternalAccess_of_outside, ?cxl,
    fun h => ⟨congrArg _ (failCxl_of_down h), congrArg _ (failCxl_of_down h)⟩, ?reenable, ?ualink, ?ethernet⟩
  case bound =>
    intro k hk
    show execAtsInvalidateRequest pasid va all s = _
    simp only [execAtsInvalidateRequest, hk]
  case ack =>
    intro x r hx hb
    refine ⟨execInvalidationAck_of_host hx hb, fun hhost => ⟨_, execInvalidationAck_of_tlbi hx hb hhost, rfl, rfl, ?_⟩⟩
    intro c f g bytes hg hst
    have hg' : fragOf { s with invalidations := r } c f = some g := hg
    rw [fragOf_passTlbi, hg']
    exact congrArg some (Fragment.pastTlbi_of_waiting hst)
  case access =>
    intro a p hbooted hp hq
    refine ⟨fun h => ⟨_, execExternalAccess_of_refused hbooted hp hq h, rfl, rfl⟩, fun hform hadm hw hheld => ?_,
      fun hform hadm hfree hclean => ⟨?_, ?_, ?_⟩⟩
    · refine ⟨_, execExternalAccess_of_admitted hbooted hp hq hform hadm, ?_⟩
      rw [admitted_of_locked (s := { s with freeCtr := s.freeCtr + 1 }) hw hheld]
      exact ⟨freeLocks_mem _ _ _ _, freeLocks_outbox _ _ _ _, by simp⟩
    · refine (execExternalAccess_of_admitted hbooted hp hq hform hadm).trans (congrArg _ (admitted_of_free hfree fun hreads => ?_))
      refine hclean fun bs ha => ?_
      rw [(extReads_eq_false_iff a).mpr ⟨bs, ha⟩] at hreads
      cases hreads
    · rintro bs rfl k hk hsums hs
      exact byteAt_performExternal_write hk hsums hs
    · rintro n rfl hsums
      exact performExternal_read hsums
  case cxl =>
    intro hport hup
    refine ⟨_, congrArg Host.Outcome.next (failCxl_of_up hport hup), congrArg Host.Outcome.next (failCxl_of_up hport hup), failLoads_links _ _,
      List.mem_append_right _ List.mem_cons_self, fun x hx hxport => linkFailed_of_cxlDown hx ?_⟩
    have hlinks : (logEvent (failLoads (cxlLost s port) port) (900 + port) 4 0xFF 0 0).links = (cxlLost s port).links :=
      failLoads_links _ _
    rw [hlinks, hxport]
    exact List.mem_append_right _ List.mem_cons_self
  case reenable => exact ⟨_, rfl, by simp, fun x hx => by simp [hx]⟩
  case ualink =>
    intro hport hup
    refine ⟨_, execUalinkLinkFailure_of_up hport hup, rfl, rfl, fun x hx hhit => ?_⟩
    obtain ⟨y, -, rfl⟩ := List.mem_map.mp hx
    exact Contribution.settled_cut hhit
  case ethernet =>
    intro hport
    exact ⟨_, execEthernetLinkFailure_of_port hport, List.mem_append_right _ List.mem_cons_self, rfl⟩

end Sys2Proof.Machine
end

section
/-! A checkpoint's commit that kills its block (R406, R429, R430). -/

namespace Sys2Proof.Machine

/-- The fragment of a block that holds a device service until its commit, in a signal handler's frame. -/
def heldFragment : Fragment := { startFragment 0 (BitVec.allOnes 32) 7 0 [] with st := .waitEvent .svcHeld }

/-- A quiet resilient block whose checkpoint is due and which holds a SIGRET (R402, R430). -/
def sigretBlock : Block :=
  { supervisorBlock with
    hdr := { supervisorHeader with resilient := true }
    waves := [{ restingWave 0 0 false with st := .running, frags := [heldFragment], nextFrag := 1, depth := 1 }]
    ckpt := { due := true, effects := [.svc ⟨0, 0, 0⟩ 0x3F84] } }

/-- A device with that block alone, whose context, and with it the signal table, is gone. -/
def sigretHeld : State := modCore State.reset 0 fun k => { k with blocks := [(0, sigretBlock)] }

theorem blockOf_sigretHeld : blockOf sigretHeld sigretHeld.subject.core sigretHeld.subject.block = some sigretBlock := rfl

theorem blockQuiet_sigretHeld : blockQuiet sigretHeld sigretBlock = true := by decide +kernel

/-- The commit releases the SIGRET, whose return finds no signal table and kills the block (R406). -/
theorem isNone_blockOf_commitBlock_sigretHeld :
    (blockOf (commitBlock sigretHeld sigretHeld.subject.core sigretHeld.subject.block)
      sigretHeld.subject.core sigretHeld.subject.block).isNone = true := by decide +kernel

/-- Refutes O43: the statement asks that the block stands after every commit of a quiet block's due checkpoint. A SIGRET among the
held effects, whose return finds no signal table, kills the block as the commit releases it. No form holds a SIGRET (R402), but
the statement's state is any. -/
theorem not_darnerAndCheckpointEvents : ¬ Obligations.DarnerAndCheckpointEvents := by
  unfold Obligations.DarnerAndCheckpointEvents
  rintro ⟨-, h⟩
  obtain ⟨-, -, -, hblock⟩ := h sigretHeld
  obtain ⟨-, hcommit⟩ := hblock sigretBlock blockOf_sigretHeld
  obtain ⟨-, b, hb, -⟩ := hcommit rfl rfl blockQuiet_sigretHeld
  have hnone := isNone_blockOf_commitBlock_sigretHeld
  rw [hb] at hnone
  cases hnone

end Sys2Proof.Machine
end

section
/-! The entries of an image read back (R410, R411). -/

namespace Sys2Proof.Machine

/-! ### Numbers in an entry -/

@[simp] theorem length_zeros (n : Nat) : (zeros n).length = n := List.length_replicate

@[simp] theorem bytesNat_zeros (n : Nat) (b : List Byte) : bytesNat (zeros n ++ b) 0 n = 0 := by
  have htake : ((zeros n ++ b).drop 0).take n = leBytes 0 n := by
    rw [List.drop_zero, List.take_left' (length_zeros n)]
    induction n with
    | zero => rfl
    | succ n ih => exact congrArg (0 :: ·) ih
  rw [bytesNat, htake, leNat_leBytes, Nat.zero_mod]

theorem bytesNat_lt (l : List Byte) (o n : Nat) : bytesNat l o n < 256 ^ n := by
  refine (leNat_lt _).trans_le (Nat.pow_le_pow_right (by decide) ?_)
  exact (List.length_take_le n _)

theorem bytesNat_drop (l : List Byte) (o k n : Nat) : bytesNat (l.drop o) k n = bytesNat l (o + k) n := by
  rw [bytesNat, bytesNat, List.drop_drop]

theorem mod_pow_256 {n v : Nat} (w : Nat) (h : v < 2 ^ w) (hw : w ≤ 8 * n) : v % 256 ^ n = v :=
  Nat.mod_eq_of_lt (h.trans_le ((Nat.pow_le_pow_right (by decide) hw).trans_eq (by rw [pow_mul]; norm_num)))

/-- A word of whole bytes reads back. -/
theorem ofNat_toNat_mod {w n : Nat} (v : BitVec w) (hw : w ≤ 8 * n) : BitVec.ofNat w (v.toNat % 256 ^ n) = v := by
  rw [mod_pow_256 w v.isLt hw, BitVec.ofNat_toNat, BitVec.setWidth_eq]

theorem mem_laneList {j : Nat} (hj : j < 32) : j ∈ laneList := List.mem_range.mpr hj

/-- A table over some keys reads as its function. -/
theorem cellGet_cellSetAll_map {α : Type} [DecidableEq α] {d : α} {l : Cells α} (hl : cellsWf d l = true) (g : Nat → α)
    {ks : List Nat} {k : Nat} (hk : k ∈ ks) : cellGet d k (cellSetAll d (ks.map fun j => (j, g j)) l) = g k := by
  refine cellGet_cellSetAll_of_mem hl (List.mem_map.mpr ⟨k, hk, rfl⟩) fun e he hek => ?_
  obtain ⟨j, -, rfl⟩ := List.mem_map.mp he
  obtain rfl : j = k := hek
  rfl

/-! ### Fragments (R411) -/

theorem length_keptBytes (k : Option Kept) : (keptBytes k).length = 24 := by
  cases k with
  | none => exact length_zeros 24
  | some k => simp only [keptBytes, List.length_append, leBytes_length]

section
variable (saved : Nat → Nat) (cycle w : Nat) (f : Fragment) (rest : List Byte)

/-- The values, then the tags, of a fragment's s-registers. -/
def sregValues (f : Fragment) : List Byte := laneList.flatMap fun k => leBytes (cellGet {} k f.s : SReg).val.toNat 8
def sregTags (f : Fragment) : List Byte := laneList.flatMap fun k => leBytes (cellGet {} k f.s : SReg).tag.toNat 1

theorem length_sregValues : (sregValues f).length = 256 := length_flatMap_leBytes _ 8 laneList

theorem length_sregTags : (sregTags f).length = 32 := length_flatMap_leBytes _ 1 laneList

/-- The words of a fragment entry before its kept request. -/
def fragHead : List Byte :=
  leBytes f.members.toNat 4 ++ (leBytes f.exec.toNat 4 ++ (leBytes f.mode.toNat 4 ++ (leBytes w 1 ++
    (leBytes (stateCode saved f.st).1 1 ++ (leBytes (min 255 (f.stallUntil - cycle)) 1 ++
      (leBytes (stateCode saved f.st).2.1 1 ++ (leBytes f.pc.toNat 8 ++ leBytes (stateCode saved f.st).2.2 8)))))))

theorem sectFrag_append : sectFrag saved cycle w f ++ rest =
    fragHead saved cycle w f ++ (keptBytes f.kept ++ (zeros 8 ++ (sregValues f ++ (sregTags f ++ (zeros 32 ++ rest))))) := by
  have h : sectFrag saved cycle w f = leBytes f.members.toNat 4 ++ leBytes f.exec.toNat 4 ++ leBytes f.mode.toNat 4 ++
    leBytes w 1 ++ leBytes (stateCode saved f.st).1 1 ++ leBytes (min 255 (f.stallUntil - cycle)) 1 ++
    leBytes (stateCode saved f.st).2.1 1 ++ leBytes f.pc.toNat 8 ++ leBytes (stateCode saved f.st).2.2 8 ++
    keptBytes f.kept ++ zeros 8 ++ sregValues f ++ sregTags f ++ zeros 32 := rfl
  rw [h]
  simp only [fragHead, List.append_assoc]

theorem length_fragHead : (fragHead saved cycle w f).length = 32 := by
  simp only [fragHead, List.length_append, leBytes_length]

theorem fragHead_words (b : List Byte) :
    let e := fragHead saved cycle w f ++ b
    bytesNat e 0 4 = f.members.toNat ∧ bytesNat e 4 4 = f.exec.toNat ∧ bytesNat e 8 4 = f.mode.toNat ∧
      bytesNat e 0xC 1 = w % 256 ∧ bytesNat e 0xD 1 = (stateCode saved f.st).1 % 256 ∧
      bytesNat e 0xE 1 = min 255 (f.stallUntil - cycle) % 256 ∧ bytesNat e 0xF 1 = (stateCode saved f.st).2.1 % 256 ∧
      bytesNat e 0x10 8 = f.pc.toNat ∧ bytesNat e 0x18 8 = (stateCode saved f.st).2.2 % 2 ^ 64 := by
  have hword64 (v : BitVec 64) : v.toNat % 256 ^ 8 = v.toNat := Nat.mod_eq_of_lt v.isLt
  have hword32 (v : BitVec 32) : v.toNat % 256 ^ 4 = v.toNat := Nat.mod_eq_of_lt v.isLt
  simp only [fragHead, List.append_assoc, bytesNat_append_of_le, bytesNat_leBytes_append, leBytes_length, Nat.reduceLeDiff,
    Nat.reduceSub, hword64, hword32]
  exact ⟨trivial, trivial, trivial, rfl, rfl, rfl, rfl, trivial, rfl⟩

end

/-- The word of a kept request (R411). -/
def keptWord (k : Kept) : Nat :=
  k.ident % 2 ^ 32 + (if k.full then 2 ^ 60 else 0) + (if k.held then 2 ^ 61 else 0) +
    (if k.isSend then 2 ^ 62 else 0) + 2 ^ 63

theorem keptWord_fields (k : Kept) : keptWord k < 2 ^ 64 ∧ keptWord k / 2 ^ 63 = 1 ∧ keptWord k % 2 ^ 32 = k.ident % 2 ^ 32 ∧
    keptWord k / 2 ^ 62 % 2 = k.isSend.toNat ∧ keptWord k / 2 ^ 61 % 2 = k.held.toNat ∧
    keptWord k / 2 ^ 60 % 2 = k.full.toNat := by
  have hident : k.ident % 2 ^ 32 < 2 ^ 32 := Nat.mod_lt _ (by decide)
  unfold keptWord
  generalize k.ident % 2 ^ 32 = n at hident
  cases k.full <;> cases k.held <;> cases k.isSend <;>
    simp only [if_true, if_false, Bool.false_eq_true, Bool.toNat_true, Bool.toNat_false] <;> omega

theorem bool_of_toNat (b : Bool) : (b.toNat == 1) = b := by cases b <;> rfl

/-- KEPT and KEPTREPLY read back, over what the model keeps beside the image. -/
theorem readKept_keptBytes {e b : List Byte} (k : Option Kept) (pc : BitVec 64) (h : e.drop 0x20 = keptBytes k ++ b) :
    readKept e pc k = k := by
  have hat (n m : Nat) : bytesNat e (0x20 + n) m = bytesNat (keptBytes k ++ b) n m := by rw [← h, bytesNat_drop]
  cases k with
  | none =>
    have hword : bytesNat e 0x20 8 = 0 := by
      rw [hat 0 8, show keptBytes none ++ b = zeros 8 ++ (zeros 16 ++ b) from rfl, bytesNat_zeros]
    simp [readKept, hword]
  | some k =>
    obtain ⟨hlt, htop, hident, hsend, hheld, hfull⟩ := keptWord_fields k
    have hbytes : keptBytes (some k) ++ b =
        leBytes (keptWord k) 8 ++ (leBytes k.payload.toNat 8 ++ (leBytes k.status.toNat 8 ++ b)) := by
      simp only [keptBytes, keptWord, List.append_assoc]
    have hword : bytesNat e 0x20 8 = keptWord k := by
      rw [hat 0 8, hbytes, bytesNat_leBytes_append, mod_pow_256 64 hlt le_rfl]
    have hpayload : BitVec.ofNat 64 (bytesNat e 0x28 8) = k.payload := by
      rw [hat 8 8, hbytes]
      simp only [bytesNat_append_of_le, bytesNat_leBytes_append, leBytes_length, le_refl, Nat.sub_self]
      exact ofNat_toNat_mod _ le_rfl
    have hstatus : BitVec.ofNat 64 (bytesNat e 0x30 8) = k.status := by
      rw [hat 16 8, hbytes]
      simp only [bytesNat_append_of_le, bytesNat_leBytes_append, leBytes_length, Nat.reduceLeDiff, Nat.reduceSub, le_refl,
        Nat.sub_self]
      exact ofNat_toNat_mod _ le_rfl
    simp only [readKept, hword, htop, hident, hsend, hheld, hfull, hpayload, hstatus, if_true, bool_of_toNat]
    rfl

/-- The wait of a restored fragment, by the wait that it was saved in (R272, R408). -/
def FragState.afterRestore (entry : Nat → Nat) (saved : Nat → Nat) : FragState → FragState
  | .parked e => .parked (entry (saved e))
  | .waitEvent (.jwait n) => .waitEvent (.jwait n)
  | .waitEvent (.svcReply n) => .waitEvent (.svcReply n)
  | .waitEvent _ => .run
  | other => other

theorem restoredState_stateCode (saved entry : Nat → Nat) (st : FragState) :
    restoredState (stateCode saved st).1 (stateCode saved st).2.2 (entry (stateCode saved st).2.1) (some st) =
      st.afterRestore entry saved := by
  cases st with
  | waitEvent w => cases w <;> rfl
  | waitSync m n => simp [stateCode, restoredState, FragState.afterRestore]
  | _ => rfl

theorem stateCode_lt (saved : Nat → Nat) (st : FragState) : (stateCode saved st).1 < 256 := by
  cases st with
  | waitEvent w => cases w <;> simp [stateCode]
  | _ => simp [stateCode]

section
variable {l rest : List Byte} {s s' : State} {saved entry : Nat → Nat} {k w : Nat} {f : Fragment}
  (he : (sectOf l 2).drop (384 * k) = sectFrag saved s.cycle w f ++ rest) (hw : w < 256)
  (hham : (stateCode saved f.st).2.1 < 256) (harg : (stateCode saved f.st).2.2 < 2 ^ 64)
include he hw hham harg

/-- A fragment's words, wait and kept request read back (R411). -/
theorem readFrag_words :
    let x := readFrag s' l (some (f.st, f.kept)) entry k
    x.1 = w ∧ x.2.members = f.members ∧ x.2.exec = f.exec ∧ x.2.mode = f.mode ∧ x.2.pc = f.pc ∧ x.2.kept = f.kept ∧
      x.2.stallUntil = s'.cycle + min 255 (f.stallUntil - s.cycle) ∧ x.2.st = f.st.afterRestore entry saved := by
  obtain ⟨hmembers, hexec, hmode, hwave, hst, hstall, hentry, hpc, hwait⟩ :=
    fragHead_words saved s.cycle w f (keptBytes f.kept ++ (zeros 8 ++ (sregValues f ++ (sregTags f ++ (zeros 32 ++ rest)))))
  rw [← sectFrag_append, ← he] at hmembers hexec hmode hwave hst hstall hentry hpc hwait
  have hkept : ((sectOf l 2).drop (384 * k)).drop 0x20 = keptBytes f.kept ++ (zeros 8 ++ (sregValues f ++ (sregTags f ++
      (zeros 32 ++ rest)))) := by
    rw [he, sectFrag_append]
    exact List.drop_left' (length_fragHead _ _ _ _)
  rw [Nat.mod_eq_of_lt hw] at hwave
  rw [Nat.mod_eq_of_lt (stateCode_lt _ _)] at hst
  rw [Nat.mod_eq_of_lt (Nat.lt_of_le_of_lt (Nat.min_le_left 255 _) (by decide))] at hstall
  rw [Nat.mod_eq_of_lt hham] at hentry
  rw [Nat.mod_eq_of_lt harg] at hwait
  simp only [readFrag, hmembers, hexec, hmode, hwave, hst, hstall, hentry, hpc, hwait, Option.map_some, Option.bind_some,
    restoredState_stateCode, readKept_keptBytes f.kept _ hkept, BitVec.ofNat_toNat, BitVec.setWidth_eq, and_self]

omit hw hham harg in
theorem readFrag_registers {j : Nat} (hj : j < 32) :
    cellGet {} j (readFrag s' l (some (f.st, f.kept)) entry k).2.s = cellGet {} j f.s := by
  have hlane := getElem?_laneList hj
  have hval : BitVec.ofNat 64 (bytesNat ((sectOf l 2).drop (384 * k)) (0x40 + 8 * j) 8) = (cellGet {} j f.s : SReg).val := by
    rw [he, sectFrag_append]
    rw [bytesNat_append_of_le _ (by rw [length_fragHead]; omega), length_fragHead,
      bytesNat_append_of_le _ (by rw [length_keptBytes]; omega), length_keptBytes,
      bytesNat_append_of_le _ (by rw [length_zeros]; omega), length_zeros, show 0x40 + 8 * j - 32 - 24 - 8 = 8 * j by omega,
      sregValues, bytesNat_flatMap_leBytes _ 8 _ hlane]
    exact ofNat_toNat_mod _ le_rfl
  have htag : BitVec.ofNat 6 (bytesNat ((sectOf l 2).drop (384 * k)) (0x140 + j) 1) = (cellGet {} j f.s : SReg).tag := by
    rw [he, sectFrag_append]
    rw [bytesNat_append_of_le _ (by rw [length_fragHead]; omega), length_fragHead,
      bytesNat_append_of_le _ (by rw [length_keptBytes]; omega), length_keptBytes,
      bytesNat_append_of_le _ (by rw [length_zeros]; omega), length_zeros,
      bytesNat_append_of_le _ (by rw [length_sregValues]; omega), length_sregValues,
      show 0x140 + j - 32 - 24 - 8 - 256 = 1 * j by omega, sregTags, bytesNat_flatMap_leBytes _ 1 _ hlane]
    exact ofNat_toNat_mod _ (by decide)
  simp only [readFrag]
  rw [cellGet_cellSetAll_map rfl _ (mem_laneList hj), hval, htag]

end

end Sys2Proof.Machine
end

section
/-! The other entries of an image read back (R410, R411). -/

namespace Sys2Proof.Machine

/-! ### Flags and tables in an entry -/

/-- The number whose bit `k`, for `k` below `m`, is flag `k`. -/
def flagSum (b : Nat → Bool) (m : Nat) : Nat := (List.range m).foldl (fun n k => n + (if b k then 2 ^ k else 0)) 0

theorem flagSum_succ (b : Nat → Bool) (m : Nat) : flagSum b (m + 1) = flagSum b m + (if b m then 2 ^ m else 0) := by
  simp only [flagSum, List.range_succ, List.foldl_append, List.foldl_cons, List.foldl_nil]

theorem flagSum_lt (b : Nat → Bool) (m : Nat) : flagSum b m < 2 ^ m := by
  induction m with
  | zero => exact Nat.one_pos
  | succ m ih =>
    rw [flagSum_succ, Nat.pow_succ]
    split <;> omega

/-- Each flag reads back from its bit. -/
theorem flagSum_bit (b : Nat → Bool) {m k : Nat} (hk : k < m) : (flagSum b m / 2 ^ k % 2 == 1) = b k := by
  induction m with
  | zero => cases hk
  | succ m ih =>
    have hlt := flagSum_lt b m
    rw [flagSum_succ]
    rcases Nat.lt_succ_iff_lt_or_eq.mp hk with hk | rfl
    · have heven : (if b m then 2 ^ m else 0) = 2 ^ k * (2 * (if b m then 2 ^ (m - k - 1) else 0)) := by
        split
        · rw [← mul_assoc, ← pow_succ, ← pow_add]
          congr 1
          omega
        · rfl
      rw [← ih hk, heven, Nat.add_mul_div_left _ _ (Nat.two_pow_pos k), Nat.add_mul_mod_self_left]
    · cases hb : b k with
      | false => simp [Nat.div_eq_of_lt hlt]
      | true => simp [Nat.add_div_right _ (Nat.two_pow_pos k), Nat.div_eq_of_lt hlt]

theorem flagSum_congr {b c : Nat → Bool} {m : Nat} (h : ∀ k < m, b k = c k) : flagSum b m = flagSum c m := by
  induction m with
  | zero => rfl
  | succ m ih => rw [flagSum_succ, flagSum_succ, ih fun k hk => h k (Nat.lt_succ_of_lt hk), h m (Nat.lt_succ_self m)]

/-- The flags of a list's elements, by their places. -/
theorem foldl_zipIdx_flags {α : Type} (p : α → Bool) (l : List α) :
    l.zipIdx.foldl (fun n e => n + (if p e.1 then 2 ^ e.2 else 0)) 0 = flagSum (fun k => (l[k]?).any p) l.length := by
  induction l using List.reverseRecOn with
  | nil => rfl
  | append_singleton l x ih =>
    have hlast : ((l ++ [x])[l.length]?).any p = p x := by simp
    have hinit : flagSum (fun k => (l[k]?).any p) l.length = flagSum (fun k => ((l ++ [x])[k]?).any p) l.length :=
      flagSum_congr fun k hk => by rw [List.getElem?_append_left hk]
    rw [List.zipIdx_append, List.foldl_append, ih, List.length_append, List.length_singleton, flagSum_succ, hlast, ← hinit]
    simp

/-- Chunk `j` of a table of chunks of `m` bytes each. -/
theorem drop_flatMap {α : Type} {g : α → List Byte} {m : Nat} (hg : ∀ x, (g x).length = m) (b : List Byte) {l : List α} {j : Nat}
    {x : α} (hj : l[j]? = some x) : ∃ r, ((l.flatMap g) ++ b).drop (m * j) = g x ++ r := by
  induction l generalizing j with
  | nil => cases hj
  | cons a l ih =>
    rw [List.flatMap_cons, List.append_assoc]
    cases j with
    | zero =>
      obtain rfl : a = x := by simpa using hj
      exact ⟨_, rfl⟩
    | succ j =>
      rw [Nat.mul_succ, Nat.add_comm, ← List.drop_drop, List.drop_left' (hg a)]
      exact ih (by simpa using hj)

theorem length_padTo {n : Nat} {l : List Byte} (h : l.length ≤ n) : (padTo n l).length = n := by
  rw [padTo, List.length_append, length_zeros]
  omega

/-! ### Waves (R411) -/

section
variable (x : Wave)

/-- The predicates of a lane, as flags. -/
def predFlags (x : Wave) (j : Nat) : Nat := flagSum (fun k => (predOf x k).getLsbD j) 7

/-- The words of a wave entry before its window bases. -/
def waveHead : List Byte :=
  leBytes (waveCode x.st) 1 ++ (leBytes (x.sigpend.elim 0xFF (·.1)) 1 ++ (leBytes x.depth 1 ++ (zeros 1 ++
    (leBytes x.live.toNat 4 ++ (leBytes (x.sigpend.elim 0 fun e => e.2.toNat) 8 ++ zeros 16)))))

/-- The window bases, then the predicates, of a wave's lanes. -/
def waveBases : List Byte := laneList.flatMap fun j => leBytes (x.wbOf j) 2
def wavePreds : List Byte := laneList.flatMap fun j => leBytes (predFlags x j) 1

theorem length_waveHead : (waveHead x).length = 32 := by
  simp only [waveHead, List.length_append, leBytes_length, length_zeros]

theorem length_waveBases : (waveBases x).length = 64 := length_flatMap_leBytes _ 2 laneList

end

theorem sectWave_append {b : Block} {w : Nat} {x : Wave} (h : b.wave? w = some x) (rest : List Byte) :
    sectWave b w ++ rest = waveHead x ++ (waveBases x ++ (wavePreds x ++ rest)) := by
  have hsect : sectWave b w = leBytes (waveCode x.st) 1 ++ leBytes (x.sigpend.elim 0xFF (·.1)) 1 ++ leBytes x.depth 1 ++
      zeros 1 ++ leBytes x.live.toNat 4 ++ leBytes (x.sigpend.elim 0 fun e => e.2.toNat) 8 ++ zeros 16 ++ waveBases x ++
      wavePreds x := by
    rw [sectWave, h]
    simp only [List.append_assoc]
    rfl
  rw [hsect]
  simp only [waveHead, List.append_assoc]

section
variable {b : Block} {h : Header} {quadrant w : Nat} {x : Wave} {l rest : List Byte}
  (he : (sectOf l 1).drop (128 * w) = sectWave b w ++ rest) (hx : b.wave? w = some x)
include he hx

theorem readWave_words (hdepth : x.depth < 256) (hsig : ∀ n v, x.sigpend = some (n, v) → n < 255) :
    (readWave h l quadrant w).st = x.st ∧ (readWave h l quadrant w).depth = x.depth ∧
      (readWave h l quadrant w).sigpend = x.sigpend := by
  rw [sectWave_append hx] at he
  have hst : bytesNat ((sectOf l 1).drop (128 * w)) 0 1 = waveCode x.st % 256 := by
    rw [he, waveHead, List.append_assoc, bytesNat_leBytes_append]
    rfl
  have hnum : bytesNat ((sectOf l 1).drop (128 * w)) 1 1 = x.sigpend.elim 0xFF (·.1) % 256 := by
    rw [he]
    simp only [waveHead, List.append_assoc, bytesNat_append_of_le, bytesNat_leBytes_append, leBytes_length, le_refl,
      Nat.sub_self]
    rfl
  have hd : bytesNat ((sectOf l 1).drop (128 * w)) 2 1 = x.depth % 256 := by
    rw [he]
    simp only [waveHead, List.append_assoc, bytesNat_append_of_le, bytesNat_leBytes_append, leBytes_length, Nat.reduceLeDiff,
      Nat.reduceSub, le_refl, Nat.sub_self]
    rfl
  have hval : bytesNat ((sectOf l 1).drop (128 * w)) 8 8 = (x.sigpend.elim 0 fun e => e.2.toNat) % 256 ^ 8 := by
    rw [he]
    simp only [waveHead, List.append_assoc, bytesNat_append_of_le, bytesNat_leBytes_append, leBytes_length, length_zeros,
      Nat.reduceLeDiff, Nat.reduceSub, le_refl, Nat.sub_self]
  rw [Nat.mod_eq_of_lt hdepth] at hd
  refine ⟨?_, hd, ?_⟩
  · simp only [readWave, hst]
    cases x.st <;> rfl
  · simp only [readWave, hnum, hval]
    cases hpend : x.sigpend with
    | none => rfl
    | some e =>
      have hn : e.1 < 255 := hsig e.1 e.2 hpend
      simp only [Option.elim_some, Nat.mod_eq_of_lt (show e.1 < 256 by omega), if_neg (show e.1 ≠ 0xFF by omega),
        ofNat_toNat_mod (n := 8) e.2 le_rfl]

theorem readWave_wbOf (hwb : ∀ j < 32, x.wbOf j < 65536) {j : Nat} (hj : j < 32) :
    (readWave h l quadrant w).wbOf j = x.wbOf j := by
  have hbase : bytesNat ((sectOf l 1).drop (128 * w)) (0x20 + 2 * j) 2 = x.wbOf j := by
    rw [he, sectWave_append hx, bytesNat_append_of_le _ (by rw [length_waveHead]; omega), length_waveHead,
      Nat.add_sub_cancel_left, waveBases, bytesNat_flatMap_leBytes _ 2 _ (getElem?_laneList hj)]
    exact Nat.mod_eq_of_lt (hwb j hj)
  simp only [Wave.wbOf, readWave]
  rw [cellGet_cellSetAll_map rfl _ (mem_laneList hj)]
  exact hbase

theorem readWave_predOf {k : Nat} (hk : k ≤ 7) : predOf (readWave h l quadrant w) k = predOf x k := by
  rcases Nat.lt_or_eq_of_le hk with hk | rfl
  · have hflags (j : Nat) (hj : j < 32) : bytesNat ((sectOf l 1).drop (128 * w)) (0x60 + j) 1 = predFlags x j := by
      have hlt : predFlags x j < 2 ^ 7 := flagSum_lt _ 7
      rw [he, sectWave_append hx, bytesNat_append_of_le _ (by rw [length_waveHead]; omega), length_waveHead,
        bytesNat_append_of_le _ (by rw [length_waveBases]; omega), length_waveBases,
        show 0x60 + j - 32 - 64 = 1 * j by omega, wavePreds, bytesNat_flatMap_leBytes _ 1 _ (getElem?_laneList hj)]
      exact Nat.mod_eq_of_lt (by omega)
    have hread : predOf (readWave h l quadrant w) k = lanesWhere (BitVec.allOnes 32) fun j =>
        bytesNat ((sectOf l 1).drop (128 * w)) (0x60 + j) 1 / 2 ^ k % 2 == 1 := by
      rw [predOf, if_neg (by omega)]
      exact cellGet_cellSetAll_map rfl _ (List.mem_range.mpr hk)
    rw [hread]
    ext j hj
    rw [← BitVec.getLsbD_eq_getElem, ← BitVec.getLsbD_eq_getElem, Claims.getLsbD_lanesWhere, hflags j hj, predFlags, flagSum_bit _ hk,
      BitVec.getLsbD_allOnes, decide_eq_true hj, Bool.true_and]
  · rfl

end

/-! ### Stacks (R410) -/

/-- A lane's stack in an image: its values, then its tags. -/
def laneStack (h : Header) (x : Wave) (j : Nat) : List Byte :=
  padTo (4 * h.depth) ((residentIndices h x j).flatMap fun n => leBytes (cellGet ({} : VReg) (n * 32 + j) x.regs).val.toNat 4) ++
    padTo h.depth ((residentIndices h x j).flatMap fun n => leBytes (cellGet ({} : VReg) (n * 32 + j) x.regs).tag.toNat 1)

theorem length_residentIndices (h : Header) (x : Wave) (j : Nat) : (residentIndices h x j).length ≤ h.depth :=
  List.length_take_le _ _

theorem sectStack_eq {b : Block} {w : Nat} {x : Wave} (h : b.wave? w = some x) :
    sectStack b w = laneList.flatMap (laneStack b.hdr x) := by
  rw [sectStack, h]
  simp only [List.flatMap_map]
  rfl

theorem length_stackValues (h : Header) (x : Wave) (j : Nat) : (padTo (4 * h.depth) ((residentIndices h x j).flatMap fun n =>
    leBytes (cellGet ({} : VReg) (n * 32 + j) x.regs).val.toNat 4)).length = 4 * h.depth := by
  refine length_padTo ?_
  rw [length_flatMap_leBytes, Nat.mul_comm]
  exact Nat.mul_le_mul_left 4 (length_residentIndices h x j)

theorem length_laneStack (h : Header) (x : Wave) (j : Nat) : (laneStack h x j).length = 5 * h.depth := by
  rw [laneStack, List.length_append, length_stackValues, length_padTo]
  · omega
  · rw [length_flatMap_leBytes, Nat.mul_one]
    exact length_residentIndices h x j

/-- Place `i` of a lane's stack. -/
theorem laneStack_place {h : Header} {x : Wave} {j i n : Nat} (hn : (residentIndices h x j)[i]? = some n) (r : List Byte) :
    (⟨BitVec.ofNat 32 (bytesNat (laneStack h x j ++ r) (4 * i) 4),
      BitVec.ofNat 6 (bytesNat (laneStack h x j ++ r) (4 * h.depth + i) 1)⟩ : VReg) = cellGet {} (n * 32 + j) x.regs := by
  have hval : bytesNat (laneStack h x j ++ r) (4 * i) 4 = (cellGet ({} : VReg) (n * 32 + j) x.regs).val.toNat % 256 ^ 4 := by
    rw [laneStack, padTo, List.append_assoc, List.append_assoc, bytesNat_flatMap_leBytes _ 4 _ hn]
  have htag : bytesNat (laneStack h x j ++ r) (4 * h.depth + i) 1 =
      (cellGet ({} : VReg) (n * 32 + j) x.regs).tag.toNat % 256 ^ 1 := by
    rw [laneStack, List.append_assoc, bytesNat_append_of_le _ (by rw [length_stackValues]; omega), length_stackValues,
      Nat.add_sub_cancel_left, padTo, List.append_assoc]
    have := bytesNat_flatMap_leBytes (fun n => (cellGet ({} : VReg) (n * 32 + j) x.regs).tag.toNat) 1
      (zeros (h.depth - ((residentIndices h x j).flatMap fun n =>
        leBytes (cellGet ({} : VReg) (n * 32 + j) x.regs).tag.toNat 1).length) ++ r) hn
    rwa [Nat.one_mul] at this
  rw [hval, htag, ofNat_toNat_mod (n := 4) _ le_rfl, ofNat_toNat_mod (n := 1) _ (by decide)]

theorem cellGet_readStack {b : Block} {regs : Cells VReg} {x y : Wave} {l rest : List Byte}
    (he : (sectOf l 3).drop (32 * 5 * b.hdr.depth * x.idx) = sectStack b x.idx ++ rest) (hx : b.wave? x.idx = some x)
    (hidx : y.idx = x.idx) (hregs : cellsWf {} regs = true)
    (hres : ∀ j < 32, residentIndices b.hdr y j = residentIndices b.hdr x j) {j n : Nat} (hj : j < 32)
    (hn : n ∈ residentIndices b.hdr x j) :
    cellGet {} (n * 32 + j) (readStack b.hdr l regs y).regs = cellGet {} (n * 32 + j) x.regs := by
  have hplace (j i n : Nat) (hj : j < 32) (hn : (residentIndices b.hdr x j)[i]? = some n) :
      (⟨BitVec.ofNat 32 (bytesNat ((sectOf l 3).drop (32 * 5 * b.hdr.depth * y.idx)) (5 * b.hdr.depth * j + 4 * i) 4),
        BitVec.ofNat 6 (bytesNat ((sectOf l 3).drop (32 * 5 * b.hdr.depth * y.idx))
          (5 * b.hdr.depth * j + 4 * b.hdr.depth + i) 1)⟩ : VReg) = cellGet {} (n * 32 + j) x.regs := by
    obtain ⟨r, hr⟩ := drop_flatMap (length_laneStack b.hdr x) rest (getElem?_laneList hj)
    rw [← sectStack_eq hx, ← he] at hr
    rw [hidx, Nat.add_assoc, ← bytesNat_drop, ← bytesNat_drop, hr]
    exact laneStack_place hn r
  rw [readStack]
  refine cellGet_cellSetAll_of_mem hregs (List.mem_flatMap.mpr ⟨j, mem_laneList hj, List.mem_map.mpr ?_⟩) fun e he' hkey => ?_
  · obtain ⟨i, hi⟩ := List.getElem?_of_mem hn
    exact ⟨(n, i), List.mem_zipIdx_iff_getElem?.mpr (by rwa [hres j hj]), Prod.ext rfl (hplace j i n hj hi)⟩
  · obtain ⟨j', hj', hmem⟩ := List.mem_flatMap.mp he'
    obtain ⟨⟨n', i'⟩, hzip, rfl⟩ := List.mem_map.mp hmem
    have hlane : j' < 32 := List.mem_range.mp hj'
    have hi' := List.mem_zipIdx_iff_getElem?.mp hzip
    rw [hres j' hlane] at hi'
    have hkey' : n' * 32 + j' = n * 32 + j := hkey
    rw [← hkey']
    exact hplace j' i' n' hlane hi'

/-! ### Operations, entries and bindings (R410, R411) -/

/-- The codes of an operation's state and phase (R410). -/
def opStateCode : OpState → Nat
  | .queued => 0
  | .running => 1
  | .stalled => 2
  | .done => 3
def phaseCode : CollPhase → Nat
  | .staging => 1
  | .exchange => 2
  | .writing => 3

/-- The state and phase that a code stands for (R410). -/
def opStateOf (n : Nat) : OpState :=
  match n with
  | 0 => .queued
  | 1 => .running
  | 2 => .stalled
  | _ => .done
def phaseOf (n : Nat) : CollPhase :=
  match n with
  | 1 => .staging
  | 2 => .exchange
  | _ => .writing

theorem opStateOf_opStateCode (x : OpState) : opStateOf (opStateCode x) = x := by cases x <;> rfl

theorem phaseOf_phaseCode (x : CollPhase) : phaseOf (phaseCode x) = x := by cases x <;> rfl

/-- The words of an operation's entry. -/
def opHead (o : Op) : List Byte :=
  leBytes (opId o.form o.slot o.seq).toNat 8 ++ (leBytes (opStateCode o.st) 1 ++ (leBytes o.status 1 ++ (zeros 2 ++
    (leBytes o.progress 4 ++ (leBytes o.param.toNat 8 ++ (leBytes o.mode.toNat 4 ++ (zeros 4 ++ (leBytes o.da.toNat 32 ++
      (leBytes o.dw.toNat 32 ++ (leBytes o.irec.toNat 32 ++ (leBytes (phaseCode o.phase) 1 ++
        (zeros 7 ++ ((indexVector o).take 14).flatMap fun n => leBytes n 4))))))))))))

theorem sectOp_eq {b : Block} {o : Op} (h : b.ops.find? (fun x => x.slot == o.slot) = some o) :
    sectOp b o.slot = padTo 192 (opHead o) := by
  rw [sectOp, h]
  simp only [opHead, List.append_assoc]
  rfl

theorem readOp_sectOp {b : Block} {o : Op} {l rest : List Byte} (he : (sectOf l 8).drop (192 * o.slot) = sectOp b o.slot ++ rest)
    (ho : b.ops.find? (fun x => x.slot == o.slot) = some o) (hstatus : o.status < 256) (hprogress : o.progress < 2 ^ 32) :
    readOp l o = o := by
  rw [sectOp_eq ho, padTo] at he
  have hword64 (v : BitVec 64) : v.toNat % 256 ^ 8 = v.toNat := Nat.mod_eq_of_lt v.isLt
  have hword32 (v : BitVec 32) : v.toNat % 256 ^ 4 = v.toNat := Nat.mod_eq_of_lt v.isLt
  have hrec (v : BitVec 256) : v.toNat % 256 ^ 32 = v.toNat := mod_pow_256 256 v.isLt le_rfl
  have hst : opStateCode o.st % 256 ^ 1 = opStateCode o.st := by cases o.st <;> rfl
  have hphase : phaseCode o.phase % 256 ^ 1 = phaseCode o.phase := by cases o.phase <;> rfl
  have hstatus' : o.status % 256 ^ 1 = o.status := Nat.mod_eq_of_lt hstatus
  have hprogress' : o.progress % 256 ^ 4 = o.progress := Nat.mod_eq_of_lt hprogress
  have hread : readOp l o = { o with st := opStateOf (opStateCode o.st), phase := phaseOf (phaseCode o.phase) } := by
    simp only [readOp, he, opHead, List.append_assoc, bytesNat_append_of_le, bytesNat_leBytes_append, leBytes_length,
      length_zeros, Nat.reduceLeDiff, Nat.reduceSub, le_refl, Nat.sub_self, hword64, hword32, hrec, hst, hphase, hstatus',
      hprogress', BitVec.ofNat_toNat, BitVec.setWidth_eq, bne_self_eq_false, Bool.false_eq_true, if_false]
    rfl
  rw [hread, opStateOf_opStateCode, phaseOf_phaseCode]

theorem readEntry_sectHamper {e : HamperEntry} {l rest : List Byte} {k : Nat}
    (he : (sectOf l 10).drop (32 * k) = sectHamper e ++ rest) (hwave : e.wave < 256) (hcode : e.code < 256)
    (haccess : e.access < 256) :
    readEntry l k = ⟨decide (e.st = .hw), e.wave, e.code, e.mask, e.active, e.access, e.info, e.pc⟩ := by
  have hhw : ((if e.st = .hw then 1 else 2) % 256 ^ 1 == 1) = decide (e.st = .hw) := by split <;> simp_all
  have hwave' : e.wave % 256 ^ 1 = e.wave := Nat.mod_eq_of_lt hwave
  have hcode' : e.code % 256 ^ 1 = e.code := Nat.mod_eq_of_lt hcode
  have haccess' : e.access % 256 ^ 1 = e.access := Nat.mod_eq_of_lt haccess
  have hword64 (v : BitVec 64) : v.toNat % 256 ^ 8 = v.toNat := Nat.mod_eq_of_lt v.isLt
  have hword32 (v : BitVec 32) : v.toNat % 256 ^ 4 = v.toNat := Nat.mod_eq_of_lt v.isLt
  simp only [readEntry, he, sectHamper, List.append_assoc, bytesNat_append_of_le, bytesNat_leBytes_append, leBytes_length,
    length_zeros, Nat.reduceLeDiff, Nat.reduceSub, le_refl, Nat.sub_self, hhw, hwave', hcode', haccess', hword64, hword32,
    BitVec.ofNat_toNat, BitVec.setWidth_eq]

theorem readFifo_sectFifo {core : Core} {f g : Fifo} {l rest : List Byte} {j : Nat}
    (he : (sectOf l 5).drop (65568 * j) = sectFifo core f ++ rest) (hrp : f.rp < 2 ^ 64) (hcp : f.cp < 2 ^ 64)
    (hlp : f.lp < 2 ^ 64) (hfp : f.fp < 2 ^ 64) : readFifo l g j = { g with rp := f.rp, cp := f.cp, lp := f.lp, fp := f.fp } := by
  have hcount : (sectOf l 5).drop (65568 * j + 65536) =
      leBytes f.rp 8 ++ (leBytes f.cp 8 ++ (leBytes f.lp 8 ++ (leBytes f.fp 8 ++ rest))) := by
    rw [← List.drop_drop, he, sectFifo]
    simp only [List.append_assoc]
    exact List.drop_left' (readBytes_length _ _ _)
  have hmod {v : Nat} (hv : v < 2 ^ 64) : v % 256 ^ 8 = v := Nat.mod_eq_of_lt hv
  simp only [readFifo, hcount, bytesNat_append_of_le, bytesNat_leBytes_append, leBytes_length, Nat.reduceLeDiff, Nat.reduceSub,
    le_refl, Nat.sub_self, hmod hrp, hmod hcp, hmod hlp, hmod hfp]

end Sys2Proof.Machine
end

section
/-! The block of an image, its memory and the layout of an image (R409, R410, R412). -/

namespace Sys2Proof.Machine

/-! ### Section 0 (R410) -/

section
variable (b : Block)

/-- The records of a block in an image. -/
def blockRecs : List Byte := (List.range 32).flatMap fun k => leBytes (cellGet (0 : BitVec 256) k b.recs).toNat 32

/-- The latched weights in an image. -/
def latchedBytes : List Byte :=
  match b.latched with
  | some x => leBytes 1 1 ++ leBytes x.record.toNat 32 ++ leBytes x.param.toNat 8
  | none => zeros 41

/-- The pattern enables, as flags. -/
def patternFlags : Nat := flagSum (fun k => (b.patterns[k]?).any (·.enabled)) b.patterns.length

theorem length_blockRecs : (blockRecs b).length = 1024 := length_flatMap_leBytes _ 32 (List.range 32)

theorem length_latchedBytes : (latchedBytes b).length = 41 := by
  unfold latchedBytes
  cases b.latched with
  | none => exact length_zeros 41
  | some x => simp only [List.length_append, leBytes_length]

/-- The words of section 0 before the latched weights. -/
def blockHead : List Byte :=
  blockRecs b ++ (leBytes (b.iron.getD 0xFF) 1 ++ (leBytes b.rotate 1 ++ (leBytes (patternFlags b) 2 ++
    (leBytes (arrivalState b) 8 ++ leBytes b.opSeq 4))))

theorem length_blockHead : (blockHead b).length = 1040 := by
  simp only [blockHead, List.length_append, length_blockRecs, leBytes_length]

/-- What fills section 0 up behind the spill slot. -/
def blockRest : List Byte := zeros (1152 - (blockHead b ++ latchedBytes b ++ leBytes (b.spillSlot.getD 0xFFFFFFFF) 4).length)

theorem sectBlock_append (rest : List Byte) : sectBlock b ++ rest =
    blockHead b ++ (latchedBytes b ++ (leBytes (b.spillSlot.getD 0xFFFFFFFF) 4 ++ (blockRest b ++ rest))) := by
  have hsect : sectBlock b = padTo 1152 (blockHead b ++ latchedBytes b ++ leBytes (b.spillSlot.getD 0xFFFFFFFF) 4) := by
    rw [blockHead, patternFlags, ← foldl_zipIdx_flags]
    simp only [← List.append_assoc]
    rfl
  rw [hsect, padTo]
  simp only [blockRest, List.append_assoc]

end

section
variable {s : State} {b : Block} {l rest : List Byte} {la : Launch} {p : Spot} {aux : Option Image}
  (he : sectOf l 0 = sectBlock b ++ rest)
include he

theorem restoredBlock_recs {k : Nat} (hk : k < 32) :
    cellGet 0 k (restoredBlock s l la p aux).recs = cellGet 0 k b.recs := by
  rw [sectBlock_append] at he
  have hrec : bytesNat (sectOf l 0) (32 * k) 32 = (cellGet (0 : BitVec 256) k b.recs).toNat := by
    rw [he, blockHead, List.append_assoc, blockRecs, bytesNat_flatMap_leBytes _ 32 _ (List.getElem?_range hk), mod_pow_256 256 (BitVec.isLt _) le_rfl]
  simp only [restoredBlock]
  rw [cellGet_cellSetAll_map rfl _ (List.mem_range.mpr hk), hrec, BitVec.ofNat_toNat, BitVec.setWidth_eq]

theorem restoredBlock_words (hiron : ∀ n, b.iron = some n → n < 255) (hrotate : b.rotate < 256) (hseq : b.opSeq < 2 ^ 32) :
    (restoredBlock s l la p aux).iron = b.iron ∧ (restoredBlock s l la p aux).rotate = b.rotate ∧
      (restoredBlock s l la p aux).opSeq = b.opSeq := by
  rw [sectBlock_append] at he
  have hi : bytesNat (sectOf l 0) 1024 1 = b.iron.getD 0xFF % 256 := by
    rw [he, blockHead]
    simp only [List.append_assoc, bytesNat_append_of_le, bytesNat_leBytes_append, length_blockRecs, le_refl, Nat.sub_self]
    rfl
  have hrot : bytesNat (sectOf l 0) 1025 1 = b.rotate % 256 := by
    rw [he, blockHead]
    simp only [List.append_assoc, bytesNat_append_of_le, bytesNat_leBytes_append, leBytes_length, length_blockRecs, Nat.reduceLeDiff,
      Nat.reduceSub, le_refl, Nat.sub_self]
    rfl
  have hs : bytesNat (sectOf l 0) 1036 4 = b.opSeq % 2 ^ 32 := by
    rw [he, blockHead]
    simp only [List.append_assoc, bytesNat_append_of_le, bytesNat_leBytes_append, leBytes_length, length_blockRecs, Nat.reduceLeDiff,
      Nat.reduceSub, le_refl, Nat.sub_self]
    rfl
  refine ⟨?_, ?_, ?_⟩
  · simp only [restoredBlock, hi]
    cases hiron' : b.iron with
    | none => rfl
    | some n =>
      have hn : n < 255 := hiron n hiron'
      rw [Option.getD_some, Nat.mod_eq_of_lt (by omega), if_neg (by omega)]
  · simp only [restoredBlock, hrot]
    exact Nat.mod_eq_of_lt hrotate
  · simp only [restoredBlock, hs]
    exact Nat.mod_eq_of_lt hseq

theorem restoredBlock_latched :
    (restoredBlock s l la p aux).latched.map (fun x => (x.record, x.param)) = b.latched.map fun x => (x.record, x.param) := by
  rw [sectBlock_append] at he
  obtain ⟨r, hr⟩ : ∃ r, sectOf l 0 = blockHead b ++ (latchedBytes b ++ r) := ⟨_, he⟩
  have hdrop (n m : Nat) : bytesNat (sectOf l 0) (1040 + n) m = bytesNat (latchedBytes b ++ r) n m := by
    rw [← bytesNat_drop, hr, List.drop_left' (length_blockHead b)]
  have hflag : bytesNat (sectOf l 0) 1040 1 = _ := hdrop 0 1
  have hrecord : bytesNat (sectOf l 0) 1041 32 = _ := hdrop 1 32
  have hparam : bytesNat (sectOf l 0) 1073 8 = _ := hdrop 33 8
  simp only [restoredBlock, hflag, hrecord, hparam]
  unfold latchedBytes
  cases b.latched with
  | none => simp [show zeros 41 = zeros 1 ++ zeros 40 from rfl]
  | some x =>
    simp only [List.append_assoc, bytesNat_append_of_le, bytesNat_leBytes_append, leBytes_length, le_refl, Nat.sub_self,
      Nat.reduceLeDiff, Nat.reduceSub, ofNat_toNat_mod (n := 32) x.record le_rfl, ofNat_toNat_mod (n := 8) x.param le_rfl]
    rfl

theorem restoredBlock_patterns {k : Nat} {u v : Pattern} (hk : k < 16)
    (hu : (restoredBlock s l la p aux).patterns[k]? = some u) (hv : b.patterns[k]? = some v) : u.enabled = v.enabled := by
  rw [sectBlock_append] at he
  have hflags : bytesNat (sectOf l 0) 1026 2 = patternFlags b % 2 ^ 16 := by
    rw [he, blockHead]
    simp only [List.append_assoc, bytesNat_append_of_le, bytesNat_leBytes_append, leBytes_length, length_blockRecs, Nat.reduceLeDiff,
      Nat.reduceSub, le_refl, Nat.sub_self]
    rfl
  have hlen : k < b.patterns.length := (List.getElem?_eq_some_iff.mp hv).1
  have hbit : patternFlags b % 2 ^ 16 / 2 ^ k % 2 = patternFlags b / 2 ^ k % 2 := by
    have h := Nat.testBit_mod_two_pow (patternFlags b) 16 k
    simp only [Nat.testBit_eq_decide_div_mod_eq, hk, decide_true, Bool.true_and] at h
    have h1 : patternFlags b % 2 ^ 16 / 2 ^ k % 2 < 2 := Nat.mod_lt _ (by decide)
    have h2 : patternFlags b / 2 ^ k % 2 < 2 := Nat.mod_lt _ (by decide)
    rw [decide_eq_decide] at h
    omega
  simp only [restoredBlock, List.getElem?_map, List.getElem?_zipIdx, hflags, Option.map_map, Option.map_eq_some_iff] at hu
  obtain ⟨x, -, rfl⟩ := hu
  simp only [Function.comp, Nat.zero_add, hbit]
  rw [patternFlags, flagSum_bit _ hlen, hv]
  rfl

end

/-! ### Memory (R410, R412) -/

/-- The bytes that a span of an image brings. -/
def spanBytes (l : List Byte) (x : Nat × Nat × Nat) : List Byte := (l.drop x.2.1).take x.2.2

/-- Spans of an image written to core SRAM, first to last. -/
def writeSpans (l : List Byte) (m : Cells Byte) (xs : List (Nat × Nat × Nat)) : Cells Byte :=
  xs.foldl (fun m x => writeBytes m x.1 (spanBytes l x)) m

theorem writeSpans_cons (l : List Byte) (m : Cells Byte) (x : Nat × Nat × Nat) (xs : List (Nat × Nat × Nat)) :
    writeSpans l m (x :: xs) = writeSpans l (writeBytes m x.1 (spanBytes l x)) xs := rfl

theorem length_spanBytes_le (l : List Byte) (x : Nat × Nat × Nat) : (spanBytes l x).length ≤ x.2.2 := List.length_take_le _ _

theorem spanBytes_getElem? {l : List Byte} {x : Nat × Nat × Nat} {i : Nat} (hi : i < x.2.2) (hl : x.2.1 + x.2.2 ≤ l.length) :
    (spanBytes l x)[i]? = some (l.getD (x.2.1 + i) 0) := by
  rw [spanBytes, List.getElem?_take_of_lt hi, List.getElem?_drop, List.getD_eq_getElem?_getD,
    List.getElem?_eq_getElem (by omega), Option.getD_some]

theorem memWf_writeSpans {l : List Byte} {m : Cells Byte} (h : memWf m = true) (xs : List (Nat × Nat × Nat)) :
    memWf (writeSpans l m xs) = true := by
  induction xs generalizing m with
  | nil => exact h
  | cons x xs ih => exact ih (memWf_writeBytes h)

theorem cellGet_writeSpans_outside {l : List Byte} {m : Cells Byte} (h : memWf m = true) {xs : List (Nat × Nat × Nat)} {a : Nat}
    (ha : ∀ x ∈ xs, a < x.1 ∨ x.1 + x.2.2 ≤ a) :
    cellGet unwrittenByte a (writeSpans l m xs) = cellGet unwrittenByte a m := by
  induction xs generalizing m with
  | nil => rfl
  | cons x xs ih =>
    refine (ih (memWf_writeBytes h) fun y hy => ha y (List.mem_cons_of_mem _ hy)).trans (cellGet_writeBytes_outside h ?_)
    have hlen := length_spanBytes_le l x
    rcases ha x List.mem_cons_self with hx | hx
    · exact .inl hx
    · exact .inr (by omega)

theorem cellGet_writeSpan {l : List Byte} {m : Cells Byte} (h : memWf m = true) {x : Nat × Nat × Nat} {i : Nat} (hi : i < x.2.2)
    (hl : x.2.1 + x.2.2 ≤ l.length) :
    cellGet unwrittenByte (x.1 + i) (writeBytes m x.1 (spanBytes l x)) = l.getD (x.2.1 + i) 0 := by
  rw [cellGet_writeBytes h, if_pos (Nat.le_add_right _ _), Nat.add_sub_cancel_left, spanBytes_getElem? hi hl, Option.getD_some]

/-- A byte that one span alone holds comes from it. -/
theorem cellGet_writeSpans_of_mem {l : List Byte} {m : Cells Byte} (h : memWf m = true) {xs : List (Nat × Nat × Nat)}
    {x : Nat × Nat × Nat} (hx : x ∈ xs) {i : Nat} (hi : i < x.2.2) (hl : x.2.1 + x.2.2 ≤ l.length)
    (honly : ∀ y ∈ xs, y = x ∨ x.1 + i < y.1 ∨ y.1 + y.2.2 ≤ x.1 + i) :
    cellGet unwrittenByte (x.1 + i) (writeSpans l m xs) = l.getD (x.2.1 + i) 0 := by
  induction xs generalizing m with
  | nil => cases hx
  | cons y xs ih =>
    have hrest : ∀ z ∈ xs, z = x ∨ x.1 + i < z.1 ∨ z.1 + z.2.2 ≤ x.1 + i := fun z hz => honly z (List.mem_cons_of_mem _ hz)
    by_cases hmem : x ∈ xs
    · exact ih (memWf_writeBytes h) hmem hrest
    · obtain rfl : x = y := (List.mem_cons.mp hx).resolve_right hmem
      refine (cellGet_writeSpans_outside (memWf_writeBytes h) fun z hz => ?_).trans (cellGet_writeSpan h hi hl)
      exact (hrest z hz).resolve_left fun hzx => hmem (hzx ▸ hz)

/-- A core that has taken one span of an image, with the poison of its sectors. -/
def Core.takeSpan (l : List Byte) (poison : List Nat) (k : Core) (x : Nat × Nat × Nat) : Core :=
  let bad := (poison.filter fun o => x.2.1 ≤ o && o < x.2.1 + x.2.2).flatMap fun o =>
    (List.range 8).map fun j => (x.1 + (o - x.2.1)) / 4 + j
  { k with
    sram := writeBytes k.sram x.1 (spanBytes l x)
    sramPoison := addPoison (clearPoison 4 k.sramPoison x.1 x.2.2) (bad.filter fun w => 4 * w < x.1 + x.2.2) }

/-- The accumulator cells that row `r` of a block takes from an image. -/
def accCells (l : List Byte) (b : Block) (r : Nat) : List (Nat × VReg) :=
  (List.range 64).map fun c => ((b.accBase + r) * 64 + c,
    ⟨BitVec.ofNat 32 (bytesNat ((sectOf l 6).drop (320 * r)) (4 * c) 4),
      BitVec.ofNat 6 (bytesNat ((sectOf l 6).drop (320 * r)) (256 + c) 1)⟩)

/-- A core that has taken the spans of an image. -/
def Core.takeSpans (l : List Byte) (poison : List Nat) (k : Core) (xs : List (Nat × Nat × Nat)) : Core :=
  xs.foldl (Core.takeSpan l poison) k

theorem Core.takeSpans_sram (l : List Byte) (poison : List Nat) (k : Core) (xs : List (Nat × Nat × Nat)) :
    (k.takeSpans l poison xs).sram = writeSpans l k.sram xs := by
  induction xs generalizing k with
  | nil => rfl
  | cons x xs ih => exact ih _

theorem Core.takeSpans_acc (l : List Byte) (poison : List Nat) (k : Core) (xs : List (Nat × Nat × Nat)) :
    (k.takeSpans l poison xs).acc = k.acc := by
  induction xs generalizing k with
  | nil => rfl
  | cons x xs ih => exact ih _

theorem restoreMemory_eq (k : Core) (l : List Byte) (b : Block) (poison : List Nat) :
    restoreMemory k l b poison =
      { k.takeSpans l poison (sramSpans b (imageHead l).offs) with
        acc := (List.range b.hdr.accRows).foldl (fun m r => cellSetAll {} (accCells l b r) m)
          (k.takeSpans l poison (sramSpans b (imageHead l).offs)).acc } := rfl

theorem restoreMemory_sram (k : Core) (l : List Byte) (b : Block) (poison : List Nat) :
    (restoreMemory k l b poison).sram = writeSpans l k.sram (sramSpans b (imageHead l).offs) := by
  rw [restoreMemory_eq]
  exact Core.takeSpans_sram _ _ _ _

theorem restoreMemory_acc (k : Core) (l : List Byte) (b : Block) (poison : List Nat) :
    (restoreMemory k l b poison).acc = cellSetAll {} ((List.range b.hdr.accRows).flatMap (accCells l b)) k.acc := by
  rw [restoreMemory_eq, Core.takeSpans_acc, cellSetAll, List.foldl_flatMap]
  rfl

theorem bank_end_le {o j n : Nat} (h : o + 65568 * (j + 1) ≤ n) : o + 65568 * j + 65536 ≤ n := by
  rw [Nat.mul_succ, ← Nat.add_assoc] at h
  exact (Nat.add_le_add_left (by norm_num) _).trans h

theorem cellGet_accCells {l rest : List Byte} {b' : Block} {k' : Core} {r n : Nat} (hn : n < 64)
    (he : (sectOf l 6).drop (320 * r) = sectAcc k' b' r ++ rest) :
    (⟨BitVec.ofNat 32 (bytesNat ((sectOf l 6).drop (320 * r)) (4 * n) 4),
      BitVec.ofNat 6 (bytesNat ((sectOf l 6).drop (320 * r)) (256 + n) 1)⟩ : VReg) =
      cellGet {} ((b'.accBase + r) * 64 + n) k'.acc := by
  have hcol : (List.range 64)[n]? = some n := List.getElem?_range hn
  have hsect : sectAcc k' b' r ++ rest =
      ((List.range 64).flatMap fun c => leBytes (cellGet ({} : VReg) ((b'.accBase + r) * 64 + c) k'.acc).val.toNat 4) ++
        (((List.range 64).flatMap fun c => leBytes (cellGet ({} : VReg) ((b'.accBase + r) * 64 + c) k'.acc).tag.toNat 1) ++
          rest) := by
    simp only [sectAcc, List.flatMap_map, List.append_assoc]
  have hval : bytesNat ((sectOf l 6).drop (320 * r)) (4 * n) 4 =
      (cellGet ({} : VReg) ((b'.accBase + r) * 64 + n) k'.acc).val.toNat % 256 ^ 4 := by
    rw [he, hsect, bytesNat_flatMap_leBytes _ 4 _ hcol]
  have htag : bytesNat ((sectOf l 6).drop (320 * r)) (256 + n) 1 =
      (cellGet ({} : VReg) ((b'.accBase + r) * 64 + n) k'.acc).tag.toNat % 256 ^ 1 := by
    rw [he, hsect, bytesNat_append_of_le _ (by rw [length_flatMap_leBytes, List.length_range]; omega), length_flatMap_leBytes,
      List.length_range, show 256 + n - 64 * 4 = 1 * n by omega, bytesNat_flatMap_leBytes _ 1 _ hcol]
  rw [hval, htag, ofNat_toNat_mod (n := 4) _ le_rfl, ofNat_toNat_mod (n := 1) _ (by decide)]

section
variable {k : Core} {l : List Byte} {b : Block} (poison : List Nat)

theorem restoreMemory_scratch (hk : cellsWf 0 k.sram = true)
    (hapart : ∀ f ∈ b.fifos, b.pbase + b.hdr.scratch ≤ f.bank * 65536 ∨ f.bank * 65536 + 65536 ≤ b.pbase)
    (hl : (imageHead l).offs.getD 4 0 + b.hdr.scratch ≤ l.length) {i : Nat} (hi : i < b.hdr.scratch) :
    cellGet 0 (b.pbase + i) (restoreMemory k l b poison).sram = l.getD ((imageHead l).offs.getD 4 0 + i) 0 := by
  rw [restoreMemory_sram, sramSpans]
  refine (cellGet_writeSpans_outside (memWf_writeBytes hk) fun x hx => ?_).trans (cellGet_writeSpan (m := k.sram)
    (x := (b.pbase, (imageHead l).offs.getD 4 0, b.hdr.scratch)) hk hi hl)
  obtain ⟨⟨f, j⟩, hf, rfl⟩ := List.mem_map.mp hx
  rcases hapart f (List.fst_mem_of_mem_zipIdx hf) with h | h
  · exact .inl (by dsimp only; omega)
  · exact .inr (by dsimp only; omega)

theorem restoreMemory_bank (hk : cellsWf 0 k.sram = true) {j : Nat} {f : Fifo} (hf : b.fifos[j]? = some f)
    (honly : ∀ j' f', b.fifos[j']? = some f' → f'.bank = f.bank → j' = j)
    (hl : (imageHead l).offs.getD 5 0 + 65568 * (j + 1) ≤ l.length) {i : Nat} (hi : i < 65536) :
    cellGet 0 (f.bank * 65536 + i) (restoreMemory k l b poison).sram =
      l.getD ((imageHead l).offs.getD 5 0 + 65568 * j + i) 0 := by
  have hmem : (f.bank * 65536, (imageHead l).offs.getD 5 0 + 65568 * j, 65536) ∈
      b.fifos.zipIdx.map fun x => (x.1.bank * 65536, (imageHead l).offs.getD 5 0 + 65568 * x.2, 65536) :=
    List.mem_map.mpr ⟨(f, j), List.mem_zipIdx_iff_getElem?.mpr hf, rfl⟩
  rw [restoreMemory_sram, sramSpans, writeSpans_cons]
  have hend : (imageHead l).offs.getD 5 0 + 65568 * j + 65536 ≤ l.length := bank_end_le hl
  refine cellGet_writeSpans_of_mem (memWf_writeBytes hk) hmem hi hend fun y hy => ?_
  obtain ⟨⟨f', j'⟩, hf', rfl⟩ := List.mem_map.mp hy
  have hget := List.mem_zipIdx_iff_getElem?.mp hf'
  by_cases hbank : f'.bank = f.bank
  · obtain rfl : j' = j := honly j' f' hget hbank
    exact .inl (by dsimp only; rw [hbank])
  · exact .inr (by dsimp only; omega)

theorem restoreMemory_row (hk : cellsWf {} k.acc = true) {k' : Core} {b' : Block} {r n : Nat} {rest : List Byte}
    (hr : r < b.hdr.accRows) (he : (sectOf l 6).drop (320 * r) = sectAcc k' b' r ++ rest) (hn : n < 64) :
    cellGet {} ((b.accBase + r) * 64 + n) (restoreMemory k l b poison).acc =
      cellGet {} ((b'.accBase + r) * 64 + n) k'.acc := by
  rw [restoreMemory_acc, ← cellGet_accCells hn he]
  refine cellGet_cellSetAll_of_mem hk (List.mem_flatMap.mpr ⟨r, List.mem_range.mpr hr,
    List.mem_map.mpr ⟨n, List.mem_range.mpr hn, rfl⟩⟩) fun e he' hkey => ?_
  obtain ⟨r', -, hmem⟩ := List.mem_flatMap.mp he'
  obtain ⟨n', hn', rfl⟩ := List.mem_map.mp hmem
  have hn'' := List.mem_range.mp hn'
  have hkey' : (b.accBase + r') * 64 + n' = (b.accBase + r) * 64 + n := hkey
  obtain rfl : r' = r := by omega
  obtain rfl : n' = n := by omega
  rfl

end

end Sys2Proof.Machine
end

section
/-! The layout of an image, and the forms that write one and read it (R246, R250, R408, R409, R412). -/

namespace Sys2Proof.Machine

/-! ### Sections behind each other (R409, R410) -/

theorem up64_add {o : Nat} (ho : o % 64 = 0) (n : Nat) : up64 (o + n) = o + up64 n := by
  unfold up64
  omega

theorem le_up64 (n : Nat) : n ≤ up64 n := by
  unfold up64
  omega

theorem up64_mod (n : Nat) : up64 n % 64 = 0 := Nat.mul_mod_left _ _

/-- Sections, each filled up to whole lines. -/
def sectBody (sects : List (List Byte)) : List Byte := sects.flatMap fun x => padTo (up64 x.length) x

theorem sectBody_cons (x : List Byte) (sects : List (List Byte)) :
    sectBody (x :: sects) = padTo (up64 x.length) x ++ sectBody sects := List.flatMap_cons

theorem sectOffsets_end {o : Nat} (ho : o % 64 = 0) (sects : List (List Byte)) :
    (sectOffsets o (sects.map List.length)).2 = o + (sectBody sects).length := by
  induction sects generalizing o with
  | nil => rfl
  | cons x sects ih =>
    have hnext : (o + up64 x.length) % 64 = 0 := by have := up64_mod x.length; omega
    rw [sectBody_cons, List.length_append, length_padTo (le_up64 _), ← Nat.add_assoc, ← ih hnext, ← up64_add ho]
    rfl

theorem length_sectOffsets (o : Nat) (l : List Nat) : (sectOffsets o l).1.length = l.length := by
  induction l generalizing o with
  | nil => rfl
  | cons n l ih => exact congrArg (· + 1) (ih _)

/-- Section `k` stands at its offset, behind `front`. -/
theorem sectOffsets_drop {front : List Byte} (ho : front.length % 64 = 0) {sects : List (List Byte)} {k : Nat} {x : List Byte}
    (hx : sects[k]? = some x) :
    ∃ off rest, (sectOffsets front.length (sects.map List.length)).1[k]? = some off ∧
      off ≤ front.length + (sectBody sects).length ∧ (front ++ sectBody sects).drop off = x ++ rest := by
  induction sects generalizing front k with
  | nil => cases hx
  | cons y sects ih =>
    cases k with
    | zero =>
      obtain rfl : y = x := by simpa using hx
      refine ⟨front.length, zeros (up64 y.length - y.length) ++ sectBody sects, rfl, Nat.le_add_right _ _, ?_⟩
      rw [List.drop_left, sectBody_cons, padTo, List.append_assoc]
    | succ k =>
      have hlen : (front ++ padTo (up64 y.length) y).length = up64 (front.length + y.length) := by
        rw [List.length_append, length_padTo (le_up64 _), up64_add ho]
      obtain ⟨off, rest, hoff, hle, hdrop⟩ := ih (front := front ++ padTo (up64 y.length) y)
        (by rw [hlen]; exact up64_mod _) (by simpa using hx)
      refine ⟨off, rest, by rw [hlen] at hoff; exact hoff, ?_, ?_⟩
      · rw [sectBody_cons, List.length_append, ← Nat.add_assoc, ← List.length_append]
        exact hle
      · rw [sectBody_cons, ← List.append_assoc]
        exact hdrop

/-! ### The header of an image (R409) -/

theorem length_keccakRound (a : List (BitVec 64)) (rc : BitVec 64) : (keccakRound a rc).length = 25 := by
  rw [keccakRound, List.length_map, List.length_range]

/-- The state of SHA3 keeps its 25 lanes. -/
theorem length_sha3Absorb {a : List (BitVec 64)} (ha : a.length = 25) (l : List Byte) (n : Nat) : (sha3Absorb a l n).length = 25 := by
  induction n generalizing a l with
  | zero => exact ha
  | succ n ih =>
    have hrounds (a : List (BitVec 64)) (ha : a.length = 25) : (keccakF a).length = 25 :=
      List.foldlRecOn (motive := fun b => b.length = 25) keccakRc keccakRound ha fun b _ rc _ => length_keccakRound b rc
    exact ih (hrounds _ (by rw [List.length_map, List.length_zipIdx, ha])) _

theorem length_sha3 (m : List Byte) : (sha3 m).length = 64 := by
  rw [sha3, List.length_flatMap]
  simp only [List.length_map, List.length_range, List.map_const', List.sum_replicate, List.length_take,
    length_sha3Absorb (List.length_replicate (n := 25) (a := (0 : BitVec 64)))]
  rfl

section
variable (s : State) (c h : Nat) (b : Block)

/-- The sections' offsets and the end of a block's image. -/
def imageOffsets : List Nat × Nat := sectOffsets 384 ((sections s c h b).map List.length)

/-- The digest of a block's image. -/
def blockDigest : List Byte :=
  imageDigest (imageHeader s c h b (imageOffsets s c h b).2 (imageOffsets s c h b).1 (zeros 64) ++ sectBody (sections s c h b))

theorem imageBytes_eq : imageBytes s c h b =
    imageHeader s c h b (imageOffsets s c h b).2 (imageOffsets s c h b).1 (blockDigest s c h b) ++ sectBody (sections s c h b) := rfl

theorem length_blockDigest : (blockDigest s c h b).length = 64 := length_sha3 _

/-- The words of an image's header before the sections' offsets. -/
def imageHeadWords (bytes : Nat) : List Byte :=
  leBytes 0x47534B42 4 ++ (leBytes 1 2 ++ (leBytes ((if b.hdr.coresident then 1 else 0) + (if b.hdr.resilient then 2 else 0)) 2 ++
    (leBytes bytes 4 ++ (leBytes b.asid 2 ++ (leBytes (b.hdr.waves + b.hdr.handlers) 1 ++ (zeros 1 ++ (leBytes b.launch 8 ++
      (leBytes b.lin 4 ++ (leBytes (blockSb (coreOf s c) h).length 1 ++ (leBytes (blockEntries (coreOf s c) h).length 1 ++
        (leBytes (blockRecords (coreOf s c) h).length 1 ++ zeros 1)))))))))))

theorem length_imageHeadWords (bytes : Nat) : (imageHeadWords s c h b bytes).length = 32 := by
  simp only [imageHeadWords, List.length_append, leBytes_length, length_zeros]

theorem imageHeader_eq (bytes : Nat) (offs : List Nat) (digest : List Byte) : imageHeader s c h b bytes offs digest =
    imageHeadWords s c h b bytes ++ ((offs.flatMap fun x => leBytes x 4) ++ (leBytes (savedFrags b).length 2 ++ (zeros 46 ++
      (padTo 128 b.hdr.raw ++ (digest ++ zeros 64))))) := by
  simp only [imageHeader, imageHeadWords, List.append_assoc]

variable {s c h b}

theorem length_imageHeader {bytes : Nat} {offs : List Nat} {digest : List Byte} (hoffs : offs.length = 12)
    (hraw : b.hdr.raw.length ≤ 128) (hdigest : digest.length = 64) : (imageHeader s c h b bytes offs digest).length = 384 := by
  simp only [imageHeader_eq, List.length_append, length_imageHeadWords, length_flatMap_leBytes, leBytes_length, length_zeros,
    length_padTo hraw, hoffs, hdigest]

theorem length_imageOffsets : (imageOffsets s c h b).1.length = 12 := length_sectOffsets _ _

theorem length_imageBytes (hraw : b.hdr.raw.length ≤ 128) : (imageBytes s c h b).length = (imageOffsets s c h b).2 := by
  rw [imageBytes_eq, List.length_append, length_imageHeader length_imageOffsets hraw (length_blockDigest s c h b), imageOffsets,
    sectOffsets_end rfl]

/-- What the header of a block's image says. -/
theorem imageHead_words (rest : List Byte) (bytes : Nat) (offs : List Nat) (digest : List Byte) (hoffs : offs.length = 12) :
    let x := imageHead (imageHeader s c h b bytes offs digest ++ rest)
    x.bytes = bytes % 2 ^ 32 ∧ x.asid = b.asid % 2 ^ 16 ∧ x.launch = b.launch % 2 ^ 64 ∧ x.lin = b.lin % 2 ^ 32 ∧
      x.nfrag = (savedFrags b).length % 65536 := by
  have hlen : (offs.flatMap fun x => leBytes x 4).length = 48 := by rw [length_flatMap_leBytes, hoffs]
  simp only [imageHead, imageHeader_eq, imageHeadWords, List.append_assoc, bytesNat_append_of_le, bytesNat_leBytes_append,
    leBytes_length, length_zeros, hlen, Nat.reduceLeDiff, Nat.reduceSub, le_refl, Nat.sub_self]
  exact ⟨rfl, rfl, rfl, rfl, rfl⟩

theorem imageHead_offset {rest : List Byte} {bytes : Nat} {offs : List Nat} {digest : List Byte} {k off : Nat} (hk : k < 12)
    (hoff : offs[k]? = some off) :
    (imageHead (imageHeader s c h b bytes offs digest ++ rest)).offs.getD k 0 = off % 2 ^ 32 := by
  have hread : bytesNat (imageHeader s c h b bytes offs digest ++ rest) (0x20 + 4 * k) 4 = off % 256 ^ 4 := by
    rw [imageHeader_eq, List.append_assoc, bytesNat_append_of_le _ (by rw [length_imageHeadWords]; omega),
      length_imageHeadWords, Nat.add_sub_cancel_left, List.append_assoc, bytesNat_flatMap_leBytes _ 4 _ hoff]
  simp only [imageHead, List.getD_eq_getElem?_getD, List.getElem?_map, List.getElem?_range hk, Option.map_some,
    Option.getD_some]
  exact hread

/-- Each section of a block's image stands at its offset. -/
theorem sectOf_imageBytes (hlen : (imageBytes s c h b).length < 2 ^ 32) (hraw : b.hdr.raw.length ≤ 128) {k : Nat} (hk : k < 12) :
    ∃ rest, sectOf (imageBytes s c h b) k = (sections s c h b).getD k [] ++ rest := by
  have hsects : (sections s c h b).length = 12 := rfl
  obtain ⟨x, hx⟩ : ∃ x, (sections s c h b)[k]? = some x := ⟨_, List.getElem?_eq_getElem (by omega)⟩
  have hfront : (imageHeader s c h b (imageOffsets s c h b).2 (imageOffsets s c h b).1 (blockDigest s c h b)).length = 384 :=
    length_imageHeader length_imageOffsets hraw (length_blockDigest s c h b)
  obtain ⟨off, rest, hoff, hle, hdrop⟩ := sectOffsets_drop (front := imageHeader s c h b (imageOffsets s c h b).2
    (imageOffsets s c h b).1 (blockDigest s c h b)) (by rw [hfront]) hx
  rw [hfront] at hoff
  rw [← List.length_append, ← imageBytes_eq] at hle
  refine ⟨rest, ?_⟩
  rw [sectOf, imageBytes_eq, imageHead_offset (offs := (imageOffsets s c h b).1) hk hoff, Nat.mod_eq_of_lt (by omega), hdrop, List.getD_eq_getElem?_getD, hx,
    Option.getD_some]

end

theorem imageLayout : Claims.ImageLayout := by
  intro s c h b l hlen hraw
  obtain ⟨hbytes, hasid, hlaunch, hlin, hfrag⟩ := imageHead_words (s := s) (c := c) (h := h) (b := b)
    (sectBody (sections s c h b)) (imageOffsets s c h b).2 (imageOffsets s c h b).1 (blockDigest s c h b) length_imageOffsets
  have hl : l = imageBytes s c h b := rfl
  rw [← imageBytes_eq, ← hl] at hbytes hasid hlaunch hlin hfrag
  rw [← length_imageBytes hraw, ← hl, Nat.mod_eq_of_lt hlen] at hbytes
  exact ⟨hbytes, hlaunch, hlin, hasid, hfrag, fun k hk => sectOf_imageBytes hlen hraw hk⟩

theorem imageMemory : Claims.ImageMemory := fun _ _ _ poison hsram hacc =>
  ⟨fun hapart hl _ hi => restoreMemory_scratch poison hsram hapart hl hi,
    fun _ _ hf honly hl _ hi => restoreMemory_bank poison hsram hf honly hl hi,
    fun _ _ _ _ hr he _ hn => restoreMemory_row poison hacc hr he hn⟩

theorem imageEntries : Claims.ImageEntries := by
  intro l rest
  refine ⟨?frag, ?wave, fun b regs x y he hx hidx hregs hres j hj n hn => cellGet_readStack he hx hidx hregs hres hj hn,
    fun b o he ho hstatus hprogress => readOp_sectOp he ho hstatus hprogress,
    fun e k he hwave hcode haccess => readEntry_sectHamper he hwave hcode haccess,
    fun core f g j he hrp hcp hlp hfp => readFifo_sectFifo he hrp hcp hlp hfp, ?block⟩
  case frag =>
    intro s s' saved entry k w f he hw hham harg
    obtain ⟨hwave, hmembers, hexec, hmode, hpc, hkept, hstall, hst⟩ := readFrag_words (s' := s') (entry := entry) he hw hham harg
    refine ⟨hwave, hmembers, hexec, hmode, hpc, hkept, fun j hj => readFrag_registers he hj, hstall, hst.trans ?_⟩
    cases f.st with
    | waitEvent w => cases w <;> rfl
    | _ => rfl
  case wave =>
    intro b h quadrant w x he hx hdepth hwb hsig
    obtain ⟨hst, hd, hs⟩ := readWave_words (h := h) (quadrant := quadrant) he hx hdepth hsig
    exact ⟨hst, hd, hs, fun j hj => readWave_wbOf he hx hwb hj, fun k hk => readWave_predOf he hx hk⟩
  case block =>
    intro s b la p aux he hiron hrotate hseq
    obtain ⟨hi, hr, hs⟩ := restoredBlock_words (s := s) (la := la) (p := p) (aux := aux) he hiron hrotate hseq
    exact ⟨fun k hk => restoredBlock_recs he hk, hi, hr, hs, restoredBlock_latched he,
      fun k u v hk hu hv => restoredBlock_patterns he hk hu hv⟩

/-! ### Saving and loading (R246, R408, R412) -/

@[simp] theorem removeBlock_mem (s : State) (c b : Nat) : (removeBlock s c b).mem = s.mem := strikeWaiters_mem _ _ _

@[simp] theorem removeBlock_images (s : State) (c b : Nat) : (removeBlock s c b).images = s.images := by
  unfold removeBlock
  dsimp only
  obtain ⟨p, o, h⟩ := strikeWaiters_eq (modCore { s with links := _ } c _) (fun e => e.1 == c &&
    (((coreOf s c).hamper.filter fun e => e.block == b).map (·.idx)).contains e.2) fun e => e.1 == c && e.2.1 == b
  rw [h]
  rfl

theorem blockOf_removeBlock_self (s : State) (c b : Nat) : blockOf (removeBlock s c b) c b = none := by
  rw [blockOf, coreOf_removeBlock, if_pos rfl, tabGet_tabErase, if_pos rfl]

/-- A state with an image's bytes in memory, and the poison that they leave. -/
def imageWritten (s : State) (pa : Nat) (l : List Byte) (q : List Nat) : State := { memWrite s pa l with poison := q }

/-- Writing an image changes the bytes of memory, and the poison (R423). -/
theorem writeImage_eq {s : State} (hsums : s.exactSums = []) (core h pa : Nat) (b : Block) :
    ∃ q, writeImage s core h pa b = (imageWritten s pa (imageBytes s core h b) q,
      imageRecord s core h b pa (imageBytes s core h b).length) := by
  have hretire := retireRange_of_no_sums (pa := pa) hsums (imageBytes s core h b).length
  unfold writeImage
  dsimp only
  rw [hretire]
  exact ⟨_, rfl⟩

/-- A block leaves its core, and the record that it is out stands. -/
def leaveBlock (s : State) (core h : Nat) (x : Image) : State :=
  { removeBlock s core h with images := (removeBlock s core h).images ++ [x] }

/-- A state whose block `h` is out, with an image of some bytes. -/
def swappedOut (s : State) (core h pa : Nat) (l : List Byte) (q : List Nat) (x : Image) : State :=
  leaveBlock (imageWritten s pa l q) core h x

section
variable (s : State) (core h pa : Nat) (l : List Byte) (q : List Nat) (x : Image)

theorem swappedOut_mem : (swappedOut s core h pa l q x).mem = (memWrite s pa l).mem :=
  removeBlock_mem (imageWritten s pa l q) core h

theorem swappedOut_images : (swappedOut s core h pa l q x).images = s.images ++ [x] :=
  congrArg (· ++ [x]) (removeBlock_images (imageWritten s pa l q) core h)

theorem blockOf_swappedOut : blockOf (swappedOut s core h pa l q x) core h = none :=
  blockOf_removeBlock_self (imageWritten s pa l q) core h

theorem byteAt_swappedOut (a : Nat) : (swappedOut s core h pa l q x).byteAt a = (memWrite s pa l).byteAt a :=
  congrArg (cellGet unwrittenByte a) (swappedOut_mem s core h pa l q x)

end

/-- What the record of an image says of its place and its block. -/
theorem imageRecord_fields (s : State) (c h : Nat) (b : Block) (pa n : Nat) :
    (imageRecord s c h b pa n).pa = pa ∧ (imageRecord s c h b pa n).bytes = n ∧ (imageRecord s c h b pa n).launch = b.launch ∧
      (imageRecord s c h b pa n).lin = b.lin ∧ (imageRecord s c h b pa n).asid = b.asid := ⟨rfl, rfl, rfl, rfl, rfl⟩

theorem saveBlock_of_written {s v : State} {core h pa : Nat} {b : Block} {x : Image} (hb : blockOf s core h = some b)
    (hw : writeImage (modBlock s core h rewindOps) core h pa (rewindOps b) = (v, x)) :
    saveBlock s core h pa = (leaveBlock v core h x, x.bytes) := by
  have hrewound : blockOf (modBlock s core h rewindOps) core h = some (rewindOps b) := by
    rw [blockOf_modBlock, if_pos ⟨rfl, rfl⟩, hb]
    rfl
  simp only [saveBlock, hb, hrewound, hw]
  rfl

/-- What a saved block leaves: its image in memory, and the record that it is out. -/
theorem saveBlock_eq {s : State} {core h : Nat} {b : Block} (hb : blockOf s core h = some b) (hsums : s.exactSums = []) (pa : Nat) :
    let u := modBlock s core h rewindOps
    let l := imageBytes u core h (rewindOps b)
    ∃ q, saveBlock s core h pa =
      (swappedOut u core h pa l q (imageRecord u core h (rewindOps b) pa l.length), l.length) := by
  obtain ⟨q, hq⟩ := writeImage_eq (s := modBlock s core h rewindOps) hsums core h pa (rewindOps b)
  intro u l
  refine ⟨q, ?_⟩
  rw [saveBlock_of_written hb hq, (imageRecord_fields _ _ _ _ _ _).2.1, swappedOut]

/-- An image of a block is freed, so that it is loaded once (R412). -/
def freeImage (s : State) (launch lin : Nat) : State :=
  { s with images := s.images.filter fun z => !(z.launch == launch && z.lin == lin) }

theorem freeImage_eq (s : State) (launch lin : Nat) :
    freeImage s launch lin = { s with images := (freeImage s launch lin).images } := rfl

theorem not_mem_freeImage {s : State} {launch lin : Nat} {z : Image} (hz : z ∈ (freeImage s launch lin).images) :
    ¬ (z.launch = launch ∧ z.lin = lin) := by
  have hkept := (List.mem_filter.mp hz).2
  rintro ⟨rfl, rfl⟩
  simp at hkept

/-- An image that passes its check and finds room is restored there and freed (R412). -/
theorem loadImage_of_fits {s : State} {core asid pa : Nat} {la : Launch} {y : Image} {p : Spot} (hsums : s.exactSums = [])
    (hok : imageOk s asid (imageAt s pa) = true)
    (hy : imageOf s (imageHead (imageAt s pa)).launch (imageHead (imageAt s pa)).lin = some y)
    (hla : launchOf s (imageHead (imageAt s pa)).launch = some la)
    (hcarried : poisonCarried (imageHead (imageAt s pa)).offs (imageLaunch (imageAt s pa) la).hdr
      (imagePoison s pa (imageAt s pa).length) = true)
    (hfits : imageFits s core la (imageAt s pa) (imageNeeds (imageAt s pa)) = some p) :
    loadImage s core asid pa = .done (freeImage (restoreBlock s core p la (imageAt s pa) (some { y with pa := pa }))
      (imageHead (imageAt s pa)).launch (imageHead (imageAt s pa)).lin) p.handle := by
  simp only [loadImage, retireRange_of_no_sums hsums, hok, hy, hla, hcarried, hfits, Option.isNone_some, Bool.not_true,
    Bool.or_self, Bool.false_eq_true, if_false, Option.map_some]
  rfl

end Sys2Proof.Machine
end

section
/-! CTXSV, CTXLD and CHKPT (R246, R250). -/

namespace Sys2Proof.Claims
open Sys2Proof.Machine

theorem exec_ctxsv (w : BitVec 3) (d a : Code) (b : Src) (s : State) : exec (.ctxsv w d a b) s = execCtxsv w d a b s := rfl

theorem exec_ctxld (w : BitVec 3) (d a : Code) (s : State) : exec (.ctxld w d a) s = execCtxld w d a s := rfl

theorem exec_chkpt (w : BitVec 3) (d a : Code) (b : Src) (s : State) : exec (.chkpt w d a b) s = execChkpt w d a b s := rfl

theorem blockOf_stopped {s : State} {core h : Nat} {k : Block} (hk : blockOf s core h = some k) :
    blockOf (modBlock s core h Block.stop) core h = some k.stop := by
  rw [blockOf_modBlock, if_pos ⟨rfl, rfl⟩, hk]
  rfl

theorem prepareSave_of_not_due {s : State} {core h : Nat} {k : Block} (hk : blockOf s core h = some k)
    (hdue : k.stop.ckpt.due = false) :
    prepareSave s core h = (modBlock s core h Block.stop, blockQuiet (modBlock s core h Block.stop) k.stop) := by
  simp only [prepareSave, blockOf_stopped hk, hdue]
  cases hquiet : blockQuiet (modBlock s core h Block.stop) k.stop <;> simp [blockOf_stopped hk, hquiet]

theorem prepareSave_of_due {s : State} {core h : Nat} {k : Block} (hk : blockOf s core h = some k)
    (hdue : k.stop.ckpt.due = true) (hquiet : blockQuiet (modBlock s core h Block.stop) k.stop = true) :
    (prepareSave s core h).1 = commitBlock (modBlock s core h Block.stop) core h := by
  simp only [prepareSave, blockOf_stopped hk, hdue, hquiet, Bool.not_true, Bool.false_eq_true, if_false, if_true]

section
variable {w : BitVec 3} {d a : Code} {b : Src} {s : State} {c : Ctx} (h : Issues (.ctxsv w d a b) s c)
include h

theorem exec_ctxsv_of_none (hb : blockOf s c.core ((sysArg s c a).toNat % 64) = none) :
    exec (.ctxsv w d a b) s = .next (parkAll c s 0x01 (sysArg s c a)) := by
  rw [exec_ctxsv, execCtxsv]
  dsimp only
  rw [h.issueForm_eq, show blockOf s c.core ((readWord s c a).toNat % 64) = none from hb]
  rfl

theorem exec_ctxsv_of_block {k : Block} (hb : blockOf s c.core ((sysArg s c a).toNat % 64) = some k)
    (haligned : (readSrcWord s c b).toNat % 4096 = 0) :
    let x := prepareSave s c.core ((sysArg s c a).toNat % 64)
    let y := saveBlock x.1 c.core ((sysArg s c a).toNat % 64) (readSrcWord s c b).toNat
    exec (.ctxsv w d a b) s = .next (if x.2 then completeLater c (.ctxsv w d a b) y.1 (sysResult c d (BitVec.ofNat 64 y.2))
      else waitEvent x.1 c (.quiet ((sysArg s c a).toNat % 64))) := by
  intro x y
  rw [exec_ctxsv, execCtxsv]
  dsimp only
  rw [h.issueForm_eq, show blockOf s c.core ((readWord s c a).toNat % 64) = some k from hb]
  dsimp only
  rw [if_neg (not_not.mpr haligned)]
  show Host.Outcome.next (if (!x.2) = true then _ else _) = _
  cases x.2 <;> rfl

end

theorem exec_ctxld_of_issues {w : BitVec 3} {d a : Code} {s : State} {c : Ctx} (h : Issues (.ctxld w d a) s c) {asid : Nat}
    (hasid : restoreAsid s c.core = some asid) :
    exec (.ctxld w d a) s = .next (match loadImage s c.core asid (sysArg s c a).toNat with
      | .bad => completeLater c (.ctxld w d a) s (sysResult c d 0x8000000000000000)
      | .room => waitEvent s c .room
      | .done t n => completeLater c (.ctxld w d a) t (sysResult c d (BitVec.ofNat 64 n))) := by
  rw [exec_ctxld, execCtxld]
  dsimp only
  rw [h.issueForm_eq, hasid]
  rfl

/-- A block whose checkpoint a CHKPT forces, its next slot at an address (R250). -/
def forcedBlock (pa : Nat) (k : Block) : Block :=
  { k with ckpt := { k.ckpt with
      due := true, slots := if k.ckpt.current then (pa, k.ckpt.slots.2) else (k.ckpt.slots.1, pa) } }

section
variable {w : BitVec 3} {d a : Code} {b : Src} {s : State} {c : Ctx} (h : Issues (.chkpt w d a b) s c)
include h

theorem exec_chkpt_of_none (hb : blockOf s c.core ((sysArg s c a).toNat % 64) = none) :
    exec (.chkpt w d a b) s = .next (parkAll c s 0x01 (sysArg s c a)) := by
  rw [exec_chkpt, execChkpt]
  dsimp only
  rw [h.issueForm_eq, show blockOf s c.core ((readWord s c a).toNat % 64) = none from hb]
  rfl

theorem exec_chkpt_of_block {k : Block} (hb : blockOf s c.core ((sysArg s c a).toNat % 64) = some k) :
    exec (.chkpt w d a b) s = .next (if k.hdr.resilient then
        enterWait c (.chkpt w d a b)
          (modBlock s c.core ((sysArg s c a).toNat % 64) (forcedBlock (readSrcWord s c b).toNat))
          (.waitEvent (.checkpoint ((sysArg s c a).toNat % 64) k.ckpt.generation d (instrBytes (.chkpt w d a b))))
      else completeLater c (.chkpt w d a b) s (sysResult c d 1)) := by
  rw [exec_chkpt, execChkpt]
  dsimp only
  rw [h.issueForm_eq, show blockOf s c.core ((readWord s c a).toNat % 64) = some k from hb]
  dsimp only
  cases k.hdr.resilient <;> rfl

end

theorem blockOf_enterWait_forced {s : State} {c : Ctx} {n : Nat} {k : Block} (hk : blockOf s c.core n = some k)
    (hother : n ≠ c.ref.block) (pa : Nat) (i : Instr) (st : FragState) :
    blockOf (enterWait c i (modBlock s c.core n (forcedBlock pa)) st) c.core n = some (forcedBlock pa k) := by
  rw [enterWait, withFrag, modFrag, modWave, blockOf_modBlock, if_neg fun h => hother h.2]
  refine (blockOf_modBlock s c.core n c.core n _).trans ?_
  rw [if_pos ⟨rfl, rfl⟩, hk]
  rfl

theorem fragOf_enterWait_forced {s : State} {c : Ctx} (hc : ctxOf s = some c) (n pa : Nat) (i : Instr) (st : FragState) :
    ∃ f, fragOf (enterWait c i (modBlock s c.core n (forcedBlock pa)) st) c.core c.ref = some f ∧ f.pc = c.frag.pc ∧ f.st = st := by
  have hf : fragOf (modBlock s c.core n (forcedBlock pa)) c.core c.ref = some c.frag :=
    (fragOf_modBlock_of_waves s c.core n c.core c.ref (f := forcedBlock pa) fun _ => rfl).trans (fragOf_ctx hc)
  exact ⟨_, fragOf_modFrag_self (s := { modBlock s c.core n (forcedBlock pa) with freeCtr := _ }) hf fun _ => rfl, rfl, rfl⟩

/-- Settles O41: an image's bytes by the places of its fields, its sections behind each other, and each form by its own cases. -/
theorem imageForms : Obligations.ImageForms := by
  unfold Obligations.ImageForms
  refine ⟨imageEntries, imageMemory, imageLayout, ?save, ?load, fun w d a b s c => ⟨?ctxsv, ?ctxld, ?chkpt⟩⟩
  case save =>
    intro s core h pa b hb hmem hsums u l t
    obtain ⟨q, hsave⟩ := saveBlock_eq hb hsums pa
    have ht : t = swappedOut u core h pa l q (imageRecord u core h (rewindOps b) pa l.length) := by
      rw [show t = (saveBlock s core h pa).1 from rfl, hsave]
    refine ⟨by rw [hsave], ?_, fun i hi => ?_, fun a ha => ?_, ?_⟩
    · rw [ht]
      exact blockOf_swappedOut u core h pa l q _
    · rw [ht, byteAt_swappedOut, byteAt_memWrite (s := u) hmem, if_pos (Nat.le_add_right _ _), Nat.add_sub_cancel_left,
        List.getElem?_eq_getElem hi, List.getD_eq_getElem?_getD, List.getElem?_eq_getElem hi]
      rfl
    · rw [ht, byteAt_swappedOut]
      exact byteAt_memWrite_outside (s := u) hmem ha
    · refine ⟨imageRecord u core h (rewindOps b) pa l.length, ?_, imageRecord_fields u core h (rewindOps b) pa l.length⟩
      rw [ht]
      exact swappedOut_images u core h pa l q _
  case load =>
    intro s core asid pa la y p hsums l x hok hy hla hcarried hfits
    exact ⟨_, loadImage_of_fits hsums hok hy hla hcarried hfits, fun z hz => not_mem_freeImage hz, freeImage_eq _ _ _⟩
  case ctxsv =>
    intro h
    refine ⟨exec_ctxsv_of_none h, fun k hk haligned => ⟨fun hbusy => ?_, fun hquiet => ?_, prepareSave_of_not_due hk,
      prepareSave_of_due hk⟩⟩
    · exact (exec_ctxsv_of_block h hk haligned).trans (congrArg Host.Outcome.next (if_neg (by rw [hbusy]; decide)))
    · exact (exec_ctxsv_of_block h hk haligned).trans (congrArg Host.Outcome.next (if_pos hquiet))
  case ctxld =>
    intro h asid hasid
    have hexec := exec_ctxld_of_issues h hasid
    exact ⟨fun hbad => by rw [hexec, hbad], fun hroom => by rw [hexec, hroom], fun t n hdone => by rw [hexec, hdone]⟩
  case chkpt =>
    intro h
    refine ⟨exec_chkpt_of_none h, fun k hk hplain => ?_, fun k hk hres hother => ?_⟩
    · exact (exec_chkpt_of_block h hk).trans (congrArg Host.Outcome.next (if_neg (by rw [hplain]; decide)))
    · obtain ⟨f, hf, hpc, hst⟩ := fragOf_enterWait_forced h.ctxOf_eq ((sysArg s c a).toNat % 64) (readSrcWord s c b).toNat
        (.chkpt w d a b) (.waitEvent (.checkpoint ((sysArg s c a).toNat % 64) k.ckpt.generation d (instrBytes (.chkpt w d a b))))
      exact ⟨_, _, f, (exec_chkpt_of_block h hk).trans (congrArg Host.Outcome.next (if_pos hres)),
        blockOf_enterWait_forced hk hother _ _ _, rfl, hf, hpc, hst⟩

end Sys2Proof.Claims
end

section
/-! An operation after an update, and the rows of the Press (R227 to R230). -/

namespace Sys2Proof.Machine

/-! ### An operation after an update -/

section
variable {s t : State} {o : OpRef} {b : Block} {op : Op}

theorem opAt_eq_some_iff : opAt s o = some (b, op) ↔
    blockOf s o.core o.block = some b ∧ b.ops.find? (fun x => x.slot == o.slot) = some op := by
  rw [opAt, Option.bind_eq_some_iff]
  constructor
  · rintro ⟨b', hb, h⟩
    obtain ⟨x, hx, he⟩ := Option.map_eq_some_iff.mp h
    cases he
    exact ⟨hb, hx⟩
  · rintro ⟨hb, hx⟩
    exact ⟨b, hb, by rw [hx]; rfl⟩

theorem opAt_of_blocks_eq (h : blockOf t o.core o.block = blockOf s o.core o.block) : opAt t o = opAt s o := by
  rw [opAt, opAt, h]

theorem opAt_of_cores_eq (h : t.cores = s.cores) : opAt t o = opAt s o := opAt_of_blocks_eq (blockOf_of_cores_eq h _ _)

theorem blockOf_modCore_of_blocks {g : Core → Core} {c : Nat} (hg : (g (coreOf s c)).blocks = (coreOf s c).blocks) (k n : Nat) :
    blockOf (modCore s c g) k n = blockOf s k n := by
  rw [blockOf_modCore]
  split
  · next hk => rw [hg, hk, blockOf]
  · rfl

theorem opAt_modCore {g : Core → Core} {c : Nat} (hg : (g (coreOf s c)).blocks = (coreOf s c).blocks) :
    opAt (modCore s c g) o = opAt s o := opAt_of_blocks_eq (blockOf_modCore_of_blocks hg _ _)

theorem opAt_modBlock (h : opAt s o = some (b, op)) {g : Block → Block} (hg : (g b).ops = b.ops) :
    opAt (modBlock s o.core o.block g) o = some (g b, op) := by
  obtain ⟨hb, hop⟩ := opAt_eq_some_iff.mp h
  refine opAt_eq_some_iff.mpr ⟨?_, by rw [hg, hop]⟩
  rw [blockOf_modBlock, if_pos ⟨rfl, rfl⟩, hb]
  rfl

/-- The operations of a block after a change of one: that of the slot is changed. -/
theorem find?_modOp (b : Block) (slot : Nat) {f : Op → Op} (hf : ∀ x, (f x).slot = x.slot) :
    (b.modOp slot f).ops.find? (fun x => x.slot == slot) = (b.ops.find? fun x => x.slot == slot).map f :=
  (find?_map_key Op.slot slot slot f (fun x hx => (hf x).trans hx) b.ops).trans (if_pos rfl)

theorem opAt_modOp (h : opAt s o = some (b, op)) {f : Op → Op} (hf : ∀ x, (f x).slot = x.slot) :
    opAt (modOp s o f) o = some (b.modOp o.slot f, f op) := by
  obtain ⟨hb, hop⟩ := opAt_eq_some_iff.mp h
  refine opAt_eq_some_iff.mpr ⟨?_, by rw [find?_modOp b o.slot hf, hop]; rfl⟩
  rw [modOp, blockOf_modBlock, if_pos ⟨rfl, rfl⟩, hb]
  rfl

theorem coreOf_modOp (s : State) (o : OpRef) (f : Op → Op) (k : Nat) :
    coreOf (modOp s o f) k = if k = o.core then (coreOf s k).modBlock o.block (fun b => b.modOp o.slot f) else coreOf s k := by
  rw [modOp, modBlock, coreOf_modCore]
  split
  · next hk => rw [hk]
  · rfl

theorem coreOf_modOp_acc (s : State) (o : OpRef) (f : Op → Op) : (coreOf (modOp s o f) o.core).acc = (coreOf s o.core).acc := by
  rw [coreOf_modOp, if_pos rfl]
  rfl

end

/-! ### Columns of a row of the accumulators (R229) -/

/-- The value of an accumulator element, in the bits of its type. -/
def accBits (type : Nat) (v : BitVec 64) : BitVec 64 := if type = tyF64 then v else v &&& 0xFFFFFFFF

theorem append_halves (v : BitVec 64) : v.extractLsb' 32 32 ++ v.extractLsb' 0 32 = v := by
  rw [BitVec.extractLsb'_append_extractLsb'_eq_extractLsb' (by decide)]
  simp

theorem setWidth_lowHalf (v : BitVec 64) : (v.extractLsb' 0 32).setWidth 64 = v &&& 0xFFFFFFFF := by
  have hmask : (0xFFFFFFFF : BitVec 64) = BitVec.ofNat 64 (2 ^ 32 - 1) := rfl
  apply BitVec.eq_of_toNat_eq
  rw [hmask, BitVec.toNat_and, BitVec.toNat_ofNat, Nat.mod_eq_of_lt (by decide), Nat.and_two_pow_sub_one_eq_mod]
  simp only [BitVec.toNat_setWidth, BitVec.extractLsb'_toNat, Nat.shiftRight_zero]
  omega

section
variable {k : Core} {b : Block} {base type r n : Nat} {v : BitVec 64} {tag : Tag}

theorem accPut_acc : (accPut k b base type r n v tag).acc =
    if type = tyF64 then cellSet {} (accCell b base type r n + 64) ⟨v.extractLsb' 32 32, 62⟩
        (cellSet {} (accCell b base type r n) ⟨v.extractLsb' 0 32, tag⟩ k.acc)
      else cellSet {} (accCell b base type r n) ⟨v.extractLsb' 0 32, tag⟩ k.acc := by
  unfold accPut
  dsimp only
  split <;> rfl

theorem cellsWf_accPut (h : cellsWf {} k.acc = true) : cellsWf {} (accPut k b base type r n v tag).acc = true := by
  rw [accPut_acc]
  split
  · exact cellsWf_cellSet (cellsWf_cellSet h)
  · exact cellsWf_cellSet h

theorem accPut_eq : ∃ a, accPut k b base type r n v tag = { k with acc := a } := by
  unfold accPut
  dsimp only
  split
  · exact ⟨_, rfl⟩
  · exact ⟨_, rfl⟩

/-- What an accumulator element reads, by the cells of its row. -/
theorem accGet_of_acc_eq {k' : Core} (h : k'.acc = k.acc) : accGet k' b base type r n = accGet k b base type r n := by
  rw [accGet, accGet, h]

theorem accGet_accPut (h : cellsWf {} k.acc = true) :
    accGet (accPut k b base type r n v tag) b base type r n = ⟨accBits type v, tag, 0⟩ := by
  unfold accGet accBits
  dsimp only
  rw [accPut_acc]
  split
  · rw [cellGet_cellSet (cellsWf_cellSet h), cellGet_cellSet (cellsWf_cellSet h), if_pos rfl, if_neg (by omega),
      cellGet_cellSet h, if_pos rfl, append_halves]
  · rw [cellGet_cellSet h, if_pos rfl, setWidth_lowHalf]

theorem accGet_accPut_of_ne (h : cellsWf {} k.acc = true) {r' n' : Nat} (hn : n < 64) (hn' : n' < 64)
    (hne : ¬(r' = r ∧ n' = n)) : accGet (accPut k b base type r n v tag) b base type r' n' = accGet k b base type r' n' := by
  unfold accGet
  dsimp only
  rw [accPut_acc]
  unfold accCell
  by_cases ht : type = tyF64
  · simp only [ht, if_true]
    rw [cellGet_cellSet (cellsWf_cellSet h), cellGet_cellSet (cellsWf_cellSet h), cellGet_cellSet h, cellGet_cellSet h,
      if_neg (by omega), if_neg (by omega), if_neg (by omega), if_neg (by omega)]
  · simp only [ht, if_false]
    rw [cellGet_cellSet h, if_neg (by omega)]

end

/-- The first `m` columns of a row take their values. -/
def putColumns (k : Core) (b : Block) (base type r : Nat) (v : Nat → LaneRes) (m : Nat) : Core :=
  (List.range m).foldl (fun k n => accPut k b base type r n (v n).bits (v n).tag) k

section
variable {k : Core} {b : Block} {base type r : Nat} {v : Nat → LaneRes} {m : Nat}

theorem putColumns_succ : putColumns k b base type r v (m + 1) =
    accPut (putColumns k b base type r v m) b base type r m (v m).bits (v m).tag := by
  rw [putColumns, List.range_succ, List.foldl_append]
  rfl

theorem cellsWf_putColumns (h : cellsWf {} k.acc = true) : cellsWf {} (putColumns k b base type r v m).acc = true := by
  induction m with
  | zero => exact h
  | succ m ih => rw [putColumns_succ]; exact cellsWf_accPut ih

theorem putColumns_eq : ∃ a, putColumns k b base type r v m = { k with acc := a } := by
  induction m with
  | zero => exact ⟨k.acc, rfl⟩
  | succ m ih =>
    obtain ⟨a, ha⟩ := ih
    rw [putColumns_succ, ha]
    obtain ⟨a', ha'⟩ := accPut_eq (k := { k with acc := a }) (b := b) (base := base) (type := type) (r := r) (n := m)
      (v := (v m).bits) (tag := (v m).tag)
    exact ⟨a', by rw [ha']⟩

theorem putColumns_blocks : (putColumns k b base type r v m).blocks = k.blocks := by
  obtain ⟨a, ha⟩ := putColumns_eq (k := k) (b := b) (base := base) (type := type) (r := r) (v := v) (m := m)
  rw [ha]

/-- What the columns behind the first `m`, and those of other rows, hold. -/
theorem accGet_putColumns_of_ne (h : cellsWf {} k.acc = true) {r' n' : Nat} (hm : m ≤ 64) (hn' : n' < 64)
    (hne : r' ≠ r ∨ m ≤ n') : accGet (putColumns k b base type r v m) b base type r' n' = accGet k b base type r' n' := by
  induction m with
  | zero => rfl
  | succ m ih =>
    rw [putColumns_succ, accGet_accPut_of_ne (cellsWf_putColumns h) (by omega) hn' (by omega)]
    exact ih (by omega) (by omega)

/-- What the first `m` columns hold. -/
theorem accGet_putColumns (h : cellsWf {} k.acc = true) {n : Nat} (hm : m ≤ 64) (hn : n < m) :
    accGet (putColumns k b base type r v m) b base type r n = ⟨accBits type (v n).bits, (v n).tag, 0⟩ := by
  induction m with
  | zero => cases hn
  | succ m ih =>
    rw [putColumns_succ]
    rcases Nat.lt_succ_iff_lt_or_eq.mp hn with hn | rfl
    · rw [accGet_accPut_of_ne (cellsWf_putColumns h) (by omega) (by omega) (by omega)]
      exact ih (by omega) hn
    · exact accGet_accPut (cellsWf_putColumns h)

end

/-- The exceptions that some elements gather. -/
def gathered (v : Nat → LaneRes) (m : Nat) : Exc := (List.range m).foldl (fun e n => e ||| (v n).exc) 0

theorem foldl_or_eq {α : Type} (f : α → Exc) (l : List α) (e : Exc) :
    l.foldl (fun e x => e ||| f x) e = e ||| l.foldl (fun e x => e ||| f x) 0 := by
  induction l generalizing e with
  | nil => simp
  | cons x l ih =>
    have hzero : (0 : Exc) ||| f x = f x := BitVec.zero_or
    rw [List.foldl_cons, List.foldl_cons, ih, hzero, ih (f x), BitVec.or_assoc]

theorem gathered_succ (v : Nat → LaneRes) (m : Nat) : gathered v (m + 1) = gathered v m ||| (v m).exc := by
  rw [gathered, List.range_succ, List.foldl_append]
  rfl

theorem mmaRow_eq {mode : BitVec 32} {fa fw : Nat} {k : Core} {b : Block} {base r : Nat} {row tile : List Elem}
    {v : Nat → LaneRes} (h : cellsWf {} k.acc = true)
    (hv : ∀ n < 64, let y := mmaElement mode fa fw (accGet k b base (accType fa) r n) row (tileColumn tile n)
      v n = ⟨y.bits, y.tag, y.exc⟩) :
    mmaRow mode fa fw k b base r row tile = (putColumns k b base (accType fa) r v 64, gathered v 64) := by
  have key : ∀ m ≤ 64, (List.range m).foldl (fun (x : Core × Exc) n =>
      let y := mmaElement mode fa fw (accGet x.1 b base (accType fa) r n) row (tileColumn tile n)
      (accPut x.1 b base (accType fa) r n y.bits y.tag, x.2 ||| y.exc)) (k, 0) =
      (putColumns k b base (accType fa) r v m, gathered v m) := by
    intro m hm
    induction m with
    | zero => rfl
    | succ m ih =>
      rw [List.range_succ, List.foldl_append, ih (by omega), putColumns_succ, gathered_succ]
      simp only [List.foldl_cons, List.foldl_nil]
      rw [accGet_putColumns_of_ne h (by omega) (by omega) (.inr le_rfl), hv m (by omega)]
  exact key 64 le_rfl

/-- A list by its places. -/
theorem map_eq_range {α β : Type} (d : α) (f : α → β) (l : List α) :
    l.map f = (List.range l.length).map fun n => f (l.getD n d) := by
  apply List.ext_getElem?
  intro n
  rw [List.getElem?_map, List.getElem?_map]
  by_cases hn : n < l.length
  · rw [List.getElem?_range hn, List.getElem?_eq_getElem hn]
    simp [List.getElem?_eq_getElem hn]
  · rw [List.getElem?_eq_none (by omega), List.getElem?_eq_none (by rw [List.length_range]; omega)]
    rfl

theorem zipIdx_eq_range {α : Type} (v : Nat → α) (m : Nat) :
    ((List.range m).map v).zipIdx = (List.range m).map fun n => (v n, n) := by
  apply List.ext_getElem?
  intro n
  rw [List.getElem?_zipIdx, List.getElem?_map, List.getElem?_map]
  by_cases hn : n < m
  · simp [hn]
  · simp [hn]

/-! ### A row of the Press (R228, R230) -/

section
variable {s u : State} {o : OpRef} {b : Block} {op : Op}

theorem opAt_workDone (h : opAt u o = some (b, op)) (n : Nat) (e : Exc) :
    opAt (workDone u o n e) o = some (b.modOp o.slot fun x =>
      { x with progress := x.progress + n, exc := x.exc ||| e, staged := [] },
      { op with progress := op.progress + n, exc := op.exc ||| e, staged := [] }) := opAt_modOp h fun _ => rfl

/-- A state whose row `progress` holds its values, once the row is behind the operation. -/
theorem rowWorked_workDone {type : Nat} {v : Nat → LaneRes} (hwf : cellsWf {} (coreOf s o.core).acc = true)
    (hu : opAt u o = some (b, op))
    (hacc : (coreOf u o.core).acc = (putColumns (coreOf s o.core) b (accBaseOf op.param) type op.progress v 64).acc) :
    Claims.RowWorked s (workDone u o 1 (gathered v 64)) o b op type v := by
  have hrow (r n : Nat) : accGet (coreOf (workDone u o 1 (gathered v 64)) o.core) b (accBaseOf op.param) type r n =
      accGet (putColumns (coreOf s o.core) b (accBaseOf op.param) type op.progress v 64) b (accBaseOf op.param) type r n :=
    accGet_of_acc_eq ((coreOf_modOp_acc u o _).trans hacc)
  refine ⟨fun n hn => (hrow _ n).trans (accGet_putColumns hwf le_rfl hn),
    fun r n hr hn => (hrow r n).trans (accGet_putColumns_of_ne hwf le_rfl hn (.inl hr)), _, _, opAt_workDone hu 1 _, rfl, rfl, ?_⟩
  exact (foldl_or_eq (fun n => (v n).exc) (List.range 64) op.exc).symm

theorem fetchRow_of_staged (h : op.staged.length = 64) : fetchRow s o op = .ok s () := by
  rw [fetchRow, h]
  rfl

theorem opAt_setCore {k : Core} (h : opAt s o = some (b, op)) (hk : k.blocks = (coreOf s o.core).blocks) :
    opAt (modCore s o.core fun _ => k) o = some (b, op) := (opAt_modCore hk).trans h

theorem acc_setCore (s : State) (c : Nat) (k : Core) : (coreOf (modCore s c fun _ => k) c).acc = k.acc := by
  rw [coreOf_modCore, if_pos rfl]

/-- One accumulator element of an MMA's row (R228). -/
def mmaLane (k : Core) (b : Block) (op : Op) (x : Latched) (n : Nat) : LaneRes :=
  let y := mmaElement op.mode (recFormat op.da) (recFormat x.record)
    (accGet k b (accBaseOf op.param) (accType (recFormat op.da)) op.progress n) op.staged (tileColumn x.tile n)
  ⟨y.bits, y.tag, y.exc⟩

/-- The accumulators once an MMA's row is in them. -/
def mmaPut (s : State) (o : OpRef) (b : Block) (op : Op) (x : Latched) : State :=
  modCore s o.core fun _ => putColumns (coreOf s o.core) b (accBaseOf op.param) (accType (recFormat op.da)) op.progress
    (mmaLane (coreOf s o.core) b op x) 64

/-- One accumulator element of an ACCLD's row (R230). -/
def accldLane (op : Op) (n : Nat) : LaneRes :=
  convertValue op.mode (recFormat op.da) (flagType op.flags) (op.staged.getD n {})

/-- A zeroed accumulator element. -/
def zeroLane (_ : Nat) : LaneRes := ⟨0, 62, 0⟩

/-- Zeroing a row gives each of its columns zero with tag 62 (R230). -/
theorem accZero_eq (k : Core) (b : Block) (base type r : Nat) :
    accZero k b base type r = putColumns k b base type r zeroLane 64 := rfl

theorem gathered_zeroLane (m : Nat) : gathered zeroLane m = 0 := by
  induction m with
  | zero => rfl
  | succ m ih => rw [gathered_succ, ih]; exact BitVec.zero_or

variable (hop : opAt s o = some (b, op)) (hwf : cellsWf {} (coreOf s o.core).acc = true)
include hop hwf

theorem mmaStep_rowWorked (hstaged : op.staged.length = 64) (x : Latched) :
    ∃ t, mmaStep x s o op = .ok t () ∧
      Claims.RowWorked s t o b op (accType (recFormat op.da)) (mmaLane (coreOf s o.core) b op x) := by
  have hcores := countEvent_cores (mmaPut s o b op x) o.core 4 1
  refine ⟨_, by
    simp only [mmaStep, fetchRow_of_staged hstaged, hop, mmaRow_eq (v := mmaLane (coreOf s o.core) b op x) hwf fun _ _ => rfl]
    rfl, rowWorked_workDone hwf ?_ ?_⟩
  · exact (opAt_modCore (by rfl)).trans ((opAt_of_cores_eq hcores).trans (opAt_setCore hop putColumns_blocks))
  · rw [modPress, coreOf_modCore, if_pos rfl]
    exact (congrArg Core.acc (coreOf_of_cores_eq hcores _)).trans (acc_setCore _ _ _)

theorem accldStep_rowWorked (hstaged : op.staged.length = 64) :
    ∃ t, accldStep s o op = .ok t () ∧ Claims.RowWorked s t o b op (flagType op.flags) (accldLane op) := by
  have hmap : (op.staged.map fun e => convertValue op.mode (recFormat op.da) (flagType op.flags) e) =
      (List.range 64).map (accldLane op) := by
    rw [map_eq_range ({} : Elem), hstaged]
    rfl
  refine ⟨workDone (modCore s o.core fun _ => putColumns (coreOf s o.core) b (accBaseOf op.param) (flagType op.flags) op.progress
    (accldLane op) 64) o 1 (gathered (accldLane op) 64), ?_,
    rowWorked_workDone hwf (opAt_setCore hop putColumns_blocks) (acc_setCore _ _ _)⟩
  simp only [accldStep, fetchRow_of_staged hstaged, hop, hmap, zipIdx_eq_range, List.foldl_map, putColumns, gathered]

theorem acczStep_rowWorked :
    ∃ t, acczStep s o op = .ok t () ∧ Claims.RowWorked s t o b op (flagType op.flags) zeroLane := by
  refine ⟨workDone (modCore s o.core fun k => accZero k b (accBaseOf op.param) (flagType op.flags) op.progress) o 1
    (gathered zeroLane 64), by simp only [acczStep, hop, gathered_zeroLane], rowWorked_workDone hwf ?_ ?_⟩
  · exact (opAt_modCore (by rw [accZero_eq]; exact putColumns_blocks)).trans hop
  · rw [coreOf_modCore, if_pos rfl, accZero_eq]

end

end Sys2Proof.Machine
end

section
/-! The rows of an ACCRD, a WLOAD's tile, and the rows of a grant (R227, R230, R295). -/

namespace Sys2Proof.Machine

section
variable {s u : State} {o : OpRef} {b : Block} {op : Op}

/-! ### An ACCRD's row (R230) -/

theorem accrdStep_of_flat (hop : opAt s o = some (b, op)) (hspace : recSpace op.dw ≠ 2) {places : List Found}
    (hfind : findAll s o (rowElem op op.dw) 0 [] 64 = .ok u places) :
    accrdStep s o op = .ok (accrdDone
      ((places.zip (accrdRow u o b op)).foldl (fun s e => writeFound s o op.dw e.1 ⟨e.2.bits, e.2.tag⟩) u) o b op
      ((accrdRow u o b op).foldl (fun e x => e ||| x.exc) 0)) () := by
  simp only [accrdStep, hop, if_neg hspace, hfind]

/-- With CLEAR the row reads zero with tag 62 behind the step. -/
theorem accGet_accrdDone_clear (hwf : cellsWf {} (coreOf s o.core).acc = true) (hflags : 4 ≤ op.flags) (e : Exc) {n : Nat}
    (hn : n < 64) : accGet (coreOf (accrdDone s o b op e) o.core) b (accBaseOf op.param) (flagType op.flags) op.progress n =
      ⟨0, 62, 0⟩ := by
  have hacc : (coreOf (accrdDone s o b op e) o.core).acc =
      (putColumns (coreOf s o.core) b (accBaseOf op.param) (flagType op.flags) op.progress zeroLane 64).acc := by
    rw [accrdDone, if_pos hflags, workDone, coreOf_modOp_acc, coreOf_modCore, if_pos rfl, accZero_eq]
  have hzero : accBits (flagType op.flags) 0 = 0 := by
    rw [accBits]
    split
    · rfl
    · exact BitVec.zero_and
  rw [accGet_of_acc_eq hacc, accGet_putColumns hwf le_rfl hn]
  exact congrArg (AccStep.mk · 62 0) hzero

/-- Without CLEAR the row keeps what it holds. -/
theorem accGet_accrdDone_keep (hflags : op.flags < 4) (e : Exc) (n : Nat) :
    accGet (coreOf (accrdDone s o b op e) o.core) b (accBaseOf op.param) (flagType op.flags) op.progress n =
      accGet (coreOf s o.core) b (accBaseOf op.param) (flagType op.flags) op.progress n := by
  refine accGet_of_acc_eq ?_
  rw [accrdDone, if_neg (Nat.not_le.mpr hflags), workDone, coreOf_modOp_acc]

/-- Through a bank an element is written as soon as its place is found (R302). -/
theorem writeResult_succ {at' : Nat → ElemAt} {k n : Nat} {v : Elem} {rest : List Elem} {place : Found} {y : Block × Op}
    (hfind : findDest s o (at' k) = .ok u place) (hop : opAt u o = some y) (hresult : y.2.result = v :: rest) :
    writeResult s o at' k (n + 1) = writeResult
      (modOp (writeFound u o (at' k).record place v) o fun x => { x with result := x.result.tail }) o at' (k + 1) n := by
  rw [writeResult, hfind]
  dsimp only
  rw [hop]
  dsimp only
  rw [hresult]
  rfl

/-! ### A WLOAD's tile (R227) -/

/-- A block with a tile in its latch. -/
def latchTile (s : State) (o : OpRef) (x : Latched) : State :=
  modBlock (unlatch s o) o.core o.block fun b => { b with latched := some x }

/-- The tile takes its place in the array. -/
def useTile (s : State) (o : OpRef) (x : Latched) : State :=
  match blockOf s o.core o.block with
  | none => s
  | some b => modPress (pinTile s o.core o.block) o.core fun p =>
      p.use (pinnedTiles (coreOf (pinTile s o.core o.block) o.core)) (tileKey b o.block x)

theorem wloadGrant_of_staged (hop : opAt s o = some (b, op)) (hstaged : op.staged.length = 4096) :
    wloadGrant s o op = endOp (useTile (modOp (latchTile s o ⟨op.da, op.param, op.staged, op.inS, true⟩) o fun y =>
      { y with inS := {}, staged := [] }) o ⟨op.da, op.param, op.staged, op.inS, true⟩) o stDone 0 := by
  have hstage : stageElems s o (tileElem op.param op.da) op.staged.length (4096 - op.staged.length) = .ok s () := by
    rw [hstaged]; rfl
  rw [wloadGrant, hstage]
  dsimp only
  rw [hop]
  rfl

theorem closeStream_ops (b : Block) (r : Rec) (x : Stream) (w : Bool) : (closeStream b r x w).ops = b.ops := by
  unfold closeStream
  split <;> rfl

theorem opAt_latchTile (hop : opAt s o = some (b, op)) (x : Latched) :
    ∃ b', opAt (latchTile s o x) o = some (b', op) ∧ b'.latched = some x := by
  have hunlatch : ∃ b', opAt (unlatch s o) o = some (b', op) := by
    refine ⟨_, opAt_modBlock hop ?_⟩
    split
    · rfl
    · exact closeStream_ops ..
  obtain ⟨b', hb'⟩ := hunlatch
  exact ⟨{ b' with latched := some x }, opAt_modBlock hb' rfl, rfl⟩

theorem opAt_useTile (s : State) (o p : OpRef) (x : Latched) : opAt (useTile s o x) p = opAt s p := by
  unfold useTile
  split
  · rfl
  · exact (opAt_modCore rfl).trans (opAt_modCore rfl)

/-- An operation whose work is over has its status, and its block is otherwise as it was. -/
theorem opAt_endOp (hop : opAt s o = some (b, op)) (status : Nat) (info : BitVec 64) :
    opAt (endOp s o status info) o = some (b.modOp o.slot fun x =>
      { x with ended := true, st := .running, status := status, info := info, staged := [], result := [] },
      { op with ended := true, st := .running, status := status, info := info, staged := [], result := [] }) :=
  opAt_modOp hop fun _ => rfl

/-- A fetched tile is latched, and the operation's work is over. -/
theorem opAt_wloadGrant (hop : opAt s o = some (b, op)) (hstaged : op.staged.length = 4096) :
    ∃ b' op', opAt (wloadGrant s o op) o = some (b', op') ∧
      b'.latched = some ⟨op.da, op.param, op.staged, op.inS, true⟩ ∧ op'.ended = true ∧ op'.status = 0 := by
  rw [wloadGrant_of_staged hop hstaged]
  generalize (⟨op.da, op.param, op.staged, op.inS, true⟩ : Latched) = x
  obtain ⟨b', hat, hlatched⟩ := opAt_latchTile hop x
  have hend := opAt_endOp ((opAt_useTile _ o o x).trans
    (opAt_modOp hat (f := fun y => { y with inS := {}, staged := [] }) fun _ => rfl)) stDone 0
  exact ⟨_, _, hend, hlatched, rfl, rfl⟩

/-! ### The rows of a grant (R295) -/

section
variable {step : State → OpRef → Op → EngineRes Unit} (hop : opAt s o = some (b, op))
include hop

theorem pressRows_over (hover : rowsOf op.param ≤ op.progress) (n : Nat) : pressRows step s o (n + 1) = endDone s o := by
  simp only [pressRows, hop, if_pos hover]

theorem pressRows_of_ok (hleft : op.progress < rowsOf op.param) (h : step s o op = .ok u ()) (n : Nat) :
    pressRows step s o (n + 1) = pressRows step u o n := by
  simp only [pressRows, hop, if_neg (Nat.not_le.mpr hleft), h]

theorem pressRows_of_stall (hleft : op.progress < rowsOf op.param) {w : StallCause} (h : step s o op = .stall u w) (n : Nat) :
    pressRows step s o (n + 1) = stallOp u o w := by
  simp only [pressRows, hop, if_neg (Nat.not_le.mpr hleft), h]

theorem pressRows_of_stop (hleft : op.progress < rowsOf op.param) {status : Nat} {info : BitVec 64}
    (h : step s o op = .stop u status info) (n : Nat) : pressRows step s o (n + 1) = endOp u o status info := by
  simp only [pressRows, hop, if_neg (Nat.not_le.mpr hleft), h]

end

theorem pressSteps : Claims.PressSteps := by
  intro s o b op hop hwf
  refine ⟨fun x h => mmaStep_rowWorked hop hwf h x, accldStep_rowWorked hop hwf, acczStep_rowWorked hop hwf,
    fun u places hspace hfind => accrdStep_of_flat hop hspace hfind,
    fun e => ⟨fun hflags n hn => accGet_accrdDone_clear hwf hflags e hn,
      fun hflags n _ => accGet_accrdDone_keep hflags e n⟩, ?_, opAt_wloadGrant hop, fun step n =>
      ⟨fun hover => pressRows_over hop hover n, fun hleft =>
        ⟨fun t h => pressRows_of_ok hop hleft h n, fun t w h => pressRows_of_stall hop hleft h n,
          fun t code info h => pressRows_of_stop hop hleft h n⟩⟩⟩
  rintro k n v rest u place hresult hfind ⟨y, hy, hkeep⟩
  exact writeResult_succ hfind hy (hkeep.trans hresult)

end

end Sys2Proof.Machine
end

section
/-! The element steps of the Mangle (R233, R235, R237). -/

namespace Sys2Proof.Machine

section
variable {s t u : State} {o : OpRef} {b : Block} {op : Op} {e : Exc}

/-! ### Moving elements (R233, R237) -/

/-- An element is moved as `Moves` says. -/
theorem moveElem_of_moves {source dest : ElemAt} (h : Claims.Moves s o op source dest t e) :
    moveElem s o op source dest = .ok t e := by
  obtain ⟨u, place, v, x, hdest, hread, ht, he⟩ := h
  rw [ht, he, moveElem, hdest]
  dsimp only
  rw [hread]
  rfl

/-- What a form other than GATHER and SCAT does with its next element. -/
def copyOrQuantStep (s : State) (o : OpRef) (op : Op) : EngineRes Unit :=
  if isBx (recFormat op.dw) && !isBx (recFormat op.da) then quantStep s o op else copyStep s o op

theorem mangleStep_gather (hform : op.form = .gather ∨ op.form = .scat) (h : gatherStep s o op = .ok t ()) :
    mangleStep s o op = .ok (countMangle t o.core (elemBits (recFormat op.dw))) () := by
  rw [mangleStep]
  rcases hform with hform | hform <;> simp only [hform, h]

theorem mangleStep_copy (hgather : op.form ≠ .gather) (hscat : op.form ≠ .scat) (h : copyOrQuantStep s o op = .ok t ()) :
    mangleStep s o op = .ok (countMangle t o.core (elemBits (recFormat op.dw))) () := by
  rw [copyOrQuantStep] at h
  rw [mangleStep]
  split
  · next h' =>
    split at h'
    · next hf => exact absurd hf hgather
    · next hf => exact absurd hf hscat
    · rw [h] at h'; cases h'; rfl
  · next h' =>
    split at h'
    · next hf => exact absurd hf hgather
    · next hf => exact absurd hf hscat
    · exact absurd h (h' t)

/-- A form of the Mangle that copies. -/
theorem copyStep_of_moves
    (h : Claims.Moves s o op (copyElem op op.progress).1 (copyElem op op.progress).2 t e) :
    copyStep s o op = .ok (workDone t o 1 e) () := by
  rw [copyStep]
  dsimp only
  rw [moveElem_of_moves h]

theorem gatherStep_of_moves {idx : Elem} (hstaged : op.staged = [idx])
    (h : Claims.Moves s o op (gatherElem op idx op.progress).1 (gatherElem op idx op.progress).2 t e) :
    gatherStep s o op = .ok (if (op.progress + 1) % gatherLen op.param = 0 then workDone t o 1 e
      else modOp (workDone t o 1 e) o fun y => { y with staged := [idx] }) () := by
  rw [gatherStep]
  dsimp only
  rw [hstaged]
  dsimp only
  rw [moveElem_of_moves h]

theorem gatherStep_index {idx : Elem} (hstaged : op.staged = [])
    (h : readElemAt s o { record := op.irec, index := (op.progress / gatherLen op.param : Nat), order := op.progress } =
      .ok u idx) : gatherStep s o op = gatherStep u o { op with staged := [idx] } := by
  rw [gatherStep, gatherStep]
  dsimp only
  rw [hstaged]
  dsimp only
  rw [h]
  rfl

/-! ### Quantised blocks (R235, R236) -/

/-- The next element of a quantised block is written. -/
def quantWritten (s : State) (o : OpRef) (op : Op) (place : Found) (v : Elem) : State :=
  modOp (writeFound s o op.dw place v) o fun y => { y with result := y.result.tail, progress := y.progress + 1 }

theorem quantStep_of_result {v : Elem} {rest : List Elem} {place : Found} {y : Block × Op} (hresult : op.result = v :: rest)
    (hfind : findDest s o (copyElem op op.progress).2 = .ok u place) (hop : opAt u o = some y)
    (hkeep : y.2.result = op.result) :
    quantStep s o op = .ok (if op.progress + 1 = op.progress / 32 * 32 + 32 then
      modOp (quantWritten u o op place v) o fun y => { y with staged := [] } else quantWritten u o op place v) () := by
  rw [quantStep]
  dsimp only
  rw [if_pos (by rw [hresult]; rfl)]
  dsimp only
  rw [hfind]
  dsimp only
  rw [hop]
  dsimp only
  rw [hkeep, hresult]
  rfl

theorem length_quantise (t rm : Nat) (l : List FIn) : (quantise t rm l).elems.length = l.length := by
  unfold quantise
  dsimp only
  split <;> exact List.length_map _

/-- Quantising keeps the number of elements. -/
theorem length_quantiseElems (mode : BitVec 32) (src dst : Nat) (fixed : Option (Nat × Nat)) (l : List Elem) :
    (quantiseElems mode src dst fixed l).length = l.length := by
  unfold quantiseElems
  dsimp only
  rw [List.length_map]
  split
  · rw [length_quantise, List.length_map]
  · rw [List.length_map, List.length_map]

/-- What a block of 32 elements has to write, from the next element on. -/
def quantLeft (op : Op) : List Elem :=
  ((quantiseElems op.mode (recFormat op.da) (recFormat op.dw) (fixedExponents op) op.staged).map fun e => ⟨e.bits, e.tag⟩).drop
    (op.progress - op.progress / 32 * 32)

/-- A state whose operation has quantised its block. -/
def quantised (s : State) (o : OpRef) (op : Op) : State :=
  modOp s o fun y => { y with result := quantLeft op, exc := y.exc |||
    (quantiseElems op.mode (recFormat op.da) (recFormat op.dw) (fixedExponents op) op.staged).foldl (fun z e => z ||| e.exc) 0 }

theorem quantLeft_ne_nil (hstaged : op.staged.length = 32) : quantLeft op ≠ [] := by
  rw [quantLeft, ne_eq, List.drop_eq_nil_iff, List.length_map, length_quantiseElems, hstaged]
  omega

theorem quantStep_of_staged (hop : opAt s o = some (b, op)) (hresult : op.result = []) (hstaged : op.staged.length = 32) :
    quantStep s o op = quantStep (quantised s o op) o { op with result := quantLeft op } := by
  have hstage : stageElems s o (fun k => (copyElem op (op.progress / 32 * 32 + k)).1) op.staged.length
      (32 - op.staged.length) = .ok s () := by rw [hstaged]; rfl
  have hleft : (!(quantLeft op).isEmpty) = true := by
    rw [Bool.not_eq_true', List.isEmpty_eq_false_iff]
    exact quantLeft_ne_nil hstaged
  rw [quantStep, quantStep]
  dsimp only
  rw [if_neg (by rw [hresult]; decide), if_pos hleft, hstage]
  dsimp only
  rw [hop]
  rfl

theorem mangleSteps : Claims.MangleSteps := by
  intro s o b op hop
  refine ⟨fun d l k => ⟨rfl, rfl⟩, ?_, ?_, fun u idx hstaged hread => gatherStep_index hstaged hread, ?_,
    fun _ hresult hstaged => quantStep_of_staged hop hresult hstaged⟩
  · intro t e hform hq hmoves
    have hgather : op.form ≠ .gather := by rcases hform with h | h <;> rw [h] <;> decide
    have hscat : op.form ≠ .scat := by rcases hform with h | h <;> rw [h] <;> decide
    refine mangleStep_copy hgather hscat ?_
    rw [copyOrQuantStep, if_neg (ne_true_of_eq_false hq)]
    exact copyStep_of_moves hmoves
  · intro idx t e hform hstaged len picked next hmoves
    refine mangleStep_gather hform (gatherStep_of_moves hstaged ?_)
    rw [gatherElem]
    dsimp only
    split
    · next hg => rwa [if_pos hg] at hmoves
    · next hg => rwa [if_neg hg] at hmoves
  · rintro v rest u place hgather hscat hq hresult hfind ⟨y, hy, hkeep⟩
    refine mangleStep_copy hgather hscat ?_
    rw [copyOrQuantStep, if_pos hq]
    exact quantStep_of_result hresult hfind hy hkeep

end

end Sys2Proof.Machine
end

section
/-! Grants, channels, stalls and the end of operations (R223, R225, R239, R295, R305, R307). -/

namespace Sys2Proof.Machine

/-! ### Grants of the Press (R295, R450) -/

/-- The state of a grant: the pointer is at the block, and the head runs. -/
def granted (s : State) (o : OpRef) : State :=
  modOp (modPress s s.subject.core fun p => { p with pointer := o.block }) o fun x => { x with st := .running, stall := .none }

/-- An operation that runs. -/
def busyOp (op : Op) : Op := { op with st := .running, stall := .none }

/-- What a grant does, by the form of the operation. -/
def grantWork (s : State) (o : OpRef) (b : Block) (op : Op) : State :=
  match op.form with
  | .wload => wloadGrant s o op
  | .mma => mmaGrant s o b op
  | .accz => pressRows acczStep s o 64
  | .accld => pressRows accldStep s o 64
  | .accrd => pressRows accrdStep s o 64
  | _ => s

section
variable {s t u : State} {o : OpRef} {b : Block} {op : Op}

theorem opAt_granted (hop : opAt s o = some (b, op)) :
    ∃ b', opAt (granted s o) o = some (b', busyOp op) ∧ b'.latched = b.latched :=
  ⟨_, opAt_modOp ((opAt_modCore rfl).trans hop) fun _ => rfl, rfl⟩

theorem pressGrant_of_opAt {op' : Op} (hop : opAt (granted s o) o = some (b, op')) :
    pressGrant (modPress s s.subject.core fun p => { p with pointer := o.block }) o = grantWork (granted s o) o b op' := by
  rw [granted] at hop
  rw [pressGrant, hop]
  rfl

theorem exec_pressGrant_of_head (hhead : (handlesAfter (coreOf s s.subject.core).press.pointer).findSome?
      (pressHead s s.subject.core) = some o) (hop : opAt (granted s o) o = some (b, busyOp op)) :
    exec .pressGrant s = .next (grantWork (granted s o) o b (busyOp op)) := by
  change execPressGrant s = _
  rw [execPressGrant, hhead]
  exact congrArg Host.Outcome.next (pressGrant_of_opAt hop)

theorem exec_pressGrant_of_none (hnone : (handlesAfter (coreOf s s.subject.core).press.pointer).findSome?
      (pressHead s s.subject.core) = none) : exec .pressGrant s = .next s := by
  change execPressGrant s = _
  rw [execPressGrant, hnone]

theorem mmaGrant_of_noWeights (hlatched : b.latched = none) : mmaGrant s o b op = endOp s o 5 0 := by
  rw [mmaGrant, hlatched]
  rfl

theorem formatsPair_eq_false {fa fw : Nat} (hne : fa ≠ fw) (hbx : (isBx fa && isBx fw) = false) : formatsPair fa fw = false := by
  rw [formatsPair, hbx, beq_false_of_ne hne]
  rfl

theorem mmaGrant_of_badFormat {x : Latched} (hlatched : b.latched = some x)
    (hpair : formatsPair (recFormat op.da) (recFormat x.record) = false) :
    mmaGrant s o b op = endOp s o 4 (BitVec.ofNat 64 (recFormat op.da + 16 * recFormat x.record)) := by
  rw [mmaGrant, hlatched]
  dsimp only
  rw [hpair]
  rfl

theorem mmaGrant_of_needTile {x y : Latched} (hlatched : b.latched = some x)
    (hpair : formatsPair (recFormat op.da) (recFormat x.record) = true) (htile : needTile s o b x = .ok u y) :
    mmaGrant s o b op = pressRows (mmaStep y) u o 64 := by
  rw [mmaGrant, hlatched]
  dsimp only
  rw [hpair, if_neg (by decide), htile]

theorem exec_pressIdle_of_quiet (hidle : (coreOf s s.subject.core).press.idle = false)
    (hquiet : (coreOf s s.subject.core).press.lastRow + 1000 ≤ s.timebase) :
    exec .pressIdle s = .next (modPress s s.subject.core fun p => { p with idle := true, ramp := 0 }) := by
  change execPressIdle s = _
  rw [execPressIdle]
  exact congrArg Host.Outcome.next (if_pos ⟨by rw [hidle]; rfl, hquiet⟩)

/-! ### A channel of the Mangle (R305) -/

/-- A channel takes an operation. -/
def channelTaken (s : State) (o : OpRef) : State :=
  modOp (modCore s s.subject.core fun k =>
    { k with
      mangle := { chans := k.mangle.chans.set s.subject.slot (some (o.block, o.slot))
                  last := k.mangle.last.set s.subject.slot o.block } }) o fun x => { x with st := .running, stall := .none }

theorem exec_mangleChannelTake_of_choice (hfree : (coreOf s s.subject.core).mangle.chans[s.subject.slot]? = some none)
    (hchoice : (handlesAfter ((coreOf s s.subject.core).mangle.last.getD s.subject.slot 0)).findSome?
      (mangleChoice s s.subject.core) = some o) : exec .mangleChannelTake s = .next (channelTaken s o) := by
  change execMangleChannelTake s = _
  rw [execMangleChannelTake]
  dsimp only
  rw [hfree]
  dsimp only
  rw [hchoice]
  rfl

theorem chans_modOp (s : State) (o : OpRef) (f : Op → Op) (c : Nat) : (coreOf (modOp s o f) c).mangle = (coreOf s c).mangle := by
  rw [coreOf_modOp]
  split <;> rfl

theorem chans_channelTaken (hfree : (coreOf s s.subject.core).mangle.chans[s.subject.slot]? = some none) :
    (coreOf (channelTaken s o) s.subject.core).mangle.chans[s.subject.slot]? = some (some (o.block, o.slot)) := by
  obtain ⟨hlt, -⟩ := List.getElem?_eq_some_iff.mp hfree
  rw [channelTaken, chans_modOp, coreOf_modCore, if_pos rfl]
  exact List.getElem?_set_self hlt

theorem opAt_channelTaken (hop : opAt s o = some (b, op)) : ∃ b', opAt (channelTaken s o) o = some (b', busyOp op) :=
  ⟨_, opAt_modOp ((opAt_modCore rfl).trans hop) fun _ => rfl⟩

/-! ### Stalls and exchanges (R225, R307) -/

/-- The operation that an event is about. -/
def subjectOp (s : State) : OpRef := ⟨s.subject.core, s.subject.block, s.subject.slot⟩

theorem exec_engineResume_of_stalled (hop : opAt s (subjectOp s) = some (b, op)) (hst : op.st = .stalled)
    (hover : stallOver s (subjectOp s) b op = true) : exec .engineResume s =
      .next (if engineOf op.form = 1 then s else modOp s (subjectOp s) fun x => { x with st := .running, stall := .none }) := by
  change execEngineResume s = _
  rw [execEngineResume, ← subjectOp, hop]
  dsimp only
  rw [hst, hover]
  by_cases he : engineOf op.form = 1
  · rw [if_pos he, he]
    rfl
  · rw [if_neg he, bne_iff_ne.mpr he]
    rfl

/-- An operation that has exchanged takes its result. -/
def resultTaken (s : State) (o : OpRef) (x : Contribution) (r : List Elem) : State :=
  modOp s o fun y => { y with phase := .writing, result := r, exc := y.exc ||| x.exc }

theorem exec_collExchangeComplete_of_result (hop : opAt s (subjectOp s) = some (b, op)) (hphase : op.phase = .exchange)
    (hended : op.ended = false) (hcancel : op.cancel = false) (hlive : op.st ≠ .done) (hstopped : b.stopped = false)
    {g : CollGroup} {rank : Option Nat} (hgroup : collGroupOf s b (collGroup op.param) = some (g, rank)) {x : Contribution}
    (hfind : ((exchangePairing s g b.asid op.pairing).contributions.find? fun y => y.isOf b op) = some x)
    (hfailed : x.failed = none) {r : List Elem} (hresult : x.result = some r) :
    exec .collExchangeComplete s =
      .next (collEnd (resultTaken (exchangePairing s g b.asid op.pairing) (subjectOp s) x r) (subjectOp s)) := by
  have hgo : (op.phase != .exchange || op.ended || op.cancel || !op.live || b.stopped) = false := by
    have hst : op.live = true := bne_iff_ne.mpr hlive
    rw [hphase, hended, hcancel, hst, hstopped]
    rfl
  change execCollExchangeComplete s = _
  rw [execCollExchangeComplete, ← subjectOp]
  dsimp only
  rw [hop]
  dsimp only
  rw [hgo, if_neg (by decide), hgroup]
  dsimp only
  rw [hfind]
  dsimp only
  rw [hfailed, hresult]
  rfl

/-! ### The end of an operation (R223, R239) -/

/-- A change beyond the block leaves it as it is, but for the effects that a resilient one holds back (R430). -/
theorem blockOf_collEffect (hb : blockOf s o.core o.block = some b) (e : HeldEffect) {now : State → State}
    (hcores : (now s).cores = s.cores) :
    ∃ ck, blockOf (collEffect s o b e now) o.core o.block = some { b with ckpt := ck } := by
  unfold collEffect
  split
  · refine ⟨{ b.ckpt with effects := b.ckpt.effects ++ [e], due := true }, ?_⟩
    rw [blockOf_modBlock, if_pos ⟨rfl, rfl⟩, hb]
    rfl
  · exact ⟨b.ckpt, (blockOf_of_cores_eq hcores _ _).trans hb⟩

theorem cycle_collEffect (e : HeldEffect) {now : State → State} (hcycle : (now s).cycle = s.cycle) :
    (collEffect s o b e now).cycle = s.cycle := by
  unfold collEffect
  split
  · rfl
  · exact hcycle

theorem putContribution_eq (s : State) (x : Contribution) : ∃ l, putContribution s x = { s with contributions := l } := by
  unfold putContribution
  dsimp only
  split
  · exact ⟨_, rfl⟩
  · exact ⟨_, rfl⟩

theorem bringContribution_eq (s : State) (o : OpRef) (b : Block) (op : Op) (l : List Elem) (failed : Option Nat) :
    ∃ x, bringContribution s o b op l failed = collEffect s o b (.contribution x) fun s => putContribution s x := ⟨_, rfl⟩

/-- What an operation's end does to its contribution. -/
theorem endContribution_cases (s : State) (o : OpRef) (b : Block) (op : Op) : endContribution s o b op = s ∨
    ∃ e now, endContribution s o b op = collEffect s o b e now ∧ ∃ l, now s = { s with contributions := l } := by
  unfold endContribution
  split
  · exact .inl rfl
  · split
    · exact .inr ⟨_, _, rfl, _, rfl⟩
    · obtain ⟨x, hx⟩ := bringContribution_eq s o b op [] (some stGroup)
      exact .inr ⟨.contribution x, (putContribution · x), hx, putContribution_eq s x⟩

theorem blockOf_endContribution (hb : blockOf s o.core o.block = some b) :
    ∃ ck, blockOf (endContribution s o b op) o.core o.block = some { b with ckpt := ck } := by
  rcases endContribution_cases s o b op with h | ⟨e, now, h, l, hl⟩
  · rw [h]
    exact ⟨b.ckpt, hb⟩
  · rw [h]
    exact blockOf_collEffect hb e (by rw [hl])

theorem cycle_endContribution : (endContribution s o b op).cycle = s.cycle := by
  rcases endContribution_cases s o b op with h | ⟨e, now, h, l, hl⟩
  · rw [h]
  · rw [h]
    exact cycle_collEffect e (by rw [hl])

/-- The state behind an operation's end, but for its block: its contribution, its channel, its scoreboard entries and its
page waits are given up. -/
def givenUp (s : State) (o : OpRef) (b : Block) (op : Op) : State :=
  strikeWaiters (modCore (freeChannel (endContribution s o b op) o) o.core fun k =>
    { k with sb := k.sb.filter fun e => !(e.block == o.block && e.slot == o.slot) }) (fun _ => false)
    (· == (o.core, o.block, o.slot))

theorem cycle_strikeWaiters (s : State) (entry : Nat × Nat → Bool) (op : Nat × Nat × Nat → Bool) :
    (strikeWaiters s entry op).cycle = s.cycle := by
  obtain ⟨p, l, h⟩ := strikeWaiters_eq s entry op
  rw [h]

theorem cycle_givenUp : (givenUp s o b op).cycle = s.cycle := by
  rw [givenUp, cycle_strikeWaiters]
  exact cycle_endContribution

theorem blockOf_givenUp (hb : blockOf s o.core o.block = some b) :
    ∃ ck, blockOf (givenUp s o b op) o.core o.block = some { b with ckpt := ck } := by
  obtain ⟨ck, hck⟩ := blockOf_endContribution (op := op) hb
  refine ⟨ck, ?_⟩
  rw [givenUp, blockOf_of_cores_eq (strikeWaiters_cores _ _ _), blockOf_modCore_of_blocks rfl, freeChannel,
    blockOf_modCore_of_blocks rfl, hck]

/-- No scoreboard entry of the operation is left. -/
theorem sb_givenUp : ∀ e ∈ (coreOf (givenUp s o b op) o.core).sb, ¬(e.block = o.block ∧ e.slot = o.slot) := by
  rw [givenUp, coreOf_of_cores_eq (strikeWaiters_cores _ _ _), coreOf_modCore, if_pos rfl]
  rintro e he ⟨hblock, hslot⟩
  have hkept := (List.mem_filter.mp he).2
  rw [hblock, hslot, beq_self_eq_true, beq_self_eq_true] at hkept
  exact Bool.false_ne_true hkept

/-- A block whose operation's streams are closed (R302). -/
def closedStreams (op : Op) (b : Block) : Block :=
  let b := if readsDa op.form then closeStream b op.da op.inS false else b
  if writesDw op.form then closeStream b op.dw op.outS true else b

/-- An operation in its final state. -/
def endedOp (final x : Op) : Op :=
  { x with st := .done, ended := true, status := final.status, info := final.info, stall := .none, staged := [], result := [],
            inS := {}, outS := {} }

/-- A block whose operation has its final state, and whose slot is free. -/
def endedBlock (slot : Nat) (final : Op) (b : Block) : Block :=
  let b := (closedStreams final b).modOp slot (endedOp final)
  { b with opFree := b.opFree.filter (· != slot) ++ [slot] }

/-- The completion message takes the slot that the issue has reserved (R223). -/
def postedBlock (final : Op) (seen : Nat) (b : Block) : Block :=
  if pPost final.param then
    (b.modPort (pPort final.param) fun p => { p with rsv := p.rsv - 1 }).putMsg (pPort final.param) (completionMsg b final seen)
  else b

/-- The final status and INFO: those of its work, or of a cancellation. -/
def finalOp (op : Op) : Op := if op.ended then op else { op with status := stCancelled, info := 0 }

theorem finishOp_eq (s : State) (o : OpRef) (b : Block) (op : Op) : finishOp s o b op =
    modBlock (givenUp s o b op) o.core o.block fun x =>
      postedBlock (finalOp op) ((givenUp s o b op).cycle + 1) (endedBlock o.slot (finalOp op) x) := rfl

theorem closeStream_eq (b : Block) (r : Rec) (x : Stream) (w : Bool) : ∃ l, closeStream b r x w = { b with fifos := l } := by
  unfold closeStream
  split
  · exact ⟨_, rfl⟩
  · exact ⟨b.fifos, rfl⟩

/-- Closing the streams moves counters of bindings only. -/
theorem closedStreams_eq (op : Op) (b : Block) : ∃ l, closedStreams op b = { b with fifos := l } := by
  obtain ⟨l, hl⟩ : ∃ l, (if readsDa op.form then closeStream b op.da op.inS false else b) = { b with fifos := l } := by
    split
    · exact closeStream_eq _ _ _ _
    · exact ⟨b.fifos, rfl⟩
  rw [closedStreams, hl]
  split
  · exact closeStream_eq { b with fifos := l } _ _ _
  · exact ⟨l, rfl⟩

theorem closedStreams_ops (op : Op) (b : Block) : (closedStreams op b).ops = b.ops := by
  obtain ⟨l, hl⟩ := closedStreams_eq op b
  rw [hl]

/-- What an ended block keeps, and its operation's final state. -/
theorem endedBlock_facts (slot : Nat) (final : Op) (b : Block) :
    (endedBlock slot final b).ports = b.ports ∧ (endedBlock slot final b).lin = b.lin ∧
      (endedBlock slot final b).opFree.getLast? = some slot := by
  obtain ⟨l, hl⟩ := closedStreams_eq final b
  rw [endedBlock, hl]
  exact ⟨rfl, rfl, List.getLast?_concat⟩

theorem find?_endedBlock {slot : Nat} (final : Op) (hop : b.ops.find? (fun x => x.slot == slot) = some op) :
    (endedBlock slot final b).ops.find? (fun x => x.slot == slot) = some (endedOp final op) := by
  rw [← closedStreams_ops final b] at hop
  exact (find?_modOp (closedStreams final b) slot (f := endedOp final) fun _ => rfl).trans
    (congrArg (Option.map (endedOp final)) hop)

/-- A message leaves the operations and the free slots as they are. -/
theorem postedBlock_ops (final : Op) (seen : Nat) (b : Block) :
    (postedBlock final seen b).ops = b.ops ∧ (postedBlock final seen b).opFree = b.opFree := by
  unfold postedBlock
  split <;> exact ⟨rfl, rfl⟩

theorem port_postedBlock {final : Op} (hpost : pPost final.param = true) (hwf : cellsWf {} b.ports = true) (seen : Nat) :
    ((postedBlock final seen b).port (pPort final.param)).rsv = (b.port (pPort final.param)).rsv - 1 ∧
      ((postedBlock final seen b).port (pPort final.param)).msgs =
        (b.port (pPort final.param)).msgs ++ [completionMsg b final seen] := by
  have hport : (b.modPort (pPort final.param) fun p => { p with rsv := p.rsv - 1 }).port (pPort final.param) =
      { b.port (pPort final.param) with rsv := (b.port (pPort final.param)).rsv - 1 } :=
    (cellGet_cellSet hwf _ _ _).trans (if_pos rfl)
  rw [postedBlock, if_pos hpost, port_putMsg, hport]
  exact ⟨rfl, rfl⟩

theorem port_of_ports_eq {b' : Block} (h : b'.ports = b.ports) (p : Nat) : b'.port p = b.port p := by
  rw [Block.port, Block.port, h]

theorem exec_engineCompletion_of_over (hop : opAt s (subjectOp s) = some (b, op)) (hlive : op.st ≠ .done)
    (hstopped : b.stopped = false) (hover : op.ended = true ∨ op.cancel = true) :
    exec .engineCompletion s = .next (finishOp s (subjectOp s) b op) := by
  have hgo : (op.live && (op.ended || op.cancel) && !b.stopped) = true := by
    have hst : op.live = true := bne_iff_ne.mpr hlive
    rw [hst, hstopped, Bool.true_and, Bool.not_false, Bool.and_true, Bool.or_eq_true]
    exact hover
  change execEngineCompletion s = _
  rw [execEngineCompletion, ← subjectOp, hop]
  dsimp only
  rw [if_pos hgo]

/-- The message of an operation's completion, as its fields are. -/
theorem completionMsg_finalOp {b' : Block} (hlin : b'.lin = b.lin) (seen : Nat) : completionMsg b' (finalOp op) seen =
    ⟨BitVec.ofNat 64 ((opId op.form op.slot op.seq).toNat +
        if (finalOp op).status = 7 then (finalOp op).info.toNat % 32 * 2 ^ 32 else 0),
      BitVec.ofNat 16 (op.wave % 64 + b.lin % 1024 * 64), 1, BitVec.ofNat 8 (finalOp op).status, none, seen⟩ := by
  rw [completionMsg, hlin, finalOp]
  split <;> rfl

theorem finalOp_param : (finalOp op).param = op.param := by
  rw [finalOp]
  split <;> rfl

theorem finalOp_status : (finalOp op).status = if op.ended then op.status else 1 := by
  rw [finalOp]
  split <;> rfl

theorem finalOp_info : (finalOp op).info = if op.ended then op.info else 0 := by
  rw [finalOp]
  split <;> rfl

/-- What the end of an operation leaves in its block. -/
theorem finishOp_facts (hop : opAt s o = some (b, op)) (hwf : cellsWf {} b.ports = true) :
    ∃ b' op', opAt (finishOp s o b op) o = some (b', op') ∧ op'.st = .done ∧ op'.status = (finalOp op).status ∧
      op'.info = (finalOp op).info ∧ op'.ended = true ∧
      (∀ e ∈ (coreOf (finishOp s o b op) o.core).sb, ¬(e.block = o.block ∧ e.slot = o.slot)) ∧
      b'.opFree.getLast? = some o.slot ∧
      (pPost op.param = true → (b'.port (pPort op.param)).rsv = (b.port (pPort op.param)).rsv - 1 ∧
        (b'.port (pPort op.param)).msgs = (b.port (pPort op.param)).msgs ++
          [completionMsg b (finalOp op) (s.cycle + 1)]) := by
  obtain ⟨hb, hfind⟩ := opAt_eq_some_iff.mp hop
  obtain ⟨ck, hck⟩ := blockOf_givenUp (op := op) hb
  obtain ⟨hports, hlin, hfree⟩ := endedBlock_facts o.slot (finalOp op) { b with ckpt := ck }
  have hop' := find?_endedBlock (b := { b with ckpt := ck }) (finalOp op) hfind
  generalize hended : endedBlock o.slot (finalOp op) { b with ckpt := ck } = x at hports hlin hfree hop'
  obtain ⟨hops, hopFree⟩ := postedBlock_ops (finalOp op) ((givenUp s o b op).cycle + 1) x
  have hblock : blockOf (finishOp s o b op) o.core o.block =
      some (postedBlock (finalOp op) ((givenUp s o b op).cycle + 1) x) := by
    rw [finishOp_eq, blockOf_modBlock, if_pos ⟨rfl, rfl⟩, hck, Option.map_some, hended]
  refine ⟨_, endedOp (finalOp op) op, opAt_eq_some_iff.mpr ⟨hblock, by rw [hops, hop']⟩, rfl, rfl, rfl, rfl, ?_,
    by rw [hopFree, hfree], fun hpost => ?_⟩
  · rw [finishOp_eq, modBlock, coreOf_modCore, if_pos rfl]
    exact sb_givenUp
  · have hport := port_of_ports_eq (b := b) hports (pPort op.param)
    rw [← finalOp_param] at hpost hport ⊢
    have hmsg : completionMsg x (finalOp op) (s.cycle + 1) = completionMsg b (finalOp op) (s.cycle + 1) :=
      (completionMsg_finalOp hlin _).trans (completionMsg_finalOp rfl _).symm
    rw [cycle_givenUp, ← hport, ← hmsg]
    exact port_postedBlock hpost (by rw [hports]; exact hwf) _

end

end Sys2Proof.Machine
end

section
/-! The engines' events (R223, R225, R295, R305, R307, R450). -/

namespace Sys2Proof.Machine

section
variable {s : State} {o : OpRef} {b : Block} {op : Op}

theorem grantWork_of_wload (hform : op.form = .wload) : grantWork s o b op = wloadGrant s o op := by
  rw [grantWork, hform]

theorem grantWork_of_accz (hform : op.form = .accz) : grantWork s o b op = pressRows acczStep s o 64 := by
  rw [grantWork, hform]

theorem grantWork_of_accld (hform : op.form = .accld) : grantWork s o b op = pressRows accldStep s o 64 := by
  rw [grantWork, hform]

theorem grantWork_of_accrd (hform : op.form = .accrd) : grantWork s o b op = pressRows accrdStep s o 64 := by
  rw [grantWork, hform]

theorem grantWork_of_mma (hform : op.form = .mma) : grantWork s o b op = mmaGrant s o b op := by
  rw [grantWork, hform]

end

end Sys2Proof.Machine

namespace Sys2Proof.Claims
open Machine

/-- Settles O42: a grant and a channel do the work of the form that their choice has; the row and element steps are those of
`pressSteps` and `mangleSteps`, and an operation's end is read off its block. -/
theorem engineEvents : Obligations.EngineEvents := by
  refine ⟨pressSteps, mangleSteps, fun s => ⟨?_, exec_pressGrant_of_none, exec_pressIdle_of_quiet, ?_, ?_⟩⟩
  · intro o b op hhead hop
    obtain ⟨b', hgranted, hlatched⟩ := opAt_granted hop
    have hwork := exec_pressGrant_of_head hhead hgranted
    refine ⟨fun hform => hwork.trans (congrArg _ (grantWork_of_wload hform)),
      fun hform => hwork.trans (congrArg _ (grantWork_of_accz hform)),
      fun hform => hwork.trans (congrArg _ (grantWork_of_accld hform)),
      fun hform => hwork.trans (congrArg _ (grantWork_of_accrd hform)), fun hform => ?_⟩
    have hmma := hwork.trans (congrArg _ (grantWork_of_mma hform))
    refine ⟨fun hnone => hmma.trans (congrArg _ (mmaGrant_of_noWeights (hlatched.trans hnone))),
      fun x hx hne hbx => hmma.trans (congrArg _ (mmaGrant_of_badFormat (hlatched.trans hx) (formatsPair_eq_false hne hbx))), ?_⟩
    intro x b'' y u hx hpair hat htile
    cases hgranted.symm.trans hat
    exact hmma.trans (congrArg _ (mmaGrant_of_needTile (hlatched.trans hx) hpair htile))
  · intro o hfree hchoice
    exact ⟨_, exec_mangleChannelTake_of_choice hfree hchoice, chans_channelTaken hfree, fun b op hop => opAt_channelTaken hop⟩
  · intro b op o hop
    refine ⟨exec_engineResume_of_stalled hop, ?_, ?_⟩
    · intro g rank x r _ hphase hended hcancel hlive hstopped hgroup hfind hfailed hresult
      exact exec_collExchangeComplete_of_result hop hphase hended hcancel hlive hstopped hgroup hfind hfailed hresult
    · intro hlive hstopped hover hwf status info p
      obtain ⟨b', op', hat, hst, hstatus, hinfo, hended, hsb, hfree, hport⟩ := finishOp_facts hop hwf
      refine ⟨_, b', op', exec_engineCompletion_of_over hop hlive hstopped hover, hat, hst, hstatus.trans finalOp_status,
        hinfo.trans finalOp_info, hended, hsb, hfree, fun hpost => ?_⟩
      obtain ⟨hrsv, hmsgs⟩ := hport hpost
      refine ⟨hrsv, hmsgs.trans ?_⟩
      rw [completionMsg_finalOp rfl, finalOp_status, finalOp_info]

end Sys2Proof.Claims
end
